-- ==== Sys2Proof/Word.lean ====
section
/-!
DEFINITION. Words, register names, and the plain records that instructions and events carry.
Nothing here has a meaning: meanings stand in the files of Machine.
-/

namespace Sys2Proof

/-- A 64-bit register value (R188). -/
abbrev Word := BitVec 64

/-- One byte of memory (R8). -/
abbrev Byte := BitVec 8

/-- The register names a 7-bit register field holds (R346); field value 127 names none. -/
inductive RegName where
  | x (n : Fin 96)   -- windowed register of the lane
  | k (n : Fin 16)   -- uniform register of the group
  | q (n : Fin 8)    -- role queue
  | zr | ln | gi | ti | ib | tb | cy
  deriving DecidableEq, Repr

/-- The five scopes, narrowest first (R285). -/
inductive Scope where
  | group | team | die | device | fabric
  deriving DecidableEq, Repr

/-- A fabric packet: header fields of R53 and its body in bytes, lowest address first (R54). -/
structure Packet where
  ptype : BitVec 4
  dst   : BitVec 12
  src   : BitVec 12
  hops  : BitVec 6
  nelem : BitVec 5
  resv  : Bool          -- bit 24 of header word 0, reserved
  tag   : BitVec 24
  win   : BitVec 24
  dom   : BitVec 12
  spec  : BitVec 28
  body  : List Byte
  deriving DecidableEq, Repr

/-- A boot image taken apart (R30): the fields of its header, the public keys it carries, the bytes its signatures cover, and what
its digest covers. -/
structure BootImage where
  length : Nat
  load   : Nat
  svn    : BitVec 16     -- security version
  digest : BitVec 384
  edKey  : List Byte
  mlKey  : List Byte
  edSig  : List Byte
  mlSig  : List Byte
  signed : List Byte
  body   : List Byte
  deriving DecidableEq, Repr

/-- What a die-to-die edge reports after its training: its modules beyond repair (R15), and the version ranges of the dies it joins
(R29). -/
structure EdgeReport where
  bad  : Nat
  minA : Nat
  maxA : Nat
  minB : Nat
  maxB : Nat
  deriving DecidableEq, Repr

/-- A trained PCIe port (R77) and what the Terwell extended capability exchanges over it (R29, R78): from the partner as it trains, its
lowest version, its highest and its capability word; once agreed, the version stands in both. -/
structure PcieLink where
  lanes : Nat
  rate  : Nat            -- 0 to 5: 2.5, 5, 8, 16, 32 and 64 GT/s
  flit  : Bool           -- FLIT mode
  minv  : Nat
  maxv  : Nat
  caps  : Word
  deriving DecidableEq, Repr

/-- A configuration request to the PF of a port, as far as the manual describes what it reaches: the Terwell DVSEC (R78), the link
(R77), and the size of BAR4 as a power of two, read or chosen (R77). -/
inductive ConfigAsk where
  | dvsec
  | link
  | barSize
  | setBarSize (log2 : Nat)
  deriving DecidableEq, Repr

/-- A configuration request as it comes to a port. -/
structure ConfigRequest where
  port : Nat
  ask  : ConfigAsk
  deriving DecidableEq, Repr

/-- What a step of bring-up brings: the boot image it checks, and what firmware that runs raises the minimum security version to (R30). -/
structure BootReport where
  image : List Byte
  raise : BitVec 16
  deriving DecidableEq, Repr

/-- The party a host request comes from: PCIe port, and function 0 for the PF or 1 to 63 for a VF (R77). -/
structure Caller where
  port : Nat
  vf   : Nat
  deriving DecidableEq, Repr

/-- Where a task record comes from (R110): an ENQ lane that waits for its status, a join, or a
continuation or relaunch record on its way home (R113). -/
inductive Origin where
  | enq (stream lane seq : Nat) (tookIb tookTb : Nat) (privileged : Bool)
  | join
  | back (image : Nat)
  | relaunch (dseq : Word) (ti : Nat) (node : Option (Nat × Nat))
  deriving DecidableEq, Repr

/-- A task record on its way to a queue (R106, R110). -/
structure Arrival where
  queue  : Nat
  tag    : Nat
  words  : List Word
  origin : Origin
  exempt : Bool          -- EXEMPT of word 0 is honoured (R123)
  deriving DecidableEq, Repr

end Sys2Proof
end

