-- ==== Sys2Proof/Syntax.lean ====
section
/-!
DEFINITION. The one instruction type of the model: a constructor for every row of the opcode table.
The first 119 rows are the part's events (rows without an encoding, which the machine or its
surroundings bring about); the other 303 are instruction words. An instruction word's first argument
`sw` is its switch marker S, bit 31 (R341, R344); the others are its operand fields.
-/

namespace Sys2Proof

/-- The rows of the opcode table (R349 to R353, and the events). -/
inductive Instr where
  /-- POWER_UP (R17): A valid 54 V input is applied: the Z5 raises the rails in order, each after the one before has been within ... -/
  | powerUp
  /-- INPUT_REMOVAL (R17): The input is removed: the Z5 lowers the rails in reverse order. -/
  | inputRemoval
  /-- RAIL_FAULT (R17): The input falls below 44 V, or a rail leaves ±5 % for more than 10 µs: all rails drop without completing ... -/
  | railFault
  /-- WARM_RESET (R81): A write of 1 to RSTCTL.WARM starts the warm reset of R26, which repeats bring-up steps 4 to 9, increments ... -/
  | warmReset
  /-- PERST_N_DEASSERT (R26): Deassertion of PERST_N on PCIe port 0 starts a warm reset and begins PCIe training. -/
  | perstNDeassert
  /-- BRINGUP_STEP_DONE (R27): A bring-up step completes (ROM, loader check, UCIe training, firmware check, HBM4 training, Yelca ... -/
  | bringupStepDone (edges : List EdgeReport) (phyOk : Bool) (boot : BootReport)
  /-- PCIE_TRAINING_DONE (R28): A PCIe port finishes or fails training, and sets or leaves clear its PCIEUP bit. -/
  | pcieTrainingDone (port : Nat) (link : Option PcieLink)
  /-- PCIE_CONFIG_REQUEST (R28): A PCIe configuration request is answered with Request Retry Status until STAGE is 3, except in recovery. -/
  | pcieConfigRequest (r : ConfigRequest)
  /-- RECOVERY_RUN (R32): RECCTL OP = 1 starts the check of the image in the recovery window under R30. -/
  | recoveryRun (len : BitVec 27)
  /-- RECOVERY_CHECK_DONE (R32): The recovery image check ends: STATUS 2 and bring-up resumes, or STATUS 3 with its FAIL code, and BUSY clears. -/
  | recoveryCheckDone (raise : BitVec 16)
  /-- THERMAL_SAMPLE (R19): Each die reports its hottest junction every 100 µs, and the Z5 recomputes the thermal request and the ... -/
  | thermalSample (temps : List Nat)
  /-- POWER_WINDOW_END (R21): At the end of each 1 ms window the power request rises by one state if the average input power exceeded ... -/
  | powerWindowEnd (watts : Nat)
  /-- POWER_LOW_INTERVAL_END (R21): At the end of each 10 ms interval spent at or below 3.4 kW, the power request falls by one state. -/
  | powerLowIntervalEnd
  /-- THERMAL_EASE_EXPIRY (R21): The hottest junction has stayed 3 °C below the entry temperature for 10 ms, so the thermal request eases. -/
  | thermalEaseExpiry
  /-- THRCTL_WRITE (R24): A write to THRCTL sets FLOOR, which may change the state in force, and a 1 clears TRIP. -/
  | thrctlWrite (v : Word)
  /-- THRLIM_WRITE (R25): A write to THRLIM lowers the entry temperatures, which are clamped to their reset values and kept in ... -/
  | thrlimWrite (v : Word)
  /-- REGISTER_WRITE (R9): A write to a device or special register with no row of its own sets its RW fields, clears its W1C bits, or ... -/
  | registerWrite (caller : Caller) (off : Nat) (v : Word)
  /-- YLPORT_ENABLE (R35): A write of YLPORTn.ENABLE: 0 takes the port to DOWN, and 1 from DOWN starts DETECT. -/
  | ylportEnable (port : Nat) (en : Bool)
  /-- YLPORT_RETRAIN (R36): A write of 1 to YLPORTn.RETRAIN forces the port into RETRAIN. -/
  | ylportRetrain (port : Nat)
  /-- YLPORT_WIDTH_REQUEST (R44): A write of YLPORTn.WREQ requests a width change, or is dropped when the lanes or capabilities do not allow it. -/
  | ylportWidthRequest (port : Nat) (w : BitVec 2)
  /-- DETECT_IDLE_EXIT (R35): Every 10 ms in DETECT, the port sends electrical-idle exit with its training bits on all lanes. -/
  | detectIdleExit (port : Nat)
  /-- PARTNER_DETECTED (R35): The partner is seen on at least two lanes and its training bits are received, so the port enters EQUALISE. -/
  | partnerDetected (port : Nat) (lanes : BitVec 8) (bits : BitVec 4)
  /-- EQUALISE_DONE (R35): Equalisation has tried all permitted rates, within 40 ms, so the port enters ALIGN. -/
  | equaliseDone (port : Nat) (good224 good112 good56 : BitVec 8)
  /-- ALIGN_DONE (R35): Deskew ends and the width and rate are chosen, so the port enters NEGOTIATE. -/
  | alignDone (port : Nat)
  /-- NEGOTIATION_DONE (R29): The version and capability exchange ends: the port becomes ACTIVE, or goes to DOWN when no version ... -/
  | negotiationDone (port : Nat) (minv maxv : Nat) (cap : Word)
  /-- TRAINING_TIMEOUT (R35): A port not ACTIVE within 100 ms of leaving DOWN returns to DOWN, and unacknowledged elements fail if it ... -/
  | trainingTimeout (port : Nat)
  /-- FLIT_RECEIVE (R40): A flit arrives: FEC corrects it, the CRC is checked, and the flit is accepted or discarded with a NAK; ... -/
  | flitReceive (port : Nat) (bytes : List Byte)
  /-- REPLAY_TIMEOUT (R41): 1 µs passes without an advancing acknowledgement, so the sender resends every held flit that is not covered. -/
  | replayTimeout (port : Nat)
  /-- LANE_LOSS (R45): A lane is lost in ACTIVE: both ends move to the widest width allowed, the interrupted packet is discarded, ... -/
  | laneLoss (port : Nat) (good : BitVec 8)
  /-- WIDTH_CHANGE_APPLY (R44): A requested width change takes effect at the first packet boundary in each direction. -/
  | widthChangeApply (port : Nat)
  /-- EGRESS_SEND (R43): A packet at the head of an egress queue is sent once credits of its VC are available. -/
  | egressSend (port : Nat) (vc : Bool)
  /-- REMOTE_LOAD_ARRIVAL (R56): A remote load arrives at its destination, is checked against the grant table, and is answered with a load ... -/
  | remoteLoadArrival (p : Packet)
  /-- AGGREGATED_STORE_ARRIVAL (R56): An aggregated store packet is applied in element order, with each element checked by R248, and is ... -/
  | aggregatedStoreArrival (p : Packet)
  /-- AGGREGATED_ATOMIC_ARRIVAL (R56): An aggregated atomic packet is applied at the home of each element, and is acknowledged. -/
  | aggregatedAtomicArrival (p : Packet)
  /-- TILE_STORE_ADD_ARRIVAL (R57): A tile part is held in a reassembly slot, and the whole tile is applied as one update once every part is ... -/
  | tileStoreAddArrival (port : Nat) (p : Packet)
  /-- TILE_REASSEMBLY_TIMEOUT (R57): The parts of a tile are not all present within ACKTO, so they are discarded and every part is rejected ... -/
  | tileReassemblyTimeout (io src tag : Nat)
  /-- MULTICAST_LINE_ARRIVAL (R74): A multicast line is replicated to the CHILD ports and written locally where LOCAL is set. -/
  | multicastLineArrival (port : Nat) (p : Packet)
  /-- MULTICAST_CHILD_TIMEOUT (R75): A CHILD port has not answered within (h+1)×ACKTO/64, so one entry with reason 0b11 is added for its subtree. -/
  | multicastChildTimeout (group tag port : Nat)
  /-- COMBINED_ACK_ARRIVAL (R75): A combined acknowledgement is merged at a router and sent toward PARENT, or completes the MCST at the root ... -/
  | combinedAckArrival (port : Nat) (p : Packet)
  /-- INBOX_APPEND_ARRIVAL (R446): An inbox append from a peer is checked and appended as R445 lays down, and is answered with a KIND 1 ... -/
  | inboxAppendArrival (p : Packet)
  /-- LOAD_REPLY_ARRIVAL (R476): A load reply writes the RLD destination register, or raises late fault 0x19 when OK is 0. -/
  | loadReplyArrival (p : Packet)
  /-- ELEMENT_ACK_ARRIVAL (R69): A KIND 0 acknowledgement decrements the outstanding count and records each rejected element in the fault ring. -/
  | elementAckArrival (p : Packet)
  /-- INBOX_ACK_ARRIVAL (R72): A KIND 1 acknowledgement returns the MSGAPP status and updates the tracking block. -/
  | inboxAckArrival (p : Packet)
  /-- ACK_TIMEOUT (R70): An element has no acknowledgement within COMAX.ACKTO, so it fails with reason 0b11 and the count falls. -/
  | ackTimeout (tag : Nat)
  /-- RLD_TIMEOUT (R476): An RLD has no reply within ACKTO, so it raises late fault 0x19 with reason 0b11. -/
  | rldTimeout (tag : Nat)
  /-- COMA_AGE_LIMIT (R62): The oldest element of an aggregation buffer reaches the age limit, so the buffer is flushed. -/
  | comaAgeLimit (buffer : Nat)
  /-- COMA_DRAIN (R65): A write of 1 to COMACTL.DRAIN flushes every aggregation buffer of the device. -/
  | comaDrain
  /-- ROUTING_ENTRY_WRITE (R48): A write to YLRTD stores the routing entry at YLRTI in both IO dies. -/
  | routingEntryWrite (v : Word)
  /-- GROUP_TABLE_ENTRY_WRITE (R73): A write to MCGD stores the multicast group entry at MCGI. -/
  | groupTableEntryWrite (v : Word)
  /-- NOTIFY_WRITE (R86): An 8-byte write to a notify page advances TAIL, or HEAD for a HOSTQ queue, or is discarded with ERR set. -/
  | notifyWrite (caller : Caller) (page off : Nat) (v : Word)
  /-- BAR4_WRITE (R315): A PCIe posted write through BAR4 is applied in order received, or completes with Unsupported Request. -/
  | bar4Write (caller : Caller) (off : Nat) (bytes : List Byte)
  /-- BAR4_READ (R79): A PCIe read through BAR4 returns data, with EP set for poisoned sectors, or Unsupported Request. -/
  | bar4Read (caller : Caller) (off len : Nat)
  /-- QUEUE_ENABLE (R85): QCMD ENABLE checks the descriptor and sets ENABLE, or gives STATUS 1, 2 or 3. -/
  | queueEnable (caller : Caller) (q : Nat)
  /-- QUEUE_DISABLE (R85): QCMD DISABLE unmaps the queue if it is mapped and clears ENABLE. -/
  | queueDisable (caller : Caller) (q : Nat)
  /-- QUEUE_UNMAP (R85): QCMD UNMAP unmaps the queue and leaves it eligible. -/
  | queueUnmap (caller : Caller) (q : Nat)
  /-- QUEUE_CLEARERR (R85): QCMD CLEARERR clears the queue's ERR bit. -/
  | queueClearerr (caller : Caller) (q : Nat)
  /-- QUEUE_MAP (R88): A free slot is given to a waiting eligible queue, which is refilled from its save area, resume ring and ring. -/
  | queueMap (die : Nat)
  /-- IDLE_UNMAP (R90): A mapped queue with nothing to dispatch for 20 µs is unmapped while a queue waits, and its records go to ... -/
  | idleUnmap (die slot : Nat)
  /-- QUANTUM_END (R90): At the end of a 20 µs quantum, a mapped queue is unmapped when its class or share rules require it. -/
  | quantumEnd (die slot : Nat)
  /-- MSIX_INTERVAL_END (R94): At the end of an ITHR interval, the last pending MSI-X message of a vector is sent. -/
  | msixIntervalEnd (caller : Caller) (vector : Nat)
  /-- PARTITION_ACTIVATE (R96): PCMD ACTIVATE checks a partition entry and activates it, or gives STATUS 2 or 3. -/
  | partitionActivate (part : Nat)
  /-- PARTITION_DEACTIVATE (R96): PCMD DEACTIVATE deactivates a partition, and is refused with STATUS 4 while any of its queues is enabled. -/
  | partitionDeactivate (part : Nat)
  /-- KEY_LOAD (R98): KEYCMD LOAD reads 64 bytes at KEYBUF into the key slot and zeroes them. -/
  | keyLoad (caller : Caller) (slot : Nat)
  /-- KEY_ERASE (R98): KEYCMD ERASE zeroes the key slot. -/
  | keyErase (caller : Caller) (slot : Nat)
  /-- ATTESTATION_REPORT (R100): ATTCMD REPORT reads the nonce and writes a signed report to ATTBUF, or gives STATUS 1. -/
  | attestationReport (caller : Caller) (part : Nat)
  /-- CHECKPOINT_START (R103): CKCMD START runs the checkpoint engine on the descriptor at CKDESC. -/
  | checkpointStart
  /-- CHECKPOINT_DONE (R105): The checkpoint engine finishes the range, writes the status word and clears BUSY. -/
  | checkpointDone (failed : Option Nat)
  /-- RECORD_ARRIVAL (R110): A record from ENQ or a join continuation arrives at its queue engine and goes on chip, into the ring, the ... -/
  | recordArrival (r : Arrival)
  /-- REFILL_START (R111): A slot holding 24 or fewer records with a non-empty ring starts reading up to 8 records from the ring. -/
  | refillStart (die slot : Nat)
  /-- REFILL_LAND (R111): A refill lands: the records are appended on chip, HEAD or RHEAD advances, and any waiting refill starts. -/
  | refillLand (die slot : Nat)
  /-- CONTINUATION_RETRY (R135): A continuation or return waiting for ring space retries at a refill or HEAD notify. -/
  | continuationRetry (q : Nat)
  /-- DISPATCH_DECISION (R115): Every 4 cycles a queue engine chooses one candidate by promotion and deficit round robin, and places one team. -/
  | dispatchDecision (die : Nat)
  /-- TEAM_START (R140): A placed team's resources are assigned, k0–k15, ib, tb and DSEQ are written or restored, and its first ... -/
  | teamStart (team : Nat)
  /-- RECORD_PROMOTION (R116): A head record has waited SCHX.DAGE µs and is promoted for one team dispatch. -/
  | recordPromotion (die slot : Nat)
  /-- CLUSTER_CLAIM (R120): A head record that has failed to fit for SCHX.CLAIM µs claims a cluster and may revoke lower-class teams. -/
  | clusterClaim (die slot : Nat)
  /-- DEQUE_POP (R127): A cluster's dispatcher takes its deque's head entry when it fits and places it, or hands a grid to its engine. -/
  | dequePop (cluster : Nat)
  /-- DEQUE_STEAL (R128): A cluster with an empty deque and room takes the oldest entry of the fullest allowed deque. -/
  | dequeSteal (cluster : Nat)
  /-- GRID_NODE_REPORT (R130): A grid tree node has all its teams ended and all its children reported, so it sends its summed status to ... -/
  | gridNodeReport (grid cluster : Nat)
  /-- GRACE_EXPIRY (R152): The grace time of a yield-pending team runs out, which makes a forced yield. -/
  | graceExpiry (team : Nat)
  /-- TEAM_YIELD (R159): A clean or forced yield saves the team, frees its resources, credits its budgets and enqueues its ... -/
  | teamYield (team : Nat)
  /-- TEAM_REVOKE (R177): A write to BREV revokes the named team, making it yield pending with cause 3. -/
  | teamRevoke (v : Word)
  /-- POOL_ADD (R169): A write to BPADD adds an amount with saturation to the selected pool balance. -/
  | poolAdd (v : Word)
  /-- DOMAIN_SET_QUOTA (R180): DCMD operation 1 sets the domain's QUOTA to DCARG [39:0]. -/
  | domainSetQuota (dom : Nat)
  /-- DOMAIN_PUSH_PAGE (R180): DCMD operation 2 pushes a page onto the domain's free page list. -/
  | domainPushPage (dom : Nat)
  /-- DOMAIN_PUSH_SAVE_BLOCK (R180): DCMD operation 3 pushes a save block onto the domain's save arena. -/
  | domainPushSaveBlock (dom : Nat)
  /-- DOMAIN_SUBTRACT_USED (R180): DCMD operation 4 subtracts DCARG from USED, saturating at 0. -/
  | domainSubtractUsed (dom : Nat)
  /-- VAULT_STOW (R185): VCMD STOW halts partition OUT's clusters and moves their context into the vaults. -/
  | vaultStow (out : Nat)
  /-- VAULT_SWAP (R186): VCMD SWAP halts OUT and exchanges its context with that of IN in the vaults. -/
  | vaultSwap (out inn : Nat)
  /-- VAULT_RESTORE (R186): VCMD RESTORE moves partition IN's context from the vaults back into its clusters. -/
  | vaultRestore (inn : Nat)
  /-- FUSE_TIMEOUT (R218): A FUSE rendezvous timer expires, so every arrived participant leaves with status 1. -/
  | fuseTimeout (id : Nat)
  /-- FUSE_RENDEZVOUS_COMPLETE (R219): A complete rendezvous waits for results, checks and moves allocations, and forms the fused group. -/
  | fuseRendezvousComplete (id : Nat)
  /-- AUTOMATIC_SPLIT (R226): After ADIV×16 issues with at most ALANES lanes active, the group splits at the next allowed boundary. -/
  | automaticSplit (stream : Nat)
  /-- IMPLICIT_REJOIN (R227): Every remaining lane of a diverged group stands parked at its split record's pc, so the group rejoins ... -/
  | implicitRejoin (group : Nat)
  /-- REJOIN_TIMEOUT (R229): A rejoin wait times out, so each parked lane continues singly and an explicit REJOIN writes 1. -/
  | rejoinTimeout (group : Nat)
  /-- ROLE_QUEUE_RETRY (R198): A group parked on an empty or full role queue column retries when an entry or space appears. -/
  | roleQueueRetry (stream : Nat)
  /-- RESULT_WRITEBACK (R205): A long-latency result returns and is written, unless overtaken, and may release a parked switch point. -/
  | resultWriteback (stream seq : Nat)
  /-- PAGE_WALK_DONE (R256): A hardware walk completes: it installs a leaf in the TLBs, or raises its fault. -/
  | pageWalkDone (tlb dom : Nat) (va : Word)
  /-- GRANT_INVALIDATE_ONE (R249): GRCMD OP 1 invalidates the cached grant entry of one window. -/
  | grantInvalidateOne (win : Nat)
  /-- GRANT_INVALIDATE_ALL (R249): GRCMD OP 2 invalidates every cached grant entry. -/
  | grantInvalidateAll
  /-- GRANT_INVALIDATE_DONE (R249): Every element checked under the old entry has been applied or rejected, so BUSY clears. -/
  | grantInvalidateDone
  /-- SHOOTDOWN_DONE (R258): Every marked request of a shootdown has been accepted, so the shootdown completes and a parked TLBI continues. -/
  | shootdownDone (id : Nat)
  /-- PATROL_SCRUB (R273): The scrubber reads a sector, rewrites it if correctable, and poisons it if uncorrectable. -/
  | patrolScrub (sector outcome : Nat)
  /-- RESERVATION_GRANT (R299): An LRW request reaches the head of its line's FIFO, so the lane becomes holder and reads its doubleword. -/
  | reservationGrant (line : Nat)
  /-- RESERVATION_TIMEOUT (R301): A holder has held for 4,096 cycles, so the reservation passes to the next request. -/
  | reservationTimeout (line owner : Nat)
  /-- WAITA_WAKE (R302): A change is applied to a waited word, so the waiting WAITA lane returns on change as an acquire. -/
  | waitaWake (stream seq : Nat)
  /-- WAITA_TIMEOUT (R468): A WAITA timeout class expires, so the lane reads once more and writes the value. -/
  | waitaTimeout (stream seq : Nat)
  /-- LDS_LANDED (R462): The last doubleword of an LDS lands, or it faults, so PEND of its barrier falls by 1. -/
  | ldsLanded (id : Nat)
  /-- TILE_TRANSFER_DONE (R517): A TST or TSTA to scratchpad or local memory has written its last granule or faulted, so PEND falls if BV ... -/
  | tileTransferDone (id : Nat)
  /-- ENGINE_ROUTINE_START (R481): A kick reaches the head of an idle hart's FIFO: the kick block is read and checked, and the routine starts ... -/
  | engineRoutineStart (hart : Nat)
  /-- TMMA_ENGINE_STEP (R504): One engine step of a TMMA adds a product into each active lane's slice and charges 8 units. -/
  | tmmaEngineStep (stream : Nat)
  /-- TILE_CLAIM_RETRY (R489): A group parked on tiles held by another team claims them when they are released. -/
  | tileClaimRetry (stream : Nat)
  /-- LATE_FAULT_DELIVERY (R324): A late fault is delivered at the group's next instruction boundary: rollback to the region entry, then ... -/
  | lateFaultDelivery (stream : Nat)
  /-- KILLT_WRITE (R340): A write to KILLT kills the named team with code 0x05. -/
  | killtWrite (v : Word)
  /-- HANDLE_SEAL (R364): GHCMD SEAL checks a seal request and writes the handle entry. -/
  | handleSeal (dom idx : Nat)
  /-- HANDLE_REVOKE (R365): GHCMD REVOKE clears VALID once every engine has dropped its cached copy. -/
  | handleRevoke (dom idx : Nat)
  /-- MSGRECV_TIMEOUT (R447): A waiting MSGRECV lane's timeout expires, so it writes status 1. -/
  | msgrecvTimeout (stream seq : Nat)
  /-- COMMAND_COMPLETION (R521): A command of QCMD, PCMD, KEYCMD, VCMD, DCMD, GHCMD or ATTCMD finishes its work, writes STATUS and clears BUSY. -/
  | commandCompletion (caller : Caller) (off : Nat)
  /-- ADD (R399): Adds A and B modulo 2^64. -/
  | add (sw : Bool) (d : RegName) (a : RegName) (b : RegName)
  /-- SUB (R399): Subtracts B from A modulo 2^64. -/
  | sub (sw : Bool) (d : RegName) (a : RegName) (b : RegName)
  /-- MIN_S (R399): Writes the signed minimum. -/
  | minS (sw : Bool) (d : RegName) (a : RegName) (b : RegName)
  /-- MAX_S (R399): Writes the signed maximum. -/
  | maxS (sw : Bool) (d : RegName) (a : RegName) (b : RegName)
  /-- MIN_N (R399): Writes the unsigned minimum. -/
  | minN (sw : Bool) (d : RegName) (a : RegName) (b : RegName)
  /-- MAX_N (R399): Writes the unsigned maximum. -/
  | maxN (sw : Bool) (d : RegName) (a : RegName) (b : RegName)
  /-- ADDS_S (R399): Signed saturating 64-bit add. -/
  | addsS (sw : Bool) (d : RegName) (a : RegName) (b : RegName)
  /-- SUBS_S (R399): Signed saturating 64-bit subtract. -/
  | subsS (sw : Bool) (d : RegName) (a : RegName) (b : RegName)
  /-- MUL (R400): Low 64 bits of the product. -/
  | mul (sw : Bool) (d : RegName) (a : RegName) (b : RegName)
  /-- MULH_S (R400): High 64 bits of the signed product. -/
  | mulhS (sw : Bool) (d : RegName) (a : RegName) (b : RegName)
  /-- MULH_N (R400): High 64 bits of the unsigned product. -/
  | mulhN (sw : Bool) (d : RegName) (a : RegName) (b : RegName)
  /-- MAC (R400): D + A×B modulo 2^64. -/
  | mac (sw : Bool) (d : RegName) (a : RegName) (b : RegName)
  /-- DIV_S (R400): Signed division truncated toward zero, with the edge cases of R368. -/
  | divS (sw : Bool) (d : RegName) (a : RegName) (b : RegName)
  /-- DIV_N (R400): Unsigned division, giving all ones for division by 0. -/
  | divN (sw : Bool) (d : RegName) (a : RegName) (b : RegName)
  /-- REM_S (R400): Signed remainder. -/
  | remS (sw : Bool) (d : RegName) (a : RegName) (b : RegName)
  /-- REM_N (R400): Unsigned remainder. -/
  | remN (sw : Bool) (d : RegName) (a : RegName) (b : RegName)
  /-- AND (R401): Bitwise AND. -/
  | and (sw : Bool) (d : RegName) (a : RegName) (b : RegName)
  /-- OR (R401): Bitwise OR. -/
  | or (sw : Bool) (d : RegName) (a : RegName) (b : RegName)
  /-- XOR (R401): Bitwise XOR. -/
  | xor (sw : Bool) (d : RegName) (a : RegName) (b : RegName)
  /-- ANDN (R401): A AND NOT B. -/
  | andn (sw : Bool) (d : RegName) (a : RegName) (b : RegName)
  /-- ORN (R401): A OR NOT B. -/
  | orn (sw : Bool) (d : RegName) (a : RegName) (b : RegName)
  /-- XNOR (R401): NOT (A XOR B). -/
  | xnor (sw : Bool) (d : RegName) (a : RegName) (b : RegName)
  /-- BSEL (R401): Writes the bit of A selected by B[5:0]. -/
  | bsel (sw : Bool) (d : RegName) (a : RegName) (b : RegName)
  /-- SHL (R402): Shifts left by B[5:0]. -/
  | shl (sw : Bool) (d : RegName) (a : RegName) (b : RegName)
  /-- SHR (R402): Logical shift right by B[5:0]. -/
  | shr (sw : Bool) (d : RegName) (a : RegName) (b : RegName)
  /-- SAR (R402): Arithmetic shift right by B[5:0]. -/
  | sar (sw : Bool) (d : RegName) (a : RegName) (b : RegName)
  /-- ROL (R402): Rotates left by B[5:0]. -/
  | rol (sw : Bool) (d : RegName) (a : RegName) (b : RegName)
  /-- ROR (R402): Rotates right by B[5:0]. -/
  | ror (sw : Bool) (d : RegName) (a : RegName) (b : RegName)
  /-- CLZ (R403): Counts leading zeros. -/
  | clz (sw : Bool) (d : RegName) (a : RegName)
  /-- CTZ (R403): Counts trailing zeros. -/
  | ctz (sw : Bool) (d : RegName) (a : RegName)
  /-- POPC (R403): Counts one bits. -/
  | popc (sw : Bool) (d : RegName) (a : RegName)
  /-- BREV (R403): Reverses the bits. -/
  | brev (sw : Bool) (d : RegName) (a : RegName)
  /-- BSWAP (R403): Reverses the bytes. -/
  | bswap (sw : Bool) (d : RegName) (a : RegName)
  /-- SEXT (R403): Sign-extends from width B[5:0]. -/
  | sext (sw : Bool) (d : RegName) (a : RegName) (b : RegName)
  /-- ZEXT (R403): Zero-extends from width B[5:0]. -/
  | zext (sw : Bool) (d : RegName) (a : RegName) (b : RegName)
  /-- CMP_EQ (R404): Writes 1 if A = B. -/
  | cmpEq (sw : Bool) (d : RegName) (a : RegName) (b : RegName)
  /-- CMP_NE (R404): Writes 1 if A ≠ B. -/
  | cmpNe (sw : Bool) (d : RegName) (a : RegName) (b : RegName)
  /-- CMP_LT_S (R404): Signed less-than. -/
  | cmpLtS (sw : Bool) (d : RegName) (a : RegName) (b : RegName)
  /-- CMP_LE_S (R404): Signed less-or-equal. -/
  | cmpLeS (sw : Bool) (d : RegName) (a : RegName) (b : RegName)
  /-- CMP_LT_N (R404): Unsigned less-than. -/
  | cmpLtN (sw : Bool) (d : RegName) (a : RegName) (b : RegName)
  /-- CMP_LE_N (R404): Unsigned less-or-equal. -/
  | cmpLeN (sw : Bool) (d : RegName) (a : RegName) (b : RegName)
  /-- CMP_TST (R404): Writes 1 if A AND B ≠ 0. -/
  | cmpTst (sw : Bool) (d : RegName) (a : RegName) (b : RegName)
  /-- CSEL (R405): Writes A if D ≠ 0, else B. -/
  | csel (sw : Bool) (d : RegName) (a : RegName) (b : RegName)
  /-- ADDW (R406): 32-bit add, sign-extended. -/
  | addw (sw : Bool) (d : RegName) (a : RegName) (b : RegName)
  /-- SUBW (R406): 32-bit subtract, sign-extended. -/
  | subw (sw : Bool) (d : RegName) (a : RegName) (b : RegName)
  /-- MULW (R406): 32-bit multiply, sign-extended. -/
  | mulw (sw : Bool) (d : RegName) (a : RegName) (b : RegName)
  /-- SHLW (R406): 32-bit shift left by B[4:0]. -/
  | shlw (sw : Bool) (d : RegName) (a : RegName) (b : RegName)
  /-- SHRW (R406): 32-bit logical shift right. -/
  | shrw (sw : Bool) (d : RegName) (a : RegName) (b : RegName)
  /-- SARW (R406): 32-bit arithmetic shift right. -/
  | sarw (sw : Bool) (d : RegName) (a : RegName) (b : RegName)
  /-- ADDI (R407): Adds the signed immediate. -/
  | addi (sw : Bool) (d : RegName) (a : RegName) (imm : BitVec 10)
  /-- ANDI (R407): ANDs with the sign-extended immediate. -/
  | andi (sw : Bool) (d : RegName) (a : RegName) (imm : BitVec 10)
  /-- ORI (R407): ORs with the zero-extended immediate. -/
  | ori (sw : Bool) (d : RegName) (a : RegName) (imm : BitVec 10)
  /-- XORI (R407): XORs with the zero-extended immediate. -/
  | xori (sw : Bool) (d : RegName) (a : RegName) (imm : BitVec 10)
  /-- SHLI (R402): Shifts left by an immediate. -/
  | shli (sw : Bool) (d : RegName) (a : RegName) (n : BitVec 6)
  /-- SHRI (R402): Logical shift right by an immediate. -/
  | shri (sw : Bool) (d : RegName) (a : RegName) (n : BitVec 6)
  /-- SARI (R402): Arithmetic shift right by an immediate. -/
  | sari (sw : Bool) (d : RegName) (a : RegName) (n : BitVec 6)
  /-- ROLI (R402): Rotates left by an immediate. -/
  | roli (sw : Bool) (d : RegName) (a : RegName) (n : BitVec 6)
  /-- RORI (R402): Rotates right by an immediate. -/
  | rori (sw : Bool) (d : RegName) (a : RegName) (n : BitVec 6)
  /-- CMPI_EQ (R404): Compares with an immediate for equality. -/
  | cmpiEq (sw : Bool) (d : RegName) (a : RegName) (imm : BitVec 7)
  /-- CMPI_NE (R404): Compares with an immediate for inequality. -/
  | cmpiNe (sw : Bool) (d : RegName) (a : RegName) (imm : BitVec 7)
  /-- CMPI_LT_S (R404): Signed less-than against an immediate. -/
  | cmpiLtS (sw : Bool) (d : RegName) (a : RegName) (imm : BitVec 7)
  /-- CMPI_LE_S (R404): Signed less-or-equal against an immediate. -/
  | cmpiLeS (sw : Bool) (d : RegName) (a : RegName) (imm : BitVec 7)
  /-- CMPI_LT_N (R404): Unsigned less-than against the sign-extended immediate. -/
  | cmpiLtN (sw : Bool) (d : RegName) (a : RegName) (imm : BitVec 7)
  /-- CMPI_LE_N (R404): Unsigned less-or-equal against the sign-extended immediate. -/
  | cmpiLeN (sw : Bool) (d : RegName) (a : RegName) (imm : BitVec 7)
  /-- CMPI_TST (R404): Tests A AND imm ≠ 0. -/
  | cmpiTst (sw : Bool) (d : RegName) (a : RegName) (imm : BitVec 7)
  /-- LI (R408): Loads a sign-extended 17-bit immediate. -/
  | li (sw : Bool) (d : RegName) (imm : BitVec 17)
  /-- LIX (R408): Shifts D left by 17 and ORs in the immediate. -/
  | lix (sw : Bool) (d : RegName) (imm : BitVec 17)
  /-- ADDPC (R408): Writes pc + sext(imm17)×4. -/
  | addpc (sw : Bool) (d : RegName) (imm : BitVec 17)
  /-- LEA_1 (R409): A + B×1. -/
  | lea1 (sw : Bool) (d : RegName) (a : RegName) (b : RegName)
  /-- LEA_2 (R409): A + B×2. -/
  | lea2 (sw : Bool) (d : RegName) (a : RegName) (b : RegName)
  /-- LEA_4 (R409): A + B×4. -/
  | lea4 (sw : Bool) (d : RegName) (a : RegName) (b : RegName)
  /-- LEA_8 (R409): A + B×8. -/
  | lea8 (sw : Bool) (d : RegName) (a : RegName) (b : RegName)
  /-- LEA_16 (R409): A + B×16. -/
  | lea16 (sw : Bool) (d : RegName) (a : RegName) (b : RegName)
  /-- PADD_B (R410): Packed byte add. -/
  | paddB (sw : Bool) (d : RegName) (a : RegName) (b : RegName)
  /-- PADD_H (R410): Packed half add. -/
  | paddH (sw : Bool) (d : RegName) (a : RegName) (b : RegName)
  /-- PADD_W (R410): Packed word add. -/
  | paddW (sw : Bool) (d : RegName) (a : RegName) (b : RegName)
  /-- PSUB_B (R410): Packed byte subtract. -/
  | psubB (sw : Bool) (d : RegName) (a : RegName) (b : RegName)
  /-- PSUB_H (R410): Packed half subtract. -/
  | psubH (sw : Bool) (d : RegName) (a : RegName) (b : RegName)
  /-- PSUB_W (R410): Packed word subtract. -/
  | psubW (sw : Bool) (d : RegName) (a : RegName) (b : RegName)
  /-- PADDS_B (R410): Packed signed saturating byte add. -/
  | paddsB (sw : Bool) (d : RegName) (a : RegName) (b : RegName)
  /-- PADDS_H (R410): Packed signed saturating half add. -/
  | paddsH (sw : Bool) (d : RegName) (a : RegName) (b : RegName)
  /-- PMUL_H (R411): Packed half multiply. -/
  | pmulH (sw : Bool) (d : RegName) (a : RegName) (b : RegName)
  /-- PMUL_W (R411): Packed word multiply. -/
  | pmulW (sw : Bool) (d : RegName) (a : RegName) (b : RegName)
  /-- PDOT_B_S (R411): Signed byte dot product accumulated into words of D. -/
  | pdotBS (sw : Bool) (d : RegName) (a : RegName) (b : RegName)
  /-- PDOT_B_N (R411): Unsigned byte dot product accumulated into words of D. -/
  | pdotBN (sw : Bool) (d : RegName) (a : RegName) (b : RegName)
  /-- PDOT_H_S (R411): Signed half dot product accumulated into words of D. -/
  | pdotHS (sw : Bool) (d : RegName) (a : RegName) (b : RegName)
  /-- PMAX_H_S (R411): Packed signed half maximum. -/
  | pmaxHS (sw : Bool) (d : RegName) (a : RegName) (b : RegName)
  /-- PMIN_H_S (R411): Packed signed half minimum. -/
  | pminHS (sw : Bool) (d : RegName) (a : RegName) (b : RegName)
  /-- PACKLO (R412): Packs the low words of A and B. -/
  | packlo (sw : Bool) (d : RegName) (a : RegName) (b : RegName)
  /-- PACKHI (R412): Packs the high words of A and B. -/
  | packhi (sw : Bool) (d : RegName) (a : RegName) (b : RegName)
  /-- SHUFB (R412): Byte shuffle of A by the selectors in B. -/
  | shufb (sw : Bool) (d : RegName) (a : RegName) (b : RegName)
  /-- FADD_S (R414): FP32 add. -/
  | faddS (sw : Bool) (d : RegName) (a : RegName) (b : RegName)
  /-- FSUB_S (R414): FP32 subtract. -/
  | fsubS (sw : Bool) (d : RegName) (a : RegName) (b : RegName)
  /-- FMUL_S (R414): FP32 multiply. -/
  | fmulS (sw : Bool) (d : RegName) (a : RegName) (b : RegName)
  /-- FDIV_S (R414): FP32 divide, long-latency. -/
  | fdivS (sw : Bool) (d : RegName) (a : RegName) (b : RegName)
  /-- FMIN_S (R414): FP32 minimumNumber. -/
  | fminS (sw : Bool) (d : RegName) (a : RegName) (b : RegName)
  /-- FMAX_S (R414): FP32 maximumNumber. -/
  | fmaxS (sw : Bool) (d : RegName) (a : RegName) (b : RegName)
  /-- FABS_S (R414): Clears the FP32 sign bit. -/
  | fabsS (sw : Bool) (d : RegName) (a : RegName)
  /-- FNEG_S (R414): Inverts the FP32 sign bit. -/
  | fnegS (sw : Bool) (d : RegName) (a : RegName)
  /-- FMA_S (R415): FP32 A×B + D, rounded once. -/
  | fmaS (sw : Bool) (d : RegName) (a : RegName) (b : RegName)
  /-- FMS_S (R415): FP32 A×B − D, rounded once. -/
  | fmsS (sw : Bool) (d : RegName) (a : RegName) (b : RegName)
  /-- FNMA_S (R415): FP32 D − A×B, rounded once. -/
  | fnmaS (sw : Bool) (d : RegName) (a : RegName) (b : RegName)
  /-- FMA_D (R415): FP64 A×B + D, rounded once. -/
  | fmaD (sw : Bool) (d : RegName) (a : RegName) (b : RegName)
  /-- FMS_D (R415): FP64 A×B − D, rounded once. -/
  | fmsD (sw : Bool) (d : RegName) (a : RegName) (b : RegName)
  /-- FNMA_D (R415): FP64 D − A×B, rounded once. -/
  | fnmaD (sw : Bool) (d : RegName) (a : RegName) (b : RegName)
  /-- FADD_D (R414): FP64 add. -/
  | faddD (sw : Bool) (d : RegName) (a : RegName) (b : RegName)
  /-- FSUB_D (R414): FP64 subtract. -/
  | fsubD (sw : Bool) (d : RegName) (a : RegName) (b : RegName)
  /-- FMUL_D (R414): FP64 multiply. -/
  | fmulD (sw : Bool) (d : RegName) (a : RegName) (b : RegName)
  /-- FDIV_D (R414): FP64 divide, long-latency. -/
  | fdivD (sw : Bool) (d : RegName) (a : RegName) (b : RegName)
  /-- FMIN_D (R414): FP64 minimumNumber. -/
  | fminD (sw : Bool) (d : RegName) (a : RegName) (b : RegName)
  /-- FMAX_D (R414): FP64 maximumNumber. -/
  | fmaxD (sw : Bool) (d : RegName) (a : RegName) (b : RegName)
  /-- FABS_D (R414): Clears the FP64 sign bit. -/
  | fabsD (sw : Bool) (d : RegName) (a : RegName)
  /-- FNEG_D (R414): Inverts the FP64 sign bit. -/
  | fnegD (sw : Bool) (d : RegName) (a : RegName)
  /-- FADD_2S (R418): Packed two-element FP32 add. -/
  | fadd2s (sw : Bool) (d : RegName) (a : RegName) (b : RegName)
  /-- FSUB_2S (R418): Packed two-element FP32 subtract. -/
  | fsub2s (sw : Bool) (d : RegName) (a : RegName) (b : RegName)
  /-- FMUL_2S (R418): Packed two-element FP32 multiply. -/
  | fmul2s (sw : Bool) (d : RegName) (a : RegName) (b : RegName)
  /-- FMA_2S (R418): Packed two-element FP32 fused multiply-add. -/
  | fma2s (sw : Bool) (d : RegName) (a : RegName) (b : RegName)
  /-- FADD_4H (R418): Packed four-element FP16 add. -/
  | fadd4h (sw : Bool) (d : RegName) (a : RegName) (b : RegName)
  /-- FMUL_4H (R418): Packed four-element FP16 multiply. -/
  | fmul4h (sw : Bool) (d : RegName) (a : RegName) (b : RegName)
  /-- FMA_4H (R418): Packed four-element FP16 fused multiply-add. -/
  | fma4h (sw : Bool) (d : RegName) (a : RegName) (b : RegName)
  /-- FMA_4B (R418): Packed four-element BF16 fused multiply-add. -/
  | fma4b (sw : Bool) (d : RegName) (a : RegName) (b : RegName)
  /-- FEQ_S (R417): FP32 equality compare. -/
  | feqS (sw : Bool) (d : RegName) (a : RegName) (b : RegName)
  /-- FLT_S (R417): FP32 less-than compare. -/
  | fltS (sw : Bool) (d : RegName) (a : RegName) (b : RegName)
  /-- FLE_S (R417): FP32 less-or-equal compare. -/
  | fleS (sw : Bool) (d : RegName) (a : RegName) (b : RegName)
  /-- FUN_S (R417): FP32 unordered test. -/
  | funS (sw : Bool) (d : RegName) (a : RegName) (b : RegName)
  /-- FEQ_D (R417): FP64 equality compare. -/
  | feqD (sw : Bool) (d : RegName) (a : RegName) (b : RegName)
  /-- FLT_D (R417): FP64 less-than compare. -/
  | fltD (sw : Bool) (d : RegName) (a : RegName) (b : RegName)
  /-- FLE_D (R417): FP64 less-or-equal compare. -/
  | fleD (sw : Bool) (d : RegName) (a : RegName) (b : RegName)
  /-- FCLASS (R417): Classifies A as FP32 and as FP64. -/
  | fclass (sw : Bool) (d : RegName) (a : RegName)
  /-- FRCP_S (R420): Approximate reciprocal. -/
  | frcpS (sw : Bool) (d : RegName) (a : RegName)
  /-- FRSQ_S (R420): Approximate reciprocal square root. -/
  | frsqS (sw : Bool) (d : RegName) (a : RegName)
  /-- FSQRT_S (R420): Correctly rounded FP32 square root. -/
  | fsqrtS (sw : Bool) (d : RegName) (a : RegName)
  /-- FEXP2_S (R420): Approximate 2^A. -/
  | fexp2S (sw : Bool) (d : RegName) (a : RegName)
  /-- FLOG2_S (R420): Approximate log2 A. -/
  | flog2S (sw : Bool) (d : RegName) (a : RegName)
  /-- FSINPI_S (R420): Approximate sin(πA). -/
  | fsinpiS (sw : Bool) (d : RegName) (a : RegName)
  /-- FCOSPI_S (R420): Approximate cos(πA). -/
  | fcospiS (sw : Bool) (d : RegName) (a : RegName)
  /-- FTANH_S (R420): Approximate tanh A. -/
  | ftanhS (sw : Bool) (d : RegName) (a : RegName)
  /-- FCVT (R421): Converts by conversion code b under rounding mode f (0 to 6), advancing SEED under SR. -/
  | fcvt (sw : Bool) (d : RegName) (a : RegName) (conv : BitVec 7) (rm : BitVec 3)
  /-- FSGNJ_S (R416): FP32 sign injection. -/
  | fsgnjS (sw : Bool) (d : RegName) (a : RegName) (b : RegName)
  /-- FSGNJN_S (R416): FP32 negated sign injection. -/
  | fsgnjnS (sw : Bool) (d : RegName) (a : RegName) (b : RegName)
  /-- FSGNJX_S (R416): FP32 XOR sign injection. -/
  | fsgnjxS (sw : Bool) (d : RegName) (a : RegName) (b : RegName)
  /-- FRINT_S (R416): Rounds FP32 to an integral value by FCSR.RM. -/
  | frintS (sw : Bool) (d : RegName) (a : RegName)
  /-- FRINT_D (R416): Rounds FP64 to an integral value by FCSR.RM. -/
  | frintD (sw : Bool) (d : RegName) (a : RegName)
  /-- FSQRT_D (R416): Correctly rounded FP64 square root, long-latency. -/
  | fsqrtD (sw : Bool) (d : RegName) (a : RegName)
  /-- FSCALE_S (R416): A × 2^sB in FP32, rounded once. -/
  | fscaleS (sw : Bool) (d : RegName) (a : RegName) (b : RegName)
  /-- BNZ (R424): Branches when A ≠ 0; disagreeing lanes split. -/
  | bnz (sw : Bool) (a : RegName) (off : BitVec 17)
  /-- BZ (R424): Branches when A = 0; disagreeing lanes split. -/
  | bz (sw : Bool) (a : RegName) (off : BitVec 17)
  /-- JMP (R424): Jumps to pc + sext(off24)×4. -/
  | jmp (sw : Bool) (off : BitVec 24)
  /-- CALL (R424): Writes x1 := pc + 4 and jumps. -/
  | call (sw : Bool) (off : BitVec 24)
  /-- JR (R424): Jumps to A. -/
  | jr (sw : Bool) (a : RegName)
  /-- JALR (R424): Jumps to A and writes d := pc + 4. -/
  | jalr (sw : Bool) (d : RegName) (a : RegName)
  /-- IF (R428): Pushes IF, and lanes whose condition is false wait. -/
  | ifOp (sw : Bool) (a : RegName) (off : BitVec 17)
  /-- ELSE (R428): Swaps the active lanes and replaces IF by ELSE. -/
  | elseOp (sw : Bool) (off : BitVec 24)
  /-- ENDIF (R428): Restores the waiting lanes and pops IF or ELSE. -/
  | endif (sw : Bool)
  /-- LOOP (R428): Pushes a LOOP with count A, or skips the body when the count is 0. -/
  | loop (sw : Bool) (a : RegName) (off : BitVec 17)
  /-- ENDLOOP (R428): Decrements the count, and loops or pops. -/
  | endloop (sw : Bool)
  /-- BRK (R428): Active lanes leave the innermost loop. -/
  | brk (sw : Bool)
  /-- CONT (R428): Active lanes skip to the innermost ENDLOOP. -/
  | cont (sw : Bool)
  /-- IDEM (R322): Records the region entry. -/
  | idem (sw : Bool)
  /-- FUSE (R430): Joins a FUSE rendezvous keyed by mask, with a timeout from imm10. -/
  | fuse (sw : Bool) (d : RegName) (a : RegName) (imm : BitVec 10)
  /-- SPLIT (R431): Enters DIVERGED mode with a split record. -/
  | split (sw : Bool) (d : RegName)
  /-- REJOIN (R431): Parks for an explicit rejoin with a timeout from A. -/
  | rejoin (sw : Bool) (d : RegName) (a : RegName)
  /-- WBASE (R432): Sets WBASE.BASE, or faults with code 0x0E. -/
  | wbase (sw : Bool) (n : BitVec 6)
  /-- SHFL_IDX (R433): Reads A from lane B. -/
  | shflIdx (sw : Bool) (d : RegName) (a : RegName) (b : RegName)
  /-- SHFL_XOR (R433): Reads A from lane ln xor B. -/
  | shflXor (sw : Bool) (d : RegName) (a : RegName) (b : RegName)
  /-- SHFL_UP (R433): Reads A from lane ln − B. -/
  | shflUp (sw : Bool) (d : RegName) (a : RegName) (b : RegName)
  /-- SHFL_DN (R433): Reads A from lane ln + B. -/
  | shflDn (sw : Bool) (d : RegName) (a : RegName) (b : RegName)
  /-- VOTE_ANY (R434): 1 if any active lane's A ≠ 0. -/
  | voteAny (sw : Bool) (d : RegName) (a : RegName)
  /-- VOTE_ALL (R434): 1 if every active lane's A ≠ 0. -/
  | voteAll (sw : Bool) (d : RegName) (a : RegName)
  /-- VOTE_BAL (R434): Bitmap of the active lanes that vote yes. -/
  | voteBal (sw : Bool) (d : RegName) (a : RegName)
  /-- BCAST (R433): Broadcasts A from the lane named by the lowest active lane's B. -/
  | bcast (sw : Bool) (d : RegName) (a : RegName) (b : RegName)
  /-- GRED_ADD (R435): Group sum modulo 2^64. -/
  | gredAdd (sw : Bool) (d : RegName) (a : RegName)
  /-- GRED_MIN_S (R435): Group signed minimum. -/
  | gredMinS (sw : Bool) (d : RegName) (a : RegName)
  /-- GRED_MAX_S (R435): Group signed maximum. -/
  | gredMaxS (sw : Bool) (d : RegName) (a : RegName)
  /-- GRED_FADD_S (R393): Group FP32 sum in a fixed tree. -/
  | gredFaddS (sw : Bool) (d : RegName) (a : RegName)
  /-- GRED_AND (R435): Group bitwise AND. -/
  | gredAnd (sw : Bool) (d : RegName) (a : RegName)
  /-- GRED_OR (R435): Group bitwise OR. -/
  | gredOr (sw : Bool) (d : RegName) (a : RegName)
  /-- GRED_XOR (R435): Group bitwise XOR. -/
  | gredXor (sw : Bool) (d : RegName) (a : RegName)
  /-- GSCAN_ADD (R435): Inclusive prefix sum over the active lanes. -/
  | gscanAdd (sw : Bool) (d : RegName) (a : RegName)
  /-- LD_B_S (R458): Loads a sign-extended byte. -/
  | ldBS (sw : Bool) (d : RegName) (base : RegName) (off : BitVec 10)
  /-- LD_B_N (R458): Loads a zero-extended byte. -/
  | ldBN (sw : Bool) (d : RegName) (base : RegName) (off : BitVec 10)
  /-- LD_H_S (R458): Loads a sign-extended half. -/
  | ldHS (sw : Bool) (d : RegName) (base : RegName) (off : BitVec 10)
  /-- LD_H_N (R458): Loads a zero-extended half. -/
  | ldHN (sw : Bool) (d : RegName) (base : RegName) (off : BitVec 10)
  /-- LD_W_S (R458): Loads a sign-extended word. -/
  | ldWS (sw : Bool) (d : RegName) (base : RegName) (off : BitVec 10)
  /-- LD_W_N (R458): Loads a zero-extended word. -/
  | ldWN (sw : Bool) (d : RegName) (base : RegName) (off : BitVec 10)
  /-- LD_D (R458): Loads a doubleword. -/
  | ldD (sw : Bool) (d : RegName) (base : RegName) (off : BitVec 10)
  /-- ST_B (R458): Stores a byte. -/
  | stB (sw : Bool) (d : RegName) (base : RegName) (off : BitVec 10)
  /-- ST_H (R458): Stores a half. -/
  | stH (sw : Bool) (d : RegName) (base : RegName) (off : BitVec 10)
  /-- ST_W (R458): Stores a word. -/
  | stW (sw : Bool) (d : RegName) (base : RegName) (off : BitVec 10)
  /-- ST_D (R458): Stores a doubleword, or kicks an engine at the aperture. -/
  | stD (sw : Bool) (d : RegName) (base : RegName) (off : BitVec 10)
  /-- LD_D_X (R459): Indexed doubleword load. -/
  | ldDX (sw : Bool) (d : RegName) (a : RegName) (b : RegName)
  /-- LD_W_X (R459): Indexed zero-extended word load. -/
  | ldWX (sw : Bool) (d : RegName) (a : RegName) (b : RegName)
  /-- ST_D_X (R459): Indexed doubleword store. -/
  | stDX (sw : Bool) (d : RegName) (a : RegName) (b : RegName)
  /-- ST_W_X (R459): Indexed word store. -/
  | stWX (sw : Bool) (d : RegName) (a : RegName) (b : RegName)
  /-- LD_D_ACQ (R460): Doubleword acquire load at home with a scope. -/
  | ldDAcq (sw : Bool) (d : RegName) (a : RegName) (sc : Scope)
  /-- ST_D_REL (R460): Doubleword release store at home with a scope. -/
  | stDRel (sw : Bool) (d : RegName) (a : RegName) (sc : Scope)
  /-- LD_W_ACQ (R460): Word acquire load at home with a scope. -/
  | ldWAcq (sw : Bool) (d : RegName) (a : RegName) (sc : Scope)
  /-- ST_W_REL (R460): Word release store at home with a scope. -/
  | stWRel (sw : Bool) (d : RegName) (a : RegName) (sc : Scope)
  /-- SLD_W (R461): Scratchpad word load. -/
  | sldW (sw : Bool) (d : RegName) (base : RegName) (off : BitVec 10)
  /-- SLD_D (R461): Scratchpad doubleword load. -/
  | sldD (sw : Bool) (d : RegName) (base : RegName) (off : BitVec 10)
  /-- SST_W (R461): Scratchpad word store. -/
  | sstW (sw : Bool) (d : RegName) (base : RegName) (off : BitVec 10)
  /-- SST_D (R461): Scratchpad doubleword store. -/
  | sstD (sw : Bool) (d : RegName) (base : RegName) (off : BitVec 10)
  /-- LDS_256 (R462): Asynchronous 256-byte copy into scratchpad, counted on a barrier. -/
  | lds256 (sw : Bool) (d : RegName) (a : RegName) (bar : BitVec 4)
  /-- LDS_1K (R462): Asynchronous 1 KiB copy into scratchpad. -/
  | lds1k (sw : Bool) (d : RegName) (a : RegName) (bar : BitVec 4)
  /-- LDS_4K (R462): Asynchronous 4 KiB copy into scratchpad. -/
  | lds4k (sw : Bool) (d : RegName) (a : RegName) (bar : BitVec 4)
  /-- LDS_16K (R462): Asynchronous 16 KiB copy into scratchpad. -/
  | lds16k (sw : Bool) (d : RegName) (a : RegName) (bar : BitVec 4)
  /-- AMO_ADD_D (R463): Atomic 64-bit add at home, returning the old value. -/
  | amoAddD (sw : Bool) (d : RegName) (a : RegName) (b : RegName)
  /-- AMO_AND_D (R463): Atomic 64-bit AND. -/
  | amoAndD (sw : Bool) (d : RegName) (a : RegName) (b : RegName)
  /-- AMO_OR_D (R463): Atomic 64-bit OR. -/
  | amoOrD (sw : Bool) (d : RegName) (a : RegName) (b : RegName)
  /-- AMO_XOR_D (R463): Atomic 64-bit XOR. -/
  | amoXorD (sw : Bool) (d : RegName) (a : RegName) (b : RegName)
  /-- AMO_MIN_S_D (R463): Atomic 64-bit signed minimum. -/
  | amoMinSD (sw : Bool) (d : RegName) (a : RegName) (b : RegName)
  /-- AMO_MAX_S_D (R463): Atomic 64-bit signed maximum. -/
  | amoMaxSD (sw : Bool) (d : RegName) (a : RegName) (b : RegName)
  /-- AMO_FADD_D (R463): Atomic FP64 add, round to nearest-even. -/
  | amoFaddD (sw : Bool) (d : RegName) (a : RegName) (b : RegName)
  /-- AMO_SWAP_D (R463): Atomic 64-bit swap. -/
  | amoSwapD (sw : Bool) (d : RegName) (a : RegName) (b : RegName)
  /-- AMO_ADD_W (R463): Atomic 32-bit add. -/
  | amoAddW (sw : Bool) (d : RegName) (a : RegName) (b : RegName)
  /-- AMO_AND_W (R463): Atomic 32-bit AND. -/
  | amoAndW (sw : Bool) (d : RegName) (a : RegName) (b : RegName)
  /-- AMO_OR_W (R463): Atomic 32-bit OR. -/
  | amoOrW (sw : Bool) (d : RegName) (a : RegName) (b : RegName)
  /-- AMO_XOR_W (R463): Atomic 32-bit XOR. -/
  | amoXorW (sw : Bool) (d : RegName) (a : RegName) (b : RegName)
  /-- AMO_MIN_S_W (R463): Atomic 32-bit signed minimum. -/
  | amoMinSW (sw : Bool) (d : RegName) (a : RegName) (b : RegName)
  /-- AMO_MAX_S_W (R463): Atomic 32-bit signed maximum. -/
  | amoMaxSW (sw : Bool) (d : RegName) (a : RegName) (b : RegName)
  /-- AMO_FADD_S (R463): Atomic FP32 add, round to nearest-even. -/
  | amoFaddS (sw : Bool) (d : RegName) (a : RegName) (b : RegName)
  /-- AMO_SWAP_W (R463): Atomic 32-bit swap. -/
  | amoSwapW (sw : Bool) (d : RegName) (a : RegName) (b : RegName)
  /-- CAS_D (R464): 64-bit compare-and-swap at home. -/
  | casD (sw : Bool) (d : RegName) (a : RegName) (b : RegName)
  /-- CAS_W (R464): 32-bit compare-and-swap at home. -/
  | casW (sw : Bool) (d : RegName) (a : RegName) (b : RegName)
  /-- LRW (R465): Queues for the line's reservation and reads the doubleword as holder. -/
  | lrw (sw : Bool) (d : RegName) (a : RegName)
  /-- SCH (R466): Stores if holder, then hands the reservation on; writes status. -/
  | sch (sw : Bool) (d : RegName) (a : RegName) (b : RegName)
  /-- RELR (R466): Hands on a held reservation without writing. -/
  | relr (sw : Bool) (a : RegName)
  /-- WAITA (R468): Waits until a doubleword differs from B or timeout class f expires. -/
  | waita (sw : Bool) (d : RegName) (a : RegName) (b : RegName) (c : BitVec 3)
  /-- FENCE_ACQ (R470): Acquire fence of a scope. -/
  | fenceAcq (sw : Bool) (sc : Scope)
  /-- FENCE_REL (R470): Release fence of a scope; at fabric scope, flushes and waits for ROUT = 0. -/
  | fenceRel (sw : Bool) (sc : Scope)
  /-- FENCE_AR (R470): Acquire-release fence of a scope. -/
  | fenceAr (sw : Bool) (sc : Scope)
  /-- FENCE_SC (R470): Sequentially consistent fence of a scope. -/
  | fenceSc (sw : Bool) (sc : Scope)
  /-- BARINIT (R471): Sets EXPECT of barrier n and clears ARRIVED. -/
  | barinit (sw : Bool) (bar : BitVec 4) (b : RegName)
  /-- BARARV (R471): Arrives at barrier n as a release. -/
  | bararv (sw : Bool) (bar : BitVec 4)
  /-- BARWAIT (R471): Parks until barrier n's phase changes. -/
  | barwait (sw : Bool) (bar : BitVec 4)
  /-- BARTRY (R471): Writes 1 if barrier n's phase has changed, without waiting. -/
  | bartry (sw : Bool) (d : RegName) (bar : BitVec 4)
  /-- TBAR (R471): BARARV then BARWAIT on barrier n. -/
  | tbar (sw : Bool) (bar : BitVec 4)
  /-- PREF (R472): Fills the sector holding A; drops any fault. -/
  | pref (sw : Bool) (a : RegName)
  /-- CWB (R472): Writes back the line's dirty sectors. -/
  | cwb (sw : Bool) (a : RegName)
  /-- CINV (R472): Invalidates the line, discarding dirty data at supervisor level; acts as CWBI at user level. -/
  | cinv (sw : Bool) (a : RegName)
  /-- CWBI (R472): Writes back and invalidates the line. -/
  | cwbi (sw : Bool) (a : RegName)
  /-- ISYNC (R473): Discards the group's fetch block and fetched words. -/
  | isync (sw : Bool)
  /-- RST_W (R475): Places a remote word store element in the coma. -/
  | rstW (sw : Bool) (a : RegName) (b : RegName)
  /-- RST_D (R475): Places a remote doubleword store element in the coma. -/
  | rstD (sw : Bool) (a : RegName) (b : RegName)
  /-- RAMO_ADD_W (R475): Remote 32-bit add element. -/
  | ramoAddW (sw : Bool) (a : RegName) (b : RegName)
  /-- RAMO_ADD_D (R475): Remote 64-bit add element. -/
  | ramoAddD (sw : Bool) (a : RegName) (b : RegName)
  /-- RAMO_FADD_S (R475): Remote FP32 add element. -/
  | ramoFaddS (sw : Bool) (a : RegName) (b : RegName)
  /-- RAMO_MIN_S (R475): Remote 64-bit signed minimum element. -/
  | ramoMinS (sw : Bool) (a : RegName) (b : RegName)
  /-- RAMO_MAX_S (R475): Remote 64-bit signed maximum element. -/
  | ramoMaxS (sw : Bool) (a : RegName) (b : RegName)
  /-- RAMO_OR_D (R475): Remote 64-bit OR element. -/
  | ramoOrD (sw : Bool) (a : RegName) (b : RegName)
  /-- RAMO_AND_D (R475): Remote 64-bit AND element. -/
  | ramoAndD (sw : Bool) (a : RegName) (b : RegName)
  /-- RAMO_XOR_D (R475): Remote 64-bit XOR element. -/
  | ramoXorD (sw : Bool) (a : RegName) (b : RegName)
  /-- RLD_W (R476): Flushes the window's buffers and sends a remote word load. -/
  | rldW (sw : Bool) (d : RegName) (a : RegName)
  /-- RLD_D (R476): Flushes the window's buffers and sends a remote doubleword load. -/
  | rldD (sw : Bool) (d : RegName) (a : RegName)
  /-- RFLUSH_ONE (R477): Flushes the team's buffers for A's device and window. -/
  | rflushOne (sw : Bool) (a : RegName)
  /-- RFLUSH_ALL (R477): Flushes every buffer of the team. -/
  | rflushAll (sw : Bool)
  /-- MCST (R478): Sends a 256-byte scratchpad line as one multicast line. -/
  | mcst (sw : Bool) (a : RegName) (b : RegName)
  /-- CPY_GG (R484): Engine copy from global to global. -/
  | cpyGg (sw : Bool) (d : RegName) (a : RegName) (b : RegName)
  /-- CPY_GS (R484): Engine copy from scratchpad to global. -/
  | cpyGs (sw : Bool) (d : RegName) (a : RegName) (b : RegName)
  /-- CPY_SG (R484): Engine copy from global to scratchpad. -/
  | cpySg (sw : Bool) (d : RegName) (a : RegName) (b : RegName)
  /-- CPY_SS (R484): Engine copy from scratchpad to scratchpad. -/
  | cpySs (sw : Bool) (d : RegName) (a : RegName) (b : RegName)
  /-- GTH_32 (R485): Engine gather of 32-byte elements into scratchpad. -/
  | gth32 (sw : Bool) (d : RegName) (a : RegName) (b : RegName)
  /-- GTH_64 (R485): Engine gather of 64-byte elements. -/
  | gth64 (sw : Bool) (d : RegName) (a : RegName) (b : RegName)
  /-- GTH_128 (R485): Engine gather of 128-byte elements. -/
  | gth128 (sw : Bool) (d : RegName) (a : RegName) (b : RegName)
  /-- GTH_256 (R485): Engine gather of 256-byte elements. -/
  | gth256 (sw : Bool) (d : RegName) (a : RegName) (b : RegName)
  /-- SCT_32 (R485): Engine scatter of 32-byte elements from scratchpad. -/
  | sct32 (sw : Bool) (d : RegName) (a : RegName) (b : RegName)
  /-- SCT_64 (R485): Engine scatter of 64-byte elements. -/
  | sct64 (sw : Bool) (d : RegName) (a : RegName) (b : RegName)
  /-- SCT_128 (R485): Engine scatter of 128-byte elements. -/
  | sct128 (sw : Bool) (d : RegName) (a : RegName) (b : RegName)
  /-- SCT_256 (R485): Engine scatter of 256-byte elements. -/
  | sct256 (sw : Bool) (d : RegName) (a : RegName) (b : RegName)
  /-- ENQ (R437): Offers an eight-register task record to a queue, funded from the parent, and returns a status. -/
  | enq (sw : Bool) (d : RegName) (a : RegName) (b : RegName)
  /-- SPAWN_LOCAL (R438): Pushes a record onto the own cluster's deque. -/
  | spawnLocal (sw : Bool) (d : RegName) (b : RegName)
  /-- SPAWN_DIE (R438): Pushes a record onto the least-full allowed deque of the die. -/
  | spawnDie (sw : Bool) (d : RegName) (b : RegName)
  /-- END (R439): Ends the group or lane, with the release, join update and budget return at team end; in a routine, ... -/
  | endOp (sw : Bool)
  /-- CPT (R440): Declares a continuation point, or parks the group when yield is pending. -/
  | cpt (sw : Bool) (n : BitVec 7) (imm : BitVec 17)
  /-- YIELD (R441): Makes the team yield pending with cause 4 and parks. -/
  | yield (sw : Bool)
  /-- YIELD_IF (R441): Yields when ib < A. -/
  | yieldIf (sw : Bool) (a : RegName)
  /-- BTOP_IB (R442): Adds to another team's ib. -/
  | btopIb (sw : Bool) (d : RegName) (a : RegName) (b : RegName)
  /-- BTOP_TB (R442): Adds to another team's tb. -/
  | btopTb (sw : Bool) (d : RegName) (a : RegName) (b : RegName)
  /-- MSGAPP (R445): Appends f+1 registers to an inbox, locally or by a peer packet. -/
  | msgapp (sw : Bool) (d : RegName) (a : RegName) (b : RegName) (n : BitVec 3)
  /-- MSGRECV (R447): Takes an inbox entry into f+1 registers, waiting up to B cycles. -/
  | msgrecv (sw : Bool) (d : RegName) (a : RegName) (b : RegName) (n : BitVec 3)
  /-- FMT (R498): Writes x[a] into format slot f. -/
  | fmt (sw : Bool) (a : RegName) (n : BitVec 3)
  /-- LUT4 (R499): Replaces the cluster's L4 table from two registers. -/
  | lut4 (sw : Bool) (a : RegName) (b : RegName)
  /-- TZERO (R510): Zeroes the lane's slice of tile t. -/
  | tzero (sw : Bool) (t : BitVec 6)
  /-- TRD (R510): Reads two accumulator elements into x[a]. -/
  | trd (sw : Bool) (t : BitVec 6) (a : RegName) (b : RegName)
  /-- TWR (R510): Writes two accumulator elements from x[a]. -/
  | twr (sw : Bool) (t : BitVec 6) (a : RegName) (b : RegName)
  /-- TCVT (R511): Converts part of a slice row to a narrow format in x[a]. -/
  | tcvt (sw : Bool) (t : BitVec 6) (a : RegName) (b : RegName)
  /-- TMMA_NN (R504): Multiplies A by B into tile t in engine steps. -/
  | tmmaNn (sw : Bool) (t : BitVec 6) (a : RegName) (b : RegName)
  /-- TMMA_TN (R504): TMMA with A transposed. -/
  | tmmaTn (sw : Bool) (t : BitVec 6) (a : RegName) (b : RegName)
  /-- TMMA_NT (R504): TMMA with B transposed. -/
  | tmmaNt (sw : Bool) (t : BitVec 6) (a : RegName) (b : RegName)
  /-- TMMA_TT (R504): TMMA with both operands transposed. -/
  | tmmaTt (sw : Bool) (t : BitVec 6) (a : RegName) (b : RegName)
  /-- TMMA_SP (R508): TMMA with a compressed A and metadata from MSTREAM. -/
  | tmmaSp (sw : Bool) (t : BitVec 6) (a : RegName) (b : RegName)
  /-- TST_F32 (R512): Stores tile t as FP32 to scratchpad, memory or a peer. -/
  | tstF32 (sw : Bool) (t : BitVec 6) (a : RegName) (b : RegName)
  /-- TST_BF16 (R512): Stores tile t rounded to BF16. -/
  | tstBf16 (sw : Bool) (t : BitVec 6) (a : RegName) (b : RegName)
  /-- TST_F16 (R512): Stores tile t rounded to FP16. -/
  | tstF16 (sw : Bool) (t : BitVec 6) (a : RegName) (b : RegName)
  /-- TSTA_F32 (R516): Adds tile t into the destination indivisibly in FP32. -/
  | tstaF32 (sw : Bool) (t : BitVec 6) (a : RegName) (b : RegName)
  /-- TSTA_S32 (R516): Adds tile t into the destination indivisibly as saturating S32. -/
  | tstaS32 (sw : Bool) (t : BitVec 6) (a : RegName) (b : RegName)
  /-- TRAP (R448): Raises the software trap, code 0x1A, with DETAIL imm17. -/
  | trap (sw : Bool) (imm : BitVec 17)
  /-- RETT (R332): Returns from a handler, restoring x0–x7, privilege and pc. -/
  | rett (sw : Bool)
  /-- SRD (R450): Reads a special register into d. -/
  | srd (sw : Bool) (d : RegName) (r : BitVec 12)
  /-- SWR (R450): Writes d to the writable fields of a special register. -/
  | swr (sw : Bool) (d : RegName) (r : BitVec 12)
  /-- TLBI_ADDR (R451): Starts an address-scope shootdown and parks until it completes. -/
  | tlbiAddr (sw : Bool) (a : RegName) (b : RegName)
  /-- TLBI_DOM (R451): Starts a domain-scope shootdown. -/
  | tlbiDom (sw : Bool) (a : RegName)
  /-- TLBI_ALL (R451): Starts an all-scope shootdown for the team's partition. -/
  | tlbiAll (sw : Bool)
  /-- ILLEGAL_INSTRUCTION (R318): A word with a reserved opcode, reserved f value, non-zero reserved field, register 127 or another illegal ... -/
  | illegalInstruction (w : BitVec 32)
  /-- INSTRUCTION_FETCH_FAULT (R246): A fetch outside the geode bounds, of a poisoned word, or without a translation or X permission raises its ... -/
  | instructionFetchFault
  deriving DecidableEq, Repr

end Sys2Proof
end

