-- ==== Sys2Proof/Machine/Opcodes.lean ====
section
/-!
DEFINITION. What the opcode map fixes about each instruction word, as tables: the major opcode and the function
value (R349 to R353), the registers it reads and the register it writes, and the classes that follow from the major opcode:
the charge class (R147) and the latency class (R205). Events have no row here.
-/

namespace Sys2Proof.Machine

/-- Major opcode and function value (f, or the selector within the immediate) of an instruction word (R349 to R353);
none for an event. -/
def opcode : Instr → Option (Nat × Nat)
  | .powerUp => none
  | .inputRemoval => none
  | .railFault => none
  | .warmReset => none
  | .perstNDeassert => none
  | .bringupStepDone _ _ _ => none
  | .pcieTrainingDone _ _ => none
  | .pcieConfigRequest _ => none
  | .recoveryRun _ => none
  | .recoveryCheckDone _ => none
  | .thermalSample _ => none
  | .powerWindowEnd _ => none
  | .powerLowIntervalEnd => none
  | .thermalEaseExpiry => none
  | .thrctlWrite _ => none
  | .thrlimWrite _ => none
  | .registerWrite _ _ _ => none
  | .ylportEnable _ _ => none
  | .ylportRetrain _ => none
  | .ylportWidthRequest _ _ => none
  | .detectIdleExit _ => none
  | .partnerDetected _ _ _ => none
  | .equaliseDone _ _ _ _ => none
  | .alignDone _ => none
  | .negotiationDone _ _ _ _ => none
  | .trainingTimeout _ => none
  | .flitReceive _ _ => none
  | .replayTimeout _ => none
  | .laneLoss _ _ => none
  | .widthChangeApply _ => none
  | .egressSend _ _ => none
  | .remoteLoadArrival _ => none
  | .aggregatedStoreArrival _ => none
  | .aggregatedAtomicArrival _ => none
  | .tileStoreAddArrival _ _ => none
  | .tileReassemblyTimeout _ _ _ => none
  | .multicastLineArrival _ _ => none
  | .multicastChildTimeout _ _ _ => none
  | .combinedAckArrival _ _ => none
  | .inboxAppendArrival _ => none
  | .loadReplyArrival _ => none
  | .elementAckArrival _ => none
  | .inboxAckArrival _ => none
  | .ackTimeout _ => none
  | .rldTimeout _ => none
  | .comaAgeLimit _ => none
  | .comaDrain => none
  | .routingEntryWrite _ => none
  | .groupTableEntryWrite _ => none
  | .notifyWrite _ _ _ _ => none
  | .bar4Write _ _ _ => none
  | .bar4Read _ _ _ => none
  | .queueEnable _ _ => none
  | .queueDisable _ _ => none
  | .queueUnmap _ _ => none
  | .queueClearerr _ _ => none
  | .queueMap _ => none
  | .idleUnmap _ _ => none
  | .quantumEnd _ _ => none
  | .msixIntervalEnd _ _ => none
  | .partitionActivate _ => none
  | .partitionDeactivate _ => none
  | .keyLoad _ _ => none
  | .keyErase _ _ => none
  | .attestationReport _ _ => none
  | .checkpointStart => none
  | .checkpointDone _ => none
  | .recordArrival _ => none
  | .refillStart _ _ => none
  | .refillLand _ _ => none
  | .continuationRetry _ => none
  | .dispatchDecision _ => none
  | .teamStart _ => none
  | .recordPromotion _ _ => none
  | .clusterClaim _ _ => none
  | .dequePop _ => none
  | .dequeSteal _ => none
  | .gridNodeReport _ _ => none
  | .graceExpiry _ => none
  | .teamYield _ => none
  | .teamRevoke _ => none
  | .poolAdd _ => none
  | .domainSetQuota _ => none
  | .domainPushPage _ => none
  | .domainPushSaveBlock _ => none
  | .domainSubtractUsed _ => none
  | .vaultStow _ => none
  | .vaultSwap _ _ => none
  | .vaultRestore _ => none
  | .fuseTimeout _ => none
  | .fuseRendezvousComplete _ => none
  | .automaticSplit _ => none
  | .implicitRejoin _ => none
  | .rejoinTimeout _ => none
  | .roleQueueRetry _ => none
  | .resultWriteback _ _ => none
  | .pageWalkDone _ _ _ => none
  | .grantInvalidateOne _ => none
  | .grantInvalidateAll => none
  | .grantInvalidateDone => none
  | .shootdownDone _ => none
  | .patrolScrub _ _ => none
  | .reservationGrant _ => none
  | .reservationTimeout _ _ => none
  | .waitaWake _ _ => none
  | .waitaTimeout _ _ => none
  | .ldsLanded _ => none
  | .tileTransferDone _ => none
  | .engineRoutineStart _ => none
  | .tmmaEngineStep _ => none
  | .tileClaimRetry _ => none
  | .lateFaultDelivery _ => none
  | .killtWrite _ => none
  | .handleSeal _ _ => none
  | .handleRevoke _ _ => none
  | .msgrecvTimeout _ _ => none
  | .add _ _ _ _ => some (0x01, 0)
  | .sub _ _ _ _ => some (0x01, 1)
  | .minS _ _ _ _ => some (0x01, 2)
  | .maxS _ _ _ _ => some (0x01, 3)
  | .minN _ _ _ _ => some (0x01, 4)
  | .maxN _ _ _ _ => some (0x01, 5)
  | .addsS _ _ _ _ => some (0x01, 6)
  | .subsS _ _ _ _ => some (0x01, 7)
  | .mul _ _ _ _ => some (0x02, 0)
  | .mulhS _ _ _ _ => some (0x02, 1)
  | .mulhN _ _ _ _ => some (0x02, 2)
  | .mac _ _ _ _ => some (0x02, 3)
  | .divS _ _ _ _ => some (0x02, 4)
  | .divN _ _ _ _ => some (0x02, 5)
  | .remS _ _ _ _ => some (0x02, 6)
  | .remN _ _ _ _ => some (0x02, 7)
  | .and _ _ _ _ => some (0x03, 0)
  | .or _ _ _ _ => some (0x03, 1)
  | .xor _ _ _ _ => some (0x03, 2)
  | .andn _ _ _ _ => some (0x03, 3)
  | .orn _ _ _ _ => some (0x03, 4)
  | .xnor _ _ _ _ => some (0x03, 5)
  | .bsel _ _ _ _ => some (0x03, 6)
  | .shl _ _ _ _ => some (0x04, 0)
  | .shr _ _ _ _ => some (0x04, 1)
  | .sar _ _ _ _ => some (0x04, 2)
  | .rol _ _ _ _ => some (0x04, 3)
  | .ror _ _ _ _ => some (0x04, 4)
  | .clz _ _ _ => some (0x05, 0)
  | .ctz _ _ _ => some (0x05, 1)
  | .popc _ _ _ => some (0x05, 2)
  | .brev _ _ _ => some (0x05, 3)
  | .bswap _ _ _ => some (0x05, 4)
  | .sext _ _ _ _ => some (0x05, 5)
  | .zext _ _ _ _ => some (0x05, 6)
  | .cmpEq _ _ _ _ => some (0x06, 0)
  | .cmpNe _ _ _ _ => some (0x06, 1)
  | .cmpLtS _ _ _ _ => some (0x06, 2)
  | .cmpLeS _ _ _ _ => some (0x06, 3)
  | .cmpLtN _ _ _ _ => some (0x06, 4)
  | .cmpLeN _ _ _ _ => some (0x06, 5)
  | .cmpTst _ _ _ _ => some (0x06, 6)
  | .csel _ _ _ _ => some (0x07, 0)
  | .addw _ _ _ _ => some (0x08, 0)
  | .subw _ _ _ _ => some (0x08, 1)
  | .mulw _ _ _ _ => some (0x08, 2)
  | .shlw _ _ _ _ => some (0x08, 3)
  | .shrw _ _ _ _ => some (0x08, 4)
  | .sarw _ _ _ _ => some (0x08, 5)
  | .addi _ _ _ _ => some (0x09, 0)
  | .andi _ _ _ _ => some (0x0A, 0)
  | .ori _ _ _ _ => some (0x0B, 0)
  | .xori _ _ _ _ => some (0x0C, 0)
  | .shli _ _ _ _ => some (0x0D, 0)
  | .shri _ _ _ _ => some (0x0D, 1)
  | .sari _ _ _ _ => some (0x0D, 2)
  | .roli _ _ _ _ => some (0x0D, 3)
  | .rori _ _ _ _ => some (0x0D, 4)
  | .cmpiEq _ _ _ _ => some (0x0E, 0)
  | .cmpiNe _ _ _ _ => some (0x0E, 1)
  | .cmpiLtS _ _ _ _ => some (0x0E, 2)
  | .cmpiLeS _ _ _ _ => some (0x0E, 3)
  | .cmpiLtN _ _ _ _ => some (0x0E, 4)
  | .cmpiLeN _ _ _ _ => some (0x0E, 5)
  | .cmpiTst _ _ _ _ => some (0x0E, 6)
  | .li _ _ _ => some (0x0F, 0)
  | .lix _ _ _ => some (0x10, 0)
  | .addpc _ _ _ => some (0x11, 0)
  | .lea1 _ _ _ _ => some (0x12, 0)
  | .lea2 _ _ _ _ => some (0x12, 1)
  | .lea4 _ _ _ _ => some (0x12, 2)
  | .lea8 _ _ _ _ => some (0x12, 3)
  | .lea16 _ _ _ _ => some (0x12, 4)
  | .paddB _ _ _ _ => some (0x13, 0)
  | .paddH _ _ _ _ => some (0x13, 1)
  | .paddW _ _ _ _ => some (0x13, 2)
  | .psubB _ _ _ _ => some (0x13, 3)
  | .psubH _ _ _ _ => some (0x13, 4)
  | .psubW _ _ _ _ => some (0x13, 5)
  | .paddsB _ _ _ _ => some (0x13, 6)
  | .paddsH _ _ _ _ => some (0x13, 7)
  | .pmulH _ _ _ _ => some (0x14, 0)
  | .pmulW _ _ _ _ => some (0x14, 1)
  | .pdotBS _ _ _ _ => some (0x14, 2)
  | .pdotBN _ _ _ _ => some (0x14, 3)
  | .pdotHS _ _ _ _ => some (0x14, 4)
  | .pmaxHS _ _ _ _ => some (0x14, 5)
  | .pminHS _ _ _ _ => some (0x14, 6)
  | .packlo _ _ _ _ => some (0x15, 0)
  | .packhi _ _ _ _ => some (0x15, 1)
  | .shufb _ _ _ _ => some (0x15, 2)
  | .faddS _ _ _ _ => some (0x20, 0)
  | .fsubS _ _ _ _ => some (0x20, 1)
  | .fmulS _ _ _ _ => some (0x20, 2)
  | .fdivS _ _ _ _ => some (0x20, 3)
  | .fminS _ _ _ _ => some (0x20, 4)
  | .fmaxS _ _ _ _ => some (0x20, 5)
  | .fabsS _ _ _ => some (0x20, 6)
  | .fnegS _ _ _ => some (0x20, 7)
  | .fmaS _ _ _ _ => some (0x21, 0)
  | .fmsS _ _ _ _ => some (0x21, 1)
  | .fnmaS _ _ _ _ => some (0x21, 2)
  | .fmaD _ _ _ _ => some (0x21, 3)
  | .fmsD _ _ _ _ => some (0x21, 4)
  | .fnmaD _ _ _ _ => some (0x21, 5)
  | .faddD _ _ _ _ => some (0x22, 0)
  | .fsubD _ _ _ _ => some (0x22, 1)
  | .fmulD _ _ _ _ => some (0x22, 2)
  | .fdivD _ _ _ _ => some (0x22, 3)
  | .fminD _ _ _ _ => some (0x22, 4)
  | .fmaxD _ _ _ _ => some (0x22, 5)
  | .fabsD _ _ _ => some (0x22, 6)
  | .fnegD _ _ _ => some (0x22, 7)
  | .fadd2s _ _ _ _ => some (0x23, 0)
  | .fsub2s _ _ _ _ => some (0x23, 1)
  | .fmul2s _ _ _ _ => some (0x23, 2)
  | .fma2s _ _ _ _ => some (0x23, 3)
  | .fadd4h _ _ _ _ => some (0x23, 4)
  | .fmul4h _ _ _ _ => some (0x23, 5)
  | .fma4h _ _ _ _ => some (0x23, 6)
  | .fma4b _ _ _ _ => some (0x23, 7)
  | .feqS _ _ _ _ => some (0x24, 0)
  | .fltS _ _ _ _ => some (0x24, 1)
  | .fleS _ _ _ _ => some (0x24, 2)
  | .funS _ _ _ _ => some (0x24, 3)
  | .feqD _ _ _ _ => some (0x24, 4)
  | .fltD _ _ _ _ => some (0x24, 5)
  | .fleD _ _ _ _ => some (0x24, 6)
  | .fclass _ _ _ => some (0x24, 7)
  | .frcpS _ _ _ => some (0x25, 0)
  | .frsqS _ _ _ => some (0x25, 1)
  | .fsqrtS _ _ _ => some (0x25, 2)
  | .fexp2S _ _ _ => some (0x25, 3)
  | .flog2S _ _ _ => some (0x25, 4)
  | .fsinpiS _ _ _ => some (0x25, 5)
  | .fcospiS _ _ _ => some (0x25, 6)
  | .ftanhS _ _ _ => some (0x25, 7)
  | .fcvt _ _ _ _ rm => some (0x26, rm.toNat)
  | .fsgnjS _ _ _ _ => some (0x27, 0)
  | .fsgnjnS _ _ _ _ => some (0x27, 1)
  | .fsgnjxS _ _ _ _ => some (0x27, 2)
  | .frintS _ _ _ => some (0x27, 3)
  | .frintD _ _ _ => some (0x27, 4)
  | .fsqrtD _ _ _ => some (0x27, 5)
  | .fscaleS _ _ _ _ => some (0x27, 6)
  | .bnz _ _ _ => some (0x30, 0)
  | .bz _ _ _ => some (0x31, 0)
  | .jmp _ _ => some (0x32, 0)
  | .call _ _ => some (0x33, 0)
  | .jr _ _ => some (0x34, 0)
  | .jalr _ _ _ => some (0x34, 1)
  | .ifOp _ _ _ => some (0x35, 0)
  | .elseOp _ _ => some (0x36, 0)
  | .endif _ => some (0x37, 0)
  | .loop _ _ _ => some (0x38, 0)
  | .endloop _ => some (0x39, 0)
  | .brk _ => some (0x3A, 0)
  | .cont _ => some (0x3A, 1)
  | .idem _ => some (0x3A, 2)
  | .fuse _ _ _ _ => some (0x3B, 0)
  | .split _ _ => some (0x3C, 0)
  | .rejoin _ _ _ => some (0x3C, 1)
  | .wbase _ _ => some (0x3D, 0)
  | .shflIdx _ _ _ _ => some (0x3E, 0)
  | .shflXor _ _ _ _ => some (0x3E, 1)
  | .shflUp _ _ _ _ => some (0x3E, 2)
  | .shflDn _ _ _ _ => some (0x3E, 3)
  | .voteAny _ _ _ => some (0x3E, 4)
  | .voteAll _ _ _ => some (0x3E, 5)
  | .voteBal _ _ _ => some (0x3E, 6)
  | .bcast _ _ _ _ => some (0x3E, 7)
  | .gredAdd _ _ _ => some (0x3F, 0)
  | .gredMinS _ _ _ => some (0x3F, 1)
  | .gredMaxS _ _ _ => some (0x3F, 2)
  | .gredFaddS _ _ _ => some (0x3F, 3)
  | .gredAnd _ _ _ => some (0x3F, 4)
  | .gredOr _ _ _ => some (0x3F, 5)
  | .gredXor _ _ _ => some (0x3F, 6)
  | .gscanAdd _ _ _ => some (0x3F, 7)
  | .ldBS _ _ _ _ => some (0x40, 0)
  | .ldBN _ _ _ _ => some (0x41, 0)
  | .ldHS _ _ _ _ => some (0x42, 0)
  | .ldHN _ _ _ _ => some (0x43, 0)
  | .ldWS _ _ _ _ => some (0x44, 0)
  | .ldWN _ _ _ _ => some (0x45, 0)
  | .ldD _ _ _ _ => some (0x46, 0)
  | .stB _ _ _ _ => some (0x47, 0)
  | .stH _ _ _ _ => some (0x48, 0)
  | .stW _ _ _ _ => some (0x49, 0)
  | .stD _ _ _ _ => some (0x4A, 0)
  | .ldDX _ _ _ _ => some (0x4B, 0)
  | .ldWX _ _ _ _ => some (0x4B, 1)
  | .stDX _ _ _ _ => some (0x4B, 2)
  | .stWX _ _ _ _ => some (0x4B, 3)
  | .ldDAcq _ _ _ _ => some (0x4B, 4)
  | .stDRel _ _ _ _ => some (0x4B, 5)
  | .ldWAcq _ _ _ _ => some (0x4B, 6)
  | .stWRel _ _ _ _ => some (0x4B, 7)
  | .sldW _ _ _ _ => some (0x4C, 0)
  | .sldD _ _ _ _ => some (0x4D, 0)
  | .sstW _ _ _ _ => some (0x4E, 0)
  | .sstD _ _ _ _ => some (0x4F, 0)
  | .lds256 _ _ _ _ => some (0x50, 0)
  | .lds1k _ _ _ _ => some (0x50, 1)
  | .lds4k _ _ _ _ => some (0x50, 2)
  | .lds16k _ _ _ _ => some (0x50, 3)
  | .amoAddD _ _ _ _ => some (0x51, 0)
  | .amoAndD _ _ _ _ => some (0x51, 1)
  | .amoOrD _ _ _ _ => some (0x51, 2)
  | .amoXorD _ _ _ _ => some (0x51, 3)
  | .amoMinSD _ _ _ _ => some (0x51, 4)
  | .amoMaxSD _ _ _ _ => some (0x51, 5)
  | .amoFaddD _ _ _ _ => some (0x51, 6)
  | .amoSwapD _ _ _ _ => some (0x51, 7)
  | .amoAddW _ _ _ _ => some (0x52, 0)
  | .amoAndW _ _ _ _ => some (0x52, 1)
  | .amoOrW _ _ _ _ => some (0x52, 2)
  | .amoXorW _ _ _ _ => some (0x52, 3)
  | .amoMinSW _ _ _ _ => some (0x52, 4)
  | .amoMaxSW _ _ _ _ => some (0x52, 5)
  | .amoFaddS _ _ _ _ => some (0x52, 6)
  | .amoSwapW _ _ _ _ => some (0x52, 7)
  | .casD _ _ _ _ => some (0x53, 0)
  | .casW _ _ _ _ => some (0x53, 1)
  | .lrw _ _ _ => some (0x54, 0)
  | .sch _ _ _ _ => some (0x54, 1)
  | .relr _ _ => some (0x54, 2)
  | .waita _ _ _ _ c => some (0x55, c.toNat)
  | .fenceAcq _ _ => some (0x56, 0)
  | .fenceRel _ _ => some (0x56, 1)
  | .fenceAr _ _ => some (0x56, 2)
  | .fenceSc _ _ => some (0x56, 3)
  | .barinit _ _ _ => some (0x57, 0)
  | .bararv _ _ => some (0x57, 1)
  | .barwait _ _ => some (0x57, 2)
  | .bartry _ _ _ => some (0x57, 3)
  | .tbar _ _ => some (0x57, 4)
  | .pref _ _ => some (0x58, 0)
  | .cwb _ _ => some (0x58, 1)
  | .cinv _ _ => some (0x58, 2)
  | .cwbi _ _ => some (0x58, 3)
  | .isync _ => some (0x58, 4)
  | .rstW _ _ _ => some (0x60, 0)
  | .rstD _ _ _ => some (0x60, 1)
  | .ramoAddW _ _ _ => some (0x61, 0)
  | .ramoAddD _ _ _ => some (0x61, 1)
  | .ramoFaddS _ _ _ => some (0x61, 2)
  | .ramoMinS _ _ _ => some (0x61, 3)
  | .ramoMaxS _ _ _ => some (0x61, 4)
  | .ramoOrD _ _ _ => some (0x61, 5)
  | .ramoAndD _ _ _ => some (0x61, 6)
  | .ramoXorD _ _ _ => some (0x61, 7)
  | .rldW _ _ _ => some (0x62, 0)
  | .rldD _ _ _ => some (0x62, 1)
  | .rflushOne _ _ => some (0x63, 0)
  | .rflushAll _ => some (0x63, 1)
  | .mcst _ _ _ => some (0x64, 0)
  | .cpyGg _ _ _ _ => some (0x65, 0)
  | .cpyGs _ _ _ _ => some (0x65, 1)
  | .cpySg _ _ _ _ => some (0x65, 2)
  | .cpySs _ _ _ _ => some (0x65, 3)
  | .gth32 _ _ _ _ => some (0x66, 0)
  | .gth64 _ _ _ _ => some (0x66, 1)
  | .gth128 _ _ _ _ => some (0x66, 2)
  | .gth256 _ _ _ _ => some (0x66, 3)
  | .sct32 _ _ _ _ => some (0x67, 0)
  | .sct64 _ _ _ _ => some (0x67, 1)
  | .sct128 _ _ _ _ => some (0x67, 2)
  | .sct256 _ _ _ _ => some (0x67, 3)
  | .enq _ _ _ _ => some (0x68, 0)
  | .spawnLocal _ _ _ => some (0x69, 0)
  | .spawnDie _ _ _ => some (0x69, 1)
  | .endOp _ => some (0x6A, 0)
  | .cpt _ _ _ => some (0x6B, 0)
  | .yield _ => some (0x6C, 0)
  | .yieldIf _ _ => some (0x6C, 1)
  | .btopIb _ _ _ _ => some (0x6D, 0)
  | .btopTb _ _ _ _ => some (0x6D, 1)
  | .msgapp _ _ _ _ n => some (0x6E, n.toNat)
  | .msgrecv _ _ _ _ n => some (0x6F, n.toNat)
  | .fmt _ _ n => some (0x70, n.toNat)
  | .lut4 _ _ _ => some (0x71, 0)
  | .tzero _ _ => some (0x72, 0)
  | .trd _ _ _ _ => some (0x72, 1)
  | .twr _ _ _ _ => some (0x72, 2)
  | .tcvt _ _ _ _ => some (0x72, 3)
  | .tmmaNn _ _ _ _ => some (0x73, 0)
  | .tmmaTn _ _ _ _ => some (0x73, 1)
  | .tmmaNt _ _ _ _ => some (0x73, 2)
  | .tmmaTt _ _ _ _ => some (0x73, 3)
  | .tmmaSp _ _ _ _ => some (0x73, 4)
  | .tstF32 _ _ _ _ => some (0x74, 0)
  | .tstBf16 _ _ _ _ => some (0x74, 1)
  | .tstF16 _ _ _ _ => some (0x74, 2)
  | .tstaF32 _ _ _ _ => some (0x75, 0)
  | .tstaS32 _ _ _ _ => some (0x75, 1)
  | .trap _ _ => some (0x78, 0)
  | .rett _ => some (0x79, 0)
  | .srd _ _ _ => some (0x7A, 0)
  | .swr _ _ _ => some (0x7B, 0)
  | .tlbiAddr _ _ _ => some (0x7C, 0)
  | .tlbiDom _ _ => some (0x7C, 1)
  | .tlbiAll _ => some (0x7C, 2)
  | .commandCompletion _ _ => none
  | .illegalInstruction _ => none
  | .instructionFetchFault => none

/-- The register operands of an instruction word: `dst` the register its result goes to, and the sources in the
order in which role queues are popped, a, b, then d (R198). A run of registers (R347) is given by its first register's
field value and its length, apart from the sources. -/
structure Operands where
  dst  : Option RegName := none
  a    : Option RegName := none
  b    : Option RegName := none
  d    : Option RegName := none
  runs : List (RegName × Nat) := []
  deriving DecidableEq, Repr

/-- The operands of each instruction word (R349 to R353, R395); an event names no register. -/
def operands : Instr → Operands
  | .powerUp  => Operands.mk none none none none []
  | .inputRemoval  => Operands.mk none none none none []
  | .railFault  => Operands.mk none none none none []
  | .warmReset  => Operands.mk none none none none []
  | .perstNDeassert  => Operands.mk none none none none []
  | .bringupStepDone _ _ _ => Operands.mk none none none none []
  | .pcieTrainingDone _ _ => Operands.mk none none none none []
  | .pcieConfigRequest _ => Operands.mk none none none none []
  | .recoveryRun _ => Operands.mk none none none none []
  | .recoveryCheckDone _ => Operands.mk none none none none []
  | .thermalSample _ => Operands.mk none none none none []
  | .powerWindowEnd _ => Operands.mk none none none none []
  | .powerLowIntervalEnd  => Operands.mk none none none none []
  | .thermalEaseExpiry  => Operands.mk none none none none []
  | .thrctlWrite _ => Operands.mk none none none none []
  | .thrlimWrite _ => Operands.mk none none none none []
  | .registerWrite _ _ _ => Operands.mk none none none none []
  | .ylportEnable _ _ => Operands.mk none none none none []
  | .ylportRetrain _ => Operands.mk none none none none []
  | .ylportWidthRequest _ _ => Operands.mk none none none none []
  | .detectIdleExit _ => Operands.mk none none none none []
  | .partnerDetected _ _ _ => Operands.mk none none none none []
  | .equaliseDone _ _ _ _ => Operands.mk none none none none []
  | .alignDone _ => Operands.mk none none none none []
  | .negotiationDone _ _ _ _ => Operands.mk none none none none []
  | .trainingTimeout _ => Operands.mk none none none none []
  | .flitReceive _ _ => Operands.mk none none none none []
  | .replayTimeout _ => Operands.mk none none none none []
  | .laneLoss _ _ => Operands.mk none none none none []
  | .widthChangeApply _ => Operands.mk none none none none []
  | .egressSend _ _ => Operands.mk none none none none []
  | .remoteLoadArrival _ => Operands.mk none none none none []
  | .aggregatedStoreArrival _ => Operands.mk none none none none []
  | .aggregatedAtomicArrival _ => Operands.mk none none none none []
  | .tileStoreAddArrival _ _ => Operands.mk none none none none []
  | .tileReassemblyTimeout _ _ _ => Operands.mk none none none none []
  | .multicastLineArrival _ _ => Operands.mk none none none none []
  | .multicastChildTimeout _ _ _ => Operands.mk none none none none []
  | .combinedAckArrival _ _ => Operands.mk none none none none []
  | .inboxAppendArrival _ => Operands.mk none none none none []
  | .loadReplyArrival _ => Operands.mk none none none none []
  | .elementAckArrival _ => Operands.mk none none none none []
  | .inboxAckArrival _ => Operands.mk none none none none []
  | .ackTimeout _ => Operands.mk none none none none []
  | .rldTimeout _ => Operands.mk none none none none []
  | .comaAgeLimit _ => Operands.mk none none none none []
  | .comaDrain  => Operands.mk none none none none []
  | .routingEntryWrite _ => Operands.mk none none none none []
  | .groupTableEntryWrite _ => Operands.mk none none none none []
  | .notifyWrite _ _ _ _ => Operands.mk none none none none []
  | .bar4Write _ _ _ => Operands.mk none none none none []
  | .bar4Read _ _ _ => Operands.mk none none none none []
  | .queueEnable _ _ => Operands.mk none none none none []
  | .queueDisable _ _ => Operands.mk none none none none []
  | .queueUnmap _ _ => Operands.mk none none none none []
  | .queueClearerr _ _ => Operands.mk none none none none []
  | .queueMap _ => Operands.mk none none none none []
  | .idleUnmap _ _ => Operands.mk none none none none []
  | .quantumEnd _ _ => Operands.mk none none none none []
  | .msixIntervalEnd _ _ => Operands.mk none none none none []
  | .partitionActivate _ => Operands.mk none none none none []
  | .partitionDeactivate _ => Operands.mk none none none none []
  | .keyLoad _ _ => Operands.mk none none none none []
  | .keyErase _ _ => Operands.mk none none none none []
  | .attestationReport _ _ => Operands.mk none none none none []
  | .checkpointStart  => Operands.mk none none none none []
  | .checkpointDone _ => Operands.mk none none none none []
  | .recordArrival _ => Operands.mk none none none none []
  | .refillStart _ _ => Operands.mk none none none none []
  | .refillLand _ _ => Operands.mk none none none none []
  | .continuationRetry _ => Operands.mk none none none none []
  | .dispatchDecision _ => Operands.mk none none none none []
  | .teamStart _ => Operands.mk none none none none []
  | .recordPromotion _ _ => Operands.mk none none none none []
  | .clusterClaim _ _ => Operands.mk none none none none []
  | .dequePop _ => Operands.mk none none none none []
  | .dequeSteal _ => Operands.mk none none none none []
  | .gridNodeReport _ _ => Operands.mk none none none none []
  | .graceExpiry _ => Operands.mk none none none none []
  | .teamYield _ => Operands.mk none none none none []
  | .teamRevoke _ => Operands.mk none none none none []
  | .poolAdd _ => Operands.mk none none none none []
  | .domainSetQuota _ => Operands.mk none none none none []
  | .domainPushPage _ => Operands.mk none none none none []
  | .domainPushSaveBlock _ => Operands.mk none none none none []
  | .domainSubtractUsed _ => Operands.mk none none none none []
  | .vaultStow _ => Operands.mk none none none none []
  | .vaultSwap _ _ => Operands.mk none none none none []
  | .vaultRestore _ => Operands.mk none none none none []
  | .fuseTimeout _ => Operands.mk none none none none []
  | .fuseRendezvousComplete _ => Operands.mk none none none none []
  | .automaticSplit _ => Operands.mk none none none none []
  | .implicitRejoin _ => Operands.mk none none none none []
  | .rejoinTimeout _ => Operands.mk none none none none []
  | .roleQueueRetry _ => Operands.mk none none none none []
  | .resultWriteback _ _ => Operands.mk none none none none []
  | .pageWalkDone _ _ _ => Operands.mk none none none none []
  | .grantInvalidateOne _ => Operands.mk none none none none []
  | .grantInvalidateAll  => Operands.mk none none none none []
  | .grantInvalidateDone  => Operands.mk none none none none []
  | .shootdownDone _ => Operands.mk none none none none []
  | .patrolScrub _ _ => Operands.mk none none none none []
  | .reservationGrant _ => Operands.mk none none none none []
  | .reservationTimeout _ _ => Operands.mk none none none none []
  | .waitaWake _ _ => Operands.mk none none none none []
  | .waitaTimeout _ _ => Operands.mk none none none none []
  | .ldsLanded _ => Operands.mk none none none none []
  | .tileTransferDone _ => Operands.mk none none none none []
  | .engineRoutineStart _ => Operands.mk none none none none []
  | .tmmaEngineStep _ => Operands.mk none none none none []
  | .tileClaimRetry _ => Operands.mk none none none none []
  | .lateFaultDelivery _ => Operands.mk none none none none []
  | .killtWrite _ => Operands.mk none none none none []
  | .handleSeal _ _ => Operands.mk none none none none []
  | .handleRevoke _ _ => Operands.mk none none none none []
  | .msgrecvTimeout _ _ => Operands.mk none none none none []
  | .add _ d a b => Operands.mk (some d) (some a) (some b) none []
  | .sub _ d a b => Operands.mk (some d) (some a) (some b) none []
  | .minS _ d a b => Operands.mk (some d) (some a) (some b) none []
  | .maxS _ d a b => Operands.mk (some d) (some a) (some b) none []
  | .minN _ d a b => Operands.mk (some d) (some a) (some b) none []
  | .maxN _ d a b => Operands.mk (some d) (some a) (some b) none []
  | .addsS _ d a b => Operands.mk (some d) (some a) (some b) none []
  | .subsS _ d a b => Operands.mk (some d) (some a) (some b) none []
  | .mul _ d a b => Operands.mk (some d) (some a) (some b) none []
  | .mulhS _ d a b => Operands.mk (some d) (some a) (some b) none []
  | .mulhN _ d a b => Operands.mk (some d) (some a) (some b) none []
  | .mac _ d a b => Operands.mk (some d) (some a) (some b) (some d) []
  | .divS _ d a b => Operands.mk (some d) (some a) (some b) none []
  | .divN _ d a b => Operands.mk (some d) (some a) (some b) none []
  | .remS _ d a b => Operands.mk (some d) (some a) (some b) none []
  | .remN _ d a b => Operands.mk (some d) (some a) (some b) none []
  | .and _ d a b => Operands.mk (some d) (some a) (some b) none []
  | .or _ d a b => Operands.mk (some d) (some a) (some b) none []
  | .xor _ d a b => Operands.mk (some d) (some a) (some b) none []
  | .andn _ d a b => Operands.mk (some d) (some a) (some b) none []
  | .orn _ d a b => Operands.mk (some d) (some a) (some b) none []
  | .xnor _ d a b => Operands.mk (some d) (some a) (some b) none []
  | .bsel _ d a b => Operands.mk (some d) (some a) (some b) none []
  | .shl _ d a b => Operands.mk (some d) (some a) (some b) none []
  | .shr _ d a b => Operands.mk (some d) (some a) (some b) none []
  | .sar _ d a b => Operands.mk (some d) (some a) (some b) none []
  | .rol _ d a b => Operands.mk (some d) (some a) (some b) none []
  | .ror _ d a b => Operands.mk (some d) (some a) (some b) none []
  | .clz _ d a => Operands.mk (some d) (some a) none none []
  | .ctz _ d a => Operands.mk (some d) (some a) none none []
  | .popc _ d a => Operands.mk (some d) (some a) none none []
  | .brev _ d a => Operands.mk (some d) (some a) none none []
  | .bswap _ d a => Operands.mk (some d) (some a) none none []
  | .sext _ d a b => Operands.mk (some d) (some a) (some b) none []
  | .zext _ d a b => Operands.mk (some d) (some a) (some b) none []
  | .cmpEq _ d a b => Operands.mk (some d) (some a) (some b) none []
  | .cmpNe _ d a b => Operands.mk (some d) (some a) (some b) none []
  | .cmpLtS _ d a b => Operands.mk (some d) (some a) (some b) none []
  | .cmpLeS _ d a b => Operands.mk (some d) (some a) (some b) none []
  | .cmpLtN _ d a b => Operands.mk (some d) (some a) (some b) none []
  | .cmpLeN _ d a b => Operands.mk (some d) (some a) (some b) none []
  | .cmpTst _ d a b => Operands.mk (some d) (some a) (some b) none []
  | .csel _ d a b => Operands.mk (some d) (some a) (some b) (some d) []
  | .addw _ d a b => Operands.mk (some d) (some a) (some b) none []
  | .subw _ d a b => Operands.mk (some d) (some a) (some b) none []
  | .mulw _ d a b => Operands.mk (some d) (some a) (some b) none []
  | .shlw _ d a b => Operands.mk (some d) (some a) (some b) none []
  | .shrw _ d a b => Operands.mk (some d) (some a) (some b) none []
  | .sarw _ d a b => Operands.mk (some d) (some a) (some b) none []
  | .addi _ d a _ => Operands.mk (some d) (some a) none none []
  | .andi _ d a _ => Operands.mk (some d) (some a) none none []
  | .ori _ d a _ => Operands.mk (some d) (some a) none none []
  | .xori _ d a _ => Operands.mk (some d) (some a) none none []
  | .shli _ d a _ => Operands.mk (some d) (some a) none none []
  | .shri _ d a _ => Operands.mk (some d) (some a) none none []
  | .sari _ d a _ => Operands.mk (some d) (some a) none none []
  | .roli _ d a _ => Operands.mk (some d) (some a) none none []
  | .rori _ d a _ => Operands.mk (some d) (some a) none none []
  | .cmpiEq _ d a _ => Operands.mk (some d) (some a) none none []
  | .cmpiNe _ d a _ => Operands.mk (some d) (some a) none none []
  | .cmpiLtS _ d a _ => Operands.mk (some d) (some a) none none []
  | .cmpiLeS _ d a _ => Operands.mk (some d) (some a) none none []
  | .cmpiLtN _ d a _ => Operands.mk (some d) (some a) none none []
  | .cmpiLeN _ d a _ => Operands.mk (some d) (some a) none none []
  | .cmpiTst _ d a _ => Operands.mk (some d) (some a) none none []
  | .li _ d _ => Operands.mk (some d) none none none []
  | .lix _ d _ => Operands.mk (some d) none none (some d) []
  | .addpc _ d _ => Operands.mk (some d) none none none []
  | .lea1 _ d a b => Operands.mk (some d) (some a) (some b) none []
  | .lea2 _ d a b => Operands.mk (some d) (some a) (some b) none []
  | .lea4 _ d a b => Operands.mk (some d) (some a) (some b) none []
  | .lea8 _ d a b => Operands.mk (some d) (some a) (some b) none []
  | .lea16 _ d a b => Operands.mk (some d) (some a) (some b) none []
  | .paddB _ d a b => Operands.mk (some d) (some a) (some b) none []
  | .paddH _ d a b => Operands.mk (some d) (some a) (some b) none []
  | .paddW _ d a b => Operands.mk (some d) (some a) (some b) none []
  | .psubB _ d a b => Operands.mk (some d) (some a) (some b) none []
  | .psubH _ d a b => Operands.mk (some d) (some a) (some b) none []
  | .psubW _ d a b => Operands.mk (some d) (some a) (some b) none []
  | .paddsB _ d a b => Operands.mk (some d) (some a) (some b) none []
  | .paddsH _ d a b => Operands.mk (some d) (some a) (some b) none []
  | .pmulH _ d a b => Operands.mk (some d) (some a) (some b) none []
  | .pmulW _ d a b => Operands.mk (some d) (some a) (some b) none []
  | .pdotBS _ d a b => Operands.mk (some d) (some a) (some b) (some d) []
  | .pdotBN _ d a b => Operands.mk (some d) (some a) (some b) (some d) []
  | .pdotHS _ d a b => Operands.mk (some d) (some a) (some b) (some d) []
  | .pmaxHS _ d a b => Operands.mk (some d) (some a) (some b) none []
  | .pminHS _ d a b => Operands.mk (some d) (some a) (some b) none []
  | .packlo _ d a b => Operands.mk (some d) (some a) (some b) none []
  | .packhi _ d a b => Operands.mk (some d) (some a) (some b) none []
  | .shufb _ d a b => Operands.mk (some d) (some a) (some b) none []
  | .faddS _ d a b => Operands.mk (some d) (some a) (some b) none []
  | .fsubS _ d a b => Operands.mk (some d) (some a) (some b) none []
  | .fmulS _ d a b => Operands.mk (some d) (some a) (some b) none []
  | .fdivS _ d a b => Operands.mk (some d) (some a) (some b) none []
  | .fminS _ d a b => Operands.mk (some d) (some a) (some b) none []
  | .fmaxS _ d a b => Operands.mk (some d) (some a) (some b) none []
  | .fabsS _ d a => Operands.mk (some d) (some a) none none []
  | .fnegS _ d a => Operands.mk (some d) (some a) none none []
  | .fmaS _ d a b => Operands.mk (some d) (some a) (some b) (some d) []
  | .fmsS _ d a b => Operands.mk (some d) (some a) (some b) (some d) []
  | .fnmaS _ d a b => Operands.mk (some d) (some a) (some b) (some d) []
  | .fmaD _ d a b => Operands.mk (some d) (some a) (some b) (some d) []
  | .fmsD _ d a b => Operands.mk (some d) (some a) (some b) (some d) []
  | .fnmaD _ d a b => Operands.mk (some d) (some a) (some b) (some d) []
  | .faddD _ d a b => Operands.mk (some d) (some a) (some b) none []
  | .fsubD _ d a b => Operands.mk (some d) (some a) (some b) none []
  | .fmulD _ d a b => Operands.mk (some d) (some a) (some b) none []
  | .fdivD _ d a b => Operands.mk (some d) (some a) (some b) none []
  | .fminD _ d a b => Operands.mk (some d) (some a) (some b) none []
  | .fmaxD _ d a b => Operands.mk (some d) (some a) (some b) none []
  | .fabsD _ d a => Operands.mk (some d) (some a) none none []
  | .fnegD _ d a => Operands.mk (some d) (some a) none none []
  | .fadd2s _ d a b => Operands.mk (some d) (some a) (some b) none []
  | .fsub2s _ d a b => Operands.mk (some d) (some a) (some b) none []
  | .fmul2s _ d a b => Operands.mk (some d) (some a) (some b) none []
  | .fma2s _ d a b => Operands.mk (some d) (some a) (some b) (some d) []
  | .fadd4h _ d a b => Operands.mk (some d) (some a) (some b) none []
  | .fmul4h _ d a b => Operands.mk (some d) (some a) (some b) none []
  | .fma4h _ d a b => Operands.mk (some d) (some a) (some b) (some d) []
  | .fma4b _ d a b => Operands.mk (some d) (some a) (some b) (some d) []
  | .feqS _ d a b => Operands.mk (some d) (some a) (some b) none []
  | .fltS _ d a b => Operands.mk (some d) (some a) (some b) none []
  | .fleS _ d a b => Operands.mk (some d) (some a) (some b) none []
  | .funS _ d a b => Operands.mk (some d) (some a) (some b) none []
  | .feqD _ d a b => Operands.mk (some d) (some a) (some b) none []
  | .fltD _ d a b => Operands.mk (some d) (some a) (some b) none []
  | .fleD _ d a b => Operands.mk (some d) (some a) (some b) none []
  | .fclass _ d a => Operands.mk (some d) (some a) none none []
  | .frcpS _ d a => Operands.mk (some d) (some a) none none []
  | .frsqS _ d a => Operands.mk (some d) (some a) none none []
  | .fsqrtS _ d a => Operands.mk (some d) (some a) none none []
  | .fexp2S _ d a => Operands.mk (some d) (some a) none none []
  | .flog2S _ d a => Operands.mk (some d) (some a) none none []
  | .fsinpiS _ d a => Operands.mk (some d) (some a) none none []
  | .fcospiS _ d a => Operands.mk (some d) (some a) none none []
  | .ftanhS _ d a => Operands.mk (some d) (some a) none none []
  | .fcvt _ d a _ _ => Operands.mk (some d) (some a) none none []
  | .fsgnjS _ d a b => Operands.mk (some d) (some a) (some b) none []
  | .fsgnjnS _ d a b => Operands.mk (some d) (some a) (some b) none []
  | .fsgnjxS _ d a b => Operands.mk (some d) (some a) (some b) none []
  | .frintS _ d a => Operands.mk (some d) (some a) none none []
  | .frintD _ d a => Operands.mk (some d) (some a) none none []
  | .fsqrtD _ d a => Operands.mk (some d) (some a) none none []
  | .fscaleS _ d a b => Operands.mk (some d) (some a) (some b) none []
  | .bnz _ a _ => Operands.mk none (some a) none none []
  | .bz _ a _ => Operands.mk none (some a) none none []
  | .jmp _ _ => Operands.mk none none none none []
  | .call _ _ => Operands.mk (some (RegName.x 1)) none none none []
  | .jr _ a => Operands.mk none (some a) none none []
  | .jalr _ d a => Operands.mk (some d) (some a) none none []
  | .ifOp _ a _ => Operands.mk none (some a) none none []
  | .elseOp _ _ => Operands.mk none none none none []
  | .endif _ => Operands.mk none none none none []
  | .loop _ a _ => Operands.mk none (some a) none none []
  | .endloop _ => Operands.mk none none none none []
  | .brk _ => Operands.mk none none none none []
  | .cont _ => Operands.mk none none none none []
  | .idem _ => Operands.mk none none none none []
  | .fuse _ d a _ => Operands.mk (some d) (some a) none none []
  | .split _ d => Operands.mk (some d) none none none []
  | .rejoin _ d a => Operands.mk (some d) (some a) none none []
  | .wbase _ _ => Operands.mk none none none none []
  | .shflIdx _ d a b => Operands.mk (some d) (some a) (some b) none []
  | .shflXor _ d a b => Operands.mk (some d) (some a) (some b) none []
  | .shflUp _ d a b => Operands.mk (some d) (some a) (some b) none []
  | .shflDn _ d a b => Operands.mk (some d) (some a) (some b) none []
  | .voteAny _ d a => Operands.mk (some d) (some a) none none []
  | .voteAll _ d a => Operands.mk (some d) (some a) none none []
  | .voteBal _ d a => Operands.mk (some d) (some a) none none []
  | .bcast _ d a b => Operands.mk (some d) (some a) (some b) none []
  | .gredAdd _ d a => Operands.mk (some d) (some a) none none []
  | .gredMinS _ d a => Operands.mk (some d) (some a) none none []
  | .gredMaxS _ d a => Operands.mk (some d) (some a) none none []
  | .gredFaddS _ d a => Operands.mk (some d) (some a) none none []
  | .gredAnd _ d a => Operands.mk (some d) (some a) none none []
  | .gredOr _ d a => Operands.mk (some d) (some a) none none []
  | .gredXor _ d a => Operands.mk (some d) (some a) none none []
  | .gscanAdd _ d a => Operands.mk (some d) (some a) none none []
  | .ldBS _ d base _ => Operands.mk (some d) (some base) none none []
  | .ldBN _ d base _ => Operands.mk (some d) (some base) none none []
  | .ldHS _ d base _ => Operands.mk (some d) (some base) none none []
  | .ldHN _ d base _ => Operands.mk (some d) (some base) none none []
  | .ldWS _ d base _ => Operands.mk (some d) (some base) none none []
  | .ldWN _ d base _ => Operands.mk (some d) (some base) none none []
  | .ldD _ d base _ => Operands.mk (some d) (some base) none none []
  | .stB _ d base _ => Operands.mk none (some base) none (some d) []
  | .stH _ d base _ => Operands.mk none (some base) none (some d) []
  | .stW _ d base _ => Operands.mk none (some base) none (some d) []
  | .stD _ d base _ => Operands.mk none (some base) none (some d) []
  | .ldDX _ d a b => Operands.mk (some d) (some a) (some b) none []
  | .ldWX _ d a b => Operands.mk (some d) (some a) (some b) none []
  | .stDX _ d a b => Operands.mk none (some a) (some b) (some d) []
  | .stWX _ d a b => Operands.mk none (some a) (some b) (some d) []
  | .ldDAcq _ d a _ => Operands.mk (some d) (some a) none none []
  | .stDRel _ d a _ => Operands.mk none (some a) none (some d) []
  | .ldWAcq _ d a _ => Operands.mk (some d) (some a) none none []
  | .stWRel _ d a _ => Operands.mk none (some a) none (some d) []
  | .sldW _ d base _ => Operands.mk (some d) (some base) none none []
  | .sldD _ d base _ => Operands.mk (some d) (some base) none none []
  | .sstW _ d base _ => Operands.mk none (some base) none (some d) []
  | .sstD _ d base _ => Operands.mk none (some base) none (some d) []
  | .lds256 _ d a _ => Operands.mk none (some a) none (some d) []
  | .lds1k _ d a _ => Operands.mk none (some a) none (some d) []
  | .lds4k _ d a _ => Operands.mk none (some a) none (some d) []
  | .lds16k _ d a _ => Operands.mk none (some a) none (some d) []
  | .amoAddD _ d a b => Operands.mk (some d) (some a) (some b) none []
  | .amoAndD _ d a b => Operands.mk (some d) (some a) (some b) none []
  | .amoOrD _ d a b => Operands.mk (some d) (some a) (some b) none []
  | .amoXorD _ d a b => Operands.mk (some d) (some a) (some b) none []
  | .amoMinSD _ d a b => Operands.mk (some d) (some a) (some b) none []
  | .amoMaxSD _ d a b => Operands.mk (some d) (some a) (some b) none []
  | .amoFaddD _ d a b => Operands.mk (some d) (some a) (some b) none []
  | .amoSwapD _ d a b => Operands.mk (some d) (some a) (some b) none []
  | .amoAddW _ d a b => Operands.mk (some d) (some a) (some b) none []
  | .amoAndW _ d a b => Operands.mk (some d) (some a) (some b) none []
  | .amoOrW _ d a b => Operands.mk (some d) (some a) (some b) none []
  | .amoXorW _ d a b => Operands.mk (some d) (some a) (some b) none []
  | .amoMinSW _ d a b => Operands.mk (some d) (some a) (some b) none []
  | .amoMaxSW _ d a b => Operands.mk (some d) (some a) (some b) none []
  | .amoFaddS _ d a b => Operands.mk (some d) (some a) (some b) none []
  | .amoSwapW _ d a b => Operands.mk (some d) (some a) (some b) none []
  | .casD _ d a b => Operands.mk (some d) (some a) (some b) (some d) []
  | .casW _ d a b => Operands.mk (some d) (some a) (some b) (some d) []
  | .lrw _ d a => Operands.mk (some d) (some a) none none []
  | .sch _ d a b => Operands.mk (some d) (some a) (some b) none []
  | .relr _ a => Operands.mk none (some a) none none []
  | .waita _ d a b _ => Operands.mk (some d) (some a) (some b) none []
  | .fenceAcq _ _ => Operands.mk none none none none []
  | .fenceRel _ _ => Operands.mk none none none none []
  | .fenceAr _ _ => Operands.mk none none none none []
  | .fenceSc _ _ => Operands.mk none none none none []
  | .barinit _ _ b => Operands.mk none none (some b) none []
  | .bararv _ _ => Operands.mk none none none none []
  | .barwait _ _ => Operands.mk none none none none []
  | .bartry _ d _ => Operands.mk (some d) none none none []
  | .tbar _ _ => Operands.mk none none none none []
  | .pref _ a => Operands.mk none (some a) none none []
  | .cwb _ a => Operands.mk none (some a) none none []
  | .cinv _ a => Operands.mk none (some a) none none []
  | .cwbi _ a => Operands.mk none (some a) none none []
  | .isync _ => Operands.mk none none none none []
  | .rstW _ a b => Operands.mk none (some a) (some b) none []
  | .rstD _ a b => Operands.mk none (some a) (some b) none []
  | .ramoAddW _ a b => Operands.mk none (some a) (some b) none []
  | .ramoAddD _ a b => Operands.mk none (some a) (some b) none []
  | .ramoFaddS _ a b => Operands.mk none (some a) (some b) none []
  | .ramoMinS _ a b => Operands.mk none (some a) (some b) none []
  | .ramoMaxS _ a b => Operands.mk none (some a) (some b) none []
  | .ramoOrD _ a b => Operands.mk none (some a) (some b) none []
  | .ramoAndD _ a b => Operands.mk none (some a) (some b) none []
  | .ramoXorD _ a b => Operands.mk none (some a) (some b) none []
  | .rldW _ d a => Operands.mk (some d) (some a) none none []
  | .rldD _ d a => Operands.mk (some d) (some a) none none []
  | .rflushOne _ a => Operands.mk none (some a) none none []
  | .rflushAll _ => Operands.mk none none none none []
  | .mcst _ a b => Operands.mk none (some a) (some b) none []
  | .cpyGg _ d a b => Operands.mk none (some a) (some b) (some d) []
  | .cpyGs _ d a b => Operands.mk none (some a) (some b) (some d) []
  | .cpySg _ d a b => Operands.mk none (some a) (some b) (some d) []
  | .cpySs _ d a b => Operands.mk none (some a) (some b) (some d) []
  | .gth32 _ d a b => Operands.mk none none (some b) (some d) [(a, 2)]
  | .gth64 _ d a b => Operands.mk none none (some b) (some d) [(a, 2)]
  | .gth128 _ d a b => Operands.mk none none (some b) (some d) [(a, 2)]
  | .gth256 _ d a b => Operands.mk none none (some b) (some d) [(a, 2)]
  | .sct32 _ d a b => Operands.mk none none (some b) (some d) [(a, 2)]
  | .sct64 _ d a b => Operands.mk none none (some b) (some d) [(a, 2)]
  | .sct128 _ d a b => Operands.mk none none (some b) (some d) [(a, 2)]
  | .sct256 _ d a b => Operands.mk none none (some b) (some d) [(a, 2)]
  | .enq _ d a b => Operands.mk (some d) (some a) none none [(b, 8)]
  | .spawnLocal _ d b => Operands.mk (some d) none none none [(b, 8)]
  | .spawnDie _ d b => Operands.mk (some d) none none none [(b, 8)]
  | .endOp _ => Operands.mk none none none none []
  | .cpt _ _ _ => Operands.mk none none none none []
  | .yield _ => Operands.mk none none none none []
  | .yieldIf _ a => Operands.mk none (some a) none none []
  | .btopIb _ d a b => Operands.mk (some d) (some a) (some b) none []
  | .btopTb _ d a b => Operands.mk (some d) (some a) (some b) none []
  | .msgapp _ d a b n => Operands.mk (some d) (some a) none none [(b, (n.toNat + 1))]
  | .msgrecv _ d a b _ => Operands.mk (some d) (some a) (some b) none []
  | .fmt _ a _ => Operands.mk none (some a) none none []
  | .lut4 _ a b => Operands.mk none (some a) (some b) none []
  | .tzero _ _ => Operands.mk none none none none []
  | .trd _ _ a b => Operands.mk (some a) none (some b) none []
  | .twr _ _ a b => Operands.mk none (some a) (some b) none []
  | .tcvt _ _ a b => Operands.mk (some a) none (some b) none []
  | .tmmaNn _ _ a b => Operands.mk none none none none [(a, 2), (b, 2)]
  | .tmmaTn _ _ a b => Operands.mk none none none none [(a, 2), (b, 2)]
  | .tmmaNt _ _ a b => Operands.mk none none none none [(a, 2), (b, 2)]
  | .tmmaTt _ _ a b => Operands.mk none none none none [(a, 2), (b, 2)]
  | .tmmaSp _ _ a b => Operands.mk none none none none [(a, 2), (b, 2)]
  | .tstF32 _ _ a b => Operands.mk none (some a) (some b) none []
  | .tstBf16 _ _ a b => Operands.mk none (some a) (some b) none []
  | .tstF16 _ _ a b => Operands.mk none (some a) (some b) none []
  | .tstaF32 _ _ a b => Operands.mk none (some a) (some b) none []
  | .tstaS32 _ _ a b => Operands.mk none (some a) (some b) none []
  | .trap _ _ => Operands.mk none none none none []
  | .rett _ => Operands.mk none none none none []
  | .srd _ d _ => Operands.mk (some d) none none none []
  | .swr _ d _ => Operands.mk none none none (some d) []
  | .tlbiAddr _ a b => Operands.mk none (some a) (some b) none []
  | .tlbiDom _ a => Operands.mk none (some a) none none []
  | .tlbiAll _ => Operands.mk none none none none []
  | .commandCompletion _ _ => Operands.mk none none none none []
  | .illegalInstruction _ => Operands.mk none none none none []
  | .instructionFetchFault  => Operands.mk none none none none []

/-- The value a register name has in a 7-bit register field (R346). -/
def fieldOf : RegName → Nat
  | .x n => n.val
  | .k n => 96 + n.val
  | .q n => 112 + n.val
  | .zr => 120 | .ln => 121 | .gi => 122 | .ti => 123 | .ib => 124 | .tb => 125 | .cy => 126

/-- The register a field value names; 127 names none (R346). -/
def regOfField (v : Nat) : Option RegName :=
  if h : v < 96 then some (.x ⟨v, h⟩)
  else if h : v - 96 < 16 then some (.k ⟨v - 96, h⟩)
  else if h : v - 112 < 8 then some (.q ⟨v - 112, h⟩)
  else if v = 120 then some .zr else if v = 121 then some .ln else if v = 122 then some .gi
  else if v = 123 then some .ti else if v = 124 then some .ib else if v = 125 then some .tb
  else if v = 126 then some .cy else none

/-- The registers of a run by their field values: `len` consecutive values from `first` (R347). -/
def runFields (first len : Nat) : List Nat := (List.range len).map (first + ·)

/-- A run lies wholly in x0 to x95, or wholly in k0 to k15 (R347). -/
def runOk (first len : Nat) : Bool := first + len ≤ 96 || (96 ≤ first && first + len ≤ 112)

/-- The run of registers MSGRECV writes, by field value and length: f + 1 registers from d + 1 (R347, R447). -/
def destRun : Instr → Option (Nat × Nat)
  | .msgrecv _ d _ _ n => some (fieldOf d + 1, n.toNat + 1)
  | _ => none

/-- Charge units of one issue (R147); 8 per engine step for TMMA, charged as the steps are performed. -/
def chargeUnits (major f : Nat) : Nat :=
  if major = 0x02 then (if f ≤ 3 then 2 else 4)
  else if major = 0x08 then (if f = 2 then 2 else 1)
  else if 0x13 ≤ major ∧ major ≤ 0x15 then 2
  else if major = 0x20 ∨ major = 0x22 then (if f = 3 then 4 else 2)
  else if major = 0x21 ∨ major = 0x23 ∨ major = 0x24 ∨ major = 0x26 then 2
  else if major = 0x27 then (if f = 5 then 4 else 2)
  else if major = 0x25 then 4
  else if 0x40 ≤ major ∧ major ≤ 0x58 then 4
  else if major = 0x73 then 0
  else if major = 0x72 then 2
  else if (0x60 ≤ major ∧ major ≤ 0x64) ∨ major = 0x68 ∨ major = 0x69 ∨ major = 0x6E ∨ major = 0x6F
      ∨ major = 0x74 ∨ major = 0x75 then 16
  else if major = 0x3B ∨ major = 0x3C then 32
  else if major = 0x6D ∨ major = 0x78 ∨ major = 0x79 ∨ major = 0x7C then 8
  else 1

/-- The result of this opcode is long-latency (R205): complete by the next switch point. -/
def longLatency (major f : Nat) : Bool :=
  (major = 0x02 && 4 ≤ f) || ((major = 0x20 || major = 0x22) && f = 3) || major = 0x25
    || (major = 0x27 && f = 5) || major = 0x3E || major = 0x3F || (0x40 ≤ major && major ≤ 0x46)
    || (major = 0x4B && (f = 0 || f = 1 || f = 4 || f = 6)) || major = 0x4C || major = 0x4D
    || (0x51 ≤ major && major ≤ 0x53) || (major = 0x54 && f ≤ 1) || major = 0x55 || major = 0x62
    || major = 0x68 || major = 0x69 || major = 0x6D || major = 0x6E || major = 0x6F
    || (major = 0x72 && (f = 1 || f = 3))

/-- The opcode belongs to the engine profile (R483). -/
def engineProfile (major f : Nat) : Bool :=
  (0x01 ≤ major && major ≤ 0x15) || (0x20 ≤ major && major ≤ 0x24) || major = 0x26
    || (0x30 ≤ major && major ≤ 0x39) || (major = 0x3A && f ≤ 1) || (0x40 ≤ major && major ≤ 0x4F)
    || (0x51 ≤ major && major ≤ 0x53) || major = 0x56 || (major = 0x58 && 1 ≤ f && f ≤ 3)
    || (0x60 ≤ major && major ≤ 0x63) || (0x65 ≤ major && major ≤ 0x67) || major = 0x6A

end Sys2Proof.Machine
end

