-- ==== Sys2Proof/WellFormed.lean ====
section
/-!
DEFINITION. Which instruction words are legal beyond what the types of their operands say: the static cases of R318, R342,
R345, R347, R353 and R397. An instruction that fails a check has no legal word; its word raises the illegal-instruction
trap. An event is always well formed: what its payload names is looked up when it happens.
-/

namespace Sys2Proof

open Machine

/-- ib and tb are no destination (R144, R346). -/
def WellFormed.destWritable (i : Instr) : Bool :=
  (operands i).dst ≠ some .ib && (operands i).dst ≠ some .tb

/-- The name is a role queue. -/
def WellFormed.isQueue : Option RegName → Bool
  | some (.q _) => true
  | _ => false

/-- A role queue is no destination of a long-latency result (R198, R436). -/
def WellFormed.queueDestOk (i : Instr) : Bool :=
  match opcode i with
  | some (maj, f) => !(longLatency maj f && WellFormed.isQueue (operands i).dst)
  | none => true

/-- Every run of registers lies in x0 to x95 or in k0 to k15 (R347). -/
def WellFormed.runsOk (i : Instr) : Bool :=
  (operands i).runs.all (fun r => runOk (fieldOf r.1) r.2)
    && (match destRun i with | some r => runOk r.1 r.2 | none => true)

/-- A CPT's live count is at most 96 (R154). -/
def WellFormed.liveCountOk : Instr → Bool
  | .cpt _ n _ => decide (n.toNat ≤ 96)
  | _ => true

/-- FCVT names a listed conversion and a rounding modifier (R350, R421). -/
def WellFormed.conversionOk : Instr → Bool
  | .fcvt _ _ _ conv rm => decide (conv.toNat < 0x30) && decide (rm.toNat ≤ 6)
  | _ => true

/-- The numbers of the special registers (R452). -/
def specialNumbers : List Nat :=
  [0x000, 0x001, 0x002, 0x003, 0x004, 0x005, 0x010, 0x011, 0x020, 0x021, 0x022, 0x023, 0x024, 0x030, 0x031,
   0x040, 0x041, 0x042, 0x043, 0x050, 0x060, 0x061, 0x062, 0x063, 0x064, 0x065, 0x066, 0x070, 0x071]

/-- SRD and SWR name a listed special register (R353, R450). -/
def WellFormed.specialOk : Instr → Bool
  | .srd _ _ r => specialNumbers.contains r.toNat
  | .swr _ _ r => specialNumbers.contains r.toNat
  | _ => true

/-- The instruction has a legal word, or is an event. -/
def wellFormed (i : Instr) : Bool :=
  WellFormed.destWritable i && WellFormed.queueDestOk i && WellFormed.runsOk i
    && WellFormed.liveCountOk i && WellFormed.conversionOk i && WellFormed.specialOk i

/-- The row is an instruction word and no event. -/
def isWord (i : Instr) : Bool := (opcode i).isSome

end Sys2Proof
end

