-- ==== Sys2Proof/Decode.lean ====
section
/-!
DEFINITION. The decoder and, after it, the encoder of the 303 instruction words (R341 to R353). A word is a 32-bit number;
its fields are read by division and remainder, so that what a field is can be read off the format tables directly.
-/

namespace Sys2Proof

open Machine

/-- Why a word is not an instruction: it raises the illegal-instruction trap (R318, R345). -/
inductive Reject where
  | reservedMajor     -- the all-zero word or a reserved major opcode
  | reservedFunction  -- a reserved f value or selector
  | badRegister       -- a register field names 127
  | badScope          -- a scope value from 5 to 127 (R285)
  | badBarrier        -- a barrier number from 16 to 127 (R352)
  | reservedField     -- a reserved field or bit is not zero, or a unary form has b other than zr
  | badDestination    -- ib or tb as destination, or a role queue for a long-latency result
  | badRun            -- a run of registers leaves its range
  | badCount          -- a CPT live count above 96
  | badConversion     -- an unlisted FCVT conversion or rounding code
  | badSpecial        -- an SRD or SWR number that names no special register
  deriving DecidableEq, Repr

/-- The `n`-bit field of a word whose lowest bit is bit `lo`. -/
def fld (w lo n : Nat) : Nat := w / 2 ^ lo % 2 ^ n

/-- The switch marker S (R341). -/
def swOf (w : Nat) : Bool := fld w 31 1 = 1

/-- The scope a scope field encodes (R285). -/
def scopeOf : Nat → Option Scope
  | 0 => some .group | 1 => some .team | 2 => some .die | 3 => some .device | 4 => some .fabric
  | _ => none

/-- The number that encodes a scope (R285). -/
def scopeNum : Scope → Nat
  | .group => 0 | .team => 1 | .die => 2 | .device => 3 | .fabric => 4

/-- The register named by the field at `lo`. -/
def regAt (w lo : Nat) : Except Reject RegName :=
  match regOfField (fld w lo 7) with
  | some r => .ok r
  | none => .error .badRegister

/-- The scope in the field at `lo`. -/
def scopeAt (w lo : Nat) : Except Reject Scope :=
  match scopeOf (fld w lo 7) with
  | some s => .ok s
  | none => .error .badScope

/-- The barrier number in the field at `lo` (R352). -/
def barAt (w lo : Nat) : Except Reject (BitVec 4) :=
  if fld w lo 7 < 16 then .ok (BitVec.ofNat 4 (fld w lo 7)) else .error .badBarrier

/-- The operand fields of the words shaped like ADD. -/
def formR17R10R3 (w : Nat) (mk : Bool → RegName → RegName → RegName → Instr) : Except Reject Instr :=
  match regAt w 17 with
  | .error r => .error r
  | .ok d =>
    match regAt w 10 with
    | .error r => .error r
    | .ok a =>
      match regAt w 3 with
      | .error r => .error r
      | .ok b =>
        .ok (mk (swOf w) d a b)

/-- The operand fields of the words shaped like CLZ. -/
def formR17R10 (w : Nat) (mk : Bool → RegName → RegName → Instr) : Except Reject Instr :=
  match regAt w 17 with
  | .error r => .error r
  | .ok d =>
    match regAt w 10 with
    | .error r => .error r
    | .ok a =>
      .ok (mk (swOf w) d a)

/-- The operand fields of the words shaped like ADDI. -/
def formR17R10I100 (w : Nat) (mk : Bool → RegName → RegName → BitVec 10 → Instr) : Except Reject Instr :=
  match regAt w 17 with
  | .error r => .error r
  | .ok d =>
    match regAt w 10 with
    | .error r => .error r
    | .ok a =>
      .ok (mk (swOf w) d a (BitVec.ofNat 10 (fld w 0 10)))

/-- The operand fields of the words shaped like SHLI. -/
def formR17R10I60 (w : Nat) (mk : Bool → RegName → RegName → BitVec 6 → Instr) : Except Reject Instr :=
  match regAt w 17 with
  | .error r => .error r
  | .ok d =>
    match regAt w 10 with
    | .error r => .error r
    | .ok a =>
      .ok (mk (swOf w) d a (BitVec.ofNat 6 (fld w 0 6)))

/-- The operand fields of the words shaped like CMPI_EQ. -/
def formR17R10I70 (w : Nat) (mk : Bool → RegName → RegName → BitVec 7 → Instr) : Except Reject Instr :=
  match regAt w 17 with
  | .error r => .error r
  | .ok d =>
    match regAt w 10 with
    | .error r => .error r
    | .ok a =>
      .ok (mk (swOf w) d a (BitVec.ofNat 7 (fld w 0 7)))

/-- The operand fields of the words shaped like LI. -/
def formR17I170 (w : Nat) (mk : Bool → RegName → BitVec 17 → Instr) : Except Reject Instr :=
  match regAt w 17 with
  | .error r => .error r
  | .ok d =>
    .ok (mk (swOf w) d (BitVec.ofNat 17 (fld w 0 17)))

/-- The operand fields of the words shaped like FCVT. -/
def formR17R10I73I30 (w : Nat) (mk : Bool → RegName → RegName → BitVec 7 → BitVec 3 → Instr) : Except Reject Instr :=
  match regAt w 17 with
  | .error r => .error r
  | .ok d =>
    match regAt w 10 with
    | .error r => .error r
    | .ok a =>
      .ok (mk (swOf w) d a (BitVec.ofNat 7 (fld w 3 7)) (BitVec.ofNat 3 (fld w 0 3)))

/-- The operand fields of the words shaped like JMP. -/
def formI240 (w : Nat) (mk : Bool → BitVec 24 → Instr) : Except Reject Instr :=
  .ok (mk (swOf w) (BitVec.ofNat 24 (fld w 0 24)))

/-- The operand fields of the words shaped like JR. -/
def formR10 (w : Nat) (mk : Bool → RegName → Instr) : Except Reject Instr :=
  match regAt w 10 with
  | .error r => .error r
  | .ok a =>
    .ok (mk (swOf w) a)

/-- The operand fields of the words shaped like ENDIF. -/
def formN (w : Nat) (mk : Bool → Instr) : Except Reject Instr :=
  .ok (mk (swOf w))

/-- The operand fields of the words shaped like SPLIT. -/
def formR17 (w : Nat) (mk : Bool → RegName → Instr) : Except Reject Instr :=
  match regAt w 17 with
  | .error r => .error r
  | .ok d =>
    .ok (mk (swOf w) d)

/-- The operand fields of the words shaped like WBASE. -/
def formI60 (w : Nat) (mk : Bool → BitVec 6 → Instr) : Except Reject Instr :=
  .ok (mk (swOf w) (BitVec.ofNat 6 (fld w 0 6)))

/-- The operand fields of the words shaped like LD_D_ACQ. -/
def formR17R10S3 (w : Nat) (mk : Bool → RegName → RegName → Scope → Instr) : Except Reject Instr :=
  match regAt w 17 with
  | .error r => .error r
  | .ok d =>
    match regAt w 10 with
    | .error r => .error r
    | .ok a =>
      match scopeAt w 3 with
      | .error r => .error r
      | .ok sc =>
        .ok (mk (swOf w) d a sc)

/-- The operand fields of the words shaped like LDS_256. -/
def formR17R10B3 (w : Nat) (mk : Bool → RegName → RegName → BitVec 4 → Instr) : Except Reject Instr :=
  match regAt w 17 with
  | .error r => .error r
  | .ok d =>
    match regAt w 10 with
    | .error r => .error r
    | .ok a =>
      match barAt w 3 with
      | .error r => .error r
      | .ok bar =>
        .ok (mk (swOf w) d a bar)

/-- The operand fields of the words shaped like WAITA. -/
def formR17R10R3I30 (w : Nat) (mk : Bool → RegName → RegName → RegName → BitVec 3 → Instr) : Except Reject Instr :=
  match regAt w 17 with
  | .error r => .error r
  | .ok d =>
    match regAt w 10 with
    | .error r => .error r
    | .ok a =>
      match regAt w 3 with
      | .error r => .error r
      | .ok b =>
        .ok (mk (swOf w) d a b (BitVec.ofNat 3 (fld w 0 3)))

/-- The operand fields of the words shaped like FENCE_ACQ. -/
def formS10 (w : Nat) (mk : Bool → Scope → Instr) : Except Reject Instr :=
  match scopeAt w 10 with
  | .error r => .error r
  | .ok sc =>
    .ok (mk (swOf w) sc)

/-- The operand fields of the words shaped like BARINIT. -/
def formB10R3 (w : Nat) (mk : Bool → BitVec 4 → RegName → Instr) : Except Reject Instr :=
  match barAt w 10 with
  | .error r => .error r
  | .ok bar =>
    match regAt w 3 with
    | .error r => .error r
    | .ok b =>
      .ok (mk (swOf w) bar b)

/-- The operand fields of the words shaped like BARARV. -/
def formB10 (w : Nat) (mk : Bool → BitVec 4 → Instr) : Except Reject Instr :=
  match barAt w 10 with
  | .error r => .error r
  | .ok bar =>
    .ok (mk (swOf w) bar)

/-- The operand fields of the words shaped like BARTRY. -/
def formR17B10 (w : Nat) (mk : Bool → RegName → BitVec 4 → Instr) : Except Reject Instr :=
  match regAt w 17 with
  | .error r => .error r
  | .ok d =>
    match barAt w 10 with
    | .error r => .error r
    | .ok bar =>
      .ok (mk (swOf w) d bar)

/-- The operand fields of the words shaped like RST_W. -/
def formR10R3 (w : Nat) (mk : Bool → RegName → RegName → Instr) : Except Reject Instr :=
  match regAt w 10 with
  | .error r => .error r
  | .ok a =>
    match regAt w 3 with
    | .error r => .error r
    | .ok b =>
      .ok (mk (swOf w) a b)

/-- The operand fields of the words shaped like SPAWN_LOCAL. -/
def formR17R3 (w : Nat) (mk : Bool → RegName → RegName → Instr) : Except Reject Instr :=
  match regAt w 17 with
  | .error r => .error r
  | .ok d =>
    match regAt w 3 with
    | .error r => .error r
    | .ok b =>
      .ok (mk (swOf w) d b)

/-- The operand fields of the words shaped like CPT. -/
def formI717I170 (w : Nat) (mk : Bool → BitVec 7 → BitVec 17 → Instr) : Except Reject Instr :=
  .ok (mk (swOf w) (BitVec.ofNat 7 (fld w 17 7)) (BitVec.ofNat 17 (fld w 0 17)))

/-- The operand fields of the words shaped like FMT. -/
def formR10I30 (w : Nat) (mk : Bool → RegName → BitVec 3 → Instr) : Except Reject Instr :=
  match regAt w 10 with
  | .error r => .error r
  | .ok a =>
    .ok (mk (swOf w) a (BitVec.ofNat 3 (fld w 0 3)))

/-- The operand fields of the words shaped like TZERO. -/
def formI617 (w : Nat) (mk : Bool → BitVec 6 → Instr) : Except Reject Instr :=
  .ok (mk (swOf w) (BitVec.ofNat 6 (fld w 17 6)))

/-- The operand fields of the words shaped like TRD. -/
def formI617R10R3 (w : Nat) (mk : Bool → BitVec 6 → RegName → RegName → Instr) : Except Reject Instr :=
  match regAt w 10 with
  | .error r => .error r
  | .ok a =>
    match regAt w 3 with
    | .error r => .error r
    | .ok b =>
      .ok (mk (swOf w) (BitVec.ofNat 6 (fld w 17 6)) a b)

/-- The operand fields of the words shaped like TRAP. -/
def formI170 (w : Nat) (mk : Bool → BitVec 17 → Instr) : Except Reject Instr :=
  .ok (mk (swOf w) (BitVec.ofNat 17 (fld w 0 17)))

/-- The operand fields of the words shaped like SRD. -/
def formR17I120 (w : Nat) (mk : Bool → RegName → BitVec 12 → Instr) : Except Reject Instr :=
  match regAt w 17 with
  | .error r => .error r
  | .ok d =>
    .ok (mk (swOf w) d (BitVec.ofNat 12 (fld w 0 12)))

/-- The instruction a word's major opcode and function select, its operand fields read; bits the form leaves unused are
not looked at here (R349 to R353). -/
noncomputable def parse (w : Nat) : Except Reject Instr :=
  match fld w 24 7 with
  | 0x01 =>
    match fld w 0 3 with
    | 0 => formR17R10R3 w .add
    | 1 => formR17R10R3 w .sub
    | 2 => formR17R10R3 w .minS
    | 3 => formR17R10R3 w .maxS
    | 4 => formR17R10R3 w .minN
    | 5 => formR17R10R3 w .maxN
    | 6 => formR17R10R3 w .addsS
    | 7 => formR17R10R3 w .subsS
    | _ => .error .reservedFunction
  | 0x02 =>
    match fld w 0 3 with
    | 0 => formR17R10R3 w .mul
    | 1 => formR17R10R3 w .mulhS
    | 2 => formR17R10R3 w .mulhN
    | 3 => formR17R10R3 w .mac
    | 4 => formR17R10R3 w .divS
    | 5 => formR17R10R3 w .divN
    | 6 => formR17R10R3 w .remS
    | 7 => formR17R10R3 w .remN
    | _ => .error .reservedFunction
  | 0x03 =>
    match fld w 0 3 with
    | 0 => formR17R10R3 w .and
    | 1 => formR17R10R3 w .or
    | 2 => formR17R10R3 w .xor
    | 3 => formR17R10R3 w .andn
    | 4 => formR17R10R3 w .orn
    | 5 => formR17R10R3 w .xnor
    | 6 => formR17R10R3 w .bsel
    | _ => .error .reservedFunction
  | 0x04 =>
    match fld w 0 3 with
    | 0 => formR17R10R3 w .shl
    | 1 => formR17R10R3 w .shr
    | 2 => formR17R10R3 w .sar
    | 3 => formR17R10R3 w .rol
    | 4 => formR17R10R3 w .ror
    | _ => .error .reservedFunction
  | 0x05 =>
    match fld w 0 3 with
    | 0 => formR17R10 w .clz
    | 1 => formR17R10 w .ctz
    | 2 => formR17R10 w .popc
    | 3 => formR17R10 w .brev
    | 4 => formR17R10 w .bswap
    | 5 => formR17R10R3 w .sext
    | 6 => formR17R10R3 w .zext
    | _ => .error .reservedFunction
  | 0x06 =>
    match fld w 0 3 with
    | 0 => formR17R10R3 w .cmpEq
    | 1 => formR17R10R3 w .cmpNe
    | 2 => formR17R10R3 w .cmpLtS
    | 3 => formR17R10R3 w .cmpLeS
    | 4 => formR17R10R3 w .cmpLtN
    | 5 => formR17R10R3 w .cmpLeN
    | 6 => formR17R10R3 w .cmpTst
    | _ => .error .reservedFunction
  | 0x07 =>
    match fld w 0 3 with
    | 0 => formR17R10R3 w .csel
    | _ => .error .reservedFunction
  | 0x08 =>
    match fld w 0 3 with
    | 0 => formR17R10R3 w .addw
    | 1 => formR17R10R3 w .subw
    | 2 => formR17R10R3 w .mulw
    | 3 => formR17R10R3 w .shlw
    | 4 => formR17R10R3 w .shrw
    | 5 => formR17R10R3 w .sarw
    | _ => .error .reservedFunction
  | 0x09 => formR17R10I100 w .addi
  | 0x0A => formR17R10I100 w .andi
  | 0x0B => formR17R10I100 w .ori
  | 0x0C => formR17R10I100 w .xori
  | 0x0D =>
    match fld w 7 3 with
    | 0 => formR17R10I60 w .shli
    | 1 => formR17R10I60 w .shri
    | 2 => formR17R10I60 w .sari
    | 3 => formR17R10I60 w .roli
    | 4 => formR17R10I60 w .rori
    | _ => .error .reservedFunction
  | 0x0E =>
    match fld w 7 3 with
    | 0 => formR17R10I70 w .cmpiEq
    | 1 => formR17R10I70 w .cmpiNe
    | 2 => formR17R10I70 w .cmpiLtS
    | 3 => formR17R10I70 w .cmpiLeS
    | 4 => formR17R10I70 w .cmpiLtN
    | 5 => formR17R10I70 w .cmpiLeN
    | 6 => formR17R10I70 w .cmpiTst
    | _ => .error .reservedFunction
  | 0x0F => formR17I170 w .li
  | 0x10 => formR17I170 w .lix
  | 0x11 => formR17I170 w .addpc
  | 0x12 =>
    match fld w 0 3 with
    | 0 => formR17R10R3 w .lea1
    | 1 => formR17R10R3 w .lea2
    | 2 => formR17R10R3 w .lea4
    | 3 => formR17R10R3 w .lea8
    | 4 => formR17R10R3 w .lea16
    | _ => .error .reservedFunction
  | 0x13 =>
    match fld w 0 3 with
    | 0 => formR17R10R3 w .paddB
    | 1 => formR17R10R3 w .paddH
    | 2 => formR17R10R3 w .paddW
    | 3 => formR17R10R3 w .psubB
    | 4 => formR17R10R3 w .psubH
    | 5 => formR17R10R3 w .psubW
    | 6 => formR17R10R3 w .paddsB
    | 7 => formR17R10R3 w .paddsH
    | _ => .error .reservedFunction
  | 0x14 =>
    match fld w 0 3 with
    | 0 => formR17R10R3 w .pmulH
    | 1 => formR17R10R3 w .pmulW
    | 2 => formR17R10R3 w .pdotBS
    | 3 => formR17R10R3 w .pdotBN
    | 4 => formR17R10R3 w .pdotHS
    | 5 => formR17R10R3 w .pmaxHS
    | 6 => formR17R10R3 w .pminHS
    | _ => .error .reservedFunction
  | 0x15 =>
    match fld w 0 3 with
    | 0 => formR17R10R3 w .packlo
    | 1 => formR17R10R3 w .packhi
    | 2 => formR17R10R3 w .shufb
    | _ => .error .reservedFunction
  | 0x20 =>
    match fld w 0 3 with
    | 0 => formR17R10R3 w .faddS
    | 1 => formR17R10R3 w .fsubS
    | 2 => formR17R10R3 w .fmulS
    | 3 => formR17R10R3 w .fdivS
    | 4 => formR17R10R3 w .fminS
    | 5 => formR17R10R3 w .fmaxS
    | 6 => formR17R10 w .fabsS
    | 7 => formR17R10 w .fnegS
    | _ => .error .reservedFunction
  | 0x21 =>
    match fld w 0 3 with
    | 0 => formR17R10R3 w .fmaS
    | 1 => formR17R10R3 w .fmsS
    | 2 => formR17R10R3 w .fnmaS
    | 3 => formR17R10R3 w .fmaD
    | 4 => formR17R10R3 w .fmsD
    | 5 => formR17R10R3 w .fnmaD
    | _ => .error .reservedFunction
  | 0x22 =>
    match fld w 0 3 with
    | 0 => formR17R10R3 w .faddD
    | 1 => formR17R10R3 w .fsubD
    | 2 => formR17R10R3 w .fmulD
    | 3 => formR17R10R3 w .fdivD
    | 4 => formR17R10R3 w .fminD
    | 5 => formR17R10R3 w .fmaxD
    | 6 => formR17R10 w .fabsD
    | 7 => formR17R10 w .fnegD
    | _ => .error .reservedFunction
  | 0x23 =>
    match fld w 0 3 with
    | 0 => formR17R10R3 w .fadd2s
    | 1 => formR17R10R3 w .fsub2s
    | 2 => formR17R10R3 w .fmul2s
    | 3 => formR17R10R3 w .fma2s
    | 4 => formR17R10R3 w .fadd4h
    | 5 => formR17R10R3 w .fmul4h
    | 6 => formR17R10R3 w .fma4h
    | 7 => formR17R10R3 w .fma4b
    | _ => .error .reservedFunction
  | 0x24 =>
    match fld w 0 3 with
    | 0 => formR17R10R3 w .feqS
    | 1 => formR17R10R3 w .fltS
    | 2 => formR17R10R3 w .fleS
    | 3 => formR17R10R3 w .funS
    | 4 => formR17R10R3 w .feqD
    | 5 => formR17R10R3 w .fltD
    | 6 => formR17R10R3 w .fleD
    | 7 => formR17R10 w .fclass
    | _ => .error .reservedFunction
  | 0x25 =>
    match fld w 0 3 with
    | 0 => formR17R10 w .frcpS
    | 1 => formR17R10 w .frsqS
    | 2 => formR17R10 w .fsqrtS
    | 3 => formR17R10 w .fexp2S
    | 4 => formR17R10 w .flog2S
    | 5 => formR17R10 w .fsinpiS
    | 6 => formR17R10 w .fcospiS
    | 7 => formR17R10 w .ftanhS
    | _ => .error .reservedFunction
  | 0x26 => formR17R10I73I30 w .fcvt
  | 0x27 =>
    match fld w 0 3 with
    | 0 => formR17R10R3 w .fsgnjS
    | 1 => formR17R10R3 w .fsgnjnS
    | 2 => formR17R10R3 w .fsgnjxS
    | 3 => formR17R10 w .frintS
    | 4 => formR17R10 w .frintD
    | 5 => formR17R10 w .fsqrtD
    | 6 => formR17R10R3 w .fscaleS
    | _ => .error .reservedFunction
  | 0x30 => formR17I170 w .bnz
  | 0x31 => formR17I170 w .bz
  | 0x32 => formI240 w .jmp
  | 0x33 => formI240 w .call
  | 0x34 =>
    match fld w 0 3 with
    | 0 => formR10 w .jr
    | 1 => formR17R10 w .jalr
    | _ => .error .reservedFunction
  | 0x35 => formR17I170 w .ifOp
  | 0x36 => formI240 w .elseOp
  | 0x37 => formN w .endif
  | 0x38 => formR17I170 w .loop
  | 0x39 => formN w .endloop
  | 0x3A =>
    match fld w 0 3 with
    | 0 => formN w .brk
    | 1 => formN w .cont
    | 2 => formN w .idem
    | _ => .error .reservedFunction
  | 0x3B => formR17R10I100 w .fuse
  | 0x3C =>
    match fld w 0 3 with
    | 0 => formR17 w .split
    | 1 => formR17R10 w .rejoin
    | _ => .error .reservedFunction
  | 0x3D => formI60 w .wbase
  | 0x3E =>
    match fld w 0 3 with
    | 0 => formR17R10R3 w .shflIdx
    | 1 => formR17R10R3 w .shflXor
    | 2 => formR17R10R3 w .shflUp
    | 3 => formR17R10R3 w .shflDn
    | 4 => formR17R10 w .voteAny
    | 5 => formR17R10 w .voteAll
    | 6 => formR17R10 w .voteBal
    | 7 => formR17R10R3 w .bcast
    | _ => .error .reservedFunction
  | 0x3F =>
    match fld w 0 3 with
    | 0 => formR17R10 w .gredAdd
    | 1 => formR17R10 w .gredMinS
    | 2 => formR17R10 w .gredMaxS
    | 3 => formR17R10 w .gredFaddS
    | 4 => formR17R10 w .gredAnd
    | 5 => formR17R10 w .gredOr
    | 6 => formR17R10 w .gredXor
    | 7 => formR17R10 w .gscanAdd
    | _ => .error .reservedFunction
  | 0x40 => formR17R10I100 w .ldBS
  | 0x41 => formR17R10I100 w .ldBN
  | 0x42 => formR17R10I100 w .ldHS
  | 0x43 => formR17R10I100 w .ldHN
  | 0x44 => formR17R10I100 w .ldWS
  | 0x45 => formR17R10I100 w .ldWN
  | 0x46 => formR17R10I100 w .ldD
  | 0x47 => formR17R10I100 w .stB
  | 0x48 => formR17R10I100 w .stH
  | 0x49 => formR17R10I100 w .stW
  | 0x4A => formR17R10I100 w .stD
  | 0x4B =>
    match fld w 0 3 with
    | 0 => formR17R10R3 w .ldDX
    | 1 => formR17R10R3 w .ldWX
    | 2 => formR17R10R3 w .stDX
    | 3 => formR17R10R3 w .stWX
    | 4 => formR17R10S3 w .ldDAcq
    | 5 => formR17R10S3 w .stDRel
    | 6 => formR17R10S3 w .ldWAcq
    | 7 => formR17R10S3 w .stWRel
    | _ => .error .reservedFunction
  | 0x4C => formR17R10I100 w .sldW
  | 0x4D => formR17R10I100 w .sldD
  | 0x4E => formR17R10I100 w .sstW
  | 0x4F => formR17R10I100 w .sstD
  | 0x50 =>
    match fld w 0 3 with
    | 0 => formR17R10B3 w .lds256
    | 1 => formR17R10B3 w .lds1k
    | 2 => formR17R10B3 w .lds4k
    | 3 => formR17R10B3 w .lds16k
    | _ => .error .reservedFunction
  | 0x51 =>
    match fld w 0 3 with
    | 0 => formR17R10R3 w .amoAddD
    | 1 => formR17R10R3 w .amoAndD
    | 2 => formR17R10R3 w .amoOrD
    | 3 => formR17R10R3 w .amoXorD
    | 4 => formR17R10R3 w .amoMinSD
    | 5 => formR17R10R3 w .amoMaxSD
    | 6 => formR17R10R3 w .amoFaddD
    | 7 => formR17R10R3 w .amoSwapD
    | _ => .error .reservedFunction
  | 0x52 =>
    match fld w 0 3 with
    | 0 => formR17R10R3 w .amoAddW
    | 1 => formR17R10R3 w .amoAndW
    | 2 => formR17R10R3 w .amoOrW
    | 3 => formR17R10R3 w .amoXorW
    | 4 => formR17R10R3 w .amoMinSW
    | 5 => formR17R10R3 w .amoMaxSW
    | 6 => formR17R10R3 w .amoFaddS
    | 7 => formR17R10R3 w .amoSwapW
    | _ => .error .reservedFunction
  | 0x53 =>
    match fld w 0 3 with
    | 0 => formR17R10R3 w .casD
    | 1 => formR17R10R3 w .casW
    | _ => .error .reservedFunction
  | 0x54 =>
    match fld w 0 3 with
    | 0 => formR17R10 w .lrw
    | 1 => formR17R10R3 w .sch
    | 2 => formR10 w .relr
    | _ => .error .reservedFunction
  | 0x55 => formR17R10R3I30 w .waita
  | 0x56 =>
    match fld w 0 3 with
    | 0 => formS10 w .fenceAcq
    | 1 => formS10 w .fenceRel
    | 2 => formS10 w .fenceAr
    | 3 => formS10 w .fenceSc
    | _ => .error .reservedFunction
  | 0x57 =>
    match fld w 0 3 with
    | 0 => formB10R3 w .barinit
    | 1 => formB10 w .bararv
    | 2 => formB10 w .barwait
    | 3 => formR17B10 w .bartry
    | 4 => formB10 w .tbar
    | _ => .error .reservedFunction
  | 0x58 =>
    match fld w 0 3 with
    | 0 => formR10 w .pref
    | 1 => formR10 w .cwb
    | 2 => formR10 w .cinv
    | 3 => formR10 w .cwbi
    | 4 => formN w .isync
    | _ => .error .reservedFunction
  | 0x60 =>
    match fld w 0 3 with
    | 0 => formR10R3 w .rstW
    | 1 => formR10R3 w .rstD
    | _ => .error .reservedFunction
  | 0x61 =>
    match fld w 0 3 with
    | 0 => formR10R3 w .ramoAddW
    | 1 => formR10R3 w .ramoAddD
    | 2 => formR10R3 w .ramoFaddS
    | 3 => formR10R3 w .ramoMinS
    | 4 => formR10R3 w .ramoMaxS
    | 5 => formR10R3 w .ramoOrD
    | 6 => formR10R3 w .ramoAndD
    | 7 => formR10R3 w .ramoXorD
    | _ => .error .reservedFunction
  | 0x62 =>
    match fld w 0 3 with
    | 0 => formR17R10 w .rldW
    | 1 => formR17R10 w .rldD
    | _ => .error .reservedFunction
  | 0x63 =>
    match fld w 0 3 with
    | 0 => formR10 w .rflushOne
    | 1 => formN w .rflushAll
    | _ => .error .reservedFunction
  | 0x64 =>
    match fld w 0 3 with
    | 0 => formR10R3 w .mcst
    | _ => .error .reservedFunction
  | 0x65 =>
    match fld w 0 3 with
    | 0 => formR17R10R3 w .cpyGg
    | 1 => formR17R10R3 w .cpyGs
    | 2 => formR17R10R3 w .cpySg
    | 3 => formR17R10R3 w .cpySs
    | _ => .error .reservedFunction
  | 0x66 =>
    match fld w 0 3 with
    | 0 => formR17R10R3 w .gth32
    | 1 => formR17R10R3 w .gth64
    | 2 => formR17R10R3 w .gth128
    | 3 => formR17R10R3 w .gth256
    | _ => .error .reservedFunction
  | 0x67 =>
    match fld w 0 3 with
    | 0 => formR17R10R3 w .sct32
    | 1 => formR17R10R3 w .sct64
    | 2 => formR17R10R3 w .sct128
    | 3 => formR17R10R3 w .sct256
    | _ => .error .reservedFunction
  | 0x68 =>
    match fld w 0 3 with
    | 0 => formR17R10R3 w .enq
    | _ => .error .reservedFunction
  | 0x69 =>
    match fld w 0 3 with
    | 0 => formR17R3 w .spawnLocal
    | 1 => formR17R3 w .spawnDie
    | _ => .error .reservedFunction
  | 0x6A => formN w .endOp
  | 0x6B => formI717I170 w .cpt
  | 0x6C =>
    match fld w 0 3 with
    | 0 => formN w .yield
    | 1 => formR10 w .yieldIf
    | _ => .error .reservedFunction
  | 0x6D =>
    match fld w 0 3 with
    | 0 => formR17R10R3 w .btopIb
    | 1 => formR17R10R3 w .btopTb
    | _ => .error .reservedFunction
  | 0x6E => formR17R10R3I30 w .msgapp
  | 0x6F => formR17R10R3I30 w .msgrecv
  | 0x70 => formR10I30 w .fmt
  | 0x71 =>
    match fld w 0 3 with
    | 0 => formR10R3 w .lut4
    | _ => .error .reservedFunction
  | 0x72 =>
    match fld w 0 3 with
    | 0 => formI617 w .tzero
    | 1 => formI617R10R3 w .trd
    | 2 => formI617R10R3 w .twr
    | 3 => formI617R10R3 w .tcvt
    | _ => .error .reservedFunction
  | 0x73 =>
    match fld w 0 3 with
    | 0 => formI617R10R3 w .tmmaNn
    | 1 => formI617R10R3 w .tmmaTn
    | 2 => formI617R10R3 w .tmmaNt
    | 3 => formI617R10R3 w .tmmaTt
    | 4 => formI617R10R3 w .tmmaSp
    | _ => .error .reservedFunction
  | 0x74 =>
    match fld w 0 3 with
    | 0 => formI617R10R3 w .tstF32
    | 1 => formI617R10R3 w .tstBf16
    | 2 => formI617R10R3 w .tstF16
    | _ => .error .reservedFunction
  | 0x75 =>
    match fld w 0 3 with
    | 0 => formI617R10R3 w .tstaF32
    | 1 => formI617R10R3 w .tstaS32
    | _ => .error .reservedFunction
  | 0x78 => formI170 w .trap
  | 0x79 => formN w .rett
  | 0x7A => formR17I120 w .srd
  | 0x7B => formR17I120 w .swr
  | 0x7C =>
    match fld w 0 3 with
    | 0 => formR10R3 w .tlbiAddr
    | 1 => formR10 w .tlbiDom
    | 2 => formN w .tlbiAll
    | _ => .error .reservedFunction
  | _ => .error .reservedMajor

/-- The sum of values placed at their lowest bits. -/
def place : List (Nat × Nat) → Nat
  | [] => 0
  | (lo, v) :: r => v * 2 ^ lo + place r

/-- A word from its switch marker, its major opcode and its fields, each with its lowest bit. -/
def asm (sw : Bool) (major : Nat) (fields : List (Nat × Nat)) : Nat :=
  (if sw then 2 ^ 31 else 0) + (major * 2 ^ 24 + place fields)

/-- The word of an instruction, unused fields zero and the b field of a unary form 120 (R341, R342); none for an event. -/
def encode : Instr → Option Nat
  | .powerUp  => none
  | .inputRemoval  => none
  | .railFault  => none
  | .warmReset  => none
  | .perstNDeassert  => none
  | .bringupStepDone _ _ _ => none
  | .pcieTrainingDone _ _ => none
  | .pcieConfigRequest _ => none
  | .recoveryRun _ => none
  | .recoveryCheckDone _ => none
  | .thermalSample _ => none
  | .powerWindowEnd _ => none
  | .powerLowIntervalEnd  => none
  | .thermalEaseExpiry  => none
  | .thrctlWrite _ => none
  | .thrlimWrite _ => none
  | .registerWrite _ _ _ => none
  | .ylportEnable _ _ => none
  | .ylportRetrain _ => none
  | .ylportWidthRequest _ _ => none
  | .detectIdleExit _ => none
  | .partnerDetected _ _ _ => none
  | .equaliseDone _ _ _ _ => none
  | .alignDone _ => none
  | .negotiationDone _ _ _ _ => none
  | .trainingTimeout _ => none
  | .flitReceive _ _ => none
  | .replayTimeout _ => none
  | .laneLoss _ _ => none
  | .widthChangeApply _ => none
  | .egressSend _ _ => none
  | .remoteLoadArrival _ => none
  | .aggregatedStoreArrival _ => none
  | .aggregatedAtomicArrival _ => none
  | .tileStoreAddArrival _ _ => none
  | .tileReassemblyTimeout _ _ _ => none
  | .multicastLineArrival _ _ => none
  | .multicastChildTimeout _ _ _ => none
  | .combinedAckArrival _ _ => none
  | .inboxAppendArrival _ => none
  | .loadReplyArrival _ => none
  | .elementAckArrival _ => none
  | .inboxAckArrival _ => none
  | .ackTimeout _ => none
  | .rldTimeout _ => none
  | .comaAgeLimit _ => none
  | .comaDrain  => none
  | .routingEntryWrite _ => none
  | .groupTableEntryWrite _ => none
  | .notifyWrite _ _ _ _ => none
  | .bar4Write _ _ _ => none
  | .bar4Read _ _ _ => none
  | .queueEnable _ _ => none
  | .queueDisable _ _ => none
  | .queueUnmap _ _ => none
  | .queueClearerr _ _ => none
  | .queueMap _ => none
  | .idleUnmap _ _ => none
  | .quantumEnd _ _ => none
  | .msixIntervalEnd _ _ => none
  | .partitionActivate _ => none
  | .partitionDeactivate _ => none
  | .keyLoad _ _ => none
  | .keyErase _ _ => none
  | .attestationReport _ _ => none
  | .checkpointStart  => none
  | .checkpointDone _ => none
  | .recordArrival _ => none
  | .refillStart _ _ => none
  | .refillLand _ _ => none
  | .continuationRetry _ => none
  | .dispatchDecision _ => none
  | .teamStart _ => none
  | .recordPromotion _ _ => none
  | .clusterClaim _ _ => none
  | .dequePop _ => none
  | .dequeSteal _ => none
  | .gridNodeReport _ _ => none
  | .graceExpiry _ => none
  | .teamYield _ => none
  | .teamRevoke _ => none
  | .poolAdd _ => none
  | .domainSetQuota _ => none
  | .domainPushPage _ => none
  | .domainPushSaveBlock _ => none
  | .domainSubtractUsed _ => none
  | .vaultStow _ => none
  | .vaultSwap _ _ => none
  | .vaultRestore _ => none
  | .fuseTimeout _ => none
  | .fuseRendezvousComplete _ => none
  | .automaticSplit _ => none
  | .implicitRejoin _ => none
  | .rejoinTimeout _ => none
  | .roleQueueRetry _ => none
  | .resultWriteback _ _ => none
  | .pageWalkDone _ _ _ => none
  | .grantInvalidateOne _ => none
  | .grantInvalidateAll  => none
  | .grantInvalidateDone  => none
  | .shootdownDone _ => none
  | .patrolScrub _ _ => none
  | .reservationGrant _ => none
  | .reservationTimeout _ _ => none
  | .waitaWake _ _ => none
  | .waitaTimeout _ _ => none
  | .ldsLanded _ => none
  | .tileTransferDone _ => none
  | .engineRoutineStart _ => none
  | .tmmaEngineStep _ => none
  | .tileClaimRetry _ => none
  | .lateFaultDelivery _ => none
  | .killtWrite _ => none
  | .handleSeal _ _ => none
  | .handleRevoke _ _ => none
  | .msgrecvTimeout _ _ => none
  | .add sw d a b => some (asm sw 0x01 [(17, fieldOf d), (10, fieldOf a), (3, fieldOf b)])
  | .sub sw d a b => some (asm sw 0x01 [(17, fieldOf d), (10, fieldOf a), (3, fieldOf b), (0, 1)])
  | .minS sw d a b => some (asm sw 0x01 [(17, fieldOf d), (10, fieldOf a), (3, fieldOf b), (0, 2)])
  | .maxS sw d a b => some (asm sw 0x01 [(17, fieldOf d), (10, fieldOf a), (3, fieldOf b), (0, 3)])
  | .minN sw d a b => some (asm sw 0x01 [(17, fieldOf d), (10, fieldOf a), (3, fieldOf b), (0, 4)])
  | .maxN sw d a b => some (asm sw 0x01 [(17, fieldOf d), (10, fieldOf a), (3, fieldOf b), (0, 5)])
  | .addsS sw d a b => some (asm sw 0x01 [(17, fieldOf d), (10, fieldOf a), (3, fieldOf b), (0, 6)])
  | .subsS sw d a b => some (asm sw 0x01 [(17, fieldOf d), (10, fieldOf a), (3, fieldOf b), (0, 7)])
  | .mul sw d a b => some (asm sw 0x02 [(17, fieldOf d), (10, fieldOf a), (3, fieldOf b)])
  | .mulhS sw d a b => some (asm sw 0x02 [(17, fieldOf d), (10, fieldOf a), (3, fieldOf b), (0, 1)])
  | .mulhN sw d a b => some (asm sw 0x02 [(17, fieldOf d), (10, fieldOf a), (3, fieldOf b), (0, 2)])
  | .mac sw d a b => some (asm sw 0x02 [(17, fieldOf d), (10, fieldOf a), (3, fieldOf b), (0, 3)])
  | .divS sw d a b => some (asm sw 0x02 [(17, fieldOf d), (10, fieldOf a), (3, fieldOf b), (0, 4)])
  | .divN sw d a b => some (asm sw 0x02 [(17, fieldOf d), (10, fieldOf a), (3, fieldOf b), (0, 5)])
  | .remS sw d a b => some (asm sw 0x02 [(17, fieldOf d), (10, fieldOf a), (3, fieldOf b), (0, 6)])
  | .remN sw d a b => some (asm sw 0x02 [(17, fieldOf d), (10, fieldOf a), (3, fieldOf b), (0, 7)])
  | .and sw d a b => some (asm sw 0x03 [(17, fieldOf d), (10, fieldOf a), (3, fieldOf b)])
  | .or sw d a b => some (asm sw 0x03 [(17, fieldOf d), (10, fieldOf a), (3, fieldOf b), (0, 1)])
  | .xor sw d a b => some (asm sw 0x03 [(17, fieldOf d), (10, fieldOf a), (3, fieldOf b), (0, 2)])
  | .andn sw d a b => some (asm sw 0x03 [(17, fieldOf d), (10, fieldOf a), (3, fieldOf b), (0, 3)])
  | .orn sw d a b => some (asm sw 0x03 [(17, fieldOf d), (10, fieldOf a), (3, fieldOf b), (0, 4)])
  | .xnor sw d a b => some (asm sw 0x03 [(17, fieldOf d), (10, fieldOf a), (3, fieldOf b), (0, 5)])
  | .bsel sw d a b => some (asm sw 0x03 [(17, fieldOf d), (10, fieldOf a), (3, fieldOf b), (0, 6)])
  | .shl sw d a b => some (asm sw 0x04 [(17, fieldOf d), (10, fieldOf a), (3, fieldOf b)])
  | .shr sw d a b => some (asm sw 0x04 [(17, fieldOf d), (10, fieldOf a), (3, fieldOf b), (0, 1)])
  | .sar sw d a b => some (asm sw 0x04 [(17, fieldOf d), (10, fieldOf a), (3, fieldOf b), (0, 2)])
  | .rol sw d a b => some (asm sw 0x04 [(17, fieldOf d), (10, fieldOf a), (3, fieldOf b), (0, 3)])
  | .ror sw d a b => some (asm sw 0x04 [(17, fieldOf d), (10, fieldOf a), (3, fieldOf b), (0, 4)])
  | .clz sw d a => some (asm sw 0x05 [(17, fieldOf d), (10, fieldOf a), (3, 120)])
  | .ctz sw d a => some (asm sw 0x05 [(17, fieldOf d), (10, fieldOf a), (0, 1), (3, 120)])
  | .popc sw d a => some (asm sw 0x05 [(17, fieldOf d), (10, fieldOf a), (0, 2), (3, 120)])
  | .brev sw d a => some (asm sw 0x05 [(17, fieldOf d), (10, fieldOf a), (0, 3), (3, 120)])
  | .bswap sw d a => some (asm sw 0x05 [(17, fieldOf d), (10, fieldOf a), (0, 4), (3, 120)])
  | .sext sw d a b => some (asm sw 0x05 [(17, fieldOf d), (10, fieldOf a), (3, fieldOf b), (0, 5)])
  | .zext sw d a b => some (asm sw 0x05 [(17, fieldOf d), (10, fieldOf a), (3, fieldOf b), (0, 6)])
  | .cmpEq sw d a b => some (asm sw 0x06 [(17, fieldOf d), (10, fieldOf a), (3, fieldOf b)])
  | .cmpNe sw d a b => some (asm sw 0x06 [(17, fieldOf d), (10, fieldOf a), (3, fieldOf b), (0, 1)])
  | .cmpLtS sw d a b => some (asm sw 0x06 [(17, fieldOf d), (10, fieldOf a), (3, fieldOf b), (0, 2)])
  | .cmpLeS sw d a b => some (asm sw 0x06 [(17, fieldOf d), (10, fieldOf a), (3, fieldOf b), (0, 3)])
  | .cmpLtN sw d a b => some (asm sw 0x06 [(17, fieldOf d), (10, fieldOf a), (3, fieldOf b), (0, 4)])
  | .cmpLeN sw d a b => some (asm sw 0x06 [(17, fieldOf d), (10, fieldOf a), (3, fieldOf b), (0, 5)])
  | .cmpTst sw d a b => some (asm sw 0x06 [(17, fieldOf d), (10, fieldOf a), (3, fieldOf b), (0, 6)])
  | .csel sw d a b => some (asm sw 0x07 [(17, fieldOf d), (10, fieldOf a), (3, fieldOf b)])
  | .addw sw d a b => some (asm sw 0x08 [(17, fieldOf d), (10, fieldOf a), (3, fieldOf b)])
  | .subw sw d a b => some (asm sw 0x08 [(17, fieldOf d), (10, fieldOf a), (3, fieldOf b), (0, 1)])
  | .mulw sw d a b => some (asm sw 0x08 [(17, fieldOf d), (10, fieldOf a), (3, fieldOf b), (0, 2)])
  | .shlw sw d a b => some (asm sw 0x08 [(17, fieldOf d), (10, fieldOf a), (3, fieldOf b), (0, 3)])
  | .shrw sw d a b => some (asm sw 0x08 [(17, fieldOf d), (10, fieldOf a), (3, fieldOf b), (0, 4)])
  | .sarw sw d a b => some (asm sw 0x08 [(17, fieldOf d), (10, fieldOf a), (3, fieldOf b), (0, 5)])
  | .addi sw d a imm => some (asm sw 0x09 [(17, fieldOf d), (10, fieldOf a), (0, imm.toNat)])
  | .andi sw d a imm => some (asm sw 0x0A [(17, fieldOf d), (10, fieldOf a), (0, imm.toNat)])
  | .ori sw d a imm => some (asm sw 0x0B [(17, fieldOf d), (10, fieldOf a), (0, imm.toNat)])
  | .xori sw d a imm => some (asm sw 0x0C [(17, fieldOf d), (10, fieldOf a), (0, imm.toNat)])
  | .shli sw d a n => some (asm sw 0x0D [(17, fieldOf d), (10, fieldOf a), (0, n.toNat)])
  | .shri sw d a n => some (asm sw 0x0D [(17, fieldOf d), (10, fieldOf a), (0, n.toNat), (7, 1)])
  | .sari sw d a n => some (asm sw 0x0D [(17, fieldOf d), (10, fieldOf a), (0, n.toNat), (7, 2)])
  | .roli sw d a n => some (asm sw 0x0D [(17, fieldOf d), (10, fieldOf a), (0, n.toNat), (7, 3)])
  | .rori sw d a n => some (asm sw 0x0D [(17, fieldOf d), (10, fieldOf a), (0, n.toNat), (7, 4)])
  | .cmpiEq sw d a imm => some (asm sw 0x0E [(17, fieldOf d), (10, fieldOf a), (0, imm.toNat)])
  | .cmpiNe sw d a imm => some (asm sw 0x0E [(17, fieldOf d), (10, fieldOf a), (0, imm.toNat), (7, 1)])
  | .cmpiLtS sw d a imm => some (asm sw 0x0E [(17, fieldOf d), (10, fieldOf a), (0, imm.toNat), (7, 2)])
  | .cmpiLeS sw d a imm => some (asm sw 0x0E [(17, fieldOf d), (10, fieldOf a), (0, imm.toNat), (7, 3)])
  | .cmpiLtN sw d a imm => some (asm sw 0x0E [(17, fieldOf d), (10, fieldOf a), (0, imm.toNat), (7, 4)])
  | .cmpiLeN sw d a imm => some (asm sw 0x0E [(17, fieldOf d), (10, fieldOf a), (0, imm.toNat), (7, 5)])
  | .cmpiTst sw d a imm => some (asm sw 0x0E [(17, fieldOf d), (10, fieldOf a), (0, imm.toNat), (7, 6)])
  | .li sw d imm => some (asm sw 0x0F [(17, fieldOf d), (0, imm.toNat)])
  | .lix sw d imm => some (asm sw 0x10 [(17, fieldOf d), (0, imm.toNat)])
  | .addpc sw d imm => some (asm sw 0x11 [(17, fieldOf d), (0, imm.toNat)])
  | .lea1 sw d a b => some (asm sw 0x12 [(17, fieldOf d), (10, fieldOf a), (3, fieldOf b)])
  | .lea2 sw d a b => some (asm sw 0x12 [(17, fieldOf d), (10, fieldOf a), (3, fieldOf b), (0, 1)])
  | .lea4 sw d a b => some (asm sw 0x12 [(17, fieldOf d), (10, fieldOf a), (3, fieldOf b), (0, 2)])
  | .lea8 sw d a b => some (asm sw 0x12 [(17, fieldOf d), (10, fieldOf a), (3, fieldOf b), (0, 3)])
  | .lea16 sw d a b => some (asm sw 0x12 [(17, fieldOf d), (10, fieldOf a), (3, fieldOf b), (0, 4)])
  | .paddB sw d a b => some (asm sw 0x13 [(17, fieldOf d), (10, fieldOf a), (3, fieldOf b)])
  | .paddH sw d a b => some (asm sw 0x13 [(17, fieldOf d), (10, fieldOf a), (3, fieldOf b), (0, 1)])
  | .paddW sw d a b => some (asm sw 0x13 [(17, fieldOf d), (10, fieldOf a), (3, fieldOf b), (0, 2)])
  | .psubB sw d a b => some (asm sw 0x13 [(17, fieldOf d), (10, fieldOf a), (3, fieldOf b), (0, 3)])
  | .psubH sw d a b => some (asm sw 0x13 [(17, fieldOf d), (10, fieldOf a), (3, fieldOf b), (0, 4)])
  | .psubW sw d a b => some (asm sw 0x13 [(17, fieldOf d), (10, fieldOf a), (3, fieldOf b), (0, 5)])
  | .paddsB sw d a b => some (asm sw 0x13 [(17, fieldOf d), (10, fieldOf a), (3, fieldOf b), (0, 6)])
  | .paddsH sw d a b => some (asm sw 0x13 [(17, fieldOf d), (10, fieldOf a), (3, fieldOf b), (0, 7)])
  | .pmulH sw d a b => some (asm sw 0x14 [(17, fieldOf d), (10, fieldOf a), (3, fieldOf b)])
  | .pmulW sw d a b => some (asm sw 0x14 [(17, fieldOf d), (10, fieldOf a), (3, fieldOf b), (0, 1)])
  | .pdotBS sw d a b => some (asm sw 0x14 [(17, fieldOf d), (10, fieldOf a), (3, fieldOf b), (0, 2)])
  | .pdotBN sw d a b => some (asm sw 0x14 [(17, fieldOf d), (10, fieldOf a), (3, fieldOf b), (0, 3)])
  | .pdotHS sw d a b => some (asm sw 0x14 [(17, fieldOf d), (10, fieldOf a), (3, fieldOf b), (0, 4)])
  | .pmaxHS sw d a b => some (asm sw 0x14 [(17, fieldOf d), (10, fieldOf a), (3, fieldOf b), (0, 5)])
  | .pminHS sw d a b => some (asm sw 0x14 [(17, fieldOf d), (10, fieldOf a), (3, fieldOf b), (0, 6)])
  | .packlo sw d a b => some (asm sw 0x15 [(17, fieldOf d), (10, fieldOf a), (3, fieldOf b)])
  | .packhi sw d a b => some (asm sw 0x15 [(17, fieldOf d), (10, fieldOf a), (3, fieldOf b), (0, 1)])
  | .shufb sw d a b => some (asm sw 0x15 [(17, fieldOf d), (10, fieldOf a), (3, fieldOf b), (0, 2)])
  | .faddS sw d a b => some (asm sw 0x20 [(17, fieldOf d), (10, fieldOf a), (3, fieldOf b)])
  | .fsubS sw d a b => some (asm sw 0x20 [(17, fieldOf d), (10, fieldOf a), (3, fieldOf b), (0, 1)])
  | .fmulS sw d a b => some (asm sw 0x20 [(17, fieldOf d), (10, fieldOf a), (3, fieldOf b), (0, 2)])
  | .fdivS sw d a b => some (asm sw 0x20 [(17, fieldOf d), (10, fieldOf a), (3, fieldOf b), (0, 3)])
  | .fminS sw d a b => some (asm sw 0x20 [(17, fieldOf d), (10, fieldOf a), (3, fieldOf b), (0, 4)])
  | .fmaxS sw d a b => some (asm sw 0x20 [(17, fieldOf d), (10, fieldOf a), (3, fieldOf b), (0, 5)])
  | .fabsS sw d a => some (asm sw 0x20 [(17, fieldOf d), (10, fieldOf a), (0, 6), (3, 120)])
  | .fnegS sw d a => some (asm sw 0x20 [(17, fieldOf d), (10, fieldOf a), (0, 7), (3, 120)])
  | .fmaS sw d a b => some (asm sw 0x21 [(17, fieldOf d), (10, fieldOf a), (3, fieldOf b)])
  | .fmsS sw d a b => some (asm sw 0x21 [(17, fieldOf d), (10, fieldOf a), (3, fieldOf b), (0, 1)])
  | .fnmaS sw d a b => some (asm sw 0x21 [(17, fieldOf d), (10, fieldOf a), (3, fieldOf b), (0, 2)])
  | .fmaD sw d a b => some (asm sw 0x21 [(17, fieldOf d), (10, fieldOf a), (3, fieldOf b), (0, 3)])
  | .fmsD sw d a b => some (asm sw 0x21 [(17, fieldOf d), (10, fieldOf a), (3, fieldOf b), (0, 4)])
  | .fnmaD sw d a b => some (asm sw 0x21 [(17, fieldOf d), (10, fieldOf a), (3, fieldOf b), (0, 5)])
  | .faddD sw d a b => some (asm sw 0x22 [(17, fieldOf d), (10, fieldOf a), (3, fieldOf b)])
  | .fsubD sw d a b => some (asm sw 0x22 [(17, fieldOf d), (10, fieldOf a), (3, fieldOf b), (0, 1)])
  | .fmulD sw d a b => some (asm sw 0x22 [(17, fieldOf d), (10, fieldOf a), (3, fieldOf b), (0, 2)])
  | .fdivD sw d a b => some (asm sw 0x22 [(17, fieldOf d), (10, fieldOf a), (3, fieldOf b), (0, 3)])
  | .fminD sw d a b => some (asm sw 0x22 [(17, fieldOf d), (10, fieldOf a), (3, fieldOf b), (0, 4)])
  | .fmaxD sw d a b => some (asm sw 0x22 [(17, fieldOf d), (10, fieldOf a), (3, fieldOf b), (0, 5)])
  | .fabsD sw d a => some (asm sw 0x22 [(17, fieldOf d), (10, fieldOf a), (0, 6), (3, 120)])
  | .fnegD sw d a => some (asm sw 0x22 [(17, fieldOf d), (10, fieldOf a), (0, 7), (3, 120)])
  | .fadd2s sw d a b => some (asm sw 0x23 [(17, fieldOf d), (10, fieldOf a), (3, fieldOf b)])
  | .fsub2s sw d a b => some (asm sw 0x23 [(17, fieldOf d), (10, fieldOf a), (3, fieldOf b), (0, 1)])
  | .fmul2s sw d a b => some (asm sw 0x23 [(17, fieldOf d), (10, fieldOf a), (3, fieldOf b), (0, 2)])
  | .fma2s sw d a b => some (asm sw 0x23 [(17, fieldOf d), (10, fieldOf a), (3, fieldOf b), (0, 3)])
  | .fadd4h sw d a b => some (asm sw 0x23 [(17, fieldOf d), (10, fieldOf a), (3, fieldOf b), (0, 4)])
  | .fmul4h sw d a b => some (asm sw 0x23 [(17, fieldOf d), (10, fieldOf a), (3, fieldOf b), (0, 5)])
  | .fma4h sw d a b => some (asm sw 0x23 [(17, fieldOf d), (10, fieldOf a), (3, fieldOf b), (0, 6)])
  | .fma4b sw d a b => some (asm sw 0x23 [(17, fieldOf d), (10, fieldOf a), (3, fieldOf b), (0, 7)])
  | .feqS sw d a b => some (asm sw 0x24 [(17, fieldOf d), (10, fieldOf a), (3, fieldOf b)])
  | .fltS sw d a b => some (asm sw 0x24 [(17, fieldOf d), (10, fieldOf a), (3, fieldOf b), (0, 1)])
  | .fleS sw d a b => some (asm sw 0x24 [(17, fieldOf d), (10, fieldOf a), (3, fieldOf b), (0, 2)])
  | .funS sw d a b => some (asm sw 0x24 [(17, fieldOf d), (10, fieldOf a), (3, fieldOf b), (0, 3)])
  | .feqD sw d a b => some (asm sw 0x24 [(17, fieldOf d), (10, fieldOf a), (3, fieldOf b), (0, 4)])
  | .fltD sw d a b => some (asm sw 0x24 [(17, fieldOf d), (10, fieldOf a), (3, fieldOf b), (0, 5)])
  | .fleD sw d a b => some (asm sw 0x24 [(17, fieldOf d), (10, fieldOf a), (3, fieldOf b), (0, 6)])
  | .fclass sw d a => some (asm sw 0x24 [(17, fieldOf d), (10, fieldOf a), (0, 7), (3, 120)])
  | .frcpS sw d a => some (asm sw 0x25 [(17, fieldOf d), (10, fieldOf a), (3, 120)])
  | .frsqS sw d a => some (asm sw 0x25 [(17, fieldOf d), (10, fieldOf a), (0, 1), (3, 120)])
  | .fsqrtS sw d a => some (asm sw 0x25 [(17, fieldOf d), (10, fieldOf a), (0, 2), (3, 120)])
  | .fexp2S sw d a => some (asm sw 0x25 [(17, fieldOf d), (10, fieldOf a), (0, 3), (3, 120)])
  | .flog2S sw d a => some (asm sw 0x25 [(17, fieldOf d), (10, fieldOf a), (0, 4), (3, 120)])
  | .fsinpiS sw d a => some (asm sw 0x25 [(17, fieldOf d), (10, fieldOf a), (0, 5), (3, 120)])
  | .fcospiS sw d a => some (asm sw 0x25 [(17, fieldOf d), (10, fieldOf a), (0, 6), (3, 120)])
  | .ftanhS sw d a => some (asm sw 0x25 [(17, fieldOf d), (10, fieldOf a), (0, 7), (3, 120)])
  | .fcvt sw d a conv rm => some (asm sw 0x26 [(17, fieldOf d), (10, fieldOf a), (3, conv.toNat), (0, rm.toNat)])
  | .fsgnjS sw d a b => some (asm sw 0x27 [(17, fieldOf d), (10, fieldOf a), (3, fieldOf b)])
  | .fsgnjnS sw d a b => some (asm sw 0x27 [(17, fieldOf d), (10, fieldOf a), (3, fieldOf b), (0, 1)])
  | .fsgnjxS sw d a b => some (asm sw 0x27 [(17, fieldOf d), (10, fieldOf a), (3, fieldOf b), (0, 2)])
  | .frintS sw d a => some (asm sw 0x27 [(17, fieldOf d), (10, fieldOf a), (0, 3), (3, 120)])
  | .frintD sw d a => some (asm sw 0x27 [(17, fieldOf d), (10, fieldOf a), (0, 4), (3, 120)])
  | .fsqrtD sw d a => some (asm sw 0x27 [(17, fieldOf d), (10, fieldOf a), (0, 5), (3, 120)])
  | .fscaleS sw d a b => some (asm sw 0x27 [(17, fieldOf d), (10, fieldOf a), (3, fieldOf b), (0, 6)])
  | .bnz sw a off => some (asm sw 0x30 [(17, fieldOf a), (0, off.toNat)])
  | .bz sw a off => some (asm sw 0x31 [(17, fieldOf a), (0, off.toNat)])
  | .jmp sw off => some (asm sw 0x32 [(0, off.toNat)])
  | .call sw off => some (asm sw 0x33 [(0, off.toNat)])
  | .jr sw a => some (asm sw 0x34 [(10, fieldOf a)])
  | .jalr sw d a => some (asm sw 0x34 [(17, fieldOf d), (10, fieldOf a), (0, 1)])
  | .ifOp sw a off => some (asm sw 0x35 [(17, fieldOf a), (0, off.toNat)])
  | .elseOp sw off => some (asm sw 0x36 [(0, off.toNat)])
  | .endif sw => some (asm sw 0x37 [])
  | .loop sw a off => some (asm sw 0x38 [(17, fieldOf a), (0, off.toNat)])
  | .endloop sw => some (asm sw 0x39 [])
  | .brk sw => some (asm sw 0x3A [])
  | .cont sw => some (asm sw 0x3A [(0, 1)])
  | .idem sw => some (asm sw 0x3A [(0, 2)])
  | .fuse sw d a imm => some (asm sw 0x3B [(17, fieldOf d), (10, fieldOf a), (0, imm.toNat)])
  | .split sw d => some (asm sw 0x3C [(17, fieldOf d)])
  | .rejoin sw d a => some (asm sw 0x3C [(17, fieldOf d), (10, fieldOf a), (0, 1)])
  | .wbase sw n => some (asm sw 0x3D [(0, n.toNat)])
  | .shflIdx sw d a b => some (asm sw 0x3E [(17, fieldOf d), (10, fieldOf a), (3, fieldOf b)])
  | .shflXor sw d a b => some (asm sw 0x3E [(17, fieldOf d), (10, fieldOf a), (3, fieldOf b), (0, 1)])
  | .shflUp sw d a b => some (asm sw 0x3E [(17, fieldOf d), (10, fieldOf a), (3, fieldOf b), (0, 2)])
  | .shflDn sw d a b => some (asm sw 0x3E [(17, fieldOf d), (10, fieldOf a), (3, fieldOf b), (0, 3)])
  | .voteAny sw d a => some (asm sw 0x3E [(17, fieldOf d), (10, fieldOf a), (0, 4), (3, 120)])
  | .voteAll sw d a => some (asm sw 0x3E [(17, fieldOf d), (10, fieldOf a), (0, 5), (3, 120)])
  | .voteBal sw d a => some (asm sw 0x3E [(17, fieldOf d), (10, fieldOf a), (0, 6), (3, 120)])
  | .bcast sw d a b => some (asm sw 0x3E [(17, fieldOf d), (10, fieldOf a), (3, fieldOf b), (0, 7)])
  | .gredAdd sw d a => some (asm sw 0x3F [(17, fieldOf d), (10, fieldOf a), (3, 120)])
  | .gredMinS sw d a => some (asm sw 0x3F [(17, fieldOf d), (10, fieldOf a), (0, 1), (3, 120)])
  | .gredMaxS sw d a => some (asm sw 0x3F [(17, fieldOf d), (10, fieldOf a), (0, 2), (3, 120)])
  | .gredFaddS sw d a => some (asm sw 0x3F [(17, fieldOf d), (10, fieldOf a), (0, 3), (3, 120)])
  | .gredAnd sw d a => some (asm sw 0x3F [(17, fieldOf d), (10, fieldOf a), (0, 4), (3, 120)])
  | .gredOr sw d a => some (asm sw 0x3F [(17, fieldOf d), (10, fieldOf a), (0, 5), (3, 120)])
  | .gredXor sw d a => some (asm sw 0x3F [(17, fieldOf d), (10, fieldOf a), (0, 6), (3, 120)])
  | .gscanAdd sw d a => some (asm sw 0x3F [(17, fieldOf d), (10, fieldOf a), (0, 7), (3, 120)])
  | .ldBS sw d base off => some (asm sw 0x40 [(17, fieldOf d), (10, fieldOf base), (0, off.toNat)])
  | .ldBN sw d base off => some (asm sw 0x41 [(17, fieldOf d), (10, fieldOf base), (0, off.toNat)])
  | .ldHS sw d base off => some (asm sw 0x42 [(17, fieldOf d), (10, fieldOf base), (0, off.toNat)])
  | .ldHN sw d base off => some (asm sw 0x43 [(17, fieldOf d), (10, fieldOf base), (0, off.toNat)])
  | .ldWS sw d base off => some (asm sw 0x44 [(17, fieldOf d), (10, fieldOf base), (0, off.toNat)])
  | .ldWN sw d base off => some (asm sw 0x45 [(17, fieldOf d), (10, fieldOf base), (0, off.toNat)])
  | .ldD sw d base off => some (asm sw 0x46 [(17, fieldOf d), (10, fieldOf base), (0, off.toNat)])
  | .stB sw d base off => some (asm sw 0x47 [(17, fieldOf d), (10, fieldOf base), (0, off.toNat)])
  | .stH sw d base off => some (asm sw 0x48 [(17, fieldOf d), (10, fieldOf base), (0, off.toNat)])
  | .stW sw d base off => some (asm sw 0x49 [(17, fieldOf d), (10, fieldOf base), (0, off.toNat)])
  | .stD sw d base off => some (asm sw 0x4A [(17, fieldOf d), (10, fieldOf base), (0, off.toNat)])
  | .ldDX sw d a b => some (asm sw 0x4B [(17, fieldOf d), (10, fieldOf a), (3, fieldOf b)])
  | .ldWX sw d a b => some (asm sw 0x4B [(17, fieldOf d), (10, fieldOf a), (3, fieldOf b), (0, 1)])
  | .stDX sw d a b => some (asm sw 0x4B [(17, fieldOf d), (10, fieldOf a), (3, fieldOf b), (0, 2)])
  | .stWX sw d a b => some (asm sw 0x4B [(17, fieldOf d), (10, fieldOf a), (3, fieldOf b), (0, 3)])
  | .ldDAcq sw d a sc => some (asm sw 0x4B [(17, fieldOf d), (10, fieldOf a), (3, scopeNum sc), (0, 4)])
  | .stDRel sw d a sc => some (asm sw 0x4B [(17, fieldOf d), (10, fieldOf a), (3, scopeNum sc), (0, 5)])
  | .ldWAcq sw d a sc => some (asm sw 0x4B [(17, fieldOf d), (10, fieldOf a), (3, scopeNum sc), (0, 6)])
  | .stWRel sw d a sc => some (asm sw 0x4B [(17, fieldOf d), (10, fieldOf a), (3, scopeNum sc), (0, 7)])
  | .sldW sw d base off => some (asm sw 0x4C [(17, fieldOf d), (10, fieldOf base), (0, off.toNat)])
  | .sldD sw d base off => some (asm sw 0x4D [(17, fieldOf d), (10, fieldOf base), (0, off.toNat)])
  | .sstW sw d base off => some (asm sw 0x4E [(17, fieldOf d), (10, fieldOf base), (0, off.toNat)])
  | .sstD sw d base off => some (asm sw 0x4F [(17, fieldOf d), (10, fieldOf base), (0, off.toNat)])
  | .lds256 sw d a bar => some (asm sw 0x50 [(17, fieldOf d), (10, fieldOf a), (3, bar.toNat)])
  | .lds1k sw d a bar => some (asm sw 0x50 [(17, fieldOf d), (10, fieldOf a), (3, bar.toNat), (0, 1)])
  | .lds4k sw d a bar => some (asm sw 0x50 [(17, fieldOf d), (10, fieldOf a), (3, bar.toNat), (0, 2)])
  | .lds16k sw d a bar => some (asm sw 0x50 [(17, fieldOf d), (10, fieldOf a), (3, bar.toNat), (0, 3)])
  | .amoAddD sw d a b => some (asm sw 0x51 [(17, fieldOf d), (10, fieldOf a), (3, fieldOf b)])
  | .amoAndD sw d a b => some (asm sw 0x51 [(17, fieldOf d), (10, fieldOf a), (3, fieldOf b), (0, 1)])
  | .amoOrD sw d a b => some (asm sw 0x51 [(17, fieldOf d), (10, fieldOf a), (3, fieldOf b), (0, 2)])
  | .amoXorD sw d a b => some (asm sw 0x51 [(17, fieldOf d), (10, fieldOf a), (3, fieldOf b), (0, 3)])
  | .amoMinSD sw d a b => some (asm sw 0x51 [(17, fieldOf d), (10, fieldOf a), (3, fieldOf b), (0, 4)])
  | .amoMaxSD sw d a b => some (asm sw 0x51 [(17, fieldOf d), (10, fieldOf a), (3, fieldOf b), (0, 5)])
  | .amoFaddD sw d a b => some (asm sw 0x51 [(17, fieldOf d), (10, fieldOf a), (3, fieldOf b), (0, 6)])
  | .amoSwapD sw d a b => some (asm sw 0x51 [(17, fieldOf d), (10, fieldOf a), (3, fieldOf b), (0, 7)])
  | .amoAddW sw d a b => some (asm sw 0x52 [(17, fieldOf d), (10, fieldOf a), (3, fieldOf b)])
  | .amoAndW sw d a b => some (asm sw 0x52 [(17, fieldOf d), (10, fieldOf a), (3, fieldOf b), (0, 1)])
  | .amoOrW sw d a b => some (asm sw 0x52 [(17, fieldOf d), (10, fieldOf a), (3, fieldOf b), (0, 2)])
  | .amoXorW sw d a b => some (asm sw 0x52 [(17, fieldOf d), (10, fieldOf a), (3, fieldOf b), (0, 3)])
  | .amoMinSW sw d a b => some (asm sw 0x52 [(17, fieldOf d), (10, fieldOf a), (3, fieldOf b), (0, 4)])
  | .amoMaxSW sw d a b => some (asm sw 0x52 [(17, fieldOf d), (10, fieldOf a), (3, fieldOf b), (0, 5)])
  | .amoFaddS sw d a b => some (asm sw 0x52 [(17, fieldOf d), (10, fieldOf a), (3, fieldOf b), (0, 6)])
  | .amoSwapW sw d a b => some (asm sw 0x52 [(17, fieldOf d), (10, fieldOf a), (3, fieldOf b), (0, 7)])
  | .casD sw d a b => some (asm sw 0x53 [(17, fieldOf d), (10, fieldOf a), (3, fieldOf b)])
  | .casW sw d a b => some (asm sw 0x53 [(17, fieldOf d), (10, fieldOf a), (3, fieldOf b), (0, 1)])
  | .lrw sw d a => some (asm sw 0x54 [(17, fieldOf d), (10, fieldOf a)])
  | .sch sw d a b => some (asm sw 0x54 [(17, fieldOf d), (10, fieldOf a), (3, fieldOf b), (0, 1)])
  | .relr sw a => some (asm sw 0x54 [(10, fieldOf a), (0, 2)])
  | .waita sw d a b c => some (asm sw 0x55 [(17, fieldOf d), (10, fieldOf a), (3, fieldOf b), (0, c.toNat)])
  | .fenceAcq sw sc => some (asm sw 0x56 [(10, scopeNum sc)])
  | .fenceRel sw sc => some (asm sw 0x56 [(10, scopeNum sc), (0, 1)])
  | .fenceAr sw sc => some (asm sw 0x56 [(10, scopeNum sc), (0, 2)])
  | .fenceSc sw sc => some (asm sw 0x56 [(10, scopeNum sc), (0, 3)])
  | .barinit sw bar b => some (asm sw 0x57 [(10, bar.toNat), (3, fieldOf b)])
  | .bararv sw bar => some (asm sw 0x57 [(10, bar.toNat), (0, 1)])
  | .barwait sw bar => some (asm sw 0x57 [(10, bar.toNat), (0, 2)])
  | .bartry sw d bar => some (asm sw 0x57 [(17, fieldOf d), (10, bar.toNat), (0, 3)])
  | .tbar sw bar => some (asm sw 0x57 [(10, bar.toNat), (0, 4)])
  | .pref sw a => some (asm sw 0x58 [(10, fieldOf a)])
  | .cwb sw a => some (asm sw 0x58 [(10, fieldOf a), (0, 1)])
  | .cinv sw a => some (asm sw 0x58 [(10, fieldOf a), (0, 2)])
  | .cwbi sw a => some (asm sw 0x58 [(10, fieldOf a), (0, 3)])
  | .isync sw => some (asm sw 0x58 [(0, 4)])
  | .rstW sw a b => some (asm sw 0x60 [(10, fieldOf a), (3, fieldOf b)])
  | .rstD sw a b => some (asm sw 0x60 [(10, fieldOf a), (3, fieldOf b), (0, 1)])
  | .ramoAddW sw a b => some (asm sw 0x61 [(10, fieldOf a), (3, fieldOf b)])
  | .ramoAddD sw a b => some (asm sw 0x61 [(10, fieldOf a), (3, fieldOf b), (0, 1)])
  | .ramoFaddS sw a b => some (asm sw 0x61 [(10, fieldOf a), (3, fieldOf b), (0, 2)])
  | .ramoMinS sw a b => some (asm sw 0x61 [(10, fieldOf a), (3, fieldOf b), (0, 3)])
  | .ramoMaxS sw a b => some (asm sw 0x61 [(10, fieldOf a), (3, fieldOf b), (0, 4)])
  | .ramoOrD sw a b => some (asm sw 0x61 [(10, fieldOf a), (3, fieldOf b), (0, 5)])
  | .ramoAndD sw a b => some (asm sw 0x61 [(10, fieldOf a), (3, fieldOf b), (0, 6)])
  | .ramoXorD sw a b => some (asm sw 0x61 [(10, fieldOf a), (3, fieldOf b), (0, 7)])
  | .rldW sw d a => some (asm sw 0x62 [(17, fieldOf d), (10, fieldOf a)])
  | .rldD sw d a => some (asm sw 0x62 [(17, fieldOf d), (10, fieldOf a), (0, 1)])
  | .rflushOne sw a => some (asm sw 0x63 [(10, fieldOf a)])
  | .rflushAll sw => some (asm sw 0x63 [(0, 1)])
  | .mcst sw a b => some (asm sw 0x64 [(10, fieldOf a), (3, fieldOf b)])
  | .cpyGg sw d a b => some (asm sw 0x65 [(17, fieldOf d), (10, fieldOf a), (3, fieldOf b)])
  | .cpyGs sw d a b => some (asm sw 0x65 [(17, fieldOf d), (10, fieldOf a), (3, fieldOf b), (0, 1)])
  | .cpySg sw d a b => some (asm sw 0x65 [(17, fieldOf d), (10, fieldOf a), (3, fieldOf b), (0, 2)])
  | .cpySs sw d a b => some (asm sw 0x65 [(17, fieldOf d), (10, fieldOf a), (3, fieldOf b), (0, 3)])
  | .gth32 sw d a b => some (asm sw 0x66 [(17, fieldOf d), (10, fieldOf a), (3, fieldOf b)])
  | .gth64 sw d a b => some (asm sw 0x66 [(17, fieldOf d), (10, fieldOf a), (3, fieldOf b), (0, 1)])
  | .gth128 sw d a b => some (asm sw 0x66 [(17, fieldOf d), (10, fieldOf a), (3, fieldOf b), (0, 2)])
  | .gth256 sw d a b => some (asm sw 0x66 [(17, fieldOf d), (10, fieldOf a), (3, fieldOf b), (0, 3)])
  | .sct32 sw d a b => some (asm sw 0x67 [(17, fieldOf d), (10, fieldOf a), (3, fieldOf b)])
  | .sct64 sw d a b => some (asm sw 0x67 [(17, fieldOf d), (10, fieldOf a), (3, fieldOf b), (0, 1)])
  | .sct128 sw d a b => some (asm sw 0x67 [(17, fieldOf d), (10, fieldOf a), (3, fieldOf b), (0, 2)])
  | .sct256 sw d a b => some (asm sw 0x67 [(17, fieldOf d), (10, fieldOf a), (3, fieldOf b), (0, 3)])
  | .enq sw d a b => some (asm sw 0x68 [(17, fieldOf d), (10, fieldOf a), (3, fieldOf b)])
  | .spawnLocal sw d b => some (asm sw 0x69 [(17, fieldOf d), (3, fieldOf b)])
  | .spawnDie sw d b => some (asm sw 0x69 [(17, fieldOf d), (3, fieldOf b), (0, 1)])
  | .endOp sw => some (asm sw 0x6A [])
  | .cpt sw n imm => some (asm sw 0x6B [(17, n.toNat), (0, imm.toNat)])
  | .yield sw => some (asm sw 0x6C [])
  | .yieldIf sw a => some (asm sw 0x6C [(10, fieldOf a), (0, 1)])
  | .btopIb sw d a b => some (asm sw 0x6D [(17, fieldOf d), (10, fieldOf a), (3, fieldOf b)])
  | .btopTb sw d a b => some (asm sw 0x6D [(17, fieldOf d), (10, fieldOf a), (3, fieldOf b), (0, 1)])
  | .msgapp sw d a b n => some (asm sw 0x6E [(17, fieldOf d), (10, fieldOf a), (3, fieldOf b), (0, n.toNat)])
  | .msgrecv sw d a b n => some (asm sw 0x6F [(17, fieldOf d), (10, fieldOf a), (3, fieldOf b), (0, n.toNat)])
  | .fmt sw a n => some (asm sw 0x70 [(10, fieldOf a), (0, n.toNat)])
  | .lut4 sw a b => some (asm sw 0x71 [(10, fieldOf a), (3, fieldOf b)])
  | .tzero sw t => some (asm sw 0x72 [(17, t.toNat)])
  | .trd sw t a b => some (asm sw 0x72 [(17, t.toNat), (10, fieldOf a), (3, fieldOf b), (0, 1)])
  | .twr sw t a b => some (asm sw 0x72 [(17, t.toNat), (10, fieldOf a), (3, fieldOf b), (0, 2)])
  | .tcvt sw t a b => some (asm sw 0x72 [(17, t.toNat), (10, fieldOf a), (3, fieldOf b), (0, 3)])
  | .tmmaNn sw t a b => some (asm sw 0x73 [(17, t.toNat), (10, fieldOf a), (3, fieldOf b)])
  | .tmmaTn sw t a b => some (asm sw 0x73 [(17, t.toNat), (10, fieldOf a), (3, fieldOf b), (0, 1)])
  | .tmmaNt sw t a b => some (asm sw 0x73 [(17, t.toNat), (10, fieldOf a), (3, fieldOf b), (0, 2)])
  | .tmmaTt sw t a b => some (asm sw 0x73 [(17, t.toNat), (10, fieldOf a), (3, fieldOf b), (0, 3)])
  | .tmmaSp sw t a b => some (asm sw 0x73 [(17, t.toNat), (10, fieldOf a), (3, fieldOf b), (0, 4)])
  | .tstF32 sw t a b => some (asm sw 0x74 [(17, t.toNat), (10, fieldOf a), (3, fieldOf b)])
  | .tstBf16 sw t a b => some (asm sw 0x74 [(17, t.toNat), (10, fieldOf a), (3, fieldOf b), (0, 1)])
  | .tstF16 sw t a b => some (asm sw 0x74 [(17, t.toNat), (10, fieldOf a), (3, fieldOf b), (0, 2)])
  | .tstaF32 sw t a b => some (asm sw 0x75 [(17, t.toNat), (10, fieldOf a), (3, fieldOf b)])
  | .tstaS32 sw t a b => some (asm sw 0x75 [(17, t.toNat), (10, fieldOf a), (3, fieldOf b), (0, 1)])
  | .trap sw imm => some (asm sw 0x78 [(0, imm.toNat)])
  | .rett sw => some (asm sw 0x79 [])
  | .srd sw d r => some (asm sw 0x7A [(17, fieldOf d), (0, r.toNat)])
  | .swr sw d r => some (asm sw 0x7B [(17, fieldOf d), (0, r.toNat)])
  | .tlbiAddr sw a b => some (asm sw 0x7C [(10, fieldOf a), (3, fieldOf b)])
  | .tlbiDom sw a => some (asm sw 0x7C [(10, fieldOf a), (0, 1)])
  | .tlbiAll sw => some (asm sw 0x7C [(0, 2)])
  | .commandCompletion _ _ => none
  | .illegalInstruction _ => none
  | .instructionFetchFault  => none

/-- The first static check an instruction fails, by name. -/
def fault? (i : Instr) : Option Reject :=
  if !WellFormed.destWritable i || !WellFormed.queueDestOk i then some .badDestination
  else if !WellFormed.runsOk i then some .badRun
  else if !WellFormed.liveCountOk i then some .badCount
  else if !WellFormed.conversionOk i then some .badConversion
  else if !WellFormed.specialOk i then some .badSpecial
  else none

/-- The instruction a word is, or why it is none. Every bit its form leaves unused must be as the encoder writes it (R342, R345). -/
noncomputable def decode (w : Nat) : Except Reject Instr :=
  match parse w with
  | .error r => .error r
  | .ok i =>
    if encode i = some w then
      match fault? i with
      | some r => .error r
      | none => .ok i
    else .error .reservedField

/-- The word in the four bytes at the front of a list, lowest address first (R8, R341). -/
def wordOfBytes : List Byte → Nat
  | [] => 0
  | b :: bs => b.toNat + 256 * wordOfBytes bs

/-- The `n` low bytes of a number, lowest first. -/
def bytesOfNat : Nat → Nat → List Byte
  | 0, _ => []
  | n + 1, v => BitVec.ofNat 8 v :: bytesOfNat n (v / 256)

/-- The decoder on the bits of an opcode-table row: the word stored as the hardware stores it (little-endian, 4 bytes),
then decoded. A row of no bits is an event and has no word. -/
noncomputable def decodeTableWord (nbits w : Nat) : Option Instr :=
  if nbits = 0 then none
  else
    match decode (wordOfBytes (bytesOfNat 4 (w % 2 ^ 32))) with
    | .ok i => some i
    | .error _ => none

end Sys2Proof
end

