-- ==== Sys2Proof/Config.lean ====
section
/-!
DEFINITION. What the manual leaves open: constants without a body, so that nothing can be proved of their values, each
named in the assumption log. A statement about the model holds whatever they are.
-/

namespace Sys2Proof.Config

/-- A choice the manual leaves to the Z5, fresh for each number (R4). -/
opaque freeNat : Nat → Nat

/-- A value the manual does not state, fresh for each number. -/
opaque freeWord : Nat → Word

/-- The 64 bytes of an Ed25519 signature under the device's identity key (R100, R102). -/
opaque edSignature : List Byte → BitVec 512

/-- The 3,309 bytes of an ML-DSA-65 signature under the device's identity key (R100, R102). -/
opaque mlSignature : List Byte → BitVec 26472

/-- The device serial number (R100). -/
opaque serial : Word

/-- The digest of the boot ROM's contents, a fixed value of the silicon revision (R82). -/
opaque romDigest : BitVec 384

/-- Bytes 16 to 5,372 of the identity certificate: keys and manufacturing signatures (R102). -/
opaque certificate : Nat → Byte

/-- The seal of a save image whose first block stands at an address; its secret changes at every reset (R166). -/
opaque sealOf (resets block : Nat) : Word

/-- Bytes of a save image after its header, which are not architected (R166). -/
opaque imageByte (block offset : Nat) : Byte

/-- The port a MODE 2 route takes among the ACTIVE candidates, by DST and WIN (R49). -/
opaque routeHash (dst win : Nat) : Nat

/-- The power of x that is the first root of the flit code's generator, and the others follow it (R39). -/
opaque fecFirstRoot : Nat

/-- How a boot image is laid out: none when its header is malformed (R30). -/
opaque bootImage : List Byte → Option BootImage

/-- The hash of a public key that a one-time fuse holds (R30): algorithm 0 Ed25519, 1 ML-DSA-65, keys 0 and 1. -/
opaque fusedHash (algorithm key : Nat) : BitVec 384

/-- The revocation fuse of that key (R30). -/
opaque keyRevoked (algorithm key : Nat) : Bool

/-- A signature of an algorithm over some bytes verifies under a public key (R30). -/
opaque verifies (algorithm : Nat) (key message signature : List Byte) : Bool

/-- The minimum security version that the fuses held at manufacture (R30). -/
opaque fusedMinimum : BitVec 16

/-- The credits of a VC that a link-control flit's payload returns (R43). -/
opaque creditsOf (payload : List Byte) (vc : Bool) : Nat

/-- The payload of a link-control flit that returns credits of a VC (R43). -/
opaque creditPayload (credits : Nat) (vc : Bool) : List Byte

/-- The credits a packet uses (R43). -/
opaque creditsFor (flits : Nat) : Nat

/-- The credits of a VC when its port becomes ACTIVE (R43). -/
opaque creditsAtStart (vc : Bool) : Nat

/-- How far, in steps of the last place or of the stated bound, a special function lies from the exact value: the place
of the result among the values R391 allows, by function and operand. -/
opaque sfuPlace (fn : Nat) (operand : BitVec 32) : Nat

end Sys2Proof.Config
end

