-- ==== Sys2Proof/Machine/Bits.lean ====
section
/-!
DEFINITION. Fields of words and addresses by division and remainder, and the plain integer reading of words.
-/

namespace Sys2Proof.Machine

/-- Field [hi:lo] of a number (R8). -/
def bitsN (v hi lo : Nat) : Nat := v / 2 ^ lo % 2 ^ (hi + 1 - lo)

/-- Bit `n` of a number. -/
def bitN (v n : Nat) : Bool := v / 2 ^ n % 2 = 1

/-- Field [hi:lo] of a word. -/
def bitsW (w : Word) (hi lo : Nat) : Nat := bitsN w.toNat hi lo

/-- Bit `n` of a word. -/
def bitW (w : Word) (n : Nat) : Bool := bitN w.toNat n

/-- A number cut to a word. -/
def word (n : Nat) : Word := BitVec.ofNat 64 n

/-- An integer cut to a word. -/
def wordI (i : Int) : Word := BitVec.ofInt 64 i

/-- A word of one bit. -/
def wordB (b : Bool) : Word := if b then 1 else 0

/-- The low `n` bits of a number read as a signed integer (R11). -/
def signedN (v n : Nat) : Int :=
  if v % 2 ^ n < 2 ^ (n - 1) then (v % 2 ^ n : Nat) else (v % 2 ^ n : Nat) - (2 ^ n : Nat)

/-- The low `n` bits of a word read as a signed integer. -/
def signedW (w : Word) (n : Nat) : Int := signedN w.toNat n

/-- v clamped to the n-bit signed range (R12). -/
def satS (v : Int) (n : Nat) : Int :=
  if v > 2 ^ (n - 1) - 1 then 2 ^ (n - 1) - 1 else if v < -(2 ^ (n - 1)) then -(2 ^ (n - 1)) else v

/-- v clamped to the n-bit unsigned range (R12). -/
def satN (v : Int) (n : Nat) : Int := if v > 2 ^ n - 1 then 2 ^ n - 1 else if v < 0 then 0 else v

/-- The n low bits of an integer, as a number. -/
def lowBits (v : Int) (n : Nat) : Nat := (v % (2 ^ n : Int)).toNat

/-- Bytes in little-endian order, read by `f` from address `a` upward (R8). -/
def gather (f : Nat → Byte) : Nat → Nat → Nat
  | 0, _ => 0
  | n + 1, a => (f a).toNat + 256 * gather f n (a + 1)

/-- The `n` low bytes of a number, lowest first. -/
def spread : Nat → Nat → List Byte
  | 0, _ => []
  | n + 1, v => BitVec.ofNat 8 v :: spread n (v / 256)

/-- A list of bytes as a number, lowest first. -/
def joinBytes : List Byte → Nat
  | [] => 0
  | b :: r => b.toNat + 256 * joinBytes r

/-- The bytes `f` holds from `a` upward. -/
def listBytes (f : Nat → Byte) : Nat → Nat → List Byte
  | 0, _ => []
  | n + 1, a => f a :: listBytes f n (a + 1)

/-- Element `i` of a list, or a default. -/
def nth {α : Type} (d : α) : List α → Nat → α
  | [], _ => d
  | v :: _, 0 => v
  | _ :: r, n + 1 => nth d r n

/-- A rising list of numbers with `n` in it. -/
def insertN : List Nat → Nat → List Nat
  | [], n => [n]
  | m :: r, n => if m = n then m :: r else if n < m then n :: m :: r else m :: insertN r n

/-- A list of numbers without `n`. -/
def removeN (l : List Nat) (n : Nat) : List Nat := l.filter (fun m => decide (m ≠ n))

/-- The numbers below `n` whose bit is set in a mask, ascending. -/
def onesOf (m : BitVec 16) : List Nat := (List.range 16).filter (fun i => bitN m.toNat i)

/-- A mask with the bits of a list of lanes. -/
def maskOf (l : List Nat) : BitVec 16 := l.foldl (fun m i => m ||| BitVec.ofNat 16 (2 ^ i)) 0

/-- Lane `l` is in a mask. -/
def inMask (m : BitVec 16) (l : Nat) : Bool := bitN m.toNat l

/-- The number of set bits among the low `n` bits. -/
def popCount : Nat → Nat → Nat
  | 0, _ => 0
  | n + 1, v => v % 2 + popCount n (v / 2)

/-- The smallest number at least `a` divided by `b`. -/
def ceilDiv (a b : Nat) : Nat := (a + b - 1) / b

end Sys2Proof.Machine
end

