-- ==== Sys2Proof/Machine/Float.lean ====
section
/-!
DEFINITION. Number formats and their arithmetic (11_arithmetic), on exact values: a finite value is a sign, a fraction of
two natural numbers and a power of two; every operation forms the exact result and rounds once.
-/

namespace Sys2Proof.Machine

open Sys2Proof

/-- A rounding with its direction settled (R372); SR carries the generator's number (R387). -/
inductive Rounding where
  | rne | rtz | rdn | rup | rna
  | sr (rnd : Nat)
  deriving DecidableEq, Repr

/-- The rounding a mode code names; a code above 4 acts as RNE, and FCSR never holds one (R373). -/
def roundingOf (code : Nat) : Rounding :=
  match code with | 1 => .rtz | 2 => .rdn | 3 => .rup | 4 => .rna | _ => .rne

/-- A binary format by its precision, its exponent bits and its bias (R370). -/
structure Fmt where
  prec  : Nat
  ebits : Nat
  bias  : Nat
  deriving DecidableEq, Repr

def fp64 : Fmt := { prec := 53, ebits := 11, bias := 1023 }
def fp32 : Fmt := { prec := 24, ebits := 8, bias := 127 }
def fp16 : Fmt := { prec := 11, ebits := 5, bias := 15 }
def bf16 : Fmt := { prec := 8, ebits := 8, bias := 127 }

/-- Bits of a format. -/
def Fmt.width (f : Fmt) : Nat := f.prec + f.ebits

/-- The exponent of the smallest normal value. -/
def Fmt.emin (f : Fmt) : Int := 1 - (f.bias : Int)

/-- What a code stands for: `fin neg m e` is (-1)^neg × m × 2^e. -/
inductive FVal where
  | nan (signalling : Bool)
  | inf (neg : Bool)
  | fin (neg : Bool) (m : Nat) (e : Int)
  deriving DecidableEq, Repr

/-- Flag bits of FCSR (R373). -/
def flagNX : Nat := 1
def flagUF : Nat := 2
def flagOF : Nat := 4
def flagDZ : Nat := 8
def flagNV : Nat := 16

/-- A flag raised when a condition holds. -/
def flagIf (b : Bool) (f : Nat) : Nat := if b then f else 0

/-- 2^e as a fraction's numerator or denominator. -/
def powNum (e : Int) : Nat := 2 ^ e.toNat
def powDen (e : Int) : Nat := 2 ^ (-e).toNat

/-- ⌊log2 (n/d)⌋ for positive n and d. -/
def floorLog (n d : Nat) : Int :=
  let l : Int := (Nat.log2 n : Int) - (Nat.log2 d : Int)
  if n * powDen l ≥ d * powNum l then l else l - 1

/-- Whether a magnitude between `i` and `i + 1`, at `r / d` of the way, is rounded up (R372, R387). -/
def roundUp (mode : Rounding) (neg : Bool) (i r d : Nat) : Bool :=
  match mode with
  | .rne => decide (2 * r > d) || (decide (2 * r = d) && decide (i % 2 = 1))
  | .rna => decide (2 * r ≥ d)
  | .rtz => false
  | .rdn => neg && decide (r > 0)
  | .rup => !neg && decide (r > 0)
  | .sr rnd => decide (r * 2 ^ 32 / d + rnd ≥ 2 ^ 32)

/-- A magnitude rounded to a multiple of 2^q. -/
structure Rounded where
  m       : Nat
  q       : Int
  inexact : Bool
  up      : Bool
  deriving DecidableEq, Repr

/-- n/d × 2^e rounded to a multiple of 2^q. -/
def roundAt (mode : Rounding) (neg : Bool) (n d : Nat) (e q : Int) : Rounded :=
  let num := n * powNum (e - q)
  let den := d * powDen (e - q)
  let i := num / den
  let r := num % den
  let u := roundUp mode neg i r den
  { m := if u then i + 1 else i, q := q, inexact := decide (r ≠ 0), up := u }

/-- The direction of a rounding that has been made, for the test of tininess (R387). -/
def Rounding.again (mode : Rounding) (up : Bool) : Rounding :=
  match mode with
  | .sr _ => if up then .sr (2 ^ 32) else .rtz
  | m => m

/-- Bits of a finite value m × 2^q of a format whose m is at most 2^prec. -/
def packFinite (f : Fmt) (neg : Bool) (m : Nat) (q : Int) : Nat :=
  let s := if neg then 2 ^ (f.width - 1) else 0
  if m < 2 ^ (f.prec - 1) then s + m
  else if m < 2 ^ f.prec then s + ((q + (f.prec : Int) - 1 + (f.bias : Int)).toNat * 2 ^ (f.prec - 1) + (m - 2 ^ (f.prec - 1)))
  else s + (q + (f.prec : Int) + (f.bias : Int)).toNat * 2 ^ (f.prec - 1)

def packInf (f : Fmt) (neg : Bool) : Nat :=
  (if neg then 2 ^ (f.width - 1) else 0) + (2 ^ f.ebits - 1) * 2 ^ (f.prec - 1)

def packMax (f : Fmt) (neg : Bool) : Nat := packInf f neg - 1

/-- The canonical NaN (R370). -/
def packNan (f : Fmt) : Nat := (2 ^ f.ebits - 1) * 2 ^ (f.prec - 1) + 2 ^ (f.prec - 2)

def packZero (f : Fmt) (neg : Bool) : Nat := if neg then 2 ^ (f.width - 1) else 0

/-- A finite rounded magnitude above the largest finite one. -/
def Fmt.tooBig (f : Fmt) (r : Rounded) : Bool :=
  decide (r.m ≠ 0) && decide (floorLog r.m 1 + r.q > (f.bias : Int))

/-- A magnitude above the largest finite one: the value ± n/d × 2^e is compared before rounding (R387). -/
def Fmt.aboveMax (f : Fmt) (n d : Nat) (e : Int) : Bool :=
  let q : Int := (f.bias : Int) - (f.prec : Int) + 1
  decide (n * powNum (e - q) > (2 ^ f.prec - 1) * (d * powDen (e - q)))

/-- The overflow result of a mode (R371, R387). -/
def packOverflow (f : Fmt) (mode : Rounding) (neg : Bool) : Nat :=
  match mode with
  | .rne | .rna => packInf f neg
  | .rtz | .sr _ => packMax f neg
  | .rdn => if neg then packInf f neg else packMax f neg
  | .rup => if neg then packMax f neg else packInf f neg

/-- A nonzero exact value ± n/d × 2^e rounded to a format, with its flags (R371, R387). -/
def roundTo (f : Fmt) (mode : Rounding) (neg : Bool) (n d : Nat) (e : Int) : Nat × Nat :=
  if n = 0 then (packZero f neg, 0)
  else
    let l := floorLog n d + e
    let p : Int := (f.prec : Int) - 1
    let q := if l - p < f.emin - p then f.emin - p else l - p
    let r := roundAt mode neg n d e q
    match mode with
    | .sr _ =>
      if f.aboveMax n d e then (packMax f neg, flagOF + flagNX)
      else
        let w := roundAt (mode.again r.up) neg n d e (l - p)
        let tiny := decide (floorLog w.m 1 + w.q < f.emin)
        (packFinite f neg r.m r.q, flagIf r.inexact flagNX + flagIf (r.inexact && tiny) flagUF)
    | _ =>
      if f.tooBig r then (packOverflow f mode neg, flagOF + flagNX)
      else
        let w := roundAt mode neg n d e (l - p)
        let tiny := decide (floorLog w.m 1 + w.q < f.emin)
        (packFinite f neg r.m r.q, flagIf r.inexact flagNX + flagIf (r.inexact && tiny) flagUF)

/-- The value of a code of a binary format (R370). -/
def decodeF (f : Fmt) (v : Nat) : FVal :=
  let neg := bitN v (f.width - 1)
  let ex := v / 2 ^ (f.prec - 1) % 2 ^ f.ebits
  let m := v % 2 ^ (f.prec - 1)
  if ex = 2 ^ f.ebits - 1 then
    if m = 0 then .inf neg else .nan (!bitN v (f.prec - 2))
  else if ex = 0 then .fin neg m (f.emin - ((f.prec : Int) - 1))
  else .fin neg (2 ^ (f.prec - 1) + m) ((ex : Int) - (f.bias : Int) - ((f.prec : Int) - 1))

/-- A signalling NaN among operands raises NV (R371). -/
def FVal.signals : FVal → Bool
  | .nan b => b
  | _ => false

def FVal.isNan : FVal → Bool
  | .nan _ => true
  | _ => false

/-- A zero of either sign. -/
def FVal.isZero : FVal → Bool
  | .fin _ m _ => decide (m = 0)
  | _ => false

def FVal.sign : FVal → Bool
  | .fin n _ _ => n
  | .inf n => n
  | .nan _ => false

def FVal.negate : FVal → FVal
  | .fin n m e => .fin (!n) m e
  | .inf n => .inf (!n)
  | v => v

/-- A signed exact sum of two dyadic values: integer and exponent. -/
def dyAdd (a : Int) (ea : Int) (b : Int) (eb : Int) : Int × Int :=
  let e := if ea ≤ eb then ea else eb
  (a * (powNum (ea - e) : Int) + b * (powNum (eb - e) : Int), e)

def signedOf (neg : Bool) (m : Nat) : Int := if neg then -(m : Int) else (m : Int)

/-- A signed dyadic value rounded; `zeroNeg` is the sign of an exact zero. -/
def roundDy (f : Fmt) (mode : Rounding) (v : Int) (e : Int) (zeroNeg : Bool) : Nat × Nat :=
  if v = 0 then (packZero f zeroNeg, 0) else roundTo f mode (decide (v < 0)) v.natAbs 1 e

/-- The sign of an exact zero sum (R371). -/
def zeroSumNeg (mode : Rounding) (na nb : Bool) : Bool :=
  if na = nb then na else match mode with | .rdn => true | _ => false

/-- The sum of two decoded values. -/
def addV (f : Fmt) (mode : Rounding) (x y : FVal) : Nat × Nat :=
  match x, y with
  | .nan a, _ => (packNan f, flagIf (a || y.signals) flagNV)
  | _, .nan b => (packNan f, flagIf b flagNV)
  | .inf a, .inf b => if a = b then (packInf f a, 0) else (packNan f, flagNV)
  | .inf a, _ => (packInf f a, 0)
  | _, .inf b => (packInf f b, 0)
  | .fin na ma ea, .fin nb mb eb =>
    let r := dyAdd (signedOf na ma) ea (signedOf nb mb) eb
    roundDy f mode r.1 r.2 (zeroSumNeg mode na nb)

/-- The product of two decoded values. -/
def mulV (f : Fmt) (mode : Rounding) (x y : FVal) : Nat × Nat :=
  match x, y with
  | .nan a, _ => (packNan f, flagIf (a || y.signals) flagNV)
  | _, .nan b => (packNan f, flagIf b flagNV)
  | .inf a, .inf b => (packInf f (a != b), 0)
  | .inf a, .fin b m _ => if m = 0 then (packNan f, flagNV) else (packInf f (a != b), 0)
  | .fin a m _, .inf b => if m = 0 then (packNan f, flagNV) else (packInf f (a != b), 0)
  | .fin na ma ea, .fin nb mb eb => roundTo f mode (na != nb) (ma * mb) 1 (ea + eb)

/-- x × y + z rounded once (R371). -/
def fmaV (f : Fmt) (mode : Rounding) (x y z : FVal) : Nat × Nat :=
  if x.isNan || y.isNan || z.isNan then
    let bad := match x, y with
      | .inf _, .fin _ 0 _ => true
      | .fin _ 0 _, .inf _ => true
      | _, _ => false
    (packNan f, flagIf (x.signals || y.signals || z.signals || bad) flagNV)
  else
    match x, y with
    | .fin na ma ea, .fin nb mb eb =>
      match z with
      | .inf c => (packInf f c, 0)
      | .fin nc mc ec =>
        let r := dyAdd (signedOf (na != nb) (ma * mb)) (ea + eb) (signedOf nc mc) ec
        roundDy f mode r.1 r.2 (zeroSumNeg mode (na != nb) nc)
      | .nan _ => (packNan f, 0)
    | .inf a, .fin b 0 _ => let _ := (a, b); (packNan f, flagNV)
    | .fin a 0 _, .inf b => let _ := (a, b); (packNan f, flagNV)
    | _, _ =>
      match z with
      | .inf c => if (x.sign != y.sign) = c then (packInf f c, 0) else (packNan f, flagNV)
      | _ => (packInf f (x.sign != y.sign), 0)

/-- x / y (R371). -/
def divV (f : Fmt) (mode : Rounding) (x y : FVal) : Nat × Nat :=
  match x, y with
  | .nan a, _ => (packNan f, flagIf (a || y.signals) flagNV)
  | _, .nan b => (packNan f, flagIf b flagNV)
  | .inf _, .inf _ => (packNan f, flagNV)
  | .inf a, .fin b _ _ => (packInf f (a != b), 0)
  | .fin a _ _, .inf b => (packZero f (a != b), 0)
  | .fin na ma ea, .fin nb mb eb =>
    if mb = 0 then (if ma = 0 then (packNan f, flagNV) else (packInf f (na != nb), flagDZ))
    else roundTo f mode (na != nb) ma mb (ea - eb)

/-- The integer square root by bits: `fuel` bits still to try. -/
def isqrtFrom : Nat → Nat → Nat → Nat
  | 0, _, r => r
  | b + 1, n, r => isqrtFrom b n (if (r + 2 ^ b) * (r + 2 ^ b) ≤ n then r + 2 ^ b else r)

/-- ⌊√n⌋. -/
def isqrt (n : Nat) : Nat := isqrtFrom (Nat.log2 n / 2 + 1) n 0

/-- √x: the root to `2 prec` bits and a sticky bit below, then rounded (R371). -/
def sqrtV (f : Fmt) (mode : Rounding) (x : FVal) : Nat × Nat :=
  match x with
  | .nan a => (packNan f, flagIf a flagNV)
  | .inf a => if a then (packNan f, flagNV) else (packInf f false, 0)
  | .fin neg m e =>
    if m = 0 then (packZero f neg, 0)
    else if neg then (packNan f, flagNV)
    else
      let k : Nat := 2 * f.prec + 4
      let par : Nat := (e % 2).toNat
      let n := m * 2 ^ par * 2 ^ (2 * k)
      let r := isqrt n
      let sticky := if r * r = n then 0 else 1
      roundTo f mode false (2 * r + sticky) 1 ((e - (par : Int)) / 2 - (k : Int) - 1)

/-- Order of two values that are no NaN: -1, 0 or 1; zeros of both signs are equal. -/
def cmpV (x y : FVal) : Int :=
  match x, y with
  | .inf a, .inf b => if a = b then 0 else if a then -1 else 1
  | .inf a, _ => if a then -1 else 1
  | _, .inf b => if b then 1 else -1
  | .fin na ma ea, .fin nb mb eb =>
    let r := dyAdd (signedOf na ma) ea (-(signedOf nb mb)) eb
    if r.1 < 0 then -1 else if r.1 = 0 then 0 else 1
  | _, _ => 0

/-- minimumNumber and maximumNumber (R371): -0 counts as less than +0. -/
def minMaxV (f : Fmt) (big : Bool) (a b : Nat) : Nat × Nat :=
  let x := decodeF f a
  let y := decodeF f b
  let fl := flagIf (x.signals || y.signals) flagNV
  if x.isNan && y.isNan then (packNan f, fl)
  else if x.isNan then (b, fl)
  else if y.isNan then (a, fl)
  else
    let c := cmpV x y
    let aFirst := if c = 0 then x.sign || !y.sign else decide (c < 0)
    if aFirst != big then (a, fl) else (b, fl)

/-- The value rounded to an integer of the same format: magnitude, inexact. -/
def integral (mode : Rounding) (neg : Bool) (m : Nat) (e : Int) : Rounded := roundAt mode neg m 1 e 0

/-- An integral value of a format (R371); NX when it differs. -/
def rintV (f : Fmt) (mode : Rounding) (x : FVal) : Nat × Nat :=
  match x with
  | .nan a => (packNan f, flagIf a flagNV)
  | .inf a => (packInf f a, 0)
  | .fin neg m e =>
    if m = 0 then (packZero f neg, 0)
    else
      let r := integral mode neg m e
      ((roundTo f .rtz neg r.m 1 0).1, flagIf r.inexact flagNX)

/-- A value converted to an n-bit integer (R384). -/
def toIntV (mode : Rounding) (signed : Bool) (n : Nat) (x : FVal) : Nat × Nat :=
  let hi : Int := if signed then 2 ^ (n - 1) - 1 else 2 ^ n - 1
  let lo : Int := if signed then -(2 ^ (n - 1)) else 0
  match x with
  | .nan _ => (0, flagNV)
  | .inf neg => (lowBits (if neg then lo else hi) n, flagNV)
  | .fin neg m e =>
    let r := integral mode neg m e
    let v := signedOf neg r.m
    if v > hi then (lowBits hi n, flagNV)
    else if v < lo then (lowBits lo n, flagNV)
    else (lowBits v n, flagIf r.inexact flagNX)

/-- An integer converted to a binary format (R385). -/
def ofIntV (f : Fmt) (mode : Rounding) (v : Int) : Nat × Nat := roundDy f mode v 0 false

/-! ### Eight-bit and tapered formats -/

/-- E4M3 codes (R375). -/
def decodeE4M3 (c : Nat) : FVal :=
  let neg := bitN c 7
  let ex := bitsN c 6 3
  let m := bitsN c 2 0
  if ex = 15 ∧ m = 7 then .nan false
  else if ex = 0 then .fin neg m (-9)
  else .fin neg (8 + m) ((ex : Int) - 10)

/-- E5M2 codes; its NaNs are quiet (R375). -/
def decodeE5M2 (c : Nat) : FVal :=
  match decodeF { prec := 3, ebits := 5, bias := 15 } (c % 256) with
  | .nan _ => .nan false
  | v => v

/-- The length of the run of bits equal to `b` from bit n - 1 downward. -/
def runLength (c : Nat) (b : Bool) : Nat → Nat
  | 0 => 0
  | n + 1 => if bitN c n = b then 1 + runLength c b n else 0

/-- A positive tapered code (R376). -/
def decodeTaperedPos (c n es : Nat) : FVal :=
  let b := bitN c (n - 2)
  let m := runLength c b (n - 1)
  let k : Int := if b then (m : Int) - 1 else -(m : Int)
  let left := n - 1 - m - 1
  let rest := c % 2 ^ left
  let x := if left ≥ es then rest / 2 ^ (left - es) else rest * 2 ^ (es - left)
  let fb := left - es
  .fin false (2 ^ fb + rest % 2 ^ fb) (k * (2 ^ es : Int) + (x : Int) - (fb : Int))

/-- T8 and T6 codes (R376); NaR counts as a quiet NaN (R383). -/
def decodeTapered (c n es : Nat) : FVal :=
  let v := c % 2 ^ n
  if v = 0 then .fin false 0 0
  else if v = 2 ^ (n - 1) then .nan false
  else if v > 2 ^ (n - 1) then (decodeTaperedPos (2 ^ n - v) n es).negate
  else decodeTaperedPos v n es

/-- Conversion to a tapered format (R379). -/
def encodeTapered (mode : Rounding) (n es : Nat) (x : FVal) : Nat × Nat :=
  match x with
  | .nan _ => (2 ^ (n - 1), flagNV)
  | .inf _ => (2 ^ (n - 1), flagNV)
  | .fin neg m e =>
    if m = 0 then (0, 0)
    else
      let top : Int := ((n : Int) - 2) * (2 ^ es : Int)
      let out (p : Nat) (nx : Bool) : Nat × Nat := ((if neg then 2 ^ n - p else p), flagIf nx flagNX)
      let q := floorLog m 1 + e
      if q ≥ top then out (2 ^ (n - 1) - 1) (decide (dyAdd m e (-1) top ≠ (0, (dyAdd m e (-1) top).2)))
      else if q < -top ∨ (dyAdd m e (-1) (-top)).1 ≤ 0 then out 1 (decide ((dyAdd m e (-1) (-top)).1 ≠ 0))
      else
        let k := q / (2 ^ es : Int)
        let ex := (q - k * (2 ^ es : Int)).toNat
        let l := Nat.log2 m
        let rlen := if k ≥ 0 then k.toNat + 2 else (-k).toNat + 1
        let reg := if k ≥ 0 then 2 ^ (k.toNat + 2) - 2 else 1
        let str := (reg * 2 ^ es + ex) * 2 ^ l + (m - 2 ^ l)
        let len := rlen + es + l
        if len ≤ n - 1 then out (str * 2 ^ (n - 1 - len)) false
        else
          let d := 2 ^ (len - (n - 1))
          let p := str / d
          let r := str % d
          out (if roundUp mode neg p r d then p + 1 else p) (decide (r ≠ 0))

/-- The formats a conversion may name. -/
inductive NumFmt where
  | ieee (f : Fmt)
  | e4m3 | e5m2 | t8 | t6
  deriving DecidableEq, Repr

/-- The value of a code of any format. -/
def decodeNum : NumFmt → Nat → FVal
  | .ieee f, v => decodeF f v
  | .e4m3, v => decodeE4M3 v
  | .e5m2, v => decodeE5M2 v
  | .t8, v => decodeTapered v 8 1
  | .t6, v => decodeTapered v 6 0

/-- E4M3 as rounding sees it: codes 1 to 0x7E, with no infinity; overflow saturates (R383). -/
def encodeE4M3 (mode : Rounding) (x : FVal) : Nat × Nat :=
  match x with
  | .nan s => (0x7F, flagIf s flagNV)
  | .inf neg => ((if neg then 0xFE else 0x7E), flagNV)
  | .fin neg m e =>
    if m = 0 then ((if neg then 0x80 else 0), 0)
    else
      let f : Fmt := { prec := 4, ebits := 4, bias := 7 }
      let l := floorLog m 1 + e
      let q := if l - 3 < -9 then -9 else l - 3
      let r := roundAt mode neg m 1 e q
      let sat := (if neg then 0xFE else 0x7E, flagOF + flagNX)
      let above := match mode with
        | .sr _ => decide ((dyAdd m e (-448) 0).1 > 0)
        | _ => decide ((dyAdd r.m r.q (-448) 0).1 > 0)
      if above then sat
      else
        let w := roundAt (mode.again r.up) neg m 1 e (l - 3)
        let tiny := decide (floorLog w.m 1 + w.q < -6)
        (packFinite f neg r.m r.q, flagIf r.inexact flagNX + flagIf (r.inexact && tiny) flagUF)

/-- A value converted to a binary format (R383). -/
def encodeF (f : Fmt) (mode : Rounding) (x : FVal) : Nat × Nat :=
  match x with
  | .nan s => (packNan f, flagIf s flagNV)
  | .inf neg => (packInf f neg, 0)
  | .fin neg m e => roundTo f mode neg m 1 e

/-- E5M2: finite overflow saturates in every mode (R383). -/
def encodeE5M2 (mode : Rounding) (x : FVal) : Nat × Nat :=
  match x with
  | .nan s => (0x7E, flagIf s flagNV)
  | .inf neg => ((if neg then 0xFC else 0x7C), 0)
  | .fin neg m e =>
    let r := roundTo { prec := 3, ebits := 5, bias := 15 } mode neg m 1 e
    if r.2 / 4 % 2 = 1 then ((if neg then 0xFB else 0x7B), flagOF + flagNX) else r

/-- A value converted to any format (R379, R383). -/
def encodeNum (mode : Rounding) : NumFmt → FVal → Nat × Nat
  | .ieee f, x => encodeF f mode x
  | .e4m3, x => encodeE4M3 mode x
  | .e5m2, x => encodeE5M2 mode x
  | .t8, x => encodeTapered mode 8 1 x
  | .t6, x => encodeTapered mode 6 0 x

/-- One step of the generator (R386). -/
def xorshift (s : Nat) : Nat :=
  let a := (s ^^^ (s * 2 ^ 13 % 2 ^ 32)) % 2 ^ 32
  let b := a ^^^ (a / 2 ^ 17)
  b ^^^ (b * 2 ^ 5 % 2 ^ 32)

/-- The generator state of lane `l` when a group of width `w` forms from state `b` of lane `l0` (R386). -/
def seedFor (b l l0 w : Nat) : Nat :=
  let s := b ^^^ (((l + w - l0) % w * 0x9E3779B9) % 2 ^ 32)
  if s = 0 then 1 else s

/-! ### Special functions -/

/-- Fixed-point numbers below have 128 fraction bits. -/
def fxOne : Nat := 2 ^ 128

/-- π, ln 2 and log2 e to 128 fraction bits, cut. -/
def fxPi : Nat := 0x3243F6A8885A308D313198A2E03707344
def fxLn2 : Nat := 0xB17217F7D1CF79ABC9E3B39803F2F6AF
def fxLog2e : Nat := 0x171547652B82FE1777D0FFDA0D23A7D11

def fxMul (a b : Nat) : Nat := a * b / 2 ^ 128

/-- Σ z^k / k! from term k on, `fuel` terms; `t` is the term before. -/
def expSeries : Nat → Nat → Nat → Nat → Nat
  | 0, _, _, _ => 0
  | n + 1, k, t, z => t + expSeries n (k + 1) (fxMul t z / (k + 1)) z

/-- 2^f for a fixed-point f below 1. -/
def fxExp2 (f : Nat) : Nat := expSeries 40 0 fxOne (fxMul f fxLn2)

/-- The fraction bits of log2 of a fixed-point number in [1, 2), by squaring. -/
def fxLog2 : Nat → Nat → Nat
  | 0, _ => 0
  | n + 1, m =>
    let s := fxMul m m
    if s ≥ 2 * fxOne then 2 ^ n + fxLog2 n (s / 2) else fxLog2 n s

/-- sin z / z from z², alternating terms; `t` is the term before. -/
def sincSeries : Nat → Nat → Nat → Nat → Int
  | 0, _, _, _ => 0
  | n + 1, k, t, z2 => (t : Int) - sincSeries n (k + 1) (fxMul t z2 / ((2 * k + 2) * (2 * k + 3))) z2

/-- An approximation n × 2^e of a positive exact value, good to far below the bounds of R391. -/
structure Approx where
  n : Nat
  e : Int
  deriving DecidableEq, Repr

/-- The FP32 codes near a positive approximation whose distance from it is at most `b / 2^60` × 2^u, in code order
(R391). -/
def nearCodes (a : Approx) (b : Nat) (u : Int) : List Nat :=
  let c := (roundTo fp32 .rne false a.n 1 a.e).1
  (((List.range 17).map (fun i => c + 8 - i)).filter (fun k => decide (8 ≤ c + 8)
      && decide (c + 8 ≤ k + 16) && decide (k < 0x7F800000) && decide (0 < k))).filter (fun k =>
    match decodeF fp32 k with
    | .fin _ m e =>
      let d := dyAdd m e (-(a.n : Int)) a.e
      let t := dyAdd (d.1.natAbs : Int) d.2 (-(b : Int)) (u - 60)
      decide (t.1 ≤ 0)
    | _ => false)

/-- The value the unit returns among those the bound allows: a fixed, unknown choice per function and operand (R392). -/
def pickNear (fn : Nat) (x : Nat) (a : Approx) (b : Nat) (u : Int) : Nat :=
  let l := nearCodes a b u
  if l = [] then (roundTo fp32 .rne false a.n 1 a.e).1
  else nth 0 l (Config.sfuPlace fn (BitVec.ofNat 32 x) % l.length)

/-- ulp(y) as a power of two (R391). -/
def ulpOf (a : Approx) : Int :=
  let q := floorLog a.n 1 + a.e
  (if q < -126 then -126 else q) - 23

/-- A result within `b` ulp, ±∞ with OF when the exact value rounds beyond the largest finite one (R391, R392). -/
def sfuNear (fn x : Nat) (neg : Bool) (a : Approx) (b : Nat) : Nat × Nat :=
  let s := if neg then 2 ^ 31 else 0
  if a.n = 0 then (s, 0)
  else if (roundTo fp32 .rne false a.n 1 a.e).1 = packInf fp32 false then (s + packInf fp32 false, flagOF)
  else (s + pickNear fn x a (b * 2 ^ 60 + 1) (ulpOf a), 0)

/-- The exponent of a value that is a power of two. -/
def powerOf (m : Nat) (e : Int) : Option Int :=
  if m = 2 ^ Nat.log2 m then some ((Nat.log2 m : Int) + e) else none

/-- 2^n as FP32, for n within the format. -/
def packPow (neg : Bool) (n : Int) : Nat := (roundTo fp32 .rne neg 1 1 n).1

/-- FRCP.S (R391). -/
def sfuRcp (x : Nat) : Nat × Nat :=
  match decodeF fp32 x with
  | .nan s => (packNan fp32, flagIf s flagNV)
  | .inf n => (packZero fp32 n, 0)
  | .fin neg m e =>
    if m = 0 then (packInf fp32 neg, flagDZ)
    else match powerOf m e with
      | some k =>
        let r := roundTo fp32 .rne neg 1 1 (-k)
        (r.1, flagIf (decide (r.2 / 4 % 2 = 1)) flagOF)
      | none => sfuNear 0 (x % 2 ^ 31) neg { n := 2 ^ 128 / m, e := -128 - e } 1

/-- FRSQ.S (R391). -/
def sfuRsq (x : Nat) : Nat × Nat :=
  match decodeF fp32 x with
  | .nan s => (packNan fp32, flagIf s flagNV)
  | .inf n => if n then (packNan fp32, flagNV) else (packZero fp32 false, 0)
  | .fin neg m e =>
    if m = 0 then (packInf fp32 neg, flagDZ)
    else if neg then (packNan fp32, flagNV)
    else match powerOf m e with
      | some k =>
        if k % 2 = 0 then (packPow false (-(k / 2)), 0)
        else sfuNear 1 x false { n := isqrt (2 ^ 257 / 4), e := -128 - (k - 1) / 2 } 2
      | none =>
        let par : Nat := (e % 2).toNat
        sfuNear 1 x false { n := isqrt (2 ^ 320 / (m * 2 ^ par)), e := -160 - (e - (par : Int)) / 2 } 2

/-- FEXP2.S (R391). -/
def sfuExp2 (x : Nat) : Nat × Nat :=
  match decodeF fp32 x with
  | .nan s => (packNan fp32, flagIf s flagNV)
  | .inf n => (if n then packZero fp32 false else packInf fp32 false, 0)
  | .fin neg m e =>
    let big := decide (floorLog (if m = 0 then 1 else m) 1 + e ≥ 9)
    if m = 0 then (packPow false 0, 0)
    else if big then (if neg then (packZero fp32 false, 0) else (packInf fp32 false, flagOF))
    else
      let v := signedOf neg m
      let fx : Int := if e + 128 ≥ 0 then v * (powNum (e + 128) : Int) else v / (powDen (e + 128) : Int)
      let i := fx / (fxOne : Int)
      let f := (fx - i * (fxOne : Int)).toNat
      if f = 0 ∧ e + 128 ≥ 0 then
        if i ≥ 128 then (packInf fp32 false, flagOF) else (packPow false i, 0)
      else if i < -160 then (packZero fp32 false, 0)
      else sfuNear 3 x false { n := fxExp2 f, e := i - 128 } 2

/-- FLOG2.S (R391). -/
def sfuLog2 (x : Nat) : Nat × Nat :=
  match decodeF fp32 x with
  | .nan s => (packNan fp32, flagIf s flagNV)
  | .inf n => if n then (packNan fp32, flagNV) else (packInf fp32 false, 0)
  | .fin neg m e =>
    if m = 0 then (packInf fp32 true, flagDZ)
    else if neg then (packNan fp32, flagNV)
    else match powerOf m e with
      | some k => (ofIntV fp32 .rne k)
      | none =>
        let l := Nat.log2 m
        let k : Int := (l : Int) + e
        let y : Int := k * (fxOne : Int) + (fxLog2 128 (m * 2 ^ (128 - l)) : Int)
        sfuNear 4 x (decide (y < 0)) { n := y.natAbs, e := -128 } 2

/-- A magnitude m × 2^e modulo 2 in fixed point, exact when e ≥ -128; and its exactness. -/
def modTwo (m : Nat) (e : Int) : Nat :=
  if e + 128 ≥ 0 then m * powNum (e + 128) % (2 * fxOne) else m / powDen (e + 128)

/-- sin(π t) for a fixed-point t in (0, 1/2], as an approximation good in relative terms. -/
def sinPi (t : Nat) : Approx :=
  let z := t * fxPi
  let zf := z / 2 ^ 128
  { n := z * (sincSeries 30 0 fxOne (fxMul zf zf)).toNat, e := -384 }

/-- sin(π m 2^e) for values whose fixed-point form would lose bits: π m 2^e. -/
def sinTiny (m : Nat) (e : Int) : Approx := { n := m * fxPi, e := e - 128 }

/-- sin(π x) of the finite operand `x` = ± m × 2^e (R391). -/
def sinFinite (x : Nat) (neg : Bool) (m : Nat) (e : Int) : Nat × Nat :=
  let t := modTwo m e
  let half := fxOne / 2
  if m = 0 then (packZero fp32 neg, 0)
  else if floorLog m 1 + e < -60 then sfuNear 5 (x % 2 ^ 31) neg (sinTiny m e) 2
  else if t % fxOne = 0 then (packZero fp32 neg, 0)
  else if t = half then (packPow neg 0, 0)
  else if t = fxOne + half then (packPow (!neg) 0, 0)
  else
    let u := t % fxOne
    sfuNear 5 (x % 2 ^ 31) (neg != decide (t > fxOne)) (sinPi (if u > half then fxOne - u else u)) 2

/-- FSINPI.S (R391). -/
def sfuSinPi (x : Nat) : Nat × Nat :=
  match decodeF fp32 x with
  | .nan s => (packNan fp32, flagIf s flagNV)
  | .inf _ => (packNan fp32, flagNV)
  | .fin neg m e => sinFinite x neg m e

/-- FCOSPI.S (R391). -/
def sfuCosPi (x : Nat) : Nat × Nat :=
  match decodeF fp32 x with
  | .nan s => (packNan fp32, flagIf s flagNV)
  | .inf _ => (packNan fp32, flagNV)
  | .fin _ m e =>
    if m = 0 then (packPow false 0, 0)
    else if floorLog m 1 + e < -60 then sfuNear 6 (x % 2 ^ 31) false { n := 2 ^ 128 - 1, e := -128 } 2
    else
      let t := modTwo m e
      let half := fxOne / 2
      if t = 0 then (packPow false 0, 0)
      else if t = fxOne then (packPow true 0, 0)
      else if t = half ∨ t = fxOne + half then (packZero fp32 false, 0)
      else
        let u := if t > fxOne then 2 * fxOne - t else t
        if u < half then sfuNear 6 (x % 2 ^ 31) false (sinPi (half - u)) 2
        else sfuNear 6 (x % 2 ^ 31) true (sinPi (u - half)) 2

/-- An approximation of tanh (m × 2^e). -/
def tanhNear (m : Nat) (e : Int) : Approx :=
  let q := floorLog m 1 + e
  if q < -30 then { n := m, e := e }
  else if q ≥ 5 then { n := 2 ^ 128 - 1, e := -128 }
  else
    let fx := if e + 129 ≥ 0 then m * powNum (e + 129) else m / powDen (e + 129)
    let u := fxMul fx fxLog2e
    let ex := fxExp2 (u % fxOne) * 2 ^ (u / fxOne)
    { n := (ex - fxOne) * fxOne / (ex + fxOne), e := -128 }

/-- The codes no further than 2^-21 from an approximation and at most 1 (R391). -/
def tanhCodes (a : Approx) : List Nat :=
  (((List.range 128).map (fun i => (roundTo fp32 .rne false a.n 1 a.e).1 + 64 - i))).filter (fun k =>
    decide (k ≤ 0x3F800000) && (match decodeF fp32 k with
      | .fin false mk ek =>
        let d := dyAdd mk ek (-(a.n : Int)) a.e
        decide ((dyAdd (d.1.natAbs : Int) d.2 (-(2 ^ 60 + 1 : Int)) (-81)).1 ≤ 0)
      | _ => false))

/-- The magnitude of FTANH.S for a finite nonzero operand whose magnitude has the code `x`. -/
def tanhMag (x m : Nat) (e : Int) : Nat :=
  let a := tanhNear m e
  let near := tanhCodes a
  if near = [] then (roundTo fp32 .rne false a.n 1 a.e).1 else nth 0 near (Config.sfuPlace 7 (BitVec.ofNat 32 x) % near.length)

/-- FTANH.S: within 2^-21 of the exact value and never above 1 in magnitude (R391). -/
def sfuTanh (x : Nat) : Nat × Nat :=
  match decodeF fp32 x with
  | .nan s => (packNan fp32, flagIf s flagNV)
  | .inf n => (packPow n 0, 0)
  | .fin neg m e =>
    let s := if neg then 2 ^ 31 else 0
    if m = 0 then (s, 0) else (s + tanhMag (x % 2 ^ 31) m e, 0)

/-! ### Matrix arithmetic -/

/-- One product term of an engine step (R388): special cases are kept apart from the exact value. -/
structure Term where
  nan  : Bool
  pinf : Bool
  ninf : Bool
  negz : Bool          -- the product is −0
  m    : Int
  e    : Int
  deriving DecidableEq, Repr

/-- The product of two operand values under scales 2^s, or with a NaN scale. -/
def termOf (x y : FVal) (s : Int) (nanScale : Bool) : Term :=
  match x, y with
  | .fin na ma ea, .fin nb mb eb =>
    { nan := nanScale, pinf := false, ninf := false
      negz := decide (ma * mb = 0) && (na != nb)
      m := signedOf (na != nb) (ma * mb), e := ea + eb + s }
  | .nan _, _ => { nan := true, pinf := false, ninf := false, negz := false, m := 0, e := 0 }
  | _, .nan _ => { nan := true, pinf := false, ninf := false, negz := false, m := 0, e := 0 }
  | a, b =>
    let neg := a.sign != b.sign
    { nan := nanScale || a.isZero || b.isZero, pinf := !neg, ninf := neg, negz := false, m := 0, e := 0 }

/-- An accumulator as a term. -/
def termAcc (x : FVal) : Term :=
  match x with
  | .nan _ => { nan := true, pinf := false, ninf := false, negz := false, m := 0, e := 0 }
  | .inf n => { nan := false, pinf := !n, ninf := n, negz := false, m := 0, e := 0 }
  | .fin n m e => { nan := false, pinf := false, ninf := false, negz := decide (m = 0) && n, m := signedOf n m, e := e }

/-- The exact sum of terms. -/
def sumTerms : List Term → Int × Int
  | [] => (0, 0)
  | t :: r => let s := sumTerms r; if t.m = 0 then s else if s.1 = 0 then (t.m, t.e) else dyAdd t.m t.e s.1 s.2

/-- The new FP32 accumulator of one output (R388). -/
def accumulate (acc : Nat) (ts : List Term) : Nat :=
  let all := termAcc (decodeF fp32 acc) :: ts
  if all.any Term.nan || (all.any Term.pinf && all.any Term.ninf) then packNan fp32
  else if all.any Term.pinf then packInf fp32 false
  else if all.any Term.ninf then packInf fp32 true
  else
    let s := sumTerms all
    if s.1 = 0 then packZero fp32 (all.all Term.negz)
    else (roundTo fp32 .rne (decide (s.1 < 0)) s.1.natAbs 1 s.2).1

/-- FP32 and FP64 addition of the memory forms: nearest-even, no flags (R463, R516). -/
def memAdd (f : Fmt) (a b : Nat) : Nat := (addV f .rne (decodeF f a) (decodeF f b)).1

end Sys2Proof.Machine
end

