-- ==== Sys2Proof/Machine/Crypto.lean ====
section
/-!
DEFINITION. The codes and ciphers that rules name by their standards: SHA-384 (R30, R82), AES-256-XTS over one 256-byte sector
(R275), and the RS(64,60) code of a flit (R39, R40).
-/

namespace Sys2Proof.Machine

open Sys2Proof

/-! ### SHA-384 -/

/-- The round constants, rounds 0 to 39 and 40 to 79. -/
def shaConst0 : List Word :=
  [0x428A2F98D728AE22, 0x7137449123EF65CD, 0xB5C0FBCFEC4D3B2F, 0xE9B5DBA58189DBBC, 0x3956C25BF348B538,
   0x59F111F1B605D019, 0x923F82A4AF194F9B, 0xAB1C5ED5DA6D8118, 0xD807AA98A3030242, 0x12835B0145706FBE,
   0x243185BE4EE4B28C, 0x550C7DC3D5FFB4E2, 0x72BE5D74F27B896F, 0x80DEB1FE3B1696B1, 0x9BDC06A725C71235,
   0xC19BF174CF692694, 0xE49B69C19EF14AD2, 0xEFBE4786384F25E3, 0x0FC19DC68B8CD5B5, 0x240CA1CC77AC9C65,
   0x2DE92C6F592B0275, 0x4A7484AA6EA6E483, 0x5CB0A9DCBD41FBD4, 0x76F988DA831153B5, 0x983E5152EE66DFAB,
   0xA831C66D2DB43210, 0xB00327C898FB213F, 0xBF597FC7BEEF0EE4, 0xC6E00BF33DA88FC2, 0xD5A79147930AA725,
   0x06CA6351E003826F, 0x142929670A0E6E70, 0x27B70A8546D22FFC, 0x2E1B21385C26C926, 0x4D2C6DFC5AC42AED,
   0x53380D139D95B3DF, 0x650A73548BAF63DE, 0x766A0ABB3C77B2A8, 0x81C2C92E47EDAEE6, 0x92722C851482353B]
def shaConst1 : List Word :=
  [0xA2BFE8A14CF10364, 0xA81A664BBC423001, 0xC24B8B70D0F89791, 0xC76C51A30654BE30, 0xD192E819D6EF5218,
   0xD69906245565A910, 0xF40E35855771202A, 0x106AA07032BBD1B8, 0x19A4C116B8D2D0C8, 0x1E376C085141AB53,
   0x2748774CDF8EEB99, 0x34B0BCB5E19B48A8, 0x391C0CB3C5C95A63, 0x4ED8AA4AE3418ACB, 0x5B9CCA4F7763E373,
   0x682E6FF3D6B2B8A3, 0x748F82EE5DEFB2FC, 0x78A5636F43172F60, 0x84C87814A1F0AB72, 0x8CC702081A6439EC,
   0x90BEFFFA23631E28, 0xA4506CEBDE82BDE9, 0xBEF9A3F7B2C67915, 0xC67178F2E372532B, 0xCA273ECEEA26619C,
   0xD186B8C721C0C207, 0xEADA7DD6CDE0EB1E, 0xF57D4F7FEE6ED178, 0x06F067AA72176FBA, 0x0A637DC5A2C898A6,
   0x113F9804BEF90DAE, 0x1B710B35131C471B, 0x28DB77F523047D84, 0x32CAAB7B40C72493, 0x3C9EBE0A15C9BEBC,
   0x431D67C49C100D4C, 0x4CC5D4BECB3E42B6, 0x597F299CFC657E2A, 0x5FCB6FAB3AD6FAEC, 0x6C44198C4A475817]

/-- The eight words before the first block. -/
def shaStart : List Word :=
  [0xCBBB9D5DC1059ED8, 0x629A292A367CD507, 0x9159015A3070DD17, 0x152FECD8F70E5939, 0x67332667FFC00B31,
   0x8EB44A8768581511, 0xDB0C2E0D64F98FA7, 0x47B5481DBEFA4FA4]

/-- A word rotated right. -/
def rotr (x : Word) (n : Nat) : Word := (x >>> n) ||| (x <<< (64 - n))

/-- The message schedule of a block: 16 words, latest first, and `n` more. -/
def shaSchedule : Nat → List Word → List Word
  | 0, w => w
  | n + 1, w =>
    let a := nth 0 w 1
    let b := nth 0 w 14
    let s1 := rotr a 19 ^^^ rotr a 61 ^^^ (a >>> 6)
    let s0 := rotr b 1 ^^^ rotr b 8 ^^^ (b >>> 7)
    shaSchedule n ((s1 + nth 0 w 6 + s0 + nth 0 w 15) :: w)

/-- One round on the eight working words, with its constant and schedule word. -/
def shaRound (v : List Word) (kw : Word × Word) : List Word :=
  match v with
  | [a, b, c, d, e, f, g, h] =>
    let t1 := h + (rotr e 14 ^^^ rotr e 18 ^^^ rotr e 41) + ((e &&& f) ^^^ (~~~e &&& g)) + kw.1 + kw.2
    let t2 := (rotr a 28 ^^^ rotr a 34 ^^^ rotr a 39) + ((a &&& b) ^^^ (a &&& c) ^^^ (b &&& c))
    [t1 + t2, a, b, c, d + t1, e, f, g]
  | _ => v

/-- A word from eight bytes, the first the highest. -/
def bigWord (bs : List Byte) : Word := word (joinBytes bs.reverse)

/-- The chaining words after one block of 128 bytes. -/
def shaBlock (h : List Word) (bs : List Byte) : List Word :=
  let w := (List.range 16).map (fun i => bigWord ((bs.drop (8 * i)).take 8))
  let v := ((shaConst0 ++ shaConst1).zip (shaSchedule 64 w.reverse).reverse).foldl shaRound h
  List.zipWith (· + ·) h v

/-- The chaining words after `n` blocks. -/
def shaBlocks : Nat → List Word → List Byte → List Word
  | 0, h, _ => h
  | n + 1, h, bs => shaBlocks n (shaBlock h (bs.take 128)) (bs.drop 128)

/-- The message with its padding: a one bit, zeros, and its length in bits in 16 bytes. -/
def shaPad (m : List Byte) : List Byte :=
  m ++ [0x80] ++ List.replicate ((239 - m.length % 128) % 128) 0 ++ (spread 16 (8 * m.length)).reverse

/-- SHA-384 as 48 bytes, the first the highest. -/
def sha384Bytes (m : List Byte) : List Byte :=
  ((shaBlocks ((m.length + 144) / 128) shaStart (shaPad m)).take 6).flatMap (fun w => (spread 8 w.toNat).reverse)

/-- SHA-384 of a byte string. -/
def sha384 (m : List Byte) : BitVec 384 := BitVec.ofNat 384 (joinBytes (sha384Bytes m).reverse)

/-! ### Fields of 256 elements -/

/-- A byte times x, where x^8 is the polynomial `red`. -/
def timesX (red a : Byte) : Byte := (a <<< 1) ^^^ (if a.msb then red else 0)

/-- The product of two bytes, over the low `n` bits of the second. -/
def fieldMul (red : Byte) : Nat → Byte → Byte → Byte
  | 0, _, _ => 0
  | n + 1, a, b => (if b.getLsbD 0 then a else 0) ^^^ fieldMul red n (timesX red a) (b >>> 1)

/-- A power of a byte. -/
def fieldPow (red a : Byte) : Nat → Byte
  | 0 => 1
  | n + 1 => fieldMul red 8 (fieldPow red a n) a

/-- The inverse of a byte; zero for zero. -/
def fieldInv (red a : Byte) : Byte := fieldPow red a 254

/-! ### AES-256 -/

/-- The product in the field of AES. -/
def aesMul (a b : Byte) : Byte := fieldMul 0x1B 8 a b

/-- A byte rotated left. -/
def rotl8 (a : Byte) (n : Nat) : Byte := (a <<< n) ||| (a >>> (8 - n))

/-- The substitution of a byte and its inverse. -/
def aesSub (a : Byte) : Byte :=
  let b := fieldInv 0x1B a
  b ^^^ rotl8 b 1 ^^^ rotl8 b 2 ^^^ rotl8 b 3 ^^^ rotl8 b 4 ^^^ 0x63
def aesUnsub (a : Byte) : Byte := fieldInv 0x1B (rotl8 a 1 ^^^ rotl8 a 3 ^^^ rotl8 a 6 ^^^ 0x05)

/-- Two byte strings combined bit by bit. -/
def xorBytes (a b : List Byte) : List Byte := List.zipWith (· ^^^ ·) a b

/-- `n` more words of a key schedule whose words so far, latest first, are `w`; `i` is the number of the next. -/
def aesExpand : Nat → Nat → List (List Byte) → List (List Byte)
  | 0, _, w => w
  | n + 1, i, w =>
    let p := nth [] w 0
    let t :=
      if i % 8 = 0 then xorBytes ((p.drop 1 ++ p.take 1).map aesSub) [fieldPow 0x1B 2 (i / 8 - 1), 0, 0, 0]
      else if i % 8 = 4 then p.map aesSub
      else p
    aesExpand n (i + 1) (xorBytes (nth [] w 7) t :: w)

/-- The 15 round keys of a 32-byte key. -/
def aesKeys (key : List Byte) : List (List Byte) :=
  let w := (aesExpand 52 8 ((List.range 8).map (fun i => (key.drop (4 * i)).take 4)).reverse).reverse
  (List.range 15).map (fun r => ((w.drop (4 * r)).take 4).flatten)

/-- The rows of a block turned left by their number, or with `back` right. -/
def aesShift (back : Bool) (b : List Byte) : List Byte :=
  (List.range 16).map (fun i => nth 0 b (i % 4 + 4 * ((i / 4 + (if back then 4 - i % 4 else i % 4)) % 4)))

/-- The columns of a block multiplied by a polynomial with the four coefficients, lowest last. -/
def aesMix (c : List Byte) (b : List Byte) : List Byte :=
  (List.range 16).map (fun i =>
    (List.range 4).foldl (fun a j => a ^^^ aesMul (nth 0 c ((j + 4 - i % 4) % 4)) (nth 0 b (4 * (i / 4) + j))) 0)

/-- One block of 16 bytes enciphered under round keys. -/
def aesEncrypt (keys : List (List Byte)) (b : List Byte) : List Byte :=
  let b0 := xorBytes b (nth [] keys 0)
  let b13 := ((keys.drop 1).take 13).foldl (fun a k => xorBytes (aesMix [2, 3, 1, 1] (aesShift false (a.map aesSub))) k) b0
  xorBytes (aesShift false (b13.map aesSub)) (nth [] keys 14)

/-- One block deciphered. -/
def aesDecrypt (keys : List (List Byte)) (b : List Byte) : List Byte :=
  let b0 := (aesShift true (xorBytes b (nth [] keys 14))).map aesUnsub
  let b13 := ((keys.drop 1).take 13).reverse.foldl
    (fun a k => (aesShift true (aesMix [14, 11, 13, 9] (xorBytes a k))).map aesUnsub) b0
  xorBytes b13 (nth [] keys 0)

/-! ### XTS over one sector (R275) -/

/-- A tweak of 16 bytes, lowest first, times x. -/
def tweakNext (t : List Byte) : List Byte :=
  let v := joinBytes t
  spread 16 (if v < 2 ^ 127 then 2 * v else (2 * v % 2 ^ 128) ^^^ 0x87)

/-- The blocks of a data unit, each through `f` under its tweak. -/
def xtsBlocks (f : List Byte → List Byte) : Nat → List Byte → List Byte → List Byte
  | 0, _, _ => []
  | n + 1, t, bs => xorBytes (f (xorBytes (bs.take 16) t)) t ++ xtsBlocks f n (tweakNext t) (bs.drop 16)

/-- The data key and the tweak key of a slot, as bytes (R98). -/
def dataKey (k : BitVec 512) : List Byte := (spread 64 k.toNat).take 32
def tweakKey (k : BitVec 512) : List Byte := (spread 64 k.toNat).drop 32

/-- The first tweak of a data unit: its number as a 128-bit little-endian integer, enciphered under the tweak key. -/
def firstTweak (k : BitVec 512) (unit : Nat) : List Byte := aesEncrypt (aesKeys (tweakKey k)) (spread 16 unit)

/-- The 256 bytes of a data unit enciphered. -/
def xtsEncrypt (k : BitVec 512) (unit : Nat) (bs : List Byte) : List Byte :=
  xtsBlocks (aesEncrypt (aesKeys (dataKey k))) 16 (firstTweak k unit) bs

/-- The 256 bytes of a data unit deciphered. -/
def xtsDecrypt (k : BitVec 512) (unit : Nat) (bs : List Byte) : List Byte :=
  xtsBlocks (aesDecrypt (aesKeys (dataKey k))) 16 (firstTweak k unit) bs

/-- What HBM4 holds of a sector whose plain bytes were written under a key selection; none is no encryption. -/
def enciphered (k : Option (BitVec 512)) (unit : Nat) (bs : List Byte) : List Byte :=
  match k with | some x => xtsEncrypt x unit bs | none => bs

/-- What a sector's stored bytes read as under a key selection. -/
def deciphered (k : Option (BitVec 512)) (unit : Nat) (bs : List Byte) : List Byte :=
  match k with | some x => xtsDecrypt x unit bs | none => bs

/-- A data unit as it reads when its plain bytes were written under the first key selection and are read under the second
(R275, R277, R278). -/
def garbled (written read : Option (BitVec 512)) (unit : Nat) (plain : List Byte) : List Byte :=
  deciphered read unit (enciphered written unit plain)

/-! ### The Reed-Solomon code of a flit (R39, R40) -/

/-- The product in the field of the code. -/
def rsMul (a b : Byte) : Byte := fieldMul 0x1D 8 a b

/-- A polynomial, highest coefficient first, at a point. -/
def rsEval (p : List Byte) (x : Byte) : Byte := p.foldl (fun a c => rsMul a x ^^^ c) 0

/-- A polynomial times x + r. -/
def rsTimes (r : Byte) (p : List Byte) : List Byte := xorBytes (p ++ [0]) (0 :: p.map (rsMul r))

/-- The roots of the generator: four powers of x in a row, from the one the manual leaves open. -/
def rsRoots : List Byte := (List.range 4).map (fun i => fieldPow 0x1D 2 (Config.fecFirstRoot % 255 + i))

/-- The generator, without its leading one. -/
def rsGenerator : List Byte := (rsRoots.foldl (fun p r => rsTimes r p) [1]).drop 1

/-- The remainder after one more byte of the message. -/
def rsStep (r : List Byte) (m : Byte) : List Byte :=
  xorBytes (r.drop 1 ++ [0]) (rsGenerator.map (rsMul (nth 0 r 0 ^^^ m)))

/-- The four parity bytes of a flit's 60 bytes. -/
def fecParity (m : List Byte) : List Byte := m.foldl rsStep (List.replicate 4 0)

/-- The syndromes of 64 received bytes; all zero for a code word. -/
def rsSyndromes (c : List Byte) : List Byte := rsRoots.map (rsEval c)

/-- What an error of value `e` at place `i` adds to the syndromes. -/
def rsError (i : Nat) (e : Byte) : List Byte := rsRoots.map (fun r => rsMul e (fieldPow 0x1D r (63 - i)))

/-- A byte changed. -/
def flipByte (c : List Byte) (i : Nat) (e : Byte) : List Byte := c.set i (nth 0 c i ^^^ e)

/-- The value of the one error at place `i` that explains the syndromes, if one does. -/
def rsOne (s : List Byte) (i : Nat) : Option Byte :=
  let e := rsMul (nth 0 s 0) (fieldInv 0x1D (nth 0 (rsError i 1) 0))
  if rsError i e = s then some e else none

/-- The values of two errors at places `i` and `j` that explain the syndromes, if some do: the first two syndromes give them. -/
def rsTwo (s : List Byte) (i j : Nat) : Option (Byte × Byte) :=
  let a := rsError i 1
  let b := rsError j 1
  let d := rsMul (nth 0 a 0) (nth 0 b 1) ^^^ rsMul (nth 0 a 1) (nth 0 b 0)
  let x := rsMul (rsMul (nth 0 s 0) (nth 0 b 1) ^^^ rsMul (nth 0 s 1) (nth 0 b 0)) (fieldInv 0x1D d)
  let y := rsMul (rsMul (nth 0 s 0) (nth 0 a 1) ^^^ rsMul (nth 0 s 1) (nth 0 a 0)) (fieldInv 0x1D d)
  if xorBytes (rsError i x) (rsError j y) = s then some (x, y) else none

/-- A received flit with up to two byte errors corrected; as it came when no such correction makes it a code word. -/
def fecDecode (c : List Byte) : List Byte :=
  let s := rsSyndromes c
  if s.all (fun x => decide (x = 0)) then c
  else
    match (List.range 64).findSome? (fun i => (rsOne s i).map (fun e => flipByte c i e)) with
    | some d => d
    | none =>
      match (List.range 64).findSome? (fun i => (List.range i).findSome? (fun j =>
        (rsTwo s i j).map (fun e => flipByte (flipByte c i e.1) j e.2))) with
      | some d => d
      | none => c

end Sys2Proof.Machine
end

