-- ==== Sys2Proof/Machine/Map.lean ====
section
/-!
DEFINITION. Sparse tables as plain data: lists of number and value pairs in ascending order of the number. Looking up
takes the first pair of that number, so that reading after writing is right in every list, in order or not.
-/

namespace Sys2Proof.Machine

/-- A table from numbers to values. -/
abbrev SMap (α : Type) := List (Nat × α)

/-- The value listed for `k`. -/
def find? {α : Type} : SMap α → Nat → Option α
  | [], _ => none
  | (j, v) :: r, k => if j = k then some v else find? r k

/-- The table with `v` listed for `k`. -/
def put {α : Type} : SMap α → Nat → α → SMap α
  | [], k, v => [(k, v)]
  | (j, w) :: r, k, v =>
    if j = k then (k, v) :: r else if k < j then (k, v) :: (j, w) :: r else (j, w) :: put r k v

/-- The table with nothing listed for `k`. -/
def del {α : Type} : SMap α → Nat → SMap α
  | [], _ => []
  | (j, w) :: r, k => if j = k then del r k else (j, w) :: del r k

/-- The value listed for `k`, or the default. -/
def look {α : Type} (d : α) (m : SMap α) (k : Nat) : α :=
  match find? m k with
  | some v => v
  | none => d

/-- Lists `v` for `k`, or nothing when `v` is the default. -/
def keep {α : Type} [DecidableEq α] (d : α) (m : SMap α) (k : Nat) (v : α) : SMap α :=
  if v = d then del m k else put m k v

/-- The value listed for `k` changed by `f`; nothing changes when none is listed. -/
def upd {α : Type} (m : SMap α) (k : Nat) (f : α → α) : SMap α :=
  match find? m k with
  | some v => put m k (f v)
  | none => m

/-- The pairs whose number satisfies `p`. -/
def part {α : Type} (p : Nat → Bool) (m : SMap α) : SMap α := m.filter (fun e => p e.1)

/-- Every pair's value changed by `f`. -/
def each {α β : Type} (f : Nat → α → β) : SMap α → SMap β
  | [] => []
  | (k, v) :: r => (k, f k v) :: each f r

/-- The first pair whose value satisfies `p`. -/
def first? {α : Type} (p : Nat → α → Bool) : SMap α → Option (Nat × α)
  | [] => none
  | (k, v) :: r => if p k v then some (k, v) else first? p r

/-- Strictly rising numbers, and no listed default: the canonical form of a sparse table. -/
def canonical {α : Type} [DecidableEq α] (d : α) : SMap α → Bool
  | [] => true
  | [(_, v)] => decide (v ≠ d)
  | (j, v) :: (k, w) :: r => decide (v ≠ d) && decide (j < k) && canonical d ((k, w) :: r)

/-- Strictly rising numbers. -/
def rising {α : Type} : SMap α → Bool
  | [] => true
  | [_] => true
  | (j, _) :: (k, w) :: r => decide (j < k) && rising ((k, w) :: r)

/-- A list sorted into a table by insertion; a later pair of the same number wins. -/
def tableOf {α : Type} : List (Nat × α) → SMap α
  | [] => []
  | (k, v) :: r => match find? (tableOf r) k with | some _ => tableOf r | none => put (tableOf r) k v

/-- The lowest number, from `k` upward and within `n` numbers, that the table does not list. -/
def freeKey {α : Type} (m : SMap α) : Nat → Nat → Nat
  | _, 0 => 0
  | k, n + 1 => match find? m k with | none => k | some _ => freeKey m (k + 1) n

/-- A number above every listed number. -/
def newKey {α : Type} : SMap α → Nat
  | [] => 1
  | (k, _) :: r => Nat.max (k + 1) (newKey r)

end Sys2Proof.Machine
end

