-- ==== Sys2Proof/Machine/State.lean ====
section
/-!
DEFINITION. The state of one Z5 module as plain data, the reasons a step can stop, and the state after a cold reset.

Positions. Cluster `c` is 48 × die + cluster (R240). Pipeline `16c + p` and slot position `8 (16c + p) + s` number the
module's pipelines and thread slots. An engine routine runs as a stream at a position of its own: 49,152 + c for the copy
hart of cluster c, and 49,536 + h for collective hart h (0 to 7 on IO die A, 8 to 15 on IO die B). IO die A is 0 and B is 1.

Time. `cycle` counts cycles of the clock in force (R22) and `time` fifteenths of a nanosecond. A limit of the core is a number of
cycles (R6) and stands in `timers`; a time that no throttle state stretches (R18, R21) stands in `alarms`.
-/

namespace Sys2Proof.Machine

open Sys2Proof

/-! ### What stops a step -/

/-- A machine fault: the model stops because nothing in the state says who acts. The Z5's own traps are no faults of
the machine: they are taken (R328). -/
inductive Fault where
  /-- Raised by every instruction word when `issuer` names no stream, or a stream whose group or team is gone. Safe:
  no stream issues in such a state. -/
  | noIssuer
  deriving DecidableEq, Repr

/-- A refusal: an instruction without a meaning. -/
inductive Refusal where
  /-- Raised by an arm of `exec` whose instruction has no meaning yet. Safe. -/
  | notModelled (mnemonic : String)
  deriving DecidableEq, Repr

/-! ### Memory below the pipelines -/

/-- The key under which a sector is reached (R276): stored plain, under the key pair of a loaded slot, or through a slot
that holds no key (R277). -/
inductive KeySel where
  | clear
  | pair (k : BitVec 512)
  | dead
  deriving DecidableEq, Repr

/-- A sector in a first-level bank (R233): its bytes by offset (unlisted ones zero), the offsets written through this bank
since the fill (R297), its poison (R271), and the key its path selects (R276). -/
structure Sector where
  data   : SMap Byte
  dirty  : List Nat
  poison : Bool
  key    : KeySel
  deriving DecidableEq, Repr

/-- A line of a first-level bank: PA[39:10] and its valid sectors by PA[9:8]. -/
structure Line where
  num     : Nat
  sectors : SMap Sector
  deriving DecidableEq, Repr

/-- A leaf held in a TLB (R255): its domain, virtual base and level, the entry, and the entry's address. -/
structure TlbEntry where
  dom   : Nat
  base  : Nat
  level : Nat
  pte   : Word
  at_   : Nat
  deriving DecidableEq, Repr

/-- A page mapped through a key slot when the slot was erased or reloaded (R99): the address and value of its leaf without
D, and for a leaf that names no key the domain whose root entry names the slot. -/
structure StaleLeaf where
  slot : Nat
  dom  : Option Nat
  at_  : Nat
  pte  : Word
  deriving DecidableEq, Repr

/-- A lane's request in the reservation FIFO of a line (R299). -/
structure Reserve where
  lane   : Nat
  stream : Nat
  seq    : Nat
  addr   : Nat       -- local PA
  key    : KeySel
  since  : Nat       -- cycle at which it became holder
  held   : Bool
  deriving DecidableEq, Repr

/-! ### Streams, lanes, groups and teams -/

/-- The bounds and tables of the geode a stream runs under (R362, R366). -/
structure Geode where
  dom    : Nat
  index  : Nat
  base   : Nat
  len    : Nat
  entcnt : Nat
  entoff : Nat
  deriving DecidableEq, Repr

/-- One control stack entry (R209). -/
structure CsEntry where
  kind  : BitVec 4
  mask  : BitVec 16
  count : BitVec 32
  pc    : BitVec 55
  deriving DecidableEq, Repr

/-- Why a lane waits (R427). -/
inductive WaitReason where
  | iff | andThen | brk | cont
  deriving DecidableEq, Repr

/-- A waiting record: the lane, the depth of its entry counted from the bottom, and the reason (R427). -/
structure Waiting where
  lane   : Nat
  depth  : Nat
  reason : WaitReason
  deriving DecidableEq, Repr

/-- The split record of a trap split, held apart from the 16 entries (R329), and the depth it was pushed at. -/
structure TrapRec where
  pc    : BitVec 55
  depth : Nat
  deriving DecidableEq, Repr

/-- A region entry (R322). -/
structure Region where
  pc      : Word
  depth   : Nat
  spilled : Nat
  deriving DecidableEq, Repr

/-- Where a long-latency result goes: a register of the register file, or a uniform register of the stream. -/
inductive Dest where
  | reg (n : Nat)
  | k (n : Nat)
  deriving DecidableEq, Repr

/-- A failure that became known after issue (R317, R324). -/
structure LateFault where
  lane   : Nat       -- slot position
  code   : Nat
  addr   : Word
  detail : Nat
  pc     : Word      -- of the instruction that started the work
  deriving DecidableEq, Repr

/-- What an outstanding result waits for (R205). -/
inductive Await where
  | nothing                                       -- its value stands in the record and returns when it returns
  | fails (f : LateFault)                         -- its data was poisoned: a late fault and no value (R272)
  | reply (tag : Nat) (addr : Word) (size : Nat)  -- a load reply from a peer (R476)
  | holder (line : Nat) (addr : Word)             -- the reservation of a line (R465)
  | change (addr : Word) (cmp : Word) (cls : Nat) (until_ : Option Nat)        -- a WAITA of a timeout class (R468)
  | append (tag : Nat)                            -- the acknowledgement of an inbox append (R446)
  | message (inbox n : Nat) (dests : List Dest) (until_ : Nat)     -- a message from an inbox (R447)
  | arrival                                       -- the status of an ENQ (R122)
  deriving DecidableEq, Repr

/-- A long-latency result that has not been written (R205). -/
structure Pending where
  seq    : Nat
  lane   : Nat                    -- slot position
  writes : List (Dest × Word)
  await  : Await
  pc     : Word
  deriving DecidableEq, Repr

/-- One lane's cause of a precise fault. -/
structure LaneFault where
  ln     : Nat
  code   : Nat
  addr   : Word
  detail : Nat
  deriving DecidableEq, Repr

/-- A trap to be taken: its causes by lane, the return pc, and for a late fault NOROLL (R319). -/
structure TrapInfo where
  faults : List LaneFault
  tpc    : Word
  late   : Bool
  noroll : Bool
  pcs    : List (Nat × Word)     -- late: by lane, the instruction that started the failed work
  deriving DecidableEq, Repr

/-- A TMMA in progress (R504): its tile, function, the descriptors as read at issue, and the next step. -/
structure Tmma where
  tile : Nat
  fn   : Nat
  a0   : Word
  a1   : Word
  b0   : Word
  b1   : Word
  next : Nat
  sw   : Bool
  deriving DecidableEq, Repr

/-- Why a stream does not issue although it has an instruction (R188). -/
inductive Park where
  | results                       -- a switch point (R206)
  | trap (t : TrapInfo)           -- a precise fault whose group's earlier results are still to be written (R328)
  | roleQueue                     -- an empty or a full column (R198)
  | tileClaim                     -- tiles held by another team (R489)
  | phaseFull (bar : Nat)         -- BARARV with every arrival of the phase in (R471)
  | phase (bar : Nat) (sw : Bool) -- BARWAIT, or a TBAR that has arrived (R471)
  | pendFull (bar : Nat)          -- a transfer that would take PEND above 65,535 (R304)
  | kickFull (hart : Nat)         -- a kick FIFO that is full (R481)
  | fusing (id : Nat) (dst : RegName) (sw : Bool)     -- FUSE-WAIT (R216)
  | rejoin (expl : Option (RegName × Bool))           -- at a rejoin; the operand and marker of a REJOIN (R227)
  | shootdown (ids : List Nat) (sw : Bool)            -- TLBI (R451)
  | status (dst : RegName) (v : Nat) (sw : Bool)      -- a FUSE or REJOIN status for a full role queue column (R198)
  | drain                         -- END with transfers outstanding (R325)
  | parking (full : Bool)         -- a CPT or YIELD that has executed, with transfers outstanding (R155, R325)
  | cpt                           -- parked at a CPT (R154)
  | yielded                       -- parked by a YIELD with a full save (R155)
  | tmma                          -- a TMMA runs (R504)
  | fence (acq rel : Bool) (sc : Scope) (sw : Bool)   -- earlier reads of the lanes or the outstanding count (R312, R470)
  | halted                        -- a team halt (R326)
  | atTrap                        -- at TPC or at a resume point while handlers of its group run (R329)
  deriving DecidableEq, Repr

/-- The 64-byte fetch block of a slot (R262): its virtual block number and bytes, lowest first. -/
structure FetchBlock where
  block : Nat
  bytes : List Byte
  deriving DecidableEq, Repr

/-- An instruction stream: a fused group, a single lane, a diverged lane, or an engine routine. -/
structure Stream where
  team     : Nat                       -- team identifier [15:0]
  group    : Nat                       -- its group's number
  members  : BitVec 16                 -- the lanes it runs, bit l for lane l
  mask     : BitVec 16                 -- the active mask M (R427)
  pc       : Word
  geode    : Geode
  handler  : Bool                      -- from handler entry to RETT
  stack    : List CsEntry              -- entries on chip, top first
  trapRec  : Option TrapRec
  waits    : List Waiting
  csspill  : BitVec 55
  spilled  : Nat
  k        : SMap Word
  wbase    : BitVec 9
  alanes   : BitVec 4
  adiv     : BitVec 8
  fcsr     : BitVec 8
  contpc   : BitVec 55
  contlive : BitVec 7
  tprog    : Word
  mstream  : Word
  fmts     : SMap Word
  region   : Option Region
  observed : BitVec 16                 -- observed bits of the barrier objects (R471)
  pend     : List Pending
  park     : Option Park
  lowRun   : Nat                       -- consecutive issues with few lanes active (R225)
  haltIn   : Option Nat                -- instructions still issued before a team halt takes hold (R326)
  skid     : Nat                       -- instructions issued since a team halt was sent
  noJoin   : Bool                      -- goes past the rejoin pc it stands at (R228, R229)
  paid     : Option Word               -- the pc of an instruction that was charged and waits to take effect (R148)
  tmma     : Option Tmma
  fetch    : Option FetchBlock
  cyBase   : Nat
  hart     : Option Nat                -- the hart of an engine routine
  deriving DecidableEq, Repr

/-- A lane: what one slot position holds (R188, R319). -/
structure Lane where
  team   : Nat
  group  : Nat
  stream : Nat
  ln     : Nat
  order  : Nat             -- its place among the team's lanes at launch (R118)
  base   : Nat             -- allocation base (R201)
  alloc  : Nat             -- A
  seed   : Word
  tcause : Word
  tpc    : Word
  taddr  : Word
  tinfo  : Word
  tvec   : Word
  tsave  : Word
  priv   : BitVec 2
  deriving DecidableEq, Repr

/-- The modes of a group (R216); FUSE-WAIT is a park of its stream. -/
inductive GroupMode where
  | single | fused | diverged
  deriving DecidableEq, Repr

/-- What a fused group keeps while handlers of its lanes run (R329): its stream before the trap, the faulting lanes, those
whose handlers have ended, those among them that returned elsewhere than to TPC, and the lanes that ended. -/
structure TrapCtx where
  saved    : Stream
  tpc      : Word
  faulting : BitVec 16
  returned : BitVec 16
  away     : BitVec 16
  deriving DecidableEq, Repr

/-- A group (R192), under a number of its own: its index in the team, the positions of its lanes by lane index, the lanes that have ended, and its
mode. -/
structure Group where
  team     : Nat
  gi       : Nat
  lanes    : List Nat
  ended    : BitVec 16
  mode     : GroupMode
  trap     : Option TrapCtx
  rejoinBy : Option Nat            -- last cycle of the rejoin wait that is open (R227)
  deriving DecidableEq, Repr

/-- Yield state of a team (R151 to R153). -/
structure Grace where
  cause : Nat
  nocan : Bool
  units : Nat
  until_ : Nat
  deriving DecidableEq, Repr

/-- A team whose issue a yield has stopped (R159): its budgets at that moment, and top-ups since then (R160, R164). -/
structure Stopped where
  ib    : Nat
  tb    : Nat
  addIb : Nat
  addTb : Nat
  clean : Bool
  deriving DecidableEq, Repr

/-- A barrier object (R303). -/
structure Barrier where
  expect  : BitVec 8
  arrived : BitVec 8
  pend    : BitVec 16
  phase   : Bool
  deriving DecidableEq, Repr

/-- Where remote elements of a team are counted (R67, R479): in the tracking block at an address of a domain, or inside. -/
inductive Track where
  | block (dom : Nat) (addr : Nat)
  | inside
  deriving DecidableEq, Repr

/-- A team (R144, R174, R452). -/
structure Team where
  ident    : BitVec 32
  cluster  : Nat
  domain   : Nat
  cls      : Nat
  home     : Nat                      -- home queue (R165)
  part     : Option Nat               -- its partition
  words    : List Word                -- the launch record
  dseq     : Word
  ti       : Nat
  node     : Option (Nat × Nat)       -- grid and cluster of its node (R130)
  exempt   : Bool
  ib       : BitVec 32
  tb       : BitVec 32
  pend     : Option Grace
  stopped  : Option Stopped           -- step 1 of a yield is done (R159)
  geode    : Geode
  layout   : Nat                      -- ROLES
  queues   : SMap (List Word)         -- column 16n + l of role queue n, oldest first (R197)
  popped   : SMap Nat                 -- entries popped from each column, which place its ring (R197)
  bars     : SMap Barrier
  scBase   : Nat                      -- first 4 KiB unit of its scratchpad
  scUnits  : Nat
  rtrack   : Word
  rtrackTo : Option Word              -- a write to RTRACK that waits for a fabric release (R454)
  inside   : Nat                      -- internal outstanding count (R479)
  rage     : BitVec 12
  budcap   : Word
  born     : Nat                      -- order of placement on the module
  spare    : List Nat                 -- positions of its run without a lane (R118)
  resumed  : Bool                     -- placed from a continuation
  relaunch : Bool                     -- placed by a relaunch
  handlers : Nat                      -- lanes in trap handlers
  late     : List LateFault           -- failures found and not delivered yet
  doomed   : Option (Nat × Nat)       -- to be killed: kill code and FCODE (R337)
  deriving DecidableEq, Repr

/-- A FUSE rendezvous (R218): team, slot index, mask, the first arrival's pc, the arrivals and the last cycle of its timer. -/
structure Rendezvous where
  team : Nat
  slot : Nat
  mask : BitVec 16
  pc   : Word
  come : List Nat                     -- streams, in order of arrival
  by_  : Nat
  full : Bool
  deriving DecidableEq, Repr

/-- An asynchronous transfer: an LDS (R462), a TST or TSTA to scratchpad or local memory (R512), or a release store of fabric
scope that waits for the outstanding count (R312). -/
structure Transfer where
  team   : Nat
  group  : Nat
  lane   : Nat                        -- slot position
  pc     : Word
  dom    : Nat
  bar    : Option Nat
  kind   : Nat                        -- 0 LDS, 1 TST to scratchpad, 2 TST to memory, 3 TSTA.F32, 4 TSTA.S32,
                                      -- 5 release store, 6 kick by a release store
  toMem  : Bool                       -- destination is local memory
  src    : List (Nat × Nat × KeySel)  -- LDS: pages read, as source offset, local PA and key
  fault  : Option (Nat × Nat × Nat × Nat)   -- offset at which translation fails, code, address, detail
  va     : Word                       -- LDS: source; other kinds: the destination address or offset
  dst    : Nat                        -- scratchpad offset, or hart
  size   : Nat                        -- bytes, or the value of a kick
  cells  : List (Nat × KeySel × List (Nat × Byte))   -- granules: local PA or scratchpad offset, key, bytes by offset
  leaves : List TlbEntry              -- the leaves it was translated under (R258)
  deriving DecidableEq, Repr

/-- An engine routine's kick (R481). -/
structure Kick where
  team   : BitVec 32
  block  : Nat
  domain : Nat
  cluster : Nat
  deriving DecidableEq, Repr

/-- An engine hart: its kicks, and the routine it runs: the kick, completion word and value, and whether it runs. -/
structure Hart where
  fifo  : List Kick
  run   : Option Kick
  word  : Nat
  value : Word
  deriving DecidableEq, Repr

/-- A record on its way to a cluster (R106): for a deque record the pushing team's domain, class, home queue and
partition, and its push counter value; for a relaunch what R339 keeps. -/
structure Owner where
  domain : Nat
  cls    : Nat
  home   : Nat
  part   : Option Nat
  seq    : Nat
  deriving DecidableEq, Repr

/-- What a relaunched team takes over from the killed one (R339). -/
structure Again where
  dseq : Word
  ti   : Nat
  node : Option (Nat × Nat)
  deriving DecidableEq, Repr

/-- A task record held by an engine or a deque. -/
structure Rec where
  words  : List Word
  exempt : Bool
  owner  : Option Owner
  again  : Option Again
  grid   : Option Nat              -- the grid whose teams it dispatches, once the first is placed (R129)
  deriving DecidableEq, Repr

/-- A cluster: the counters of R240, its deque with the newest record first (R126), its generation (R174), the L4 table
(R382) and whether bring-up has released it (R27). -/
structure Cluster where
  released : Bool
  deque    : List Rec
  pushes   : BitVec 32
  gen      : BitVec 16
  lut0     : Word
  lut1     : Word
  toshr    : BitVec 32
  toprv    : BitVec 32
  wbsec    : BitVec 24
  invln    : BitVec 24
  privAt   : Option Nat          -- cycle of its last switch to private (R239)
  deriving DecidableEq, Repr

/-- What a yield saves of a team (R158): positions are lane orders, registers are 2,048 × order + place in the allocation. -/
structure Image where
  team    : Team
  groups  : SMap Group
  lanes   : SMap Lane
  streams : SMap Stream
  regs    : SMap Word
  scratch : SMap Byte
  tiles   : SMap (BitVec 32)
  save    : SMap Word                 -- x0 to x7 of lanes in handlers, by 8 × order + n (R330)
  moves   : SMap Transfer             -- release stores that wait (R312)
  run     : Nat                       -- the first pipeline of the run that held its lanes beyond whole rows
  blocks  : List Nat                  -- its save blocks, first to last
  sealWord : Word
  cells   : List Host.Cell            -- what its blocks held when it was sealed
  deriving DecidableEq, Repr

/-- A partition's context in the vaults of its clusters (R186). -/
structure Context where
  teams    : SMap Team
  groups   : SMap Group
  lanes    : SMap Lane
  streams  : SMap Stream
  regs     : SMap Word
  scratch  : SMap Byte
  tiles    : SMap (BitVec 32)
  owners   : SMap Nat
  clusters : SMap Cluster
  harts    : SMap Hart
  meets    : SMap Rendezvous
  moves    : SMap Transfer
  restore  : SMap (SMap (BitVec 32))
  deriving DecidableEq, Repr

/-! ### The package (01_package) -/

/-- Supply, bring-up, boot and throttling. -/
structure Package where
  inputOk   : Bool               -- a valid 54 V input
  powered   : Bool               -- all rails good
  tripped   : Bool               -- off until the input is removed and restored (R23)
  railFault : Bool               -- a rail fault is recorded (R17)
  trip      : Bool               -- THRCTL.TRIP
  resets    : Nat                -- resets so far, cold or warm
  steps     : List Nat           -- bring-up steps done (R27); 60 + p for the PCIe training of port p in step 6
  stage     : BitVec 8
  fail      : BitVec 8
  wrst      : BitVec 8
  svn       : BitVec 16
  ucideg    : BitVec 8
  pcieUp    : BitVec 2
  perst     : Bool               -- PERST_N of port 0 is deasserted
  recoverBy : Nat                -- the stage that entered recovery
  recBusy   : Bool
  recStatus : BitVec 3
  recLen    : BitVec 27
  window    : SMap Byte          -- recovery window (R32)
  meas0     : BitVec 384
  meas1     : BitVec 384
  meas2     : BitVec 384
  tjmax     : BitVec 8
  pwr       : BitVec 12
  floor     : BitVec 2
  tReq      : BitVec 2           -- thermal request (R21)
  pReq      : BitVec 2           -- power request
  cool1     : Option Nat         -- time since when the hottest junction stays 3 °C below the entry temperature of state 1
  cool2     : Option Nat
  cool3     : Option Nat
  lowPower  : Bool               -- power has stayed at or below 3.4 kW since the last 10 ms interval ended
  ent1      : BitVec 8
  ent2      : BitVec 8
  ent3      : BitVec 8
  inForce   : BitVec 2           -- the throttle state in force, as the last sample left it (R21)
  raised    : BitVec 16          -- what firmware has raised the fused minimum security version to (R30)
  links     : SMap PcieLink      -- what each PCIe port trained to, and the version and capabilities agreed (R29, R77)
  deriving DecidableEq, Repr

/-! ### Yelca Link (02_fabric) -/

/-- A flit as the link carries it (R39). -/
structure Flit where
  fseq   : BitVec 10
  ackseq : BitVec 10
  ackv   : Bool
  nak    : Bool
  kind   : BitVec 2
  vc     : Bool
  pay    : List Byte
  deriving DecidableEq, Repr

/-- A flit held for replay (R41), with the number of the last flit of its packet. -/
structure Held where
  flit  : Flit
  last  : BitVec 10
  pkt   : Nat                    -- which packet it belongs to
  deriving DecidableEq, Repr

/-- A Yelca port (R35, R52). -/
structure Port where
  enable   : Bool
  state    : BitVec 4
  malf     : BitVec 8
  laneok   : BitVec 8
  cap      : BitVec 9
  ver      : BitVec 4
  width    : BitVec 4
  speed    : BitVec 2
  wreq     : BitVec 2
  lanes    : BitVec 8            -- lanes on which the partner was seen
  bits     : BitVec 4            -- the partner's S56, S112, W2 and W4 (R35)
  good224  : BitVec 8
  good112  : BitVec 8
  good56   : BitVec 8
  since    : Nat                 -- time at which it left DOWN, or entered RETRAIN
  held     : List Held           -- replay buffer, oldest first
  txseq    : BitVec 10
  acked    : BitVec 10           -- last ACKSEQ received
  resend   : Nat                 -- times the oldest uncovered flit has been replayed in a row
  moved    : Nat                 -- time at which an acknowledgement last advanced, or the oldest uncovered flit was sent
  rxnext   : BitVec 10           -- next flit expected
  naking   : Bool                -- later flits are discarded (R40)
  rx       : List Byte           -- payload of the packet being received
  egress0  : List Packet         -- egress queue of VC 0, first to leave first
  egress1  : List Packet         -- egress queue of VC 1
  credit0  : Nat
  credit1  : Nat
  packets  : Nat                 -- packets sent
  stray    : Bool                -- the continuation flits now arriving follow no packet start, and are counted (R55)
  tx       : List Flit           -- flits sent, first to last
  deriving DecidableEq, Repr

/-- A multicast group entry (R73). -/
structure GroupEntry where
  midx   : BitVec 12
  parent : BitVec 4
  valid  : Bool
  local_ : Bool
  child  : BitVec 12
  deriving DecidableEq, Repr

/-- An element of an aggregation buffer (R59, R60). -/
structure Element where
  off    : Nat
  size   : Nat
  op     : Nat                   -- RAMO function; 8 for a store
  data   : Word
  comb   : Nat                   -- operations combined
  deriving DecidableEq, Repr

/-- An open aggregation buffer (R59). -/
structure Buffer where
  io     : Nat
  team   : BitVec 32
  dom    : Nat
  dev    : BitVec 12
  win    : BitVec 24
  atomic : Bool
  elems  : List Element          -- in order of entry
  track  : Track
  opened : Nat
  added  : Nat
  leaves : List TlbEntry         -- the leaves its elements were translated under (R258)
  deriving DecidableEq, Repr

/-- What a packet in flight carries, so that its failures can be recorded (R68 to R76). -/
inductive Flight where
  | elements (atomic : Bool) (elems : List Element)
  | tilePart (part : Nat) (off : Nat) (op : Nat)
  | line (off : Nat)
  | inbox (handle : Nat) (stream seq : Nat)
  | load (stream seq : Nat)
  deriving DecidableEq, Repr

/-- A packet that waits for its acknowledgement or reply; `tag` numbers are unique among packets in flight. -/
structure InFlight where
  tag   : Nat
  team  : BitVec 32
  dev   : BitVec 12
  win   : BitVec 24
  track : Track
  what  : Flight
  due   : Option Nat             -- end of its timeout (R70)
  leaves : List TlbEntry         -- the leaves it was translated under (R258)
  deriving DecidableEq, Repr

/-- A tile being reassembled (R57). -/
structure Assembly where
  io     : Nat
  src    : BitVec 12
  tag    : BitVec 24
  parts  : List (Nat × Packet)
  since  : Nat
  deriving DecidableEq, Repr

/-- A multicast line at a router or root (R74, R75): ports still to answer, entries so far. -/
structure Cast where
  group   : BitVec 12
  tag     : BitVec 24
  src     : BitVec 12
  wait    : List Nat
  entries : List (BitVec 16)
  hops    : Nat
  root    : Bool
  by_     : SMap Nat             -- by port: when the wait for an answer ends, once the copy has been sent
  deriving DecidableEq, Repr

/-- The fabric of this device. -/
structure Fabric where
  id       : BitVec 12
  hopmax   : BitVec 6
  ports    : SMap Port
  rti      : BitVec 12
  routes   : SMap (BitVec 18)
  mcgi     : BitVec 12
  groups   : SMap GroupEntry
  age      : BitVec 12
  ackto    : BitVec 12
  teamcap  : BitVec 8
  evict    : BitVec 2
  buffers  : SMap Buffer          -- by buffer number, 0 to 255 on IO die A and 256 to 511 on IO die B
  flights  : List InFlight
  nextTag  : Nat
  tiles    : List Assembly
  waiting  : List (Nat × Packet)  -- packets held behind VC 0 credits for a reassembly slot, by port
  casts    : List Cast
  deriving DecidableEq, Repr

/-! ### Host interface (03_host) -/

/-- A command register (R521). -/
structure Command where
  busy   : Bool
  status : BitVec 3
  arg    : Word                   -- its RW fields, in place
  deriving DecidableEq, Repr

/-- What the module sends to the host (R93, R94, R105). -/
inductive HostMsg where
  | write (port : Nat) (addr : Word) (bytes : List Byte)
  | bit (port : Nat) (addr : Word) (n : Nat)          -- bit n of the bitmap at an address is set
  | msix (port vf vector : Nat)
  | data (caller : Caller) (bytes : List Byte) (ep : Bool)
  | unsupported (caller : Caller)
  | retry (port : Nat)
  | config (port : Nat) (words : List Word)           -- a configuration request completed
  deriving DecidableEq, Repr

/-- A hardware slot of a queue engine (R109, R115). -/
structure QSlot where
  queue    : Nat
  recs     : List Rec             -- on chip, oldest first
  refill   : Nat                  -- records being read
  deficit  : Nat
  quantum  : Nat                  -- cycle at which its quantum ends (R90)
  busy     : Nat                  -- last cycle it had something to dispatch
  head     : Nat                  -- since when its head stands, or its last promotion
  promoted : Option Nat
  unfit    : Option Nat           -- since when its head has failed to fit
  claim    : Option Nat           -- the cluster it claims
  deriving DecidableEq, Repr

/-- What an engine keeps for a queue besides its descriptor: the dispatch counter (R114), records written since ENABLE
(R93), and continuations and returns waiting for space (R135). -/
structure QKeep where
  seq     : BitVec 32
  written : BitVec 32
  late    : List Arrival
  deriving DecidableEq, Repr

/-- The checkpoint engine's run (R103): `pages` are still to be copied, as place in the range, local PA and key; `shoots` are
the shootdowns it waits for; `image` and `bitmap` are bus addresses. -/
structure Checkpoint where
  busy   : Bool
  status : BitVec 3
  desc   : Word
  err    : BitVec 3
  copied : Nat
  status_at : Word
  image  : Word
  bitmap : Word
  pages  : List (Nat × Nat × KeySel)
  shoots : List Nat
  deriving DecidableEq, Repr

/-- Host registers and queues. -/
structure HostIf where
  qtbase   : Word
  qshare   : Word
  ithr     : BitVec 16
  ptbase   : Word
  qcmd     : SMap Command         -- by caller: 0 for the PF, 1 + 64 p + v − 1 for VF v of port p
  keycmd   : SMap Command
  keybuf   : SMap Word
  attcmd   : SMap Command
  attbuf   : SMap Word
  pcmd     : Command
  vfmap    : SMap (BitVec 5)
  check    : Checkpoint
  keys     : SMap (BitVec 512)
  stale    : List StaleLeaf                -- pages that still map a slot erased or reloaded under them (R99)
  parts    : SMap (List Word × Bool)       -- active partitions: their entries, and whether vault-resident
  slots    : SMap QSlot                    -- by 256 × die + slot
  keeps    : SMap QKeep
  waits    : SMap (List Nat)               -- by 8 × die + class: eligible unmapped queues (R90)
  held     : SMap (Nat × Rec)              -- what the engine knows of a record beyond its 64 bytes, by ring place, and its address
  msixCtl  : SMap Word                     -- MSI-X table, by 2^20 × function + doubleword
  pba      : List (Nat × Nat)              -- pending bits: function and vector
  gated    : SMap Nat                      -- vectors held by ITHR: by function and vector, messages pending
  bar4     : SMap Nat                      -- the size chosen for BAR4 of a port's PF, as a power of two; unlisted: 2^40 (R77)
  out      : List HostMsg                  -- sent to the host, first to last
  deriving DecidableEq, Repr

/-! ### Scheduling and budgets (04, 05) -/

/-- A node of a grid's combining tree (R130). -/
structure Node where
  sent   : Nat
  ended  : Nat
  failed : Nat
  ib     : Nat
  tb     : Nat
  kids   : Nat                     -- children that have reported
  done   : Bool                    -- has reported
  deriving DecidableEq, Repr

/-- A grid in progress (R129). -/
structure Grid where
  recd   : Rec
  die    : Nat
  n      : Nat
  next   : Nat                     -- next team index
  order  : List Nat                -- clusters of its tree
  nodes  : SMap Node
  dseq   : Word
  domain : Nat
  cls    : Nat
  home   : Nat
  part   : Option Nat
  engine : Bool                    -- dispatched as a deque grid (R132)
  deriving DecidableEq, Repr

/-- A fault log of a die (R137). -/
structure SchFault where
  valid : Bool
  ovf   : Bool
  code  : BitVec 8
  queue : BitVec 16
  seq   : BitVec 32
  deriving DecidableEq, Repr

/-- A kill log of a die (R340). -/
structure KillLog where
  valid : Bool
  ovf   : Bool
  kcode : BitVec 8
  fcode : BitVec 8
  team  : BitVec 32
  deriving DecidableEq, Repr

/-- A budget pool (R169). -/
structure Pool where
  ib  : Word
  tb  : Word
  unm : Bool
  deriving DecidableEq, Repr

/-- The pages and save blocks that a domain's lists were found to hold, and what its entry said of them when the Z5 last left it:
USED and PGCOUNT together, SAHEAD and SACOUNT (R179). -/
structure Arena where
  free : List Nat
  mark : Nat × Nat × Nat
  deriving DecidableEq, Repr

/-- Scheduler controls, budgets and vaults. -/
structure Sched where
  steal   : Bool
  evict   : Bool
  dage    : BitVec 12
  claim   : BitVec 8
  xsteal  : Bool
  place   : BitVec 2
  faults  : SMap SchFault           -- by die
  cur     : SMap Nat                -- rotation pointer by 8 × die + class (R115)
  decided : SMap Nat                -- cycle of the last dispatch decision, by die (R115)
  grids   : SMap Grid
  placing : SMap (SMap Stream)      -- the streams of teams placed and not started, by team
  bpidx   : BitVec 10
  pools   : SMap Pool
  dtbase  : Word
  dcarg   : Word
  dcmd    : Command
  vcmd    : Command
  gunits  : BitVec 12
  gtime   : BitVec 7
  images  : SMap Image              -- by local PA of the first save block
  owned   : SMap Arena              -- what the lists of a domain with teams hold, by domain (R5, R168)
  vaults  : SMap Context            -- by partition
  kills   : SMap KillLog            -- by die
  trpvec  : SMap Word               -- by partition, 16 outside every partition
  trpsav  : SMap Word
  births  : Nat                     -- teams placed so far
  deriving DecidableEq, Repr

/-! ### Memory control (07, 10, 13) -/

/-- A shootdown in progress (R258): the transfers, packets and open buffers it waits for. -/
structure Shoot where
  moves : List Nat
  tags  : List Nat
  bufs  : List Nat
  deriving DecidableEq, Repr

/-- Table bases, caches of tables, error and command registers of the memory system. -/
structure MemCtl where
  trtbase : Word
  grtbase : Word
  grcmd   : Command
  grants  : SMap Byte               -- the grant table as last invalidated, by offset (R249)
  memce   : BitVec 32
  ueValid : Bool
  ueCount : BitVec 8
  ueSector : BitVec 32
  scrubEn : Bool
  scrubHr : BitVec 16
  ghtroot : Word
  ghcmd   : Command
  gharg   : Word
  inbbase : Word
  tlbs    : SMap (List TlbEntry)    -- by cluster; 384 + die; 392 + IO die
  shoots  : SMap Shoot
  resv    : SMap (List Reserve)     -- by line, holder first (R299)
  deriving DecidableEq, Repr

/-- An error that a memory's check bits find: one that is corrected, one in a clean cached sector, one that poisons a
sector, one in a doubleword of scratchpad, one in a doubleword of a tile (R266, R271, R493). -/
inductive Upset where
  | corrected
  | cleanLine
  | sector (n : Nat)                -- PA[39:8]
  | bank (b n : Nat)                -- the copy of a sector, PA[39:8], in a first-level bank
  | scratch (d : Nat)               -- as in `scErr`
  | tile (d : Nat)                  -- as in `tileErr`
  deriving DecidableEq, Repr

/-- One choice of the surroundings and of the Z5's latitude: time passes by `dt` cycles, then a stream issues, an
internal event at a place of `work` happens, an event happens, a memory cell fails, or the host reads or writes bytes at an offset
of a BAR (R79). -/
inductive Turn where
  | issue (dt stream : Nat)
  | work (dt place : Nat)
  | event (dt : Nat) (e : Instr)
  | upset (dt : Nat) (u : Upset)
  | hostRead (dt : Nat) (caller : Caller) (bar off len : Nat)
  | hostWrite (dt : Nat) (caller : Caller) (bar off : Nat) (bytes : List Byte)
  deriving DecidableEq, Repr

/-- The whole machine. -/
structure State where
  cycle    : Nat
  time     : Nat                    -- fifteenths of a nanosecond
  schedule : List Turn              -- choices of the surroundings, first to come first
  work     : List Instr             -- internal events that are due, first to come first
  timers   : List (Nat × Instr)     -- events at a cycle
  alarms   : List (Nat × Instr)     -- events at a time
  issuer   : Option Nat             -- the stream whose instruction runs
  slate    : List Nat               -- streams chosen for this cycle that have not issued (R189)
  free     : Nat                    -- free values taken so far
  seq      : Nat                    -- long-latency results and asynchronous transfers issued so far
  mem      : List Host.Cell         -- local memory as its home caches hold it
  poison   : List Nat               -- poisoned sectors, PA[39:8] (R271)
  sealed   : SMap KeySel            -- key under which a sector's contents were written (R275); unlisted: none
  banks    : SMap (List Line)       -- by 16 × cluster + bank, lines most recently accessed first
  regs     : SMap Word              -- by 2,048 × pipeline + register; unlisted: zero
  scratch  : SMap Byte              -- by 524,288 × cluster + offset; unlisted: zero
  scErr    : List Nat               -- scratchpad doublewords with an uncorrectable error (R266), by address / 8
  tiles    : SMap (BitVec 32)       -- by 64 × (64 × pipeline + tile) + element; unlisted: zero
  tileErr  : List Nat               -- tile doublewords with an uncorrectable error (R493)
  owners   : SMap Nat               -- team that holds a pipeline's tiles (R489)
  restore  : SMap (SMap (BitVec 32))      -- tiles a continuation's first claim writes, by 6,144 × team + pipeline
  lanes    : SMap Lane              -- by slot position
  streams  : SMap Stream            -- by position of their lowest lane
  groups   : SMap Group             -- by their number; a routine's by its position
  teams    : SMap Team              -- by identifier [15:0]
  clusters : SMap Cluster
  harts    : SMap Hart              -- 0 to 383 copy, 384 + h collective
  meets    : SMap Rendezvous
  moves    : SMap Transfer
  pkg      : Package
  fab      : Fabric
  host     : HostIf
  sched    : Sched
  ctl      : MemCtl
  deriving DecidableEq, Repr

/-! ### After a cold reset -/

/-- A port after reset (R52). MARK: DESIGN CHOICE (log 30). R41 gives neither the first FSEQ nor the ACKSEQ before any flit; both sides
start at 0 and 1,023. -/
def Port.reset : Port :=
  { enable := true, state := 0, malf := 0, laneok := 0, cap := 0, ver := 0, width := 0, speed := 0, wreq := 0,
    lanes := 0, bits := 0, good224 := 0, good112 := 0, good56 := 0, since := 0, held := [], txseq := 0, acked := 1023,
    resend := 0, moved := 0, rxnext := 0, naking := false, rx := [], egress0 := [], egress1 := [], credit0 := 0, credit1 := 0,
    packets := 0, stray := false, tx := [] }

/-- A group table entry after reset (R73). -/
def GroupEntry.reset : GroupEntry := { midx := 0, parent := 0xF, valid := false, local_ := false, child := 0 }

/-- A command register after reset. -/
def Command.reset : Command := { busy := false, status := 0, arg := 0 }

/-- A cluster after reset: in reset, its deque empty, its L4 table entry c holding c as a signed 4-bit number (R382). -/
def Cluster.reset : Cluster :=
  { released := false, deque := [], pushes := 0, gen := 0, lut0 := 0x0706050403020100, lut1 := 0xFFFEFDFCFBFAF9F8,
    toshr := 0, toprv := 0, wbsec := 0, invln := 0, privAt := none }

/-- A hart with nothing to do. -/
def Hart.reset : Hart := { fifo := [], run := none, word := 0, value := 0 }

/-- A barrier object at placement (R303). -/
def Barrier.reset : Barrier := { expect := 0, arrived := 0, pend := 0, phase := false }

/-- A pool after reset: unmetered (R169). -/
def Pool.reset : Pool := { ib := 0, tb := 0, unm := true }

/-- What an engine keeps for a queue that was never enabled. -/
def QKeep.reset : QKeep := { seq := 0, written := 0, late := [] }

/-- A fault log after reset (R137). -/
def SchFault.reset : SchFault := { valid := false, ovf := false, code := 0, queue := 0, seq := 0 }

/-- A kill log after reset (R340). -/
def KillLog.reset : KillLog := { valid := false, ovf := false, kcode := 0, fcode := 0, team := 0 }

/-- A tree node before its first team (R130). -/
def Node.reset : Node := { sent := 0, ended := 0, failed := 0, ib := 0, tb := 0, kids := 0, done := false }

/-- The package after a cold reset: rails good, the boot ROM about to run (R24, R25, R27, R33). -/
def Package.reset : Package :=
  { inputOk := true, powered := true, tripped := false, railFault := false, trip := false, resets := 0, steps := [], stage := 0,
    fail := 0, wrst := 0, svn := 0, ucideg := 0, pcieUp := 0, perst := false, recoverBy := 0, recBusy := false,
    recStatus := 0, recLen := 0, window := [], meas0 := 0, meas1 := 0, meas2 := 0, tjmax := 0, pwr := 0, floor := 0,
    tReq := 0, pReq := 0, cool1 := none, cool2 := none, cool3 := none, lowPower := true, ent1 := 95, ent2 := 100, ent3 := 103,
    inForce := 0, raised := 0, links := [] }

/-- The fabric after reset (R47, R48, R65, R66, R73). -/
def Fabric.reset : Fabric :=
  { id := 0, hopmax := 16, ports := [], rti := 0, routes := [], mcgi := 0, groups := [], age := 125, ackto := 1000,
    teamcap := 64, evict := 0, buffers := [], flights := [], nextTag := 0, tiles := [], waiting := [], casts := [] }

/-- The host interface after reset (R83 to R105). -/
def HostIf.reset : HostIf :=
  { qtbase := 0, qshare := 0x0808080808080808, ithr := 0, ptbase := 0, qcmd := [], keycmd := [], keybuf := [],
    attcmd := [], attbuf := [], pcmd := .reset, vfmap := [],
    check := { busy := false, status := 0, desc := 0, err := 0, copied := 0, status_at := 0, image := 0, bitmap := 0, pages := [], shoots := [] },
    keys := [], stale := [], parts := [], slots := [], keeps := [], waits := [], held := [], msixCtl := [], pba := [], gated := [],
    bar4 := [], out := [] }

/-- Scheduler and budgets after reset (R138, R139, R169, R187, R340). -/
def Sched.reset : Sched :=
  { steal := true, evict := true, dage := 100, claim := 2, xsteal := false, place := 0, faults := [], cur := [], decided := [],
    grids := [], placing := [], bpidx := 0, pools := [], dtbase := 0, dcarg := 0, dcmd := .reset, vcmd := .reset,
    gunits := 2048, gtime := 125, images := [], owned := [], vaults := [], kills := [], trpvec := [], trpsav := [], births := 0 }

/-- Memory control after reset (R249, R274, R284, R361). -/
def MemCtl.reset : MemCtl :=
  { trtbase := 0, grtbase := 0, grcmd := .reset, grants := [], memce := 0, ueValid := false, ueCount := 0,
    ueSector := 0, scrubEn := true, scrubHr := 24, ghtroot := 0, ghcmd := .reset, gharg := 0, inbbase := 0,
    tlbs := [], shoots := [], resv := [] }

/-- The machine right after a cold reset: the rails are good, no bring-up step has run, no team exists, memory and every
register file hold zero (R26, R27). -/
def State.reset : State :=
  { cycle := 0, time := 0, schedule := [], work := [], timers := [], alarms := [], issuer := none, slate := [], free := 0, seq := 0, mem := [], poison := [],
    sealed := [], banks := [], regs := [], scratch := [], scErr := [], tiles := [], tileErr := [], owners := [],
    restore := [], lanes := [], streams := [], groups := [], teams := [], clusters := [], harts := [], meets := [],
    moves := [], pkg := .reset, fab := .reset, host := .reset, sched := .reset, ctl := .reset }

end Sys2Proof.Machine
end

