-- ==== Sys2Proof/Machine/Memory.lean ====
section
/-!
DEFINITION. Memory as every party reaches it: the home caches with their keys and poison (R244, R271, R276), the
first-level banks (R233 to R241, R267 to R269), and translation (R250 to R257, R279, R281, R181).
-/

namespace Sys2Proof.Machine

open Sys2Proof

/-- The first local PA that does not exist (R243). -/
def localLimit : Nat := 0xC000000000

/-- The home die of a local PA (R244). -/
def homeDie (pa : Nat) : Nat := bitsN pa 14 12 ^^^ bitsN pa 22 20 ^^^ bitsN pa 30 28

/-- The canonical form of memory: rising addresses and no listed zero. -/
abbrev Memory.wf (m : List Host.Cell) : Bool := canonical (0 : Byte) m

/-- Memory with bytes written from an address upward. -/
def memPut (m : List Host.Cell) (pa : Nat) : List Byte → List Host.Cell
  | [] => m
  | b :: r => memPut (keep 0 m pa b) (pa + 1) r

/-- One byte of local memory as stored. -/
def memByte (s : State) (pa : Nat) : Byte := look 0 s.mem pa

/-- The key pair of a selection; none is no encryption. -/
def KeySel.code : KeySel → Option (BitVec 512)
  | .pair k => some k
  | _ => none

/-- A sector written under one key selection as it reads under another (R275 to R278). -/
def otherKey (s : State) (key : KeySel) (sec : Nat) : List Byte :=
  garbled (look .clear s.sealed sec).code key.code sec (listBytes (memByte s) 256 (sec * 256))

/-- One byte of a home cache read under a key (R276 to R278). -/
def homeByte (s : State) (key : KeySel) (pa : Nat) : Byte :=
  if look .clear s.sealed (pa / 256) = key then memByte s pa else nth 0 (otherKey s key (pa / 256)) (pa % 256)

/-- A read of the sector returns poisoned data: it is poisoned, or its slot holds no key (R271, R277). -/
def homeBad (s : State) (key : KeySel) (pa : Nat) : Bool := decide (key = .dead) || s.poison.contains (pa / 256)

/-- The same for any sector of a range. -/
def rangeBad (s : State) (key : KeySel) (pa len : Nat) : Bool :=
  decide (key = .dead) || s.poison.any (fun q => decide (pa / 256 ≤ q) && decide (q * 256 < pa + len))

/-- A little-endian read of `n` bytes at a home. -/
def homeRead (s : State) (key : KeySel) (pa n : Nat) : Nat := gather (homeByte s key) n pa

/-- The cells listed within some 64 KiB blocks. -/
def blockCells (s : State) (blocks : List Nat) : List Host.Cell :=
  s.mem.filter (fun c => blocks.any (fun b => decide (b ≤ c.1) && decide (c.1 < b + 65536)))

/-- A plain read by the Z5 itself, of a table: no key (R276). -/
def rawRead (s : State) (pa n : Nat) : Nat := homeRead s .clear pa n

/-- The sector under another key: what it held is read under the new key and stored so (R278). -/
def rekey (s : State) (key : KeySel) (sec : Nat) : State :=
  if look .clear s.sealed sec = key then s
  else
    { s with
      mem := memPut s.mem (sec * 256) (otherKey s key sec)
      sealed := keep .clear s.sealed sec key }

/-- A write within one sector; one that covers all its bytes clears its poison (R271). A slot without a key takes
nothing (R99). -/
def homePut (s : State) (key : KeySel) (pa : Nat) (bs : List Byte) : State :=
  if key = .dead then s
  else
    let r := rekey s key (pa / 256)
    { r with
      mem := memPut r.mem pa bs
      poison := if bs.length = 256 then removeN r.poison (pa / 256) else r.poison }

/-- A write of bytes at a home, sector by sector; `fuel` bounds the sectors. -/
def homeWriteFrom : Nat → State → KeySel → Nat → List Byte → State
  | 0, s, _, _, _ => s
  | fuel + 1, s, key, pa, bs =>
    match bs with
    | [] => s
    | _ =>
      homeWriteFrom fuel (homePut s key pa (bs.take (256 - pa % 256))) key (pa + (256 - pa % 256))
        (bs.drop (256 - pa % 256))

/-- A write of bytes at a home. -/
def homeWrite (s : State) (key : KeySel) (pa : Nat) (bs : List Byte) : State :=
  homeWriteFrom (bs.length / 256 + 2) s key pa bs

/-- A plain write by the Z5 itself, of a table: no key; nothing where no memory exists (R243). -/
def rawWrite (s : State) (pa n v : Nat) : State :=
  if pa + n > localLimit then s else homeWrite s .clear pa (spread n v)

/-- Sector numbers of a range that is a whole number of sectors. -/
def sectorsOf (pa len : Nat) : List Nat := (List.range (len / 256)).map (pa / 256 + ·)

/-- Zero written over whole sectors under a key, as one write of each (R181, R271, R283). -/
def zeroRange (s : State) (key : KeySel) (pa len : Nat) : State :=
  if key = .dead then s
  else
    { s with
      mem := part (fun a => !(decide (pa ≤ a) && decide (a < pa + len))) s.mem
      poison := s.poison.filter (fun q => !(decide (pa / 256 ≤ q) && decide (q < (pa + len) / 256)))
      sealed := (sectorsOf pa len).foldl (fun m q => keep .clear m q key) s.sealed }

/-- MEMUE counts a poisoned sector and records the first (R274). -/
def recordError (s : State) (sec : Nat) : State :=
  { s with
    ctl :=
      { s.ctl with
        ueCount := if s.ctl.ueCount = 255 then 255 else s.ctl.ueCount + 1
        ueSector := if s.ctl.ueValid then s.ctl.ueSector else BitVec.ofNat 32 sec
        ueValid := true } }

/-- A sector becomes poisoned at its home (R271). -/
def poisonSector (s : State) (sec : Nat) : State := recordError { s with poison := insertN s.poison sec } sec

/-! ### First-level banks -/

/-- The cluster of a pipeline. -/
def clusterOfPipe (pipe : Nat) : Nat := pipe / 16

/-- The cluster's first-level cache is shared: a group of it is FUSED (R235). A group whose lanes stand apart for a trap
counts as FUSED until it is known that it does not rejoin at once (R329). -/
def sharedOn (s : State) (c : Nat) : Bool :=
  s.groups.any (fun g => decide (nth 0 g.2.lanes 0 / 128 = c) && (decide (g.2.mode = .fused) || g.2.trap.isSome))

/-- The bank that serves a pipeline's access to an address (R234, R235). -/
def bankFor (s : State) (pipe pa : Nat) : Nat :=
  if sharedOn s (pipe / 16) then pipe / 16 * 16 + pa / 1024 % 16 else pipe

/-- The banks that serve a pipeline. -/
def banksFor (s : State) (pipe : Nat) : List Nat :=
  if sharedOn s (pipe / 16) then (List.range 16).map (pipe / 16 * 16 + ·) else [pipe]

/-- The set of a line (R267). -/
def setFor (shared : Bool) (num : Nat) : Nat := if shared then num / 16 % 4 else num % 4

/-- The lines of a bank. -/
def linesOf (s : State) (b : Nat) : List Line := look [] s.banks b

/-- A bank holding the given lines. -/
def setLines (s : State) (b : Nat) (l : List Line) : State := { s with banks := keep [] s.banks b l }

/-- The line of a bank with a number. -/
def findLine : List Line → Nat → Option Line
  | [], _ => none
  | l :: r, n => if l.num = n then some l else findLine r n

/-- A bank's lines without one. -/
def dropLine (ls : List Line) (n : Nat) : List Line := ls.filter (fun l => decide (l.num ≠ n))

/-- The dirty sectors of a line. -/
def dirtySectors (l : Line) : List (Nat × Sector) := l.sectors.filter (fun e => decide (e.2.dirty ≠ []))

/-- The bytes written through a bank merge into the second-level copy (R297); poison travels along (R271), but a sector whose
slot holds no key stays as it is (R277). -/
def mergeSector (s : State) (num i : Nat) (e : Sector) : State :=
  let pa := num * 1024 + i * 256
  let r := e.dirty.foldl (fun t o => homePut t e.key (pa + o) [look 0 e.data o]) s
  if e.poison && decide (e.dirty ≠ []) && decide (e.key ≠ .dead) then { r with poison := insertN r.poison (pa / 256) } else r

/-- A line with every sector clean. -/
def cleanLine (l : Line) : Line := { l with sectors := each (fun _ e => { e with dirty := [] }) l.sectors }

/-- Every dirty sector of a line written back (R268). -/
def mergeLine (s : State) (l : Line) : State :=
  (dirtySectors l).foldl (fun t e => mergeSector t l.num e.1 e.2) s

/-- Dirty sectors of a bank written back; they stay valid and become clean (R295). -/
def writeBackBank (s : State) (b : Nat) : State :=
  setLines ((linesOf s b).foldl mergeLine s) b ((linesOf s b).map cleanLine)

/-- A bank cleared: dirty sectors written back, then every line invalidated (R296). -/
def clearBank (s : State) (b : Nat) : State := setLines ((linesOf s b).foldl mergeLine s) b []

/-- One sector of one bank written back if dirty, and invalidated (R269). -/
def evictSector (b : Nat) (s : State) (sec : Nat) : State :=
  match findLine (linesOf s b) (sec / 4) with
  | none => s
  | some l =>
    match find? l.sectors (sec % 4) with
    | none => s
    | some e =>
      let r := mergeSector s l.num (sec % 4) e
      setLines r b ((linesOf r b).map (fun m => if m.num = l.num then { m with sectors := del m.sectors (sec % 4) } else m))

/-- The sectors of a range, in order. -/
def coverSectors (pa len : Nat) : List Nat :=
  (List.range ((pa + len + 255) / 256 - pa / 256)).map (pa / 256 + ·)

/-- The sectors that hold a range are written back and invalidated in some banks (R269, R514). -/
def evictRange (s : State) (banks : List Nat) (pa len : Nat) : State :=
  banks.foldl (fun t b => (coverSectors pa len).foldl (evictSector b) t) s

/-- Sectors whose bytes a bank of the cluster holds dirty (R238): the sectors a lazy move writes back, by bank. -/
def dirtyElsewhere (s : State) (b num : Nat) : List (Nat × Line) :=
  ((List.range 16).map (b / 16 * 16 + ·)).filterMap (fun c =>
    if c = b then none
    else match findLine (linesOf s c) num with
      | some l => if dirtySectors l = [] then none else some (c, l)
      | none => none)

/-- The counters of R240 grow by sectors written back and lines invalidated. -/
def countSwitch (s : State) (c sectors lines : Nat) : State :=
  let k := look .reset s.clusters c
  { s with
    clusters := put s.clusters c
      { k with wbsec := k.wbsec + BitVec.ofNat 24 sectors, invln := k.invln + BitVec.ofNat 24 lines } }

/-- A lazy move: the other banks write back and invalidate a line they hold dirty (R238). Answers the sectors written. -/
def lazyMove (s : State) (b num : Nat) : State × Nat :=
  if sharedOn s (b / 16) then (s, 0)
  else
    let l := dirtyElsewhere s b num
    let n := l.foldl (fun k e => k + (dirtySectors e.2).length) 0
    let r := l.foldl (fun t e => setLines (mergeLine t e.2) e.1 (dropLine (linesOf t e.1) num)) s
    (if l = [] then s else countSwitch r (b / 16) n l.length, n)

/-- The lines of a set. -/
def waysOf (sh : Bool) (ls : List Line) (num : Nat) : List Line := ls.filter (fun l => decide (setFor sh l.num = setFor sh num))

/-- Lines of sets that a switch of modes left with more than twelve, without each set's most recently accessed one. -/
def crowded (sh : Bool) (ls : List Line) : List Line :=
  ls.filter (fun l => decide (12 < (waysOf sh ls l.num).length) && decide ((waysOf sh ls l.num).head? ≠ some l))

/-- The lines of which one leaves to make room for a line (R267): those of its set when twelve ways are taken; when the bank
holds 48 lines all the same (R233), those of crowded sets. -/
def leaving (sh : Bool) (ls : List Line) (num : Nat) : List Line :=
  if 12 ≤ (waysOf sh ls num).length then (waysOf sh ls num).drop 1 else if 48 ≤ ls.length then crowded sh ls else []

/-- Room in the set of a line: a line other than the most recently accessed leaves (R267). Answers the dirty sectors written
back. -/
def makeRoom (s : State) (b num : Nat) : State × Nat :=
  let l := leaving (sharedOn s (b / 16)) (linesOf s b) num
  match l.drop (Config.freeNat s.free % l.length) with
  | [] => (s, 0)
  | v :: _ =>
    let r := mergeLine { s with free := s.free + 1 } v
    (setLines r b (dropLine (linesOf r b) v.num), (dirtySectors v).length)

/-- A copy of a sector as its home holds it. -/
def fillSector (s : State) (key : KeySel) (sec : Nat) : Sector :=
  { data :=
      if look .clear s.sealed sec = key then
        each (fun _ b => b) ((part (fun a => decide (a / 256 = sec)) s.mem).map (fun c => (c.1 % 256, c.2)))
      else
        (otherKey s key sec).zipIdx.foldl (fun m e => keep 0 m e.2 e.1) []
    dirty := []
    poison := homeBad s key (sec * 256)
    key := key }

/-- The bank holds the sector valid. -/
def sectorIn (s : State) (b sec : Nat) : Option Sector :=
  match findLine (linesOf s b) (sec / 4) with
  | some l => find? l.sectors (sec % 4)
  | none => none

/-- The line of a sector becomes the most recently accessed of its bank. -/
def touchLine (s : State) (b num : Nat) : State :=
  match findLine (linesOf s b) num with
  | some l => setLines s b (l :: dropLine (linesOf s b) num)
  | none => s

/-- A sector put into the line of a bank, which it makes the most recently accessed. -/
def placeSector (s : State) (b sec : Nat) (e : Sector) : State :=
  match findLine (linesOf s b) (sec / 4) with
  | some l => setLines s b ({ l with sectors := put l.sectors (sec % 4) e } :: dropLine (linesOf s b) (sec / 4))
  | none => setLines s b ({ num := sec / 4, sectors := [(sec % 4, e)] } :: linesOf s b)

/-- A dirty copy of a sector becomes poisoned in its bank, which carries the poison on when it writes the sector back (R271). -/
def poisonCopy (s : State) (b sec : Nat) : State :=
  recordError (setLines s b ((linesOf s b).map (fun l =>
    if l.num = sec / 4 then { l with sectors := upd l.sectors (sec % 4) (fun e => { e with poison := true }) } else l))) sec

/-- A memory cell fails (R266, R271, R274, R493): a clean cached sector is read again from the next level. -/
def upsetMemory (s : State) : Upset → State
  | .corrected => { s with ctl := { s.ctl with memce := s.ctl.memce + 1 } }
  | .cleanLine => { s with ctl := { s.ctl with ueCount := if s.ctl.ueCount = 255 then 255 else s.ctl.ueCount + 1 } }
  | .sector n => if n * 256 ≥ localLimit then s else poisonSector s n
  | .bank b n => match sectorIn s b n with | some e => if e.dirty = [] then s else poisonCopy s b n | none => s
  | .scratch d => { s with scErr := insertN s.scErr d }
  | .tile d => { s with tileErr := insertN s.tileErr d }

/-- The sector is in the bank after this; a miss fills it (R268). Answers the sectors charged to tb (R149). -/
def ensureSector (s : State) (b : Nat) (key : KeySel) (sec : Nat) : State × Nat :=
  match sectorIn s b sec with
  | some _ => (touchLine s b (sec / 4), 0)
  | none =>
    let (s1, n1) := lazyMove s b (sec / 4)
    let (s2, n2) := match findLine (linesOf s1 b) (sec / 4) with
      | some _ => (s1, 0)
      | none => makeRoom s1 b (sec / 4)
    (placeSector s2 b sec (fillSector s2 key sec), n1 + n2 + 1)

/-- A plain load of an aligned access through the bank of a pipeline: the value, whether its sector is poisoned, and the
sectors charged (R458). -/
def bankLoad (s : State) (pipe : Nat) (key : KeySel) (pa n : Nat) : State × Nat × Bool × Nat :=
  let b := bankFor s pipe pa
  let (r, c) := ensureSector s b key (pa / 256)
  match sectorIn r b (pa / 256) with
  | some e => (r, gather (fun a => look 0 e.data (a % 256)) n pa, e.poison || decide (key = .dead), c)
  | none => (r, 0, false, c)

/-- The bytes of a store merged into a sector copy. -/
def sectorPut (e : Sector) (o : Nat) : List Byte → Sector
  | [] => e
  | b :: r => sectorPut { e with data := keep 0 e.data o b, dirty := insertN e.dirty o } (o + 1) r

/-- A plain store of an aligned access through the bank of a pipeline; answers the sectors charged (R458). Through a slot
without a key nothing is written (R99). -/
def bankStore (s : State) (pipe : Nat) (key : KeySel) (pa : Nat) (bs : List Byte) : State × Nat :=
  let b := bankFor s pipe pa
  let (r, c) := ensureSector s b key (pa / 256)
  match sectorIn r b (pa / 256) with
  | some e => (if key = .dead then r else placeSector r b (pa / 256) (sectorPut e (pa % 256) bs), c)
  | none => (r, c)

/-- What a lane would read at an address without filling: its bank's copy, else the home's (R316). -/
def viewByte (s : State) (pipe : Nat) (key : KeySel) (pa : Nat) : Byte :=
  match sectorIn s (bankFor s pipe pa) (pa / 256) with
  | some e => look 0 e.data (pa % 256)
  | none => homeByte s key pa

/-- Whether that byte is poisoned. -/
def viewBad (s : State) (pipe : Nat) (key : KeySel) (pa : Nat) : Bool :=
  match sectorIn s (bankFor s pipe pa) (pa / 256) with
  | some e => e.poison || decide (key = .dead)
  | none => homeBad s key pa

/-- What an LDS or an engine routine reads: the home's byte, or what the last of the cluster's banks that wrote it holds (R269). -/
def takeByte (s : State) (banks : List Nat) (key : KeySel) (pa : Nat) : Byte :=
  banks.foldl (fun v b =>
    match sectorIn s b (pa / 256) with
    | some e => if e.dirty.contains (pa % 256) then look 0 e.data (pa % 256) else v
    | none => v) (homeByte s key pa)

/-- Whether that read meets poison. -/
def takeBad (s : State) (banks : List Nat) (key : KeySel) (pa : Nat) : Bool :=
  homeBad s key pa || banks.any (fun b =>
    match sectorIn s b (pa / 256) with | some e => e.poison && decide (e.dirty ≠ []) | none => false)

/-- The banks of a cluster. -/
def clusterBanks (c : Nat) : List Nat := (List.range 16).map (c * 16 + ·)

/-- The cache actions of a release (R295). `fused` says that the issuing group is FUSED. -/
def releaseBanks (s : State) (pipe : Nat) (sc : Scope) (fused : Bool) : State :=
  if sharedOn s (pipe / 16) then
    match sc with
    | .group | .team => s
    | _ => ((List.range 16).map (pipe / 16 * 16 + ·)).foldl writeBackBank s
  else
    match sc with
    | .group => if fused then s else writeBackBank s pipe
    | _ => writeBackBank s pipe

/-- The cache actions of an acquire (R296). -/
def acquireBanks (s : State) (pipe : Nat) (sc : Scope) (fused : Bool) : State :=
  if sharedOn s (pipe / 16) then
    match sc with
    | .group | .team => s
    | _ => ((List.range 16).map (pipe / 16 * 16 + ·)).foldl clearBank s
  else
    match sc with
    | .group => if fused then s else clearBank s pipe
    | _ => clearBank s pipe

/-- One bank's part of the switch to shared: lines whose home bank it is not are written back and invalidated. Carries
the sectors and lines counted (R237). -/
def shareBank (a : State × Nat × Nat) (b : Nat) : State × Nat × Nat :=
  let ls := linesOf a.1 b
  let away := ls.filter (fun l => decide (l.num % 16 ≠ b % 16))
  let r := away.foldl mergeLine a.1
  (setLines r b (ls.filter (fun l => decide (l.num % 16 = b % 16))),
   a.2.1 + away.foldl (fun k l => k + (dirtySectors l).length) 0, a.2.2 + away.length)

/-- The switch to shared of R237, steps 2 to 4; answers the sectors written back. -/
def switchShared (s : State) (c : Nat) : State × Nat :=
  let (r, n, l) := ((List.range 16).map (c * 16 + ·)).foldl shareBank (s, 0, 0)
  let t := countSwitch r c n l
  let k := look .reset t.clusters c
  ({ t with clusters := put t.clusters c { k with toshr := k.toshr + 1 } }, n)

/-- The switch to private of R238: it writes nothing back and moves no line. -/
def switchPrivate (s : State) (c : Nat) : State :=
  let k := look .reset s.clusters c
  { s with clusters := put s.clusters c { k with toprv := k.toprv + 1, privAt := some s.cycle } }

/-! ### Translation -/

/-- Why a translation fails: code, and DETAIL (R317). -/
structure XFault where
  code   : Nat
  detail : Nat
  deriving DecidableEq, Repr

/-- A translation: the physical address with its device id, the leaf, and the key of its path. -/
structure Xlat where
  pa   : Nat
  leaf : TlbEntry
  key  : KeySel
  deriving DecidableEq, Repr

/-- The access an operation needs (R254). -/
structure Need where
  r : Bool
  w : Bool
  x : Bool
  deriving DecidableEq, Repr

/-- The key pair of a slot (R98): a slot never loaded or erased holds none (R277). -/
def slotKey (s : State) (n : Nat) : KeySel :=
  match find? s.host.keys n with
  | some k => .pair k
  | none => .dead

/-- The root entry of a domain (R251). -/
def rootEntry (s : State) (dom : Nat) : Word := word (rawRead s (s.ctl.trtbase.toNat + 8 * dom) 8)

/-- The slot was erased or reloaded while this leaf mapped it, and the page has not been mapped again since (R99). -/
def staleKey (s : State) (slot : Nat) (e : TlbEntry) : Bool :=
  s.host.stale.any (fun r => decide (r.slot = slot) && decide (r.at_ = e.at_) && decide (r.pte = e.pte &&& ~~~0x40)
    && match r.dom with | some d => decide (d = e.dom) | none => true)

/-- The key through which a leaf reaches memory when its slot is known (R98, R99). -/
def mappedKey (s : State) (slot : Nat) (e : TlbEntry) : KeySel := if staleKey s slot e then .dead else slotKey s slot

/-- The key of a leaf (R276). -/
def leafKey (s : State) (e : TlbEntry) : KeySel :=
  if bitW e.pte 7 then mappedKey s (bitsW e.pte 63 54) e
  else if bitW (rootEntry s e.dom) 62 then mappedKey s (bitsW (rootEntry s e.dom) 61 52) e
  else .clear

/-- The partition whose domains hold `dom`, its entry's words (R95). -/
def partOfDom (s : State) (dom : Nat) : Option (Nat × List Word) :=
  match first? (fun _ (p : List Word × Bool) =>
      decide (bitsW (nth 0 p.1 1) 11 0 ≤ dom) && decide (dom < bitsW (nth 0 p.1 1) 11 0 + bitsW (nth 0 p.1 1) 28 16))
      s.host.parts with
  | some (n, p) => some (n, p.1)
  | none => none

/-- A key slot lies in the key range of the domain's partition, if it has one (R253). -/
def keyAllowed (s : State) (dom key : Nat) : Bool :=
  match partOfDom s dom with
  | none => true
  | some (_, e) =>
    decide (bitsW (nth 0 e 2) 9 0 ≤ key) && decide (key < bitsW (nth 0 e 2) 9 0 + bitsW (nth 0 e 2) 26 16)

/-- A page table leaf names this device (R245). -/
def localLeaf (s : State) (pte : Word) : Bool := decide (bitsW pte 51 40 = s.fab.id.toNat)

/-- The bits of a virtual address below a page of a level (R250). -/
def pageBits (level : Nat) : Nat := if level = 1 then 42 else if level = 2 then 29 else 16

/-- The index of a virtual address at a level. -/
def levelIndex (va level : Nat) : Nat :=
  if level = 1 then bitsN va 54 42 else if level = 2 then bitsN va 41 29 else bitsN va 28 16

/-- What a page table entry is (R252). -/
inductive PteKind where
  | invalid | malformed | pointer | leaf | onTouch
  deriving DecidableEq, Repr

/-- The kind of an entry at a level, with the checks of R253. -/
def pteKind (s : State) (dom level : Nat) (e : Word) : PteKind :=
  let v := bitW e 0
  let ot := bitW e 5
  let perm := bitW e 1 || bitW e 2 || bitW e 3
  let isLeaf := v && perm
  let isPtr := v && !perm
  let peerLeaf := isLeaf && !localLeaf s e
  if !v && !ot then .invalid
  else if decide (bitsW e 53 52 ≠ 0) || decide (bitsW e 15 8 ≠ 0) then .malformed
  else if isPtr && decide (level = 3) then .malformed
  else if bitW e 2 && !bitW e 1 then .malformed
  else if isLeaf && decide (level < 3) && decide (bitsW e 51 16 * 2 ^ 16 % 2 ^ pageBits level ≠ 0) then .malformed
  else if isPtr && !localLeaf s e then .malformed
  else if ot && (decide (level < 3) || peerLeaf) then .malformed
  else if !peerLeaf && bitW e 7 && !keyAllowed s dom (bitsW e 63 54) then .malformed
  else if !peerLeaf && decide (bitsW e 63 54 ≠ 0) && (isPtr || !bitW e 7) then .malformed
  else if isPtr && bitW e 7 then .malformed
  else if isPtr then .pointer
  else if isLeaf then .leaf
  else .onTouch

/-- A walk of the levels still to go from a table (R250 to R253, R256); answers the leaf or the on-touch entry. -/
def walkFrom (s : State) (dom va : Nat) : List Nat → Nat → Except XFault TlbEntry
  | [], _ => .error { code := 0x05, detail := 3 }
  | level :: rest, table =>
    let a := table + 8 * levelIndex va level
    if a ≥ localLimit then .error { code := 0x04, detail := 0 }
    else if homeBad s .clear a then .error { code := 0x09, detail := level }
    else
      let e := word (rawRead s a 8)
      match pteKind s dom level e with
      | .invalid => .error { code := 0x05, detail := level }
      | .malformed => .error { code := 0x06, detail := level }
      | .pointer => walkFrom s dom va rest (bitsW e 39 16 * 2 ^ 16)
      | .leaf | .onTouch =>
        .ok { dom := dom, base := va / 2 ^ pageBits level * 2 ^ pageBits level, level := level, pte := e, at_ := a }

/-- A hardware walk of a virtual address in a domain. -/
def walk (s : State) (dom va : Nat) : Except XFault TlbEntry :=
  let ra := s.ctl.trtbase.toNat + 8 * dom
  if ra ≥ localLimit then .error { code := 0x04, detail := 0 }
  else if homeBad s .clear ra then .error { code := 0x09, detail := 0 }
  else
    let root := rootEntry s dom
    if !bitW root 63 then .error { code := 0x05, detail := 0 }
    else if decide (bitsW root 51 40 ≠ 0) || decide (bitsW root 15 0 ≠ 0) then .error { code := 0x06, detail := 0 }
    else walkFrom s dom va [1, 2, 3] (bitsW root 39 16 * 2 ^ 16)

/-- The entry of a TLB that maps a virtual address of a domain (R255). -/
def tlbFind : List TlbEntry → Nat → Nat → Option TlbEntry
  | [], _, _ => none
  | e :: r, dom, va =>
    if e.dom = dom ∧ e.base = va / 2 ^ pageBits e.level * 2 ^ pageBits e.level then some e else tlbFind r dom va

/-- The TLBs a party looks up, first level first: a cluster's and its die's, or an IO die's. -/
def tlbsOf (cluster : Nat) : List Nat := if cluster < 384 then [cluster, 384 + cluster / 48] else [cluster]

/-- The entry that one of these TLBs holds. -/
def tlbLook (s : State) (dom va : Nat) : List Nat → Option TlbEntry
  | [] => none
  | t :: r => match tlbFind (look [] s.ctl.tlbs t) dom va with | some e => some e | none => tlbLook s dom va r

/-- Entries of a TLB: a cluster's, a compute die's and an IO die's (R255). -/
def tlbSize (t : Nat) : Nat := if t < 384 then 256 else if t < 392 then 16384 else 1024

/-- Two entries map the same page of a domain. -/
def samePage (e f : TlbEntry) : Bool := decide (f.dom = e.dom) && decide (f.base = e.base) && decide (f.level = e.level)

/-- An entry put into a TLB, which when full loses the one that was used longest ago. -/
def tlbPut (size : Nat) (l : List TlbEntry) (e : TlbEntry) : List TlbEntry := e :: (l.filter (fun f => !samePage e f)).take (size - 1)

/-- The entry held by these TLBs. -/
def tlbInstall (s : State) (e : TlbEntry) (ts : List Nat) : State :=
  { s with ctl := { s.ctl with tlbs := ts.foldl (fun m t => put m t (tlbPut (tlbSize t) (look [] m t) e)) s.ctl.tlbs } }

/-- A field of a domain entry (R179). -/
def domAddr (s : State) (dom off : Nat) : Nat := s.sched.dtbase.toNat + 64 * dom + off

/-- A page or block of a list may be taken: of a domain with teams, only what its lists are known to hold, so that one that software
has written over leads nowhere else (R5, R168). -/
def ownedBlock (s : State) (dom b : Nat) : Bool := match find? s.sched.owned dom with | some a => a.free.contains b | none => true

/-- The head and the count of a list of a domain entry, at offset 16 or 32 (R179). -/
def listAt (s : State) (dom off : Nat) : Nat × Nat :=
  (bitsN (rawRead s (domAddr s dom off) 8) 39 16 * 2 ^ 16, rawRead s (domAddr s dom (off + 8)) 8 % 2 ^ 40)

/-- What a list holds: at most `n` entries from an address (R179). -/
def listFrom (s : State) : Nat → Nat → List Nat
  | 0, _ => []
  | n + 1, a => if a = 0 then [] else a :: listFrom s n (bitsN (rawRead s a 8) 39 16 * 2 ^ 16)

/-- What a domain's entry says of its lists, USED and PGCOUNT added: a page taken leaves that sum. -/
def arenaMark (s : State) (dom : Nat) : Nat × Nat × Nat :=
  (rawRead s (domAddr s dom 8) 8 % 2 ^ 40 + (listAt s dom 16).2, listAt s dom 32)

/-- The Z5 has changed a domain's lists by its own rules; `new` joins what they hold. -/
def noteArena (s : State) (dom : Nat) (new : List Nat) : State :=
  { s with sched := { s.sched with owned := upd s.sched.owned dom (fun a =>
    { free := new.filter (fun b => !a.free.contains b) ++ a.free, mark := arenaMark s dom }) } }

/-- A team of a domain is placed: what the domain's lists hold is settled, unless it was and nobody but the Z5 has changed the entry
since; a domain that is not valid has no lists. -/
def openArena (s : State) (dom : Nat) : State :=
  let fresh : Arena :=
    { free := listFrom s (listAt s dom 16).2 (listAt s dom 16).1 ++ listFrom s (listAt s dom 32).2 (listAt s dom 32).1
      mark := arenaMark s dom }
  let stands (a : Arena) : Bool :=
    decide (a.mark = arenaMark s dom) && (decide ((listAt s dom 16).1 = 0) || a.free.contains (listAt s dom 16).1)
  let owned :=
    if !bitW (word (rawRead s (domAddr s dom 0) 8)) 63 then del s.sched.owned dom
    else match find? s.sched.owned dom with
      | some a => if stands a then s.sched.owned else put s.sched.owned dom fresh
      | none => put s.sched.owned dom fresh
  { s with sched := { s.sched with owned := owned } }

/-- A free page taken from the domain's list, if the quota allows (R179, R181). What follows a page that software has written over is
no page of the list (R5). -/
def takePage (s : State) (dom : Nat) : Except Nat (State × Nat) :=
  let w := word (rawRead s (domAddr s dom 0) 8)
  if !bitW w 63 then .error 0x12
  else
    let used := rawRead s (domAddr s dom 8) 8 % 2 ^ 40
    if used ≥ bitsW w 39 0 then .error 0x12
    else
      let (head, cnt) := listAt s dom 16
      if head = 0 ∨ cnt = 0 ∨ !ownedBlock s dom head then .error 0x13
      else
        let raw := rawRead s head 8
        let next := if ownedBlock s dom (bitsN raw 39 16 * 2 ^ 16) then raw else 0
        let s1 := rawWrite s (domAddr s dom 16) 8 next
        let s2 := rawWrite s1 (domAddr s dom 24) 8 (cnt - 1)
        .ok (rawWrite s2 (domAddr s dom 8) 8 (used + 1), head)

/-- An on-touch page is backed (R181): the page is taken, USED rises, zero is written under the entry's key, then the PA
and V enter the entry in one update. -/
def backPage (s : State) (e : TlbEntry) : Except XFault (State × TlbEntry) :=
  match takePage s e.dom with
  | .error c => .error { code := c, detail := e.dom }
  | .ok (t, page) =>
    let e' := { e with pte := word ((e.pte.toNat - bitsW e.pte 51 16 * 2 ^ 16) + (s.fab.id.toNat * 2 ^ 40 + page) + 1) }
    .ok (rawWrite (zeroRange t (leafKey t e') page 65536) e.at_ 8 e'.pte.toNat, e')

/-- The permission faults of an entry (R254), permission before user. -/
def permFault (need : Need) (user : Bool) (pte : Word) : Option XFault :=
  if (need.r && !bitW pte 1) || (need.w && !bitW pte 2) || (need.x && !bitW pte 3) then some { code := 0x07, detail := 0 }
  else if user && !bitW pte 4 then some { code := 0x08, detail := 0 }
  else none

/-- A leaf with V set by a walk, an on-touch page backed on the way (R256, R181, R281). -/
def leafWalked (s : State) (ts : List Nat) (dom va : Nat) (need : Need) (user : Bool) : Except XFault (State × TlbEntry) :=
  match walk s dom va with
  | .error f => .error f
  | .ok e =>
    match permFault need user e.pte with
    | some f => .error f
    | none =>
      if bitW e.pte 0 then .ok (tlbInstall s e ts, e)
      else if need.x then .error { code := 0x05, detail := 3 }
      else match backPage s e with
        | .error f => .error f
        | .ok (t, e') => .ok (tlbInstall t e' ts, e')

/-- The entry still is the leaf, apart from D that another write has set; one with D set needs no look (R279). -/
def leafStands (s : State) (e : TlbEntry) : Bool :=
  bitW e.pte 6 || decide (word (rawRead s e.at_ 8) = e.pte) || decide (word (rawRead s e.at_ 8) = e.pte ||| 0x40)

/-- A leaf held in a TLB serves an access: it permits it (R257), and a write can set D in the entry it came from (R279). -/
def leafServes (s : State) (need : Need) (user : Bool) (e : TlbEntry) : Bool :=
  (permFault need user e.pte).isNone && (!need.w || leafStands s e)

/-- A leaf with V set, from the TLBs or by a walk (R255 to R257). -/
def leafFor (s : State) (ts : List Nat) (dom va : Nat) (need : Need) (user : Bool) :
    Except XFault (State × TlbEntry) :=
  match tlbLook s dom va ts with
  | some e => if leafServes s need user e then .ok (tlbInstall s e ts, e) else leafWalked s ts dom va need user
  | none => leafWalked s ts dom va need user

/-- D set at the entry's home and in the leaf, before a write through it takes effect (R279). -/
def setDirty (s : State) (ts : List Nat) (e : TlbEntry) : State × TlbEntry :=
  if bitW e.pte 6 then (s, e)
  else
    let e' := { e with pte := e.pte ||| 0x40 }
    (tlbInstall (rawWrite s e.at_ 8 e'.pte.toNat) e' ts, e')

/-- The physical address and key of a virtual address through a leaf. -/
def applyLeaf (s : State) (e : TlbEntry) (va : Nat) : Xlat :=
  { pa := bitsW e.pte 51 16 * 2 ^ 16 + va % 2 ^ pageBits e.level
    leaf := e
    key := leafKey s e }

/-- A translation with its effects: entries installed, an on-touch page backed, D set for a write. -/
def translate (s : State) (ts : List Nat) (dom : Nat) (va : Word) (need : Need) (user : Bool) :
    Except XFault (State × Xlat) :=
  if bitsW va 63 55 ≠ 0 then .error { code := 0x03, detail := 0 }
  else
    match leafFor s ts dom va.toNat need user with
    | .error f => .error f
    | .ok (t, e) =>
      if !need.w then .ok (t, applyLeaf t e va.toNat)
      else let (u, e') := setDirty t ts e; .ok (u, applyLeaf u e' va.toNat)

/-- The page is a peer's (R245). -/
def Xlat.peer (s : State) (x : Xlat) : Bool := !localLeaf s x.leaf.pte

/-- The local part of a physical address. -/
def Xlat.local_ (x : Xlat) : Nat := x.pa % 2 ^ 40

/-- No local memory stands there: the address lies beyond it, or an offset in a page of 4 TiB carries it to another device (R243). -/
def Xlat.absent (s : State) (x : Xlat) : Bool := decide (x.local_ ≥ localLimit) || decide (x.pa / 2 ^ 40 ≠ s.fab.id.toNat)

/-- A translation for a local access: a peer page and a nonexistent address fault (R243, R245). -/
def translateLocal (s : State) (ts : List Nat) (dom : Nat) (va : Word) (need : Need) (user : Bool) :
    Except XFault (State × Xlat) :=
  match translate s ts dom va need user with
  | .error f => .error f
  | .ok (t, x) =>
    if x.peer s then .error { code := 0x0A, detail := 0 }
    else if x.absent s then .error { code := 0x04, detail := 0 }
    else .ok (t, x)

/-- A read through a domain's tables by the Z5 itself: at supervisor privilege, from the home. None when it does not
translate or is poisoned. -/
def domRead (s : State) (dom : Nat) (va n : Nat) : Option Nat :=
  match translateLocal s [] dom (word va) ⟨true, false, false⟩ false with
  | .error _ => none
  | .ok (t, x) => if rangeBad t x.key x.local_ n then none else some (homeRead t x.key x.local_ n)

/-- A write through a domain's tables by the Z5 itself (R522, R134); none when it does not translate or meets a
poisoned sector. -/
def domWrite (s : State) (dom : Nat) (va : Nat) (bs : List Byte) : Option State :=
  match translateLocal s [] dom (word va) ⟨true, true, false⟩ false with
  | .error _ => none
  | .ok (t, x) => if rangeBad t x.key x.local_ bs.length then none else some (homeWrite t x.key x.local_ bs)

end Sys2Proof.Machine
end

