-- ==== Sys2Proof/Machine/Ops.lean ====
section
/-!
DEFINITION. The operations every instruction shares: positions, streams and lanes, registers and results, charges and
grace, divergence and rejoin, taking a trap and returning from one.
-/

namespace Sys2Proof.Machine

open Sys2Proof

/-! ### Positions -/

/-- The pipeline of a position; an engine hart has a register file of its own. -/
def pipeOf (pos : Nat) : Nat := if pos < 49152 then pos / 8 else 6144 + (pos - 49152)

/-- The slot index of a position. -/
def slotOf (pos : Nat) : Nat := pos % 8

/-- The cluster of a slot position. -/
def clusterOf (pos : Nat) : Nat := pos / 128

/-- The compute die of a cluster. -/
def dieOf (cluster : Nat) : Nat := cluster / 48

/-- The IO die on a compute die's side: 0 for IO die A, 1 for B (R59, R480). -/
def ioOf (die : Nat) : Nat := if die = 0 ∨ die = 1 ∨ die = 4 ∨ die = 5 then 0 else 1

/-- The lowest number no group has, a vault's included; an engine hart's group takes the number of its position. -/
def freeGroup (s : State) : Nat := freeKey (s.sched.vaults.foldl (fun m e => m ++ e.2.groups) s.groups) 0 49152

/-- The position of an engine hart's stream. -/
def hartPos (hart : Nat) : Nat := 49152 + hart

/-! ### Who issues -/

/-- A stream with its team and group. -/
structure Ctx where
  sid  : Nat
  st   : Stream
  team : Team
  grp  : Group
  deriving DecidableEq, Repr

/-- The stream at a position, with its team and group. -/
def ctxOf (s : State) (sid : Nat) : Option Ctx :=
  match find? s.streams sid with
  | none => none
  | some st =>
    match find? s.teams st.team, find? s.groups st.group with
    | some t, some g => some { sid := sid, st := st, team := t, grp := g }
    | _, _ => none

/-- A stream changed. -/
def modStream (s : State) (sid : Nat) (f : Stream → Stream) : State := { s with streams := upd s.streams sid f }

/-- A lane changed. -/
def modLane (s : State) (pos : Nat) (f : Lane → Lane) : State := { s with lanes := upd s.lanes pos f }

/-- A team changed. -/
def modTeam (s : State) (t : Nat) (f : Team → Team) : State := { s with teams := upd s.teams t f }

/-- A group changed. -/
def modGroup (s : State) (g : Nat) (f : Group → Group) : State := { s with groups := upd s.groups g f }

/-- A stream parked. -/
def park (s : State) (sid : Nat) (p : Park) : State := modStream s sid (fun st => { st with park := some p })

/-- A stream no longer parked. -/
def unpark (s : State) (sid : Nat) : State := modStream s sid (fun st => { st with park := none })

/-- An internal event that is due. -/
def pushWork (s : State) (e : Instr) : State := { s with work := s.work ++ [e] }

/-- An event after some cycles. -/
def pushTimer (s : State) (dt : Nat) (e : Instr) : State := { s with timers := s.timers ++ [(s.cycle + dt, e)] }

/-- An event after some fifteenths of a nanosecond. -/
def pushAlarm (s : State) (dt : Nat) (e : Instr) : State := { s with alarms := s.alarms ++ [(s.time + dt, e)] }

/-- Fifteenths of a nanosecond in a cycle, by throttle state (R20). -/
def period (k : BitVec 2) : Nat := match k.toNat with | 0 => 12 | 1 => 15 | 2 => 20 | _ => 24

/-- Cycles of the clock in force pass (R22). -/
def tick (s : State) (n : Nat) : State := { s with cycle := s.cycle + n, time := s.time + n * period s.pkg.inForce }

/-- Fifteenths of a nanosecond in some microseconds. -/
def micros (n : Nat) : Nat := 15000 * n

/-- An asynchronous transfer begins, under a number of its own. -/
def addMove (s : State) (m : Transfer) : State := { s with moves := put s.moves s.seq m, seq := s.seq + 1 }

/-- A choice among `n` outcomes that the manual leaves open (R4). -/
def chooseFree (s : State) (n : Nat) : State × Nat := ({ s with free := s.free + 1 }, Config.freeNat s.free % n)

/-- The position of lane `l` of a group. -/
def laneAt (g : Group) (l : Nat) : Nat := nth 0 g.lanes l

/-- The lanes of a mask with their positions, in ascending order. -/
def lanesIn (g : Group) (m : BitVec 16) : List (Nat × Nat) := (onesOf m).map (fun l => (l, laneAt g l))

/-- The active lanes of a context. -/
def Ctx.lanes (c : Ctx) : List (Nat × Nat) := lanesIn c.grp c.st.mask

/-- The lowest active lane, or the lowest lane when none is active. -/
def Ctx.first (c : Ctx) : Nat × Nat :=
  match c.lanes with
  | e :: _ => e
  | [] => match lanesIn c.grp c.st.members with | e :: _ => e | [] => (0, c.sid)

/-- The group's width. -/
def Ctx.width (c : Ctx) : Nat := c.grp.lanes.length

/-- The stream is a fused group in lockstep. -/
def Ctx.fused (c : Ctx) : Bool := decide (c.grp.mode = .fused)

/-- The stream is an engine routine (R482). -/
def Ctx.routine (c : Ctx) : Bool := c.st.hart.isSome

/-- The lane that holds a position; a default that no access needs when there is none. -/
def laneOf (s : State) (pos : Nat) : Lane :=
  look { team := 0, group := 0, stream := 0, ln := 0, order := 0, base := 0, alloc := 32, seed := 1, tcause := 0, tpc := 0,
         taddr := 0, tinfo := 0, tvec := 0, tsave := 0, priv := 0 } s.lanes pos

/-- The privilege of a stream's lanes: that of its lowest active lane (R320). -/
def privOf (s : State) (c : Ctx) : Nat := (laneOf s c.first.2).priv.toNat

/-- The TLBs that serve a stream (R255, R482). -/
def Ctx.tlbs (c : Ctx) : List Nat :=
  match c.st.hart with
  | none => tlbsOf c.team.cluster
  | some h => if h < 384 then tlbsOf h else [392 + (h - 384) / 8]

/-! ### Registers -/

/-- The place of windowed register n of a lane (R201). -/
def regPlace (s : State) (st : Stream) (pos n : Nat) : Nat :=
  pipeOf pos * 2048 + (laneOf s pos).base + st.wbase.toNat + n

/-- A team's budget as read (R144, R146). -/
def readBudget (t : Team) (b : BitVec 32) : Word := if t.exempt then 0xFFFFFFFF else b.setWidth 64

/-- The entries of a lane column (R197). -/
def column (t : Team) (q l : Nat) : List Word := look [] t.queues (16 * q + l)

/-- A register name read for a lane; `j` entries of a role queue's column have been taken before (R346, R198). -/
def readName (s : State) (c : Ctx) (ln pos j : Nat) : RegName → Word
  | .x n => look 0 s.regs (regPlace s c.st pos n.val)
  | .k n => look 0 c.st.k n.val
  | .q n => nth 0 (column c.team n.val ln) j
  | .zr => 0
  | .ln => word ln
  | .gi => word c.grp.gi
  | .ti => word c.team.ti
  | .ib => readBudget c.team c.team.ib
  | .tb => readBudget c.team c.team.tb
  | .cy => word (s.cycle - c.st.cyBase)

/-- A register of a run, by its field value: x0 to x95 or k0 to k15 (R347). -/
def readField (s : State) (c : Ctx) (pos f : Nat) : Word :=
  if f < 96 then look 0 s.regs (regPlace s c.st pos f) else look 0 c.st.k (f - 96)

/-- The registers of a run of `n` from a name, for a lane. -/
def readRun (s : State) (c : Ctx) (pos : Nat) (r : RegName) (n : Nat) : List Word :=
  (runFields (fieldOf r) n).map (readField s c pos)

/-- Where a result for a register name goes; none when it is discarded or pushed (R346). -/
def destOf (s : State) (st : Stream) (pos : Nat) : RegName → Option Dest
  | .x n => some (.reg (regPlace s st pos n.val))
  | .k n => some (.k n.val)
  | _ => none

/-- The same for a field value of a run. -/
def destOfField (s : State) (st : Stream) (pos f : Nat) : Dest :=
  if f < 96 then .reg (regPlace s st pos f) else .k (f - 96)

/-- Earlier results still outstanding for a place are discarded: a later write stands (R208). -/
def overtake (d : Dest) (l : List Pending) : List Pending :=
  l.map (fun p => { p with writes := p.writes.filter (fun w => decide (w.1 ≠ d)) })

/-- A value written to a place of a stream. -/
def writeDest (s : State) (sid : Nat) (d : Dest) (v : Word) : State :=
  match d with
  | .reg n => { s with regs := keep 0 s.regs n v }
  | .k n => modStream s sid (fun st => { st with k := keep 0 st.k n v })

/-- The place of a team's scratchpad offset in the module's scratchpads (R263). -/
def scratchPlace (t : Team) (off : Nat) : Nat := t.cluster * 524288 + t.scBase * 4096 + off

/-- The scratchpad doubleword that holds entry `j` of a lane column: columns stand one after another in the last 16 KiB (R197), each
a ring whose head moves with every pop. -/
def queueWord (t : Team) (q l j : Nat) : Nat :=
  (scratchPlace t (t.scUnits * 4096) - 16384) / 8 + 16 * (16 * q + l) + (look 0 t.popped (16 * q + l) + j) % 16

/-- An entry pushed to a role queue's column (R198); its doubleword is written whole (R266). -/
def pushColumn (s : State) (t q l : Nat) (v : Word) : State :=
  { modTeam s t (fun x => { x with queues := keep [] x.queues (16 * q + l) (column x q l ++ [v]) }) with
    scErr := match find? s.teams t with | some x => removeN s.scErr (queueWord x q l (column x q l).length) | none => s.scErr }

/-- A result of ALU class for one lane: complete for the next instruction (R205). A uniform register takes the value of
the lowest active lane (R204). -/
def writeLane (s : State) (c : Ctx) (ln pos : Nat) (r : RegName) (v : Word) : State :=
  match r with
  | .x n =>
    let d := Dest.reg (regPlace s c.st pos n.val)
    writeDest (modStream s c.sid (fun st => { st with pend := overtake d st.pend })) c.sid d v
  | .k n =>
    if ln = c.first.1 then
      writeDest (modStream s c.sid (fun st => { st with pend := overtake (.k n.val) st.pend })) c.sid (.k n.val) v
    else s
  | .q n => pushColumn s c.st.team n.val ln v
  | _ => s

/-- Results of ALU class for every active lane, each lane's value given (R12). -/
def writeLanes (s : State) (c : Ctx) (r : RegName) (vs : List (Nat × Nat × Word)) : State :=
  vs.foldl (fun t v => writeLane t c v.1 v.2.1 r v.2.2) s

/-- A long-latency result of a lane: outstanding until it is written back (R205). -/
def issueResult (s : State) (c : Ctx) (pos : Nat) (ws : List (Dest × Word)) (a : Await) : State :=
  let t := modStream s c.sid (fun st =>
    { st with
      pend := ws.foldl (fun l w => overtake w.1 l) st.pend ++
        [{ seq := s.seq, lane := pos, writes := ws, await := a, pc := c.st.pc }] })
  { t with seq := s.seq + 1 }

/-- The writes of a long-latency result to a register name for a lane; a uniform register takes only the lowest active
lane's (R204). -/
def resultTo (s : State) (c : Ctx) (ln pos : Nat) (r : RegName) (v : Word) : List (Dest × Word) :=
  match r with
  | .k n => if ln = c.first.1 then [(.k n.val, v)] else []
  | _ => match destOf s c.st pos r with | some d => [(d, v)] | none => []

/-- A long-latency result for a lane's destination register whose value is known. -/
def writeLater (s : State) (c : Ctx) (ln pos : Nat) (r : RegName) (v : Word) : State :=
  issueResult s c pos (resultTo s c ln pos r v) .nothing

/-- Long-latency results for every active lane. -/
def writeLaters (s : State) (c : Ctx) (r : RegName) (vs : List (Nat × Nat × Word)) : State :=
  vs.foldl (fun t v => writeLater t c v.1 v.2.1 r v.2.2) s

/-! ### Charges and grace -/

/-- Grace starts, or a later cause rules out cancellation (R151). -/
def pendYield (s : State) (t cause : Nat) (excess : Nat) : State :=
  match find? s.teams t with
  | none => s
  | some tm =>
    match tm.pend with
    | some g =>
      if cause ≥ 3 then modTeam s t (fun x => { x with pend := some { g with nocan := true } }) else s
    | none =>
      let s1 := modTeam s t (fun x =>
        { x with pend := some { cause := cause, nocan := decide (cause ≥ 3), units := s.sched.gunits.toNat - excess,
                                until_ := s.cycle + 20 * s.sched.gtime.toNat } })
      pushTimer s1 (20 * s.sched.gtime.toNat) (.graceExpiry t)

/-- Charge units against ib, or against the grace allowance (R147, R150, R152). -/
def chargeIb (s : State) (t units : Nat) : State :=
  match find? s.teams t with
  | none => s
  | some tm =>
    if tm.exempt ∨ units = 0 then s
    else
      match tm.pend with
      | some g => modTeam s t (fun x => { x with pend := some { g with units := g.units - units } })
      | none =>
        let v := tm.ib.toNat
        let s1 := modTeam s t (fun x => { x with ib := BitVec.ofNat 32 (v - units) })
        if v ≤ units then pendYield s1 t 1 (units - v) else s1

/-- Sectors against tb (R149, R150, R152). -/
def chargeTb (s : State) (t n : Nat) : State :=
  match find? s.teams t with
  | none => s
  | some tm =>
    if tm.exempt ∨ n = 0 then s
    else
      let v := tm.tb.toNat
      let s1 := modTeam s t (fun x => { x with tb := BitVec.ofNat 32 (v - n) })
      if v ≤ n then pendYield s1 t 2 0 else s1

/-- Units of an instruction a stream issues: none in a handler, none in a routine (R148). -/
def chargeIssue (s : State) (c : Ctx) (units : Nat) : State :=
  if c.st.handler || c.routine then s else chargeIb s c.st.team units

/-- Sectors of an instruction a stream issues: none in a handler (R331); a routine's go to its team (R483). -/
def chargeSectors (s : State) (c : Ctx) (n : Nat) : State :=
  if c.st.handler then s else chargeTb s c.st.team n

/-- Sectors charged to a team for the transfer of a group that may have left. -/
def chargeTeam (s : State) (t n : Nat) : State := chargeTb s t n

/-! ### Banking -/

/-- A cluster's switch to private taken back: the cluster counts as shared throughout (R239). -/
def stayShared (s : State) (c : Nat) : State :=
  { s with clusters := upd s.clusters c (fun k => { k with toprv := k.toprv - 1, privAt := none }) }

/-- After a change of the groups of a cluster its cache switches between private and shared (R237, R238); the write-backs
are charged to a team (R149). A switch to private in the same cycle does not stand (R239). -/
def rebank (before after : State) (c t : Nat) : State :=
  match sharedOn before c, sharedOn after c with
  | false, true =>
    if (look .reset after.clusters c).privAt = some after.cycle then stayShared after c
    else let (r, n) := switchShared after c; chargeTb r t n
  | true, false => switchPrivate after c
  | _, _ => after

/-! ### Code words -/

/-- A geode of a domain's handle table, if the handle is valid (R361, R362). -/
def handleOf (s : State) (dom index : Nat) : Option Geode :=
  let root := word (rawRead s (s.ctl.ghtroot.toNat + 8 * dom) 8)
  if !bitW root 63 || decide (index > bitsW root 55 40) then none
  else
    let a := bitsW root 39 6 * 64 + 64 * index
    let w0 := word (rawRead s a 8)
    let w1 := word (rawRead s (a + 8) 8)
    let w2 := word (rawRead s (a + 16) 8)
    if !bitW w0 63 then none
    else some { dom := bitsW w1 59 48, index := index, base := bitsW w0 54 0, len := bitsW w1 31 0,
                entcnt := bitsW w2 39 32, entoff := bitsW w2 31 0 }

/-- The address of an entry of a geode; none when the entry lies outside the list or the list cannot be read. -/
def entryPc (s : State) (g : Geode) (entry : Nat) : Option Word :=
  if entry ≥ g.entcnt then none
  else match domRead s g.dom (g.base + g.entoff + 4 * entry) 4 with
    | some off => some (word (g.base + off))
    | none => none

/-- The banks whose dirty data a fetch observes (R262): every bank of the device, the stream's own last, so that its data stands. -/
def fetchBanks (s : State) (c : Ctx) (pa : Nat) : List Nat :=
  s.banks.map Prod.fst ++ (if c.routine then [] else [bankFor s (pipeOf c.first.2) pa])

/-- A word of code at a virtual address, read as fetch reads it (R246, R262, R272). -/
def codeWord (s : State) (c : Ctx) (va : Nat) : Except XFault (State × Nat) :=
  match translateLocal s c.tlbs c.team.domain (word va) ⟨false, false, true⟩ (decide (privOf s c = 0)) with
  | .error f => .error f
  | .ok (t, x) =>
    let banks := fetchBanks t c x.local_
    if takeBad t banks x.key x.local_ then .error { code := 0x17, detail := 0 } else .ok (t, gather (takeByte t banks x.key) 4 x.local_)

/-- The word of the instruction a stream is at: from its fetch block, else from memory; zero when it cannot be read. -/
def wordAt (s : State) (c : Ctx) : Nat :=
  match c.st.fetch with
  | some b =>
    if b.block = c.st.pc.toNat / 64 then joinBytes ((b.bytes.drop (c.st.pc.toNat % 64)).take 4)
    else match codeWord s c c.st.pc.toNat with | .ok r => r.2 | .error _ => 0
  | none => match codeWord s c c.st.pc.toNat with | .ok r => r.2 | .error _ => 0

/-! ### Control stack -/

/-- Entries on the stack, spilled ones included (R427). -/
def depthOf (st : Stream) : Nat := st.stack.length + st.spilled

/-- The entry at a depth that is on chip. -/
def entryAt (st : Stream) (t : Nat) : Option CsEntry :=
  if t ≤ st.spilled ∨ t > depthOf st then none else st.stack[depthOf st - t]?

/-- An entry read from doublewords in memory (R209). -/
def entryOf (d0 d1 : Nat) : CsEntry :=
  { kind := BitVec.ofNat 4 (bitsN d0 63 60), mask := BitVec.ofNat 16 (bitsN d0 59 44),
    count := BitVec.ofNat 32 (bitsN d0 31 0), pc := BitVec.ofNat 55 (bitsN d1 54 0) }

/-- The first doubleword of an entry as spilled (R209). -/
def entryWord0 (e : CsEntry) : Nat := e.kind.toNat * 2 ^ 60 + e.mask.toNat * 2 ^ 44 + e.count.toNat

def kindIf : BitVec 4 := 1
def kindElse : BitVec 4 := 2
def kindLoop : BitVec 4 := 3
def kindSplit : BitVec 4 := 4

/-- The topmost split record and its place from the top, in the stack or held apart (R211, R227, R329): its rejoin pc. -/
def topSplit (st : Stream) : Option (BitVec 55) :=
  match st.stack.findIdx? (fun e => decide (e.kind = kindSplit)), st.trapRec with
  | none, none => none
  | none, some r => some r.pc
  | some i, none => (st.stack[i]?).map CsEntry.pc
  | some i, some r => if depthOf st - i > r.depth then (st.stack[i]?).map CsEntry.pc else some r.pc

/-- The stack without its topmost split record (R228). -/
def dropSplit (st : Stream) : Stream :=
  match st.stack.findIdx? (fun e => decide (e.kind = kindSplit)), st.trapRec with
  | none, _ => { st with trapRec := none }
  | some i, none => { st with stack := st.stack.eraseIdx i }
  | some i, some r =>
    if depthOf st - i > r.depth then { st with stack := st.stack.eraseIdx i } else { st with trapRec := none }

/-- The region entry lost when entries at or below its depth go (R322). -/
def cutRegion (st : Stream) (depth : Nat) : Stream :=
  match st.region with
  | some r => if depth ≤ r.depth then { st with region := none } else st
  | none => st

/-- The closing address of an entry (R428): a LOOP's is the ENDLOOP that the LOOP word names. -/
def closing (s : State) (c : Ctx) (e : CsEntry) : Except XFault Word :=
  if e.kind = kindLoop then
    match codeWord s c (e.pc.toNat - 4) with
    | .ok r => .ok (wordI ((e.pc.toNat - 4 : Nat) + 4 * signedN (r.2 % 2 ^ 17) 17))
    | .error f => .error f
  else .ok (e.pc.setWidth 64)

/-- The rejoin pc of a split without one of its own (R226): the end of the innermost entry on chip. -/
def rejoinPc (s : State) (c : Ctx) : BitVec 55 :=
  match c.st.stack.find? (fun e => decide (e.kind ≠ kindSplit)) with
  | none => 0
  | some e =>
    if e.kind = kindLoop then
      match closing s c e with
      | .ok a => (a + 4).setWidth 55
      | .error _ => 0
    else if e.kind = kindIf then
      match codeWord s c e.pc.toNat with
      | .ok r =>
        if bitsN r.2 30 24 = 0x36 then
          BitVec.ofInt 55 ((e.pc.toNat : Int) + 4 * signedN (r.2 % 2 ^ 24) 24)
        else e.pc
      | .error _ => e.pc
    else e.pc

/-! ### Divergence -/

/-- Where a lane of a splitting group goes on: its pc, stack, active mask and waiting records (R224). -/
structure Resume where
  pc    : Word
  stack : List CsEntry
  mask  : BitVec 16
  waits : List Waiting
  cut   : Nat               -- entries at this depth and above are gone or replaced
  deriving DecidableEq, Repr

/-- A spilled entry (R214): the fault of its read, poison among them (R272), or the entry. -/
def spilledEntry (s : State) (c : Ctx) (t : Nat) : Except LaneFault CsEntry :=
  let va := c.st.csspill.toNat - 16 * (c.st.spilled + 1 - t)
  match translateLocal s c.tlbs c.team.domain (word va) ⟨true, false, false⟩ false with
  | .error f => .error { ln := c.first.1, code := f.code, addr := word va, detail := f.detail }
  | .ok (u, x) =>
    if viewBad u (pipeOf c.first.2) x.key x.local_ then .error { ln := c.first.1, code := 0x18, addr := word va, detail := 0 }
    else .ok (entryOf (gather (viewByte u (pipeOf c.first.2) x.key) 8 x.local_)
      (gather (viewByte u (pipeOf c.first.2) x.key) 8 (x.local_ + 8)))

/-- The resume point of an inactive lane (R224). -/
def resumeOf (s : State) (c : Ctx) (l : Nat) (w : Waiting) : Except LaneFault Resume :=
  let closeAt (e : CsEntry) : Word := match closing s c e with | .ok a => a | .error _ => e.pc.setWidth 64
  match entryAt c.st w.depth with
  | none =>
    match spilledEntry s c w.depth with
    | .error f => .error f
    | .ok e => .ok { pc := closeAt e, stack := [], mask := 0, waits := [w], cut := w.depth + 1 }
  | some e =>
    let below := c.st.stack.drop (depthOf c.st - w.depth)
    let splits := (c.st.stack.take (depthOf c.st - w.depth)).filter (fun f => decide (f.kind = kindSplit))
    let me : BitVec 16 := maskOf [l]
    let stay : Resume := { pc := closeAt e, stack := splits ++ below, mask := me, waits := [], cut := w.depth + 1 }
    match w.reason with
    | .iff =>
      match codeWord s c e.pc.toNat with
      | .ok r =>
        if bitsN r.2 30 24 = 0x36 then
          .ok { pc := e.pc.setWidth 64 + 4
                stack := splits ++ ({ e with kind := kindElse, pc := BitVec.ofInt 55 ((e.pc.toNat : Int) + 4 * signedN (r.2 % 2 ^ 24) 24) } :: below.drop 1)
                mask := me, waits := [], cut := w.depth }
        else .ok stay
      | .error _ => .ok stay
    | .andThen => .ok stay
    | .brk => .ok { pc := closeAt e + 4, stack := splits ++ below.drop 1, mask := me, waits := [], cut := w.depth }
    | .cont => .ok stay

/-- The resume points of all inactive lanes of a stream, or the first fault of reading a spilled entry. -/
def resumesOf (s : State) (c : Ctx) : List Waiting → Except LaneFault (SMap Resume)
  | [] => .ok []
  | w :: ws =>
    match resumesOf s c ws with
    | .error f => .error f
    | .ok m =>
      match resumeOf s c w.lane w with
      | .error f => .error f
      | .ok r => .ok (put m w.lane r)

/-- One lane's stream when a fused group diverges. `record` goes on its stack, or apart for a trap split. -/
def laneStream (c : Ctx) (rs : SMap Resume) (at_ : Nat → Word) (record : CsEntry) (apart : Bool) (l : Nat) : Stream :=
  let me : BitVec 16 := maskOf [l]
  let pos := laneAt c.grp l
  let base : Resume :=
    match find? rs l with
    | some r => r
    | none => { pc := at_ l, stack := c.st.stack, mask := me, waits := [], cut := depthOf c.st + 1 }
  let rd : CsEntry := record
  { cutRegion c.st base.cut with
    members := me
    mask := base.mask
    pc := base.pc
    stack := if apart then base.stack else rd :: base.stack
    trapRec := if apart then some { pc := rd.pc, depth := base.stack.length + c.st.spilled } else c.st.trapRec
    waits := base.waits
    pend := (c.st.pend.filter (fun p => decide (p.lane = pos)))
    park := none
    lowRun := 0
    tmma := none
    noJoin := false
    paid := none }

/-- A fused group enters DIVERGED mode: each live lane becomes a stream of its own (R223, R224, R329). `at_` gives the pc of
the lanes that were active. -/
def diverge (s : State) (c : Ctx) (rs : SMap Resume) (at_ : Nat → Word) (record : CsEntry) (apart : Bool) : State :=
  let ls := lanesIn c.grp c.st.members
  let s1 := { s with streams := del s.streams c.sid }
  let s2 := ls.foldl (fun t e =>
    { t with
      streams := put t.streams e.2 (laneStream c rs at_ record apart e.1)
      lanes := upd t.lanes e.2 (fun x => { x with stream := e.2 }) }) s1
  modGroup s2 c.st.group (fun g => { g with mode := .diverged, rejoinBy := none })

/-- The split record of a split of this group (R209, R223). -/
def splitRecord (c : Ctx) (pc : BitVec 55) : CsEntry :=
  { kind := kindSplit, mask := c.st.members, count := 0, pc := pc }

/-! ### Traps -/

/-- The class of a cause (R317). -/
def classOf (code : Nat) : Nat :=
  if code = 0x01 then 1
  else if code = 0x02 ∨ code = 0x1B then 2
  else if 0x03 ≤ code ∧ code ≤ 0x0D then 3
  else if code = 0x0E ∨ (0x14 ≤ code ∧ code ≤ 0x16) then 6
  else if 0x0F ≤ code ∧ code ≤ 0x11 then 5
  else if code = 0x12 ∨ code = 0x13 then 4
  else if 0x17 ≤ code ∧ code ≤ 0x19 then 7
  else 8

/-- TCAUSE for a cause (R319). -/
def causeWord (code detail : Nat) : Word := word (detail % 2 ^ 32 * 2 ^ 32 + classOf code * 2 ^ 16 + code)

/-- The index of a partition in TRPVEC and TRPSAV: 16 outside every partition (R340). -/
def partIndex (p : Option Nat) : Nat := match p with | some n => n | none => 16

/-- The save area of a slot position (R330). -/
def saveArea (s : State) (p : Option Nat) (pos : Nat) : Nat :=
  (look 0 s.sched.trpsav (partIndex p)).toNat + 64 * pos

/-- A team is to be killed (R337); the first reason stands. -/
def doom (s : State) (t kcode fcode : Nat) : State :=
  modTeam s t (fun x => { x with doomed := match x.doomed with | some d => some d | none => some (kcode, fcode) })

/-- The lowest code of some causes (R321). -/
def lowest : List LaneFault → Nat
  | [] => 0x1B
  | f :: r => if r = [] then f.code else Nat.min f.code (lowest r)

/-- A lane's lowest cause. -/
def causeOf : List LaneFault → Nat → Option LaneFault
  | [], _ => none
  | f :: r, l =>
    match causeOf r l with
    | some g => if f.ln = l ∧ f.code ≤ g.code then some f else some g
    | none => if f.ln = l then some f else none

/-- x0 to x7 written to the save area (R328 step 3). -/
def saveRegs (s : State) (st : Stream) (pos area : Nat) : State :=
  (List.range 8).foldl (fun t n => rawWrite t (area + 8 * n) 8 (look 0 s.regs (regPlace s st pos n)).toNat) s

/-- The byte offset from TPC to the instruction that started a lane's failed work; an earlier one counts as 0 (R319). -/
def lateOffset (info : TrapInfo) (ln : Nat) : Nat :=
  match info.pcs.find? (fun e => decide (e.1 = ln)) with
  | some e => e.2.toNat - info.tpc.toNat
  | none => 0

/-- TINFO for a trap of a lane (R319). -/
def tinfoWord (info : TrapInfo) (priv fmask ln : Nat) : Word :=
  word ((if info.late then 2 ^ 63 else 0) + (if info.noroll then 2 ^ 62 else 0) + priv * 2 ^ 59 + ln * 2 ^ 55
    + fmask * 2 ^ 32 + Nat.min (lateOffset info ln) (2 ^ 32 - 1))

/-- One faulting lane enters its handler (R328 steps 3 to 5). A failure of these steps is a double fault (R333). -/
def enterLane (info : TrapInfo) (fmask : Nat) (t : Nat) (s : State) (e : Nat × Nat) : State :=
  match find? s.teams t, find? s.lanes e.2 with
  | some tm, some la =>
    match find? s.streams la.stream, causeOf info.faults e.1 with
    | some st, some f =>
      let area := saveArea s tm.part e.2
      if area + 64 > localLimit then doom s t 0x01 0x04
      else
        let s1 := saveRegs s st e.2 area
        let s2 := modLane s1 e.2 (fun x =>
          { x with tcause := causeWord f.code f.detail, tpc := info.tpc &&& 0x7FFFFFFFFFFFFF, taddr := f.addr
                   tinfo := tinfoWord info x.priv.toNat fmask e.1, priv := 1 })
        match handleOf s2 tm.domain (bitsW la.tvec 63 48) with
        | none => doom s2 t 0x01 0x0B
        | some g =>
          match entryPc s2 g (bitsW la.tvec 47 40) with
          | none => doom s2 t 0x01 0x0B
          | some pc =>
            let s3 := modStream s2 la.stream (fun x => { x with handler := true, geode := g, pc := pc, park := none, fetch := none, mask := maskOf [e.1] })
            modTeam s3 t (fun x => { x with handlers := x.handlers + 1 })
    | _, _ => s
  | _, _ => s

/-- The other groups of a team are told to halt (R326): each goes on for at most 16 instructions, none when it is parked or
PBCAST is set (R327). -/
def broadcastHalt (s : State) (t g : Nat) (pbcast : Bool) : State :=
  let (s1, k) := chooseFree s 17
  { s1 with
    streams := each (fun key st =>
      if st.team = t ∧ st.group ≠ g ∧ st.handler = false ∧ st.haltIn = none ∧ key < 49152 then
        { st with haltIn := some (if pbcast || st.park.isSome then 0 else k), skid := 0 }
      else st) s1.streams }

/-- The lanes that raised a trap. -/
def faultLanes (c : Ctx) (info : TrapInfo) : List (Nat × Nat) :=
  (lanesIn c.grp c.st.members).filter (fun e => info.faults.any (fun f => decide (f.ln = e.1)))

/-- A trap is taken (R328): the group stops, a fused group diverges (R329), and each faulting lane enters its handler. -/
def enterTrap (s : State) (c : Ctx) (info : TrapInfo) : State :=
  let fl := faultLanes c info
  let fmask := maskOf (fl.map Prod.fst)
  let pb := match fl with | e :: _ => bitW (laneOf s e.2).tvec 1 | [] => false
  let s1 := if c.team.handlers = 0 then broadcastHalt s c.st.team c.st.group pb else s
  if c.fused then
    match resumesOf s1 c c.st.waits with
    | .error f => doom s1 c.st.team 0x01 f.code
    | .ok rs =>
      let s2 := diverge s1 c rs (fun _ => info.tpc) (splitRecord c (rejoinPc s1 c)) true
      let s3 := (lanesIn c.grp c.st.members).foldl (fun t e => park t e.2 .atTrap) s2
      let s4 := modGroup s3 c.st.group (fun g =>
        { g with trap := some { saved := { c.st with park := none }, tpc := info.tpc, faulting := fmask, returned := 0, away := 0 } })
      fl.foldl (enterLane info fmask.toNat c.st.team) s4
  else fl.foldl (enterLane info fmask.toNat c.st.team) s1

/-- Bytes written to a team's scratchpad; a doubleword written whole loses an uncorrectable error (R266). -/
def scratchPut (s : State) (t : Team) (off : Nat) : List Byte → State
  | [] => s
  | b :: r => scratchPut { s with scratch := keep 0 s.scratch (scratchPlace t off) b } t (off + 1) r

/-- A doubleword written to scratchpad (R263, R266). -/
def scratchPut8 (s : State) (t : Team) (off : Nat) (v : Word) : State :=
  let s1 := scratchPut s t off (spread 8 v.toNat)
  { s1 with scErr := removeN s1.scErr (scratchPlace t off / 8) }

/-- A routine ends: its stream is removed and its hart is free (R487). -/
def freeHart (s : State) (h : Nat) : State :=
  { s with
    streams := del s.streams (hartPos h)
    groups := del s.groups (hartPos h)
    lanes := del s.lanes (hartPos h)
    regs := part (fun a => !(decide (a / 2048 = pipeOf (hartPos h)))) s.regs
    harts := upd s.harts h (fun x => { x with run := none }) }

/-- A routine faults (R336): the record, then the completion store with bit 63 changed; the hart is free. -/
def routineFault (s : State) (h : Nat) (t : Team) (code detail : Nat) (addr pc : Word) : State :=
  match find? s.harts h with
  | none => s
  | some x =>
    let s1 := scratchPut8 s t (x.word + 8) (causeWord code detail)
    let s2 := scratchPut8 s1 t (x.word + 16) addr
    let s3 := scratchPut8 s2 t (x.word + 24) (pc &&& 0x7FFFFFFFFFFFFF)
    freeHart (scratchPut8 s3 t x.word (x.value ^^^ 0x8000000000000000)) h

/-- A trap raised by a stream: a routine's fault record (R336), a double fault inside a handler (R333), else the trap,
which waits for the group's earlier results when they are outstanding (R328 step 1). -/
def raiseTrap (s : State) (c : Ctx) (info : TrapInfo) : State :=
  match c.st.hart with
  | some h =>
    match info.faults with
    | f :: _ => routineFault s h c.team f.code f.detail f.addr info.tpc
    | [] => s
  | none =>
    if c.st.handler then doom s c.st.team 0x01 (lowest info.faults)
    else if c.st.pend = [] then enterTrap s c info
    else park s c.sid (.trap info)

/-- A precise fault at a stream's instruction (R321). -/
def raise (s : State) (c : Ctx) (fs : List LaneFault) : State :=
  raiseTrap s c { faults := fs, tpc := c.st.pc, late := false, noroll := false, pcs := [] }

/-- The same cause in every active lane, or in the one lane of a stream whose mask is empty (R213). -/
def everyLane (c : Ctx) (code : Nat) (addr : Word) (detail : Nat) : List LaneFault :=
  (if c.lanes = [] then [c.first] else c.lanes).map (fun e => { ln := e.1, code := code, addr := addr, detail := detail })

/-- The illegal-instruction trap (R318): TADDR holds the word. -/
def illegal (s : State) (c : Ctx) : State := raise s c (everyLane c 0x01 (word (wordAt s c)) 0)

/-! ### Rejoin -/

/-- The live streams of a group. -/
def groupStreams (s : State) (g : Nat) : List (Nat × Stream) := s.streams.filter (fun e => decide (e.2.group = g))

/-- The group's lanes that have not ended. -/
def liveLanes (g : Group) : List (Nat × Nat) := (lanesIn g (maskOf (List.range g.lanes.length))).filter (fun e => !inMask g.ended e.1)

/-- Where the one stream of a fused group stands: at its lowest lane that has not ended. -/
def groupSid (g : Group) : Nat := match liveLanes g with | e :: _ => e.2 | [] => 0

/-- The streams of a group become the one stream of a fused group (R228, R329). -/
def joinStreams (s : State) (gk : Nat) (g : Group) (st : Stream) : State :=
  let k := groupSid g
  let s1 := { s with streams := put (s.streams.filter (fun e => decide (e.2.group ≠ gk))) k st }
  let s2 := (liveLanes g).foldl (fun t e => modLane t e.2 (fun x => { x with stream := k })) s1
  modGroup s2 gk (fun x => { x with mode := .fused, trap := none, rejoinBy := none })

/-- The halt lifts when no lane of the team is in a handler (R326): each sibling resumes at its pc. -/
def liftHalt (s : State) (t : Nat) : State :=
  match find? s.teams t with
  | none => s
  | some tm =>
    if tm.handlers ≠ 0 then s
    else
      { s with
        streams := each (fun _ st =>
          if st.team = t then
            { st with haltIn := none, skid := 0, park := match st.park with | some .halted => none | p => p }
          else st) s.streams }

/-- Every handler of a trapped group has ended: the group rejoins at once when all its handlers came back to TPC, else its
lanes go on singly (R329). -/
def resolveTrap (s : State) (gk : Nat) : State :=
  match find? s.groups gk with
  | none => s
  | some g =>
    match g.trap with
    | none => s
    | some tc =>
      if tc.faulting &&& ~~~(tc.returned ||| g.ended) ≠ 0 then s
      else
        let ls := groupStreams s gk
        let standing := ls.filter (fun e => decide (e.2.pc = tc.tpc) && decide (e.2.members &&& (tc.saved.mask) ≠ 0))
        let d0 := match standing with | e :: _ => depthOf e.2 | [] => 0
        let keepers := tc.saved.members &&& ~~~g.ended
        if tc.away &&& ~~~g.ended = 0 ∧ standing ≠ [] ∧ standing.all (fun e => decide (depthOf e.2 = d0)) then
          let moved := standing.find? (fun e => inMask tc.faulting (laneOf s e.1).ln && decide (e.2.spilled ≠ tc.saved.spilled))
          let base := match moved with
            | some e => { tc.saved with stack := e.2.stack, spilled := e.2.spilled, csspill := e.2.csspill }
            | none => tc.saved
          joinStreams s gk g
            { base with
              pc := tc.tpc
              members := keepers
              mask := base.mask &&& ~~~g.ended
              waits := base.waits.filter (fun w => !inMask g.ended w.lane)
              pend := ls.foldl (fun l e => l ++ e.2.pend) []
              haltIn := none, skid := 0, park := none, fetch := none }
        else
          let s1 := modGroup s gk (fun x => { x with trap := none })
          let s2 := { s1 with streams := each (fun _ st =>
            if st.group = gk then { st with park := match st.park with | some .atTrap => none | p => p } else st) s1.streams }
          match find? s.teams g.team with | some tm => rebank s s2 tm.cluster g.team | none => s2

/-- A lane leaves its handler by RETT or END (R332, R439). -/
def leaveHandler (s : State) (t gk ln : Nat) (back : Bool) : State :=
  let s1 := modTeam s t (fun x => { x with handlers := x.handlers - 1 })
  let s2 := modGroup s1 gk (fun g =>
    { g with
      trap := match g.trap with
        | some tc =>
          if inMask tc.faulting ln then
            some { tc with returned := tc.returned ||| maskOf [ln], away := if back then tc.away else tc.away ||| maskOf [ln] }
          else some tc
        | none => none })
  liftHalt (resolveTrap s2 gk) t

/-- The way back from a handler (R332): x0 to x7 are read from the save area, then privilege, pc and geode are restored. -/
def returnFromTrap (s : State) (c : Ctx) : State :=
  let e := c.first
  let la := laneOf s e.2
  let area := saveArea s c.team.part e.2
  if area + 64 > localLimit then doom s c.st.team 0x01 0x04
  else if homeBad s .clear area then doom s c.st.team 0x01 0x18
  else
    let s1 := (List.range 8).foldl (fun t n => writeDest t c.sid (.reg (regPlace s c.st e.2 n)) (word (rawRead s (area + 8 * n) 8))) s
    let s2 := modLane s1 e.2 (fun x => { x with priv := BitVec.ofNat 2 (bitsW x.tinfo 60 59) })
    let tpc := la.tpc &&& 0x7FFFFFFFFFFFFF
    let here := match c.grp.trap with | some tc => decide (tc.tpc = tpc) | none => true
    let s3 := modStream s2 c.sid (fun st =>
      { st with handler := false, geode := c.team.geode, pc := tpc, fetch := none
                mask := if st.waits.any (fun w => decide (w.lane = e.1)) then 0 else maskOf [e.1]
                pend := (List.range 8).foldl (fun l n => overtake (.reg (regPlace s c.st e.2 n)) l) st.pend
                park := match c.grp.trap with
                  | some tc => if inMask tc.faulting e.1 then some .atTrap else none
                  | none => none })
    leaveHandler s3 c.st.team c.st.group e.1 here

end Sys2Proof.Machine
end

