-- ==== Sys2Proof/Machine/Flags.lean ====
section
/-!
DEFINITION. The floating-point flags and rounding mode of a group: FCSR (R372, R373). The flag computations themselves
stand beside the arithmetic in Float.
-/

namespace Sys2Proof.Machine

open Sys2Proof

/-- The rounding mode in force for a stream: FCSR[7:5] (R372). -/
def roundingIn (st : Stream) : Rounding := roundingOf (bitsN st.fcsr.toNat 7 5)

/-- Flags become set in a stream's FCSR; they stay set (R373). -/
def raiseFlags (s : State) (sid flags : Nat) : State :=
  modStream s sid (fun st => { st with fcsr := st.fcsr ||| BitVec.ofNat 8 (flags % 32) })

/-- The union of two sets of flags. -/
def flagsOr (a b : Nat) : Nat := a ||| b

/-- The union of a list of flag sets. -/
def flagsAll (l : List Nat) : Nat := l.foldl flagsOr 0

end Sys2Proof.Machine
end

