-- ==== Sys2Proof/Machine/Operands.lean ====
section
/-!
DEFINITION. What the issue of an instruction word does around its own effect: the checks on the registers it names, role
queues, the charge, the advance of the pc and switch points (R147, R148, R198, R203, R206, R318, R321).
-/

namespace Sys2Proof.Machine

open Sys2Proof

/-- A lane's operand values as it issues: its index and position, and the values of the sources a, b and d. -/
structure Vals where
  ln  : Nat
  pos : Nat
  a   : Word
  b   : Word
  d   : Word
  deriving DecidableEq, Repr

/-- What an instruction does once its operands are known: precise faults, the same after pages were backed for other lanes (R182),
an illegal word, a park before it takes effect,
an effect after which the pc advances, or an effect that sets the pc itself. The context handed to an effect is the
stream as it stands after the charge. -/
inductive Plan where
  | fault (fs : List LaneFault)
  | backed (s : State) (fs : List LaneFault)
  | illegal
  | wait (p : Park)
  | go (eff : State → Ctx → State)
  | own (eff : State → Ctx → State)

/-- The role queue a name pops or pushes. -/
def queueOf : Option RegName → Option Nat
  | some (.q n) => some n.val
  | _ => none

/-- 1 when both names are the same role queue. -/
def sameQueue (x y : Option RegName) : Nat :=
  match queueOf x with
  | some _ => if queueOf x = queueOf y then 1 else 0
  | none => 0

/-- The value of a source; zero when the form has none. -/
def readSource (s : State) (c : Ctx) (e : Nat × Nat) (j : Nat) : Option RegName → Word
  | some r => readName s c e.1 e.2 j r
  | none => 0

/-- A lane's operand values; role queues pop in the order a, b, d (R198). -/
def laneVals (s : State) (c : Ctx) (o : Operands) (e : Nat × Nat) : Vals :=
  { ln := e.1, pos := e.2
    a := readSource s c e 0 o.a
    b := readSource s c e (sameQueue o.a o.b) o.b
    d := readSource s c e (sameQueue o.a o.d + sameQueue o.b o.d) o.d }

/-- The role queues an instruction pops, once for each time. -/
def popsOf (o : Operands) : List Nat := [o.a, o.b, o.d].filterMap queueOf

/-- How often a queue is popped. -/
def popCountOf (o : Operands) (q : Nat) : Nat := ((popsOf o).filter (fun n => decide (n = q))).length

/-- Any role queue is named. -/
def namesQueue (o : Operands) : Bool := !(popsOf o).isEmpty || (queueOf o.dst).isSome

/-- A role queue column is empty that is popped, or full that is pushed (R198). -/
def queuesBlock (c : Ctx) (o : Operands) : Bool :=
  c.lanes.any (fun e =>
    (popsOf o).any (fun q => decide ((column c.team q e.1).length < popCountOf o q))
      || match queueOf o.dst with
         | some q => decide ((column c.team q e.1).length ≥ 16 + popCountOf o q)
         | none => false)

/-- The oldest entry leaves a column of every active lane. -/
def popColumns (c : Ctx) (q : Nat) (tm : Team) : Team :=
  { tm with
    queues := c.lanes.foldl (fun m e => keep [] m (16 * q + e.1) ((look [] m (16 * q + e.1)).drop 1)) tm.queues
    popped := c.lanes.foldl (fun m e => keep 0 m (16 * q + e.1) (look 0 m (16 * q + e.1) + 1)) tm.popped }

/-- A popped entry stands in a doubleword with an uncorrectable error (R338). -/
def popBad (s : State) (c : Ctx) (q : Nat) : Bool :=
  match find? s.teams c.st.team with
  | some tm => c.lanes.any (fun e => s.scErr.contains (queueWord tm q e.1 0))
  | none => false

/-- A queue's oldest entries leave; one with an error kills the team. -/
def popQueue (c : Ctx) (s : State) (q : Nat) : State :=
  let t := modTeam s c.st.team (popColumns c q)
  if popBad s c q then doom t c.st.team 0x02 0 else t

/-- Entries leave the popped columns of every active lane. -/
def popQueues (s : State) (c : Ctx) (o : Operands) : State := (popsOf o).foldl (popQueue c) s

/-- Field values of the windowed registers an instruction names, sources before the destination. -/
def windowed (o : Operands) (extra : List Nat) : List Nat :=
  let one : Option RegName → List Nat := fun r => match r with | some (.x n) => [n.val] | _ => []
  (one o.a ++ one o.b ++ one o.d ++ o.runs.flatMap (fun r => runFields (fieldOf r.1) r.2) ++ one o.dst ++ extra).filter
    (fun f => decide (f < 96))

/-- The faults of registers named outside a lane's allocation (R203). -/
def allocFaults (s : State) (c : Ctx) (names : List Nat) : List LaneFault :=
  (if c.lanes = [] then [c.first] else c.lanes).filterMap (fun e =>
    match names.find? (fun f => decide (c.st.wbase.toNat + f ≥ (laneOf s e.2).alloc)) with
    | some f => some { ln := e.1, code := 0x0E, addr := 0, detail := f }
    | none => none)

/-- A name that an engine routine may use: x0 to x31, zr and cy (R482). -/
def routineName : RegName → Bool
  | .x n => decide (n.val < 32)
  | .zr => true
  | .cy => true
  | _ => false

/-- The word is illegal where it stands (R197, R318, R483): a role queue named in a team without roles, an engine routine's
opcode on a pipeline, or in a routine an opcode or a name outside the engine profile. -/
def illegalHere (c : Ctx) (major f : Nat) (o : Operands) : Bool :=
  (namesQueue o && decide (c.team.layout = 0))
    || match c.st.hart with
       | none => decide (0x65 ≤ major ∧ major ≤ 0x67)
       | some _ =>
         !engineProfile major f
           || !([o.dst, o.a, o.b, o.d].all (fun r => match r with | some n => routineName n | none => true))
           || !(o.runs.all (fun r => decide (fieldOf r.1 + r.2 ≤ 32)))

/-- The automatic split's count of consecutive issues with few lanes active (R225, R226); once complete it stays. -/
def countLow (c : Ctx) (st : Stream) : Nat :=
  let goal := 16 * st.adiv.toNat
  if !c.fused || goal = 0 || st.handler then 0
  else if st.lowRun ≥ goal then st.lowRun
  else if c.lanes.length ≤ st.alanes.toNat then st.lowRun + 1 else 0

/-- The counts that an issue moves: the automatic split's, the halt's and its skid (R226, R326). -/
def countIssue (s : State) (c : Ctx) : State :=
  modStream s c.sid (fun st =>
    { st with
      lowRun := countLow c st
      haltIn := st.haltIn.map (· - 1)
      skid := if st.haltIn.isSome then st.skid + 1 else st.skid
      noJoin := false
      paid := none })

/-- After the effect a switch point parks its stream while results are outstanding (R206). -/
def switchPoint (s : State) (sid : Nat) (sw : Bool) : State :=
  if sw then
    modStream s sid (fun st => if st.pend ≠ [] ∧ st.park = none then { st with park := some .results } else st)
  else s

/-- The next instruction's address of a stream. -/
def advance (s : State) (sid : Nat) : State := modStream s sid (fun st => { st with pc := st.pc + 4 })

/-- The charge of an instruction, once however often it waits before its effect (R148). -/
def chargeOnce (s : State) (c : Ctx) (units : Nat) : State := if c.st.paid = some c.st.pc then s else chargeIssue s c units

/-- What stands before an effect: the charge, the pops and the counts. -/
def beforeEffect (s : State) (c : Ctx) (o : Operands) (units : Nat) : State :=
  countIssue (popQueues (chargeOnce s c units) c o) c

/-- An instruction that issues and waits before its effect is charged (R148). -/
def waitAt (s : State) (c : Ctx) (units : Nat) (p : Park) : State :=
  park (modStream (chargeOnce s c units) c.sid (fun st => { st with paid := some st.pc })) c.sid p

/-- An effect run on the stream as it stands after the charge. -/
def runEffect (s : State) (sid : Nat) (eff : State → Ctx → State) : State :=
  match ctxOf s sid with
  | some c => eff s c
  | none => s

/-- The causes of each lane joined (R321): a lane reports the lowest. -/
def planFaults (fs : List LaneFault) (p : Plan) : Plan :=
  match p with
  | .fault gs => .fault (fs ++ gs)
  | .backed t gs => .backed t (fs ++ gs)
  | p => if fs = [] then p else .fault fs

/-- The issue of an instruction word by a stream. -/
def issueAt (s : State) (c : Ctx) (major f : Nat) (sw : Bool) (o : Operands) (extra : List Nat)
    (plan : State → Ctx → List Vals → Plan) : State :=
  if illegalHere c major f o then illegal s c
  else
    let sources := windowed { o with dst := none } []
    match allocFaults s c sources with
    | g :: gs => raise s c (g :: gs)
    | [] =>
      if queuesBlock c o then waitAt s c (chargeUnits major f) .roleQueue
      else
        match planFaults (allocFaults s c (windowed { dst := o.dst } extra)) (plan s c (c.lanes.map (laneVals s c o))) with
        | .fault fs => raise s c fs
        | .backed t fs => raise t c fs
        | .illegal => illegal s c
        | .wait p => waitAt s c (chargeUnits major f) p
        | .go eff =>
          switchPoint (advance (runEffect (beforeEffect s c o (chargeUnits major f)) c.sid eff) c.sid) c.sid sw
        | .own eff =>
          switchPoint (runEffect (beforeEffect s c o (chargeUnits major f)) c.sid eff) c.sid sw

/-- An instruction word of the stream that issues: `major` and `f` select its classes (R147, R205), `extra` are registers it
writes beyond its operands. -/
def issueWith (s : State) (major f : Nat) (sw : Bool) (o : Operands) (extra : List Nat)
    (plan : State → Ctx → List Vals → Plan) : Host.Outcome State Fault Refusal :=
  match s.issuer with
  | none => .fault .noIssuer
  | some sid =>
    match ctxOf s sid with
    | none => .fault .noIssuer
    | some c => .next (issueAt s c major f sw o extra plan)

/-- The same without further registers. -/
def issue (s : State) (major f : Nat) (sw : Bool) (o : Operands) (plan : State → Ctx → List Vals → Plan) :
    Host.Outcome State Fault Refusal :=
  issueWith s major f sw o [] plan

/-! ### Shapes shared by whole families -/

/-- One result of ALU class per active lane, computed from that lane's operands. -/
def issueAlu (s : State) (major f : Nat) (sw : Bool) (o : Operands) (d : RegName) (fn : Vals → Word) :
    Host.Outcome State Fault Refusal :=
  issue s major f sw o (fun _ _ vs => .go (fun t c => writeLanes t c d (vs.map (fun v => (v.ln, v.pos, fn v)))))

/-- One long-latency result per active lane, computed from that lane's operands. -/
def issueLong (s : State) (major f : Nat) (sw : Bool) (o : Operands) (d : RegName) (fn : Vals → Word) :
    Host.Outcome State Fault Refusal :=
  issue s major f sw o (fun _ _ vs => .go (fun t c => writeLaters t c d (vs.map (fun v => (v.ln, v.pos, fn v)))))

/-- One result of ALU class per active lane with floating-point flags (R373). -/
def issueFp (s : State) (major f : Nat) (sw : Bool) (o : Operands) (d : RegName) (fn : Stream → Vals → Word × Nat) :
    Host.Outcome State Fault Refusal :=
  issue s major f sw o (fun _ _ vs => .go (fun t c =>
    raiseFlags (writeLanes t c d (vs.map (fun v => (v.ln, v.pos, (fn c.st v).1)))) c.sid
      (flagsAll (vs.map (fun v => (fn c.st v).2)))))

/-- One long-latency result per active lane with floating-point flags. -/
def issueFpLong (s : State) (major f : Nat) (sw : Bool) (o : Operands) (d : RegName) (fn : Stream → Vals → Word × Nat) :
    Host.Outcome State Fault Refusal :=
  issue s major f sw o (fun _ _ vs => .go (fun t c =>
    raiseFlags (writeLaters t c d (vs.map (fun v => (v.ln, v.pos, (fn c.st v).1)))) c.sid
      (flagsAll (vs.map (fun v => (fn c.st v).2)))))

end Sys2Proof.Machine
end

