-- ==== Sys2Proof/Machine/Control.lean ====
section
/-!
DEFINITION. Branches, structured control, and the morphing of groups: FUSE, SPLIT, REJOIN, the automatic split and the
register window (R216 to R230, R424 to R432).
-/

namespace Sys2Proof.Machine

open Sys2Proof

/-! ### Control stack -/

/-- Place from the top of the entry that a pop or replacement acts on: split records are passed over (R211). -/
def topEntry (st : Stream) : Option (Nat × CsEntry) :=
  match st.stack.findIdx? (fun e => decide (e.kind ≠ kindSplit)) with
  | some i => (st.stack[i]?).map (fun e => (i, e))
  | none => none

/-- The cause when no entry can be acted on: refill while entries are spilled, else mismatch (R212, R213). -/
def noEntry (c : Ctx) : List LaneFault :=
  if c.st.spilled > 0 then everyLane c 0x10 0 c.st.spilled else everyLane c 0x11 0 0

/-- A mismatch with the entry found (R212). -/
def wrongEntry (c : Ctx) (e : CsEntry) : List LaneFault := everyLane c 0x11 0 e.kind.toNat

/-- The cause of a push that finds 16 entries (R213). -/
def fullStack (c : Ctx) : List LaneFault := everyLane c 0x0F 0 c.st.stack.length

/-- A fault of reading the LOOP word that gives a closing address (R428). -/
def closeFault (c : Ctx) (e : CsEntry) (f : XFault) : List LaneFault :=
  everyLane c f.code (word (e.pc.toNat - 4)) f.detail

/-- The lanes that wait at a depth for some reasons. -/
def waitersAt (st : Stream) (t : Nat) (p : WaitReason → Bool) : BitVec 16 :=
  maskOf ((st.waits.filter (fun w => decide (w.depth = t) && p w.reason)).map Waiting.lane)

/-- A stream in which some lanes no longer wait at a depth. -/
def dropWaits (st : Stream) (m : BitVec 16) (t : Nat) : Stream :=
  { st with waits := st.waits.filter (fun w => !(inMask m w.lane && decide (w.depth = t))) }

/-- The lanes of a mask wait at a depth. -/
def addWaits (st : Stream) (m : BitVec 16) (t : Nat) (r : WaitReason) : Stream :=
  { st with waits := st.waits ++ (onesOf m).map (fun l => { lane := l, depth := t, reason := r }) }

/-- The entry that gives where a stream with an empty mask goes on: the innermost at which some lane waits (R429). -/
def waitedEntry (st : Stream) : Option (Nat × CsEntry) :=
  match (st.stack.zipIdx).find? (fun e =>
      decide (e.1.kind ≠ kindSplit) && st.waits.any (fun w => decide (w.depth = depthOf st - e.2))) with
  | some e => some (e.2, e.1)
  | none => none

/-- The end of every structured control instruction: the next pc, or with an empty mask the closing address of R429. -/
def settle (s : State) (c : Ctx) (st : Stream) (next : Word) : Except (List LaneFault) Stream :=
  if st.mask ≠ 0 then .ok { st with pc := next }
  else
    match waitedEntry st with
    | none => .error (noEntry c)
    | some (i, e) =>
      match closing s c e with
      | .error f => .error (closeFault c e f)
      | .ok a =>
        let kept := (st.stack.take i).filter (fun x => decide (x.kind = kindSplit))
        let cut := if kept.length < i then depthOf st - i + 1 else depthOf st + 1
        .ok { cutRegion st cut with stack := kept ++ st.stack.drop i, pc := a }

/-- The effect of a structured control instruction: stack, mask, waiting records, region entry and pc of the stream given. -/
def takeControl (t : State) (c : Ctx) (n : Stream) : State :=
  modStream t c.sid (fun st =>
    { st with stack := n.stack, mask := n.mask, waits := n.waits, region := n.region, pc := n.pc })

/-- The plan of a structured control instruction. -/
def controlPlan (r : Except (List LaneFault) Stream) : Plan :=
  match r with
  | .error fs => .fault fs
  | .ok n => .own (fun t c => takeControl t c n)

/-- The byte offset of a branch field, in words (R343). -/
def branchTarget {n : Nat} (pc : Word) (off : BitVec n) : Word := pc + wordI (4 * off.toInt)

/-- IF (R428). -/
def ifStep (s : State) (c : Ctx) (vs : List Vals) (target : Word) : Except (List LaneFault) Stream :=
  if c.st.stack.length ≥ 16 then .error (fullStack c)
  else
    let no := maskOf ((vs.filter (fun v => decide (v.a = 0))).map Vals.ln)
    let pushed : Stream :=
      { c.st with stack := { kind := kindIf, mask := c.st.mask, count := 0, pc := target.setWidth 55 } :: c.st.stack
                  mask := c.st.mask &&& ~~~no }
    settle s c (addWaits pushed no (depthOf pushed) .iff) (c.st.pc + 4)

/-- ELSE (R428). -/
def elseStep (s : State) (c : Ctx) (target : Word) : Except (List LaneFault) Stream :=
  match topEntry c.st with
  | none => .error (noEntry c)
  | some (i, e) =>
    if e.kind ≠ kindIf then .error (wrongEntry c e)
    else
      let t := depthOf c.st - i
      let go := waitersAt c.st t (fun r => decide (r = .iff))
      let st := addWaits (dropWaits c.st go t) c.st.mask t .andThen
      settle s c
        { cutRegion st t with
          stack := st.stack.set i { e with kind := kindElse, pc := target.setWidth 55 }
          mask := go } (c.st.pc + 4)

/-- ENDIF (R428). -/
def endifStep (s : State) (c : Ctx) : Except (List LaneFault) Stream :=
  match topEntry c.st with
  | none => .error (noEntry c)
  | some (i, e) =>
    if e.kind ≠ kindIf ∧ e.kind ≠ kindElse then .error (wrongEntry c e)
    else
      let t := depthOf c.st - i
      let back := waitersAt c.st t (fun _ => true)
      let st := dropWaits (cutRegion c.st t) back t
      settle s c { st with stack := st.stack.eraseIdx i, mask := st.mask ||| back } (c.st.pc + 4)

/-- LOOP (R428), its count read from the lowest active lane (R423). -/
def loopStep (s : State) (c : Ctx) (vs : List Vals) (target : Word) : Except (List LaneFault) Stream :=
  let n := match vs with | v :: _ => Nat.min v.a.toNat (2 ^ 32 - 1) | [] => 0
  if n = 0 then .ok { c.st with pc := target + 4 }
  else if c.st.stack.length ≥ 16 then .error (fullStack c)
  else
    settle s c
      { c.st with stack := { kind := kindLoop, mask := c.st.mask, count := BitVec.ofNat 32 n, pc := (c.st.pc + 4).setWidth 55 }
                    :: c.st.stack } (c.st.pc + 4)

/-- ENDLOOP (R428). -/
def endloopStep (s : State) (c : Ctx) : Except (List LaneFault) Stream :=
  match topEntry c.st with
  | none => .error (noEntry c)
  | some (i, e) =>
    if e.kind ≠ kindLoop then .error (wrongEntry c e)
    else
      let t := depthOf c.st - i
      let again := waitersAt c.st t (fun r => decide (r = .cont))
      let st := dropWaits c.st again t
      let m := st.mask ||| again
      let n := e.count - 1
      if n = 0 ∨ m = 0 then
        let left := waitersAt st t (fun r => decide (r = .brk))
        let u := dropWaits (cutRegion st t) left t
        settle s c { u with stack := u.stack.eraseIdx i, mask := m ||| left } (c.st.pc + 4)
      else .ok { st with stack := st.stack.set i { e with count := n }, mask := m, pc := e.pc.setWidth 64 }

/-- BRK and CONT (R428). -/
def leaveStep (s : State) (c : Ctx) (r : WaitReason) : Except (List LaneFault) Stream :=
  match c.st.stack.findIdx? (fun e => decide (e.kind = kindLoop)) with
  | none => .error (noEntry c)
  | some i =>
    let t := depthOf c.st - i
    settle s c { cutRegion (addWaits c.st c.st.mask t r) t with mask := 0 } (c.st.pc + 4)

/-! ### Splits -/

/-- The faults that keep a group from splitting by its own instruction: no room for the split record (R213), or a spilled
resume entry that cannot be read (R224). -/
def splitResumes (s : State) (c : Ctx) : Except (List LaneFault) (SMap Resume) :=
  if c.st.stack.length ≥ 16 then .error (fullStack c)
  else
    match resumesOf s c c.st.waits with
    | .error f => .error (everyLane c f.code f.addr f.detail)
    | .ok rs => .ok rs

/-- The split itself: each lane goes on alone, and the cache may turn private (R223, R224, R230). -/
def splitNow (s : State) (c : Ctx) (rs : SMap Resume) (at_ : Nat → Word) (pc : BitVec 55) : State :=
  rebank s (diverge s c rs at_ (splitRecord c pc) false) c.team.cluster c.st.team

/-- A switch point that split its group: each lane waits for its own results (R206). -/
def switchLanes (s : State) (c : Ctx) (sw : Bool) : State :=
  (lanesIn c.grp c.st.members).foldl (fun t e => switchPoint t e.2 sw) s

/-- A branch with a target for each active lane (R424, R425): one way for the group, or an automatic split whatever ADIV. -/
def branchPlan (s : State) (c : Ctx) (sw : Bool) (targets : List (Nat × Word)) (link : State → Ctx → State) : Plan :=
  match targets with
  | [] => .go link
  | (_, t0) :: r =>
    if r.all (fun e => decide (e.2 = t0)) then .own (fun t d => modStream (link t d) d.sid (fun st => { st with pc := t0 }))
    else
      match splitResumes s c with
      | .error fs => .fault fs
      | .ok rs =>
        .own (fun t d =>
          let u := runEffect (chargeIssue (link t d) d 32) d.sid (fun v e =>
            splitNow v e rs (fun l => match targets.find? (fun x => decide (x.1 = l)) with | some x => x.2 | none => 0)
              (rejoinPc v e))
          switchLanes u c sw)

/-- Targets of a conditional branch (R424). -/
def branchTargets (c : Ctx) (vs : List Vals) (taken : Vals → Bool) (target : Word) : List (Nat × Word) :=
  vs.map (fun v => (v.ln, if taken v then target else c.st.pc + 4))

/-- Lanes whose indirect target is not a multiple of 4 (R426). -/
def badTargets (vs : List Vals) : List LaneFault :=
  (vs.filter (fun v => decide (v.a.toNat % 4 ≠ 0))).map (fun v => { ln := v.ln, code := 0x0C, addr := v.a, detail := 0 })

/-- An indirect branch (R424, R426). -/
def indirectPlan (s : State) (c : Ctx) (sw : Bool) (vs : List Vals) (link : State → Ctx → State) : Plan :=
  match badTargets vs with
  | f :: fs => .fault (f :: fs)
  | [] => branchPlan s c sw (vs.map (fun v => (v.ln, v.a))) link

/-- The return address written by a call (R424). -/
def linkTo (d : RegName) (pc : Word) (t : State) (c : Ctx) : State :=
  writeLanes t c d (c.lanes.map (fun e => (e.1, e.2, pc + 4)))

/-- One status in every active lane. -/
def statusAll (t : State) (c : Ctx) (d : RegName) (v : Nat) : State :=
  writeLanes t c d (c.lanes.map (fun e => (e.1, e.2, word v)))

/-- The region entry of a stream becomes none (R322). -/
def clearRegion (t : State) (sid : Nat) : State := modStream t sid (fun st => { st with region := none })

/-- SPLIT (R223, R331). -/
def splitPlan (s : State) (c : Ctx) (sw : Bool) (d : RegName) : Plan :=
  if c.st.handler then .go (fun t e => clearRegion (statusAll t e d 1) e.sid)
  else
    match c.grp.mode with
    | .single => .go (fun t e => clearRegion (statusAll t e d 1) e.sid)
    | .diverged =>
      if c.st.stack.length ≥ 16 then .fault (fullStack c)
      else
        .go (fun t e =>
          clearRegion (modStream (statusAll t e d 0) e.sid (fun st =>
            { st with stack := splitRecord e 0 :: st.stack })) e.sid)
    | .fused =>
      match splitResumes s c with
      | .error fs => .fault fs
      | .ok rs =>
        .own (fun t e =>
          let u := runEffect (clearRegion (statusAll t e d 0) e.sid) e.sid (fun v g => splitNow v g rs (fun _ => c.st.pc + 4) 0)
          switchLanes u c sw)

/-- The automatic split of R226, between two instructions; deferred while 16 entries stand on chip or an inactive lane's
entry is spilled. -/
def autoSplit (s : State) (c : Ctx) : State :=
  if !c.fused || c.st.adiv = 0 || decide (c.st.lowRun < 16 * c.st.adiv.toNat) || decide (c.st.stack.length ≥ 16)
      || c.st.waits.any (fun w => decide (w.depth ≤ c.st.spilled)) then s
  else
    match resumesOf s c c.st.waits with
    | .error _ => s
    | .ok rs => runEffect (chargeIssue s c 32) c.sid (fun v e => splitNow v e rs (fun _ => c.st.pc) (rejoinPc v e))

/-! ### Rejoin -/

/-- A register name is a role queue that is full for an active lane (R198). -/
def columnsFull (c : Ctx) : RegName → Bool
  | .q n => c.lanes.any (fun e => decide ((column c.team n.val e.1).length ≥ 16))
  | _ => false

/-- A FUSE or REJOIN that has parked ends with a status in every active lane, once its destination takes it (R198, R216). -/
def giveStatus (d : RegName) (sw : Bool) (v : Nat) (s : State) (sid : Nat) : State :=
  match ctxOf s sid with
  | none => s
  | some c =>
    if columnsFull c d then park s sid (.status d v sw)
    else switchPoint (advance (statusAll (unpark s sid) c d v) sid) sid sw

/-- What a parked stream waits with at a rejoin. -/
def rejoinOf (st : Stream) : Option (Option (RegName × Bool)) :=
  match st.park with
  | some (.rejoin e) => some e
  | _ => none

/-- A lane goes on singly from its rejoin: an explicit one with a status at the next instruction, an implicit one past the
rejoin pc (R228, R229). -/
def leaveRejoin (status : Nat) (s : State) (sid : Nat) : State :=
  match ctxOf s sid with
  | none => s
  | some c =>
    match rejoinOf c.st with
    | some (some (d, sw)) => giveStatus d sw status s sid
    | some none => modStream s sid (fun st => { st with park := none, noJoin := true })
    | none => s

/-- The rejoin wait of a group ends: every parked lane goes on singly (R229). -/
def endRejoinWait (s : State) (gk : Nat) : State :=
  (groupStreams s gk).foldl (fun u e => leaveRejoin 1 u e.1) (modGroup s gk (fun x => { x with rejoinBy := none }))

/-- A lane's stream waits at a rejoin; the first to park opens the wait (R227). An arrival in the last cycle of the wait still is
in time; a later one opens a wait of its own. -/
def parkRejoin (s : State) (c : Ctx) (expl : Option (RegName × Bool)) (timeout : Nat) : State :=
  let late := match c.grp.rejoinBy with | some t => decide (s.cycle > t) | none => true
  let s0 := if late && c.grp.rejoinBy.isSome then endRejoinWait s c.st.group else s
  let s1 := park s0 c.sid (.rejoin expl)
  if late then
    pushTimer (modGroup s1 c.st.group (fun g => { g with rejoinBy := some (s.cycle + timeout) })) (timeout + 1)
      (.rejoinTimeout c.st.group)
  else s1

/-- Entries of several stacks joined: the OR of the MASK fields, place by place (R228). -/
def orMasks (a b : List CsEntry) : List CsEntry :=
  a.zipIdx.map (fun e => match b[e.2]? with | some y => { e.1 with mask := e.1.mask ||| y.mask } | none => e.1)

/-- Each lane's SEED when a group is formed (R386): lane `l0` keeps its state. -/
def deriveSeeds (s : State) (lanes : List (Nat × Nat)) (l0 w : Nat) : State :=
  match lanes.find? (fun e => decide (e.1 = l0)) with
  | none => s
  | some e0 =>
    let b := (laneOf s e0.2).seed.toNat
    lanes.foldl (fun t e => modLane t e.2 (fun x => { x with seed := word (seedFor b e.1 l0 w) })) s

/-- A rejoin is complete: every lane that has not ended waits at the same pc in the same kind of rejoin (R227). -/
def rejoinReady (s : State) (gk : Nat) (g : Group) : Bool :=
  match groupStreams s gk with
  | [] => false
  | (_, a) :: r =>
    decide (g.mode = .diverged) && g.trap.isNone && (rejoinOf a).isSome
      && r.all (fun e => decide (e.2.pc = a.pc) && (rejoinOf e.2).isSome
          && decide ((rejoinOf e.2).map Option.isSome = (rejoinOf a).map Option.isSome))

/-- The joined stream of a group whose lanes' streams are `ls` (R228). -/
def joinedStream (ls : List (Nat × Stream)) (a : Stream) : Stream :=
  let all := ls.foldl (fun m e => m ||| e.2.members) 0
  { dropSplit { a with stack := ls.foldl (fun k e => orMasks k e.2.stack) a.stack } with
    members := all, mask := all, waits := [], park := none, fetch := none, lowRun := 0
    pend := ls.foldl (fun l e => l ++ e.2.pend) [] }

/-- A rejoin that is ready ends (R228): the group fuses, or with different depths each lane goes on singly. -/
def tryRejoin (s : State) (gk : Nat) : State :=
  match find? s.groups gk with
  | none => s
  | some g =>
    if rejoinReady s gk g then
      match groupStreams s gk with
      | [] => s
      | (k0, a) :: r =>
        let s1 := modGroup s gk (fun x => { x with rejoinBy := none })
        if r.all (fun e => decide (depthOf e.2 = depthOf a)) then
          let l0 := (laneOf s k0).ln
          let s2 := deriveSeeds (joinStreams s1 gk g (joinedStream ((k0, a) :: r) a)) (liveLanes g) l0 g.lanes.length
          let s3 := match find? s.teams g.team with | some tm => rebank s s2 tm.cluster g.team | none => s2
          let k := groupSid g
          match rejoinOf a with
          | some (some (d, sw)) => giveStatus d sw 0 s3 k
          | _ => s3
        else ((k0, a) :: r).foldl (fun t e => leaveRejoin 3 t e.1) s1
    else s

/-- The wait of a group's rejoin times out (R229). -/
def timeoutRejoin (s : State) (gk : Nat) : State :=
  match find? s.groups gk with
  | none => s
  | some g =>
    match g.rejoinBy with
    | none => s
    | some t => if s.cycle ≤ t then s else endRejoinWait s gk

/-- The pc held in the top split record of a lane in DIVERGED mode: where it parks for an implicit rejoin (R227). -/
def atImplicit (c : Ctx) : Bool :=
  decide (c.grp.mode = .diverged) && !c.st.handler && !c.st.noJoin && c.grp.trap.isNone
    && (match topSplit c.st with | some p => decide (p ≠ 0) && decide (c.st.pc = p.setWidth 64) | none => false)

/-- REJOIN (R227 to R229, R331). -/
def rejoinPlan (c : Ctx) (sw : Bool) (d : RegName) (vs : List Vals) : Plan :=
  if c.st.handler || decide (c.grp.mode ≠ .diverged) then .go (fun t e => clearRegion (statusAll t e d 2) e.sid)
  else
    let wait := match vs with
      | v :: _ => if v.a.toNat % 2 ^ 32 = 0 then 65536 else v.a.toNat % 2 ^ 32
      | [] => 65536
    .own (fun t e => tryRejoin (parkRejoin (clearRegion t e.sid) e (some (d, sw)) wait) e.st.group)

/-! ### FUSE -/

/-- A mask is well formed for a participant on pipeline `p`: an aligned run of 2, 4, 8 or 16 pipelines with its own bit
(R217). -/
def fuseMaskOk (m : Word) (p : Nat) : Bool :=
  [2, 4, 8, 16].any (fun w =>
    let lo := p / w * w
    decide (m.toNat = (2 ^ w - 1) * 2 ^ lo))

/-- A participant leaves a rendezvous with a status (R218). -/
def leaveFuse (status : Nat) (s : State) (sid : Nat) : State :=
  match ctxOf s sid with
  | none => s
  | some c =>
    match c.st.park with
    | some (.fusing _ d sw) => giveStatus d sw status s sid
    | _ => s

/-- A rendezvous closes and every participant leaves with a status. -/
def closeMeet (s : State) (id : Nat) (m : Rendezvous) (status : Nat) : State :=
  m.come.foldl (leaveFuse status) { s with meets := del s.meets id }

/-- The first arrival opens a rendezvous and starts its timer. -/
def openMeet (s : State) (c : Ctx) (mask : BitVec 16) (d : RegName) (sw : Bool) (cycles : Nat) : State :=
  let id := newKey (s.sched.vaults.foldl (fun m e => m ++ e.2.meets) s.meets)
  let m : Rendezvous :=
    { team := c.st.team, slot := slotOf c.first.2, mask := mask, pc := c.st.pc, come := [c.sid], by_ := s.cycle + cycles, full := false }
  pushTimer (park { s with meets := put s.meets id m } c.sid (.fusing id d sw)) (cycles + 1) (.fuseTimeout id)

/-- A participant arrives at its rendezvous (R218): in the last cycle of the timer it still is in time, after it the rendezvous has
closed. -/
def arriveFuse (s : State) (c : Ctx) (mask : BitVec 16) (d : RegName) (sw : Bool) (cycles : Nat) : State :=
  let slot := slotOf c.first.2
  match first? (fun _ m => decide (m.team = c.st.team ∧ m.slot = slot ∧ m.mask = mask ∧ m.full = false)) s.meets with
  | none => openMeet s c mask d sw cycles
  | some (id, m) =>
    if s.cycle > m.by_ then openMeet (closeMeet s id m 1) c mask d sw cycles
    else
    let s1 := park s c.sid (.fusing id d sw)
    let n := { m with come := m.come ++ [c.sid] }
    if m.pc ≠ c.st.pc then closeMeet s1 id n 4
    else
      let full := decide (n.come.length = popCount 16 mask.toNat)
      let s2 := { s1 with meets := put s1.meets id { n with full := full } }
      if full then pushWork s2 (.fuseRendezvousComplete id) else s2

/-- FUSE (R217, R218, R331). -/
def fusePlan (c : Ctx) (sw : Bool) (d : RegName) (imm : BitVec 10) (vs : List Vals) : Plan :=
  let m : Word := match vs with | v :: _ => v.a | [] => 0
  if c.st.handler || decide (c.grp.mode ≠ .single) || !fuseMaskOk m (pipeOf c.first.2 % 16) then
    .go (fun t e => clearRegion (statusAll t e d 2) e.sid)
  else
    .own (fun t e => arriveFuse (clearRegion t e.sid) e (m.setWidth 16) d sw (if imm = 0 then 65536 else 64 * imm.toNat))

/-- The range of `n` registers from `base` on a pipeline is free, but for the lane at a position itself (R219). -/
def rangeFree (s : State) (pipe base n own : Nat) : Bool :=
  s.lanes.all (fun e => decide (e.1 = own) || decide (pipeOf e.1 ≠ pipe)
    || decide (e.2.base + e.2.alloc ≤ base) || decide (base + n ≤ e.2.base))

/-- A follower's allocation moved to another base, each register keeping its offset (R219). -/
def moveAllocation (s : State) (pos base : Nat) : State :=
  let la := laneOf s pos
  let at_ := pipeOf pos * 2048
  let vals := (List.range la.alloc).map (fun i => look 0 s.regs (at_ + la.base + i))
  let cleared := { s with regs := part (fun a => decide (a < at_ + la.base) || decide (at_ + la.base + la.alloc ≤ a)) s.regs }
  let moved := vals.zipIdx.foldl (fun t v => { t with regs := keep 0 t.regs (at_ + base + v.2) v.1 }) cleared
  modLane moved pos (fun x => { x with base := base })

/-- The fused group of a complete rendezvous (R219 steps 3 to 6); `poss` are the participants by pipeline. -/
def formGroup (s : State) (poss : List Nat) (lead : Nat) (st : Stream) (g : Group) (base : Nat) : State :=
  let gk := (laneOf s lead).group
  let all := maskOf (List.range poss.length)
  let s1 := poss.foldl (fun t p =>
    let la := laneOf t p
    if la.base = base then t else chargeIb (moveAllocation t p base) st.team (ceilDiv la.alloc 8)) s
  let rest := poss.filter (fun p => decide (p ≠ lead))
  let s2 := { s1 with
    streams := rest.foldl (fun m p => del m (laneOf s p).stream) s1.streams
    groups := rest.foldl (fun m p => del m (laneOf s p).group) s1.groups }
  let s3 := { s2 with
    streams := put s2.streams lead
      { st with members := all, mask := all, waits := [], park := none, region := none, fetch := none, lowRun := 0
                stack := st.stack.map (fun e => { e with mask := all }) }
    groups := put s2.groups gk { g with lanes := poss, ended := 0, mode := .fused, trap := none, rejoinBy := none } }
  let s4 := poss.zipIdx.foldl (fun t p => modLane t p.1 (fun x => { x with ln := p.2, group := gk, stream := lead })) s3
  deriveSeeds s4 (poss.zipIdx.map (fun p => (p.2, p.1))) 0 poss.length

/-- A switch of a cluster to shared would wait for transfers of its teams (R237 step 1). -/
def switchWaits (s : State) (cl : Nat) : Bool :=
  !sharedOn s cl && s.moves.any (fun m => decide (m.2.kind < 5) && match find? s.teams m.2.team with | some t => decide (t.cluster = cl) | none => false)

/-- A rendezvous at which every pipeline has arrived has all its results (R219 step 1). -/
def meetSettled (s : State) (m : Rendezvous) : Bool :=
  m.full && m.come.all (fun sid => match find? s.streams sid with | some st => decide (st.pend = []) | none => false)

/-- The cluster of a rendezvous. -/
def meetCluster (s : State) (m : Rendezvous) : Nat := match find? s.teams m.team with | some t => t.cluster | none => 0

/-- A rendezvous completes once all results are in and the banking switch has nothing to wait for (R219, R237). -/
def completeFuse (s : State) (id : Nat) : State :=
  match find? s.meets id with
  | none => s
  | some m =>
    if !meetSettled s m || switchWaits s (meetCluster s m) then s
    else
      let poss := m.come.foldl insertN []
      match poss with
      | [] => s
      | lead :: _ =>
        match find? s.streams lead, find? s.groups (laneOf s lead).group, find? s.teams m.team with
        | some st, some g, some tm =>
          let la := laneOf s lead
          if poss.all (fun p => decide ((laneOf s p).alloc = la.alloc)
              && (decide ((laneOf s p).base = la.base) || rangeFree s (pipeOf p) la.base la.alloc p)) then
            let s1 := { s with meets := del s.meets id }
            let s2 := rebank s1 (formGroup s1 poss lead st g la.base) tm.cluster m.team
            match st.park with
            | some (.fusing _ d sw) => giveStatus d sw 0 s2 lead
            | _ => s2
          else closeMeet s id m 3
        | _, _, _ => s

/-- A rendezvous timer expires (R218). -/
def timeoutFuse (s : State) (id : Nat) : State :=
  match find? s.meets id with
  | none => s
  | some m => if m.full || decide (s.cycle ≤ m.by_) then s else closeMeet s id m 1

/-- The window set to an offset (R203, R432). -/
def windowPlan (s : State) (c : Ctx) (n : Nat) : Plan :=
  match (if c.lanes = [] then [c.first] else c.lanes).filter (fun e => decide (n ≥ (laneOf s e.2).alloc)) with
  | [] => .go (fun t e => modStream t e.sid (fun st => { st with wbase := BitVec.ofNat 9 n, region := none }))
  | es => .fault (es.map (fun e => { ln := e.1, code := 0x0E, addr := 0, detail := n }))

/-! ### The instructions -/

/-- BNZ (R424). -/
def execBnz (sw : Bool) (a : RegName) (off : BitVec 17) (s : State) :
    Host.Outcome State Fault Refusal :=
  issue s 0x30 0 sw { a := some a } (fun s c vs =>
    branchPlan s c sw (branchTargets c vs (fun v => decide (v.a ≠ 0)) (branchTarget c.st.pc off)) (fun t _ => t))

/-- BZ (R424). -/
def execBz (sw : Bool) (a : RegName) (off : BitVec 17) (s : State) :
    Host.Outcome State Fault Refusal :=
  issue s 0x31 0 sw { a := some a } (fun s c vs =>
    branchPlan s c sw (branchTargets c vs (fun v => decide (v.a = 0)) (branchTarget c.st.pc off)) (fun t _ => t))

/-- JMP (R424). -/
def execJmp (sw : Bool) (off : BitVec 24) (s : State) :
    Host.Outcome State Fault Refusal :=
  issue s 0x32 0 sw {} (fun _ c _ => .own (fun t e => modStream t e.sid (fun st => { st with pc := branchTarget c.st.pc off })))

/-- CALL (R424). -/
def execCall (sw : Bool) (off : BitVec 24) (s : State) :
    Host.Outcome State Fault Refusal :=
  issue s 0x33 0 sw { dst := some (RegName.x 1) } (fun _ c _ =>
    .own (fun t e => modStream (linkTo (.x 1) c.st.pc t e) e.sid (fun st => { st with pc := branchTarget c.st.pc off })))

/-- JR (R424). -/
def execJr (sw : Bool) (a : RegName) (s : State) :
    Host.Outcome State Fault Refusal :=
  issue s 0x34 0 sw { a := some a } (fun s c vs => indirectPlan s c sw vs (fun t _ => t))

/-- JALR (R424). -/
def execJalr (sw : Bool) (d a : RegName) (s : State) :
    Host.Outcome State Fault Refusal :=
  issue s 0x34 1 sw { dst := some d, a := some a } (fun s c vs => indirectPlan s c sw vs (linkTo d c.st.pc))

/-- IF (R428). -/
def execIfOp (sw : Bool) (a : RegName) (off : BitVec 17) (s : State) :
    Host.Outcome State Fault Refusal :=
  issue s 0x35 0 sw { a := some a } (fun s c vs => controlPlan (ifStep s c vs (branchTarget c.st.pc off)))

/-- ELSE (R428). -/
def execElseOp (sw : Bool) (off : BitVec 24) (s : State) :
    Host.Outcome State Fault Refusal :=
  issue s 0x36 0 sw {} (fun s c _ => controlPlan (elseStep s c (branchTarget c.st.pc off)))

/-- ENDIF (R428). -/
def execEndif (sw : Bool) (s : State) :
    Host.Outcome State Fault Refusal :=
  issue s 0x37 0 sw {} (fun s c _ => controlPlan (endifStep s c))

/-- LOOP (R428). -/
def execLoop (sw : Bool) (a : RegName) (off : BitVec 17) (s : State) :
    Host.Outcome State Fault Refusal :=
  issue s 0x38 0 sw { a := some a } (fun s c vs => controlPlan (loopStep s c vs (branchTarget c.st.pc off)))

/-- ENDLOOP (R428). -/
def execEndloop (sw : Bool) (s : State) :
    Host.Outcome State Fault Refusal :=
  issue s 0x39 0 sw {} (fun s c _ => controlPlan (endloopStep s c))

/-- BRK (R428). -/
def execBrk (sw : Bool) (s : State) :
    Host.Outcome State Fault Refusal :=
  issue s 0x3A 0 sw {} (fun s c _ => controlPlan (leaveStep s c .brk))

/-- CONT (R428). -/
def execCont (sw : Bool) (s : State) :
    Host.Outcome State Fault Refusal :=
  issue s 0x3A 1 sw {} (fun s c _ => controlPlan (leaveStep s c .cont))

/-- IDEM (R322). -/
def execIdem (sw : Bool) (s : State) :
    Host.Outcome State Fault Refusal :=
  issue s 0x3A 2 sw {} (fun _ c _ => .go (fun t e => modStream t e.sid (fun st =>
    { st with region := some { pc := c.st.pc, depth := depthOf c.st, spilled := c.st.spilled } })))

/-- FUSE (R430). -/
def execFuse (sw : Bool) (d a : RegName) (imm : BitVec 10) (s : State) :
    Host.Outcome State Fault Refusal :=
  issue s 0x3B 0 sw { dst := some d, a := some a } (fun _ c vs => fusePlan c sw d imm vs)

/-- SPLIT (R431). -/
def execSplit (sw : Bool) (d : RegName) (s : State) :
    Host.Outcome State Fault Refusal :=
  issue s 0x3C 0 sw { dst := some d } (fun s c _ => splitPlan s c sw d)

/-- REJOIN (R431). -/
def execRejoin (sw : Bool) (d a : RegName) (s : State) :
    Host.Outcome State Fault Refusal :=
  issue s 0x3C 1 sw { dst := some d, a := some a } (fun _ c vs => rejoinPlan c sw d vs)

/-- WBASE (R432). -/
def execWbase (sw : Bool) (n : BitVec 6) (s : State) :
    Host.Outcome State Fault Refusal :=
  issue s 0x3D 0 sw {} (fun s c _ => windowPlan s c (8 * n.toNat))

/-- FUSE_TIMEOUT (R218). -/
def execFuseTimeout (id : Nat) (s : State) :
    Host.Outcome State Fault Refusal :=
  .next (timeoutFuse s id)

/-- FUSE_RENDEZVOUS_COMPLETE (R219). -/
def execFuseRendezvousComplete (id : Nat) (s : State) :
    Host.Outcome State Fault Refusal :=
  .next (completeFuse s id)

/-- AUTOMATIC_SPLIT (R226). -/
def execAutomaticSplit (stream : Nat) (s : State) :
    Host.Outcome State Fault Refusal :=
  .next (match ctxOf s stream with | some c => autoSplit s c | none => s)

/-- IMPLICIT_REJOIN (R227, R228). -/
def execImplicitRejoin (group : Nat) (s : State) :
    Host.Outcome State Fault Refusal :=
  .next (tryRejoin s group)

/-- REJOIN_TIMEOUT (R229). -/
def execRejoinTimeout (group : Nat) (s : State) :
    Host.Outcome State Fault Refusal :=
  .next (timeoutRejoin s group)

end Sys2Proof.Machine
end

