-- ==== Sys2Proof/Machine/Integer.lean ====
section
/-!
DEFINITION. Integer, logic, shift, bit, compare, select, immediate, address and packed integer instructions (R395 to R412).
-/

namespace Sys2Proof.Machine

open Sys2Proof

/-- Bits [127:64] of an exact product (R369). -/
def mulHigh (x y : Int) : Word := wordI (x * y / 2 ^ 64)

/-- Signed quotient truncated toward zero, with the cases of R368. -/
def quotS (a b : Word) : Word := if b = 0 then wordI (-1) else wordI ((signedW a 64).tdiv (signedW b 64))

/-- Unsigned quotient (R368). -/
def quotN (a b : Word) : Word := if b = 0 then wordI (-1) else word (a.toNat / b.toNat)

/-- Signed remainder, with the sign of the dividend (R368). -/
def remS (a b : Word) : Word := if b = 0 then a else wordI ((signedW a 64).tmod (signedW b 64))

/-- Unsigned remainder (R368). -/
def remN (a b : Word) : Word := if b = 0 then a else word (a.toNat % b.toNat)

/-- Zero bits above the highest one bit among `n` bits (R403). -/
def zerosAbove : Nat → Nat → Nat
  | 0, _ => 0
  | n + 1, v => if bitN v n then 0 else 1 + zerosAbove n v

/-- Zero bits below the lowest one bit among `n` bits (R403). -/
def zerosBelow : Nat → Nat → Nat
  | 0, _ => 0
  | n + 1, v => if v % 2 = 1 then 0 else 1 + zerosBelow n (v / 2)

/-- The `n` low bits in reverse order (R403). -/
def bitsReversed : Nat → Nat → Nat
  | 0, _ => 0
  | n + 1, v => v % 2 * 2 ^ n + bitsReversed n (v / 2)

/-- The width SEXT and ZEXT take: B[5:0], where 0 acts as 64 (R403). -/
def extWidth (b : Word) : Nat := if bitsW b 5 0 = 0 then 64 else bitsW b 5 0

/-- A 32-bit result sign-extended from bit 31 (R367). -/
def extW (v : BitVec 32) : Word := v.signExtend 64

/-- Elements of a register, lowest first (R374). -/
def elements (w n : Nat) (v : Word) : List Nat := (List.range n).map (fun i => bitsN v.toNat (w * i + w - 1) (w * i))

/-- Elements in place in a register. -/
def joinElements (w : Nat) : List Nat → Nat
  | [] => 0
  | v :: r => v % 2 ^ w + 2 ^ w * joinElements w r

/-- An operation on each pair of elements, its result cut to the element (R410). -/
def eachEl (w n : Nat) (f : Nat → Nat → Nat) (a b : Word) : Word :=
  word (joinElements w ((elements w n a).zipWith f (elements w n b)))

/-- Word j of D plus the products of the `k` elements of each operand in that word (R411). -/
def dotWords (w k : Nat) (signed : Bool) (a b d : Word) : Word :=
  let val : Nat → Int := fun x => if signed then signedN x w else (x : Int)
  let prod (j : Nat) : Int :=
    ((List.range k).map (fun i => val (bitsN a.toNat (w * (k * j + i) + w - 1) (w * (k * j + i)))
      * val (bitsN b.toNat (w * (k * j + i) + w - 1) (w * (k * j + i))))).foldl (· + ·) 0
  word (joinElements 32 ((List.range 2).map (fun j => lowBits ((bitsN d.toNat (32 * j + 31) (32 * j) : Nat) + prod j) 32)))

/-- SHUFB: bytes of A selected by the bytes of B (R412). -/
def shuffled (a b : Word) : Word :=
  word (joinElements 8 ((List.range 8).map (fun i =>
    let k := bitsN b.toNat (8 * i + 7) (8 * i)
    if k ≥ 128 then 0 else bitsN a.toNat (8 * (k % 8) + 7) (8 * (k % 8)))))

/-- ADD (R399). -/
def execAdd (sw : Bool) (d a b : RegName) (s : State) :
    Host.Outcome State Fault Refusal :=
  issueAlu s 0x01 0 sw { dst := some d, a := some a, b := some b } d (fun v => v.a + v.b)

/-- SUB (R399). -/
def execSub (sw : Bool) (d a b : RegName) (s : State) :
    Host.Outcome State Fault Refusal :=
  issueAlu s 0x01 1 sw { dst := some d, a := some a, b := some b } d (fun v => v.a - v.b)

/-- MIN_S (R399). -/
def execMinS (sw : Bool) (d a b : RegName) (s : State) :
    Host.Outcome State Fault Refusal :=
  issueAlu s 0x01 2 sw { dst := some d, a := some a, b := some b } d (fun v => if v.a.slt v.b then v.a else v.b)

/-- MAX_S (R399). -/
def execMaxS (sw : Bool) (d a b : RegName) (s : State) :
    Host.Outcome State Fault Refusal :=
  issueAlu s 0x01 3 sw { dst := some d, a := some a, b := some b } d (fun v => if v.a.slt v.b then v.b else v.a)

/-- MIN_N (R399). -/
def execMinN (sw : Bool) (d a b : RegName) (s : State) :
    Host.Outcome State Fault Refusal :=
  issueAlu s 0x01 4 sw { dst := some d, a := some a, b := some b } d (fun v => if v.a < v.b then v.a else v.b)

/-- MAX_N (R399). -/
def execMaxN (sw : Bool) (d a b : RegName) (s : State) :
    Host.Outcome State Fault Refusal :=
  issueAlu s 0x01 5 sw { dst := some d, a := some a, b := some b } d (fun v => if v.a < v.b then v.b else v.a)

/-- ADDS_S (R399). -/
def execAddsS (sw : Bool) (d a b : RegName) (s : State) :
    Host.Outcome State Fault Refusal :=
  issueAlu s 0x01 6 sw { dst := some d, a := some a, b := some b } d (fun v => wordI (satS (signedW v.a 64 + signedW v.b 64) 64))

/-- SUBS_S (R399). -/
def execSubsS (sw : Bool) (d a b : RegName) (s : State) :
    Host.Outcome State Fault Refusal :=
  issueAlu s 0x01 7 sw { dst := some d, a := some a, b := some b } d (fun v => wordI (satS (signedW v.a 64 - signedW v.b 64) 64))

/-- MUL (R400). -/
def execMul (sw : Bool) (d a b : RegName) (s : State) :
    Host.Outcome State Fault Refusal :=
  issueAlu s 0x02 0 sw { dst := some d, a := some a, b := some b } d (fun v => v.a * v.b)

/-- MULH_S (R400). -/
def execMulhS (sw : Bool) (d a b : RegName) (s : State) :
    Host.Outcome State Fault Refusal :=
  issueAlu s 0x02 1 sw { dst := some d, a := some a, b := some b } d (fun v => mulHigh (signedW v.a 64) (signedW v.b 64))

/-- MULH_N (R400). -/
def execMulhN (sw : Bool) (d a b : RegName) (s : State) :
    Host.Outcome State Fault Refusal :=
  issueAlu s 0x02 2 sw { dst := some d, a := some a, b := some b } d (fun v => mulHigh v.a.toNat v.b.toNat)

/-- MAC (R400). -/
def execMac (sw : Bool) (d a b : RegName) (s : State) :
    Host.Outcome State Fault Refusal :=
  issueAlu s 0x02 3 sw { dst := some d, a := some a, b := some b, d := some d } d (fun v => v.d + v.a * v.b)

/-- DIV_S (R400). -/
def execDivS (sw : Bool) (d a b : RegName) (s : State) :
    Host.Outcome State Fault Refusal :=
  issueLong s 0x02 4 sw { dst := some d, a := some a, b := some b } d (fun v => quotS v.a v.b)

/-- DIV_N (R400). -/
def execDivN (sw : Bool) (d a b : RegName) (s : State) :
    Host.Outcome State Fault Refusal :=
  issueLong s 0x02 5 sw { dst := some d, a := some a, b := some b } d (fun v => quotN v.a v.b)

/-- REM_S (R400). -/
def execRemS (sw : Bool) (d a b : RegName) (s : State) :
    Host.Outcome State Fault Refusal :=
  issueLong s 0x02 6 sw { dst := some d, a := some a, b := some b } d (fun v => remS v.a v.b)

/-- REM_N (R400). -/
def execRemN (sw : Bool) (d a b : RegName) (s : State) :
    Host.Outcome State Fault Refusal :=
  issueLong s 0x02 7 sw { dst := some d, a := some a, b := some b } d (fun v => remN v.a v.b)

/-- AND (R401). -/
def execAnd (sw : Bool) (d a b : RegName) (s : State) :
    Host.Outcome State Fault Refusal :=
  issueAlu s 0x03 0 sw { dst := some d, a := some a, b := some b } d (fun v => v.a &&& v.b)

/-- OR (R401). -/
def execOr (sw : Bool) (d a b : RegName) (s : State) :
    Host.Outcome State Fault Refusal :=
  issueAlu s 0x03 1 sw { dst := some d, a := some a, b := some b } d (fun v => v.a ||| v.b)

/-- XOR (R401). -/
def execXor (sw : Bool) (d a b : RegName) (s : State) :
    Host.Outcome State Fault Refusal :=
  issueAlu s 0x03 2 sw { dst := some d, a := some a, b := some b } d (fun v => v.a ^^^ v.b)

/-- ANDN (R401). -/
def execAndn (sw : Bool) (d a b : RegName) (s : State) :
    Host.Outcome State Fault Refusal :=
  issueAlu s 0x03 3 sw { dst := some d, a := some a, b := some b } d (fun v => v.a &&& ~~~v.b)

/-- ORN (R401). -/
def execOrn (sw : Bool) (d a b : RegName) (s : State) :
    Host.Outcome State Fault Refusal :=
  issueAlu s 0x03 4 sw { dst := some d, a := some a, b := some b } d (fun v => v.a ||| ~~~v.b)

/-- XNOR (R401). -/
def execXnor (sw : Bool) (d a b : RegName) (s : State) :
    Host.Outcome State Fault Refusal :=
  issueAlu s 0x03 5 sw { dst := some d, a := some a, b := some b } d (fun v => ~~~(v.a ^^^ v.b))

/-- BSEL (R401). -/
def execBsel (sw : Bool) (d a b : RegName) (s : State) :
    Host.Outcome State Fault Refusal :=
  issueAlu s 0x03 6 sw { dst := some d, a := some a, b := some b } d (fun v => wordB (bitW v.a (bitsW v.b 5 0)))

/-- SHL (R402). -/
def execShl (sw : Bool) (d a b : RegName) (s : State) :
    Host.Outcome State Fault Refusal :=
  issueAlu s 0x04 0 sw { dst := some d, a := some a, b := some b } d (fun v => v.a <<< (bitsW v.b 5 0))

/-- SHR (R402). -/
def execShr (sw : Bool) (d a b : RegName) (s : State) :
    Host.Outcome State Fault Refusal :=
  issueAlu s 0x04 1 sw { dst := some d, a := some a, b := some b } d (fun v => v.a >>> (bitsW v.b 5 0))

/-- SAR (R402). -/
def execSar (sw : Bool) (d a b : RegName) (s : State) :
    Host.Outcome State Fault Refusal :=
  issueAlu s 0x04 2 sw { dst := some d, a := some a, b := some b } d (fun v => v.a.sshiftRight (bitsW v.b 5 0))

/-- ROL (R402). -/
def execRol (sw : Bool) (d a b : RegName) (s : State) :
    Host.Outcome State Fault Refusal :=
  issueAlu s 0x04 3 sw { dst := some d, a := some a, b := some b } d (fun v => v.a.rotateLeft (bitsW v.b 5 0))

/-- ROR (R402). -/
def execRor (sw : Bool) (d a b : RegName) (s : State) :
    Host.Outcome State Fault Refusal :=
  issueAlu s 0x04 4 sw { dst := some d, a := some a, b := some b } d (fun v => v.a.rotateRight (bitsW v.b 5 0))

/-- CLZ (R403). -/
def execClz (sw : Bool) (d a : RegName) (s : State) :
    Host.Outcome State Fault Refusal :=
  issueAlu s 0x05 0 sw { dst := some d, a := some a } d (fun v => word (zerosAbove 64 v.a.toNat))

/-- CTZ (R403). -/
def execCtz (sw : Bool) (d a : RegName) (s : State) :
    Host.Outcome State Fault Refusal :=
  issueAlu s 0x05 1 sw { dst := some d, a := some a } d (fun v => word (zerosBelow 64 v.a.toNat))

/-- POPC (R403). -/
def execPopc (sw : Bool) (d a : RegName) (s : State) :
    Host.Outcome State Fault Refusal :=
  issueAlu s 0x05 2 sw { dst := some d, a := some a } d (fun v => word (popCount 64 v.a.toNat))

/-- BREV (R403). -/
def execBrev (sw : Bool) (d a : RegName) (s : State) :
    Host.Outcome State Fault Refusal :=
  issueAlu s 0x05 3 sw { dst := some d, a := some a } d (fun v => word (bitsReversed 64 v.a.toNat))

/-- BSWAP (R403). -/
def execBswap (sw : Bool) (d a : RegName) (s : State) :
    Host.Outcome State Fault Refusal :=
  issueAlu s 0x05 4 sw { dst := some d, a := some a } d (fun v => word (joinBytes (spread 8 v.a.toNat).reverse))

/-- SEXT (R403). -/
def execSext (sw : Bool) (d a b : RegName) (s : State) :
    Host.Outcome State Fault Refusal :=
  issueAlu s 0x05 5 sw { dst := some d, a := some a, b := some b } d (fun v => wordI (signedW v.a (extWidth v.b)))

/-- ZEXT (R403). -/
def execZext (sw : Bool) (d a b : RegName) (s : State) :
    Host.Outcome State Fault Refusal :=
  issueAlu s 0x05 6 sw { dst := some d, a := some a, b := some b } d (fun v => word (v.a.toNat % 2 ^ extWidth v.b))

/-- CMP_EQ (R404). -/
def execCmpEq (sw : Bool) (d a b : RegName) (s : State) :
    Host.Outcome State Fault Refusal :=
  issueAlu s 0x06 0 sw { dst := some d, a := some a, b := some b } d (fun v => wordB (decide (v.a = v.b)))

/-- CMP_NE (R404). -/
def execCmpNe (sw : Bool) (d a b : RegName) (s : State) :
    Host.Outcome State Fault Refusal :=
  issueAlu s 0x06 1 sw { dst := some d, a := some a, b := some b } d (fun v => wordB (decide (v.a ≠ v.b)))

/-- CMP_LT_S (R404). -/
def execCmpLtS (sw : Bool) (d a b : RegName) (s : State) :
    Host.Outcome State Fault Refusal :=
  issueAlu s 0x06 2 sw { dst := some d, a := some a, b := some b } d (fun v => wordB (v.a.slt v.b))

/-- CMP_LE_S (R404). -/
def execCmpLeS (sw : Bool) (d a b : RegName) (s : State) :
    Host.Outcome State Fault Refusal :=
  issueAlu s 0x06 3 sw { dst := some d, a := some a, b := some b } d (fun v => wordB (!v.b.slt v.a))

/-- CMP_LT_N (R404). -/
def execCmpLtN (sw : Bool) (d a b : RegName) (s : State) :
    Host.Outcome State Fault Refusal :=
  issueAlu s 0x06 4 sw { dst := some d, a := some a, b := some b } d (fun v => wordB (decide (v.a < v.b)))

/-- CMP_LE_N (R404). -/
def execCmpLeN (sw : Bool) (d a b : RegName) (s : State) :
    Host.Outcome State Fault Refusal :=
  issueAlu s 0x06 5 sw { dst := some d, a := some a, b := some b } d (fun v => wordB (decide (v.a ≤ v.b)))

/-- CMP_TST (R404). -/
def execCmpTst (sw : Bool) (d a b : RegName) (s : State) :
    Host.Outcome State Fault Refusal :=
  issueAlu s 0x06 6 sw { dst := some d, a := some a, b := some b } d (fun v => wordB (decide (v.a &&& v.b ≠ 0)))

/-- CSEL (R405). -/
def execCsel (sw : Bool) (d a b : RegName) (s : State) :
    Host.Outcome State Fault Refusal :=
  issueAlu s 0x07 0 sw { dst := some d, a := some a, b := some b, d := some d } d (fun v => if v.d ≠ 0 then v.a else v.b)

/-- ADDW (R406). -/
def execAddw (sw : Bool) (d a b : RegName) (s : State) :
    Host.Outcome State Fault Refusal :=
  issueAlu s 0x08 0 sw { dst := some d, a := some a, b := some b } d (fun v => extW (v.a.setWidth 32 + v.b.setWidth 32))

/-- SUBW (R406). -/
def execSubw (sw : Bool) (d a b : RegName) (s : State) :
    Host.Outcome State Fault Refusal :=
  issueAlu s 0x08 1 sw { dst := some d, a := some a, b := some b } d (fun v => extW (v.a.setWidth 32 - v.b.setWidth 32))

/-- MULW (R406). -/
def execMulw (sw : Bool) (d a b : RegName) (s : State) :
    Host.Outcome State Fault Refusal :=
  issueAlu s 0x08 2 sw { dst := some d, a := some a, b := some b } d (fun v => extW (v.a.setWidth 32 * v.b.setWidth 32))

/-- SHLW (R406). -/
def execShlw (sw : Bool) (d a b : RegName) (s : State) :
    Host.Outcome State Fault Refusal :=
  issueAlu s 0x08 3 sw { dst := some d, a := some a, b := some b } d (fun v => extW (v.a.setWidth 32 <<< bitsW v.b 4 0))

/-- SHRW (R406). -/
def execShrw (sw : Bool) (d a b : RegName) (s : State) :
    Host.Outcome State Fault Refusal :=
  issueAlu s 0x08 4 sw { dst := some d, a := some a, b := some b } d (fun v => extW (v.a.setWidth 32 >>> bitsW v.b 4 0))

/-- SARW (R406). -/
def execSarw (sw : Bool) (d a b : RegName) (s : State) :
    Host.Outcome State Fault Refusal :=
  issueAlu s 0x08 5 sw { dst := some d, a := some a, b := some b } d (fun v => extW ((v.a.setWidth 32).sshiftRight (bitsW v.b 4 0)))

/-- ADDI (R407). -/
def execAddi (sw : Bool) (d a : RegName) (imm : BitVec 10) (s : State) :
    Host.Outcome State Fault Refusal :=
  issueAlu s 0x09 0 sw { dst := some d, a := some a } d (fun v => v.a + imm.signExtend 64)

/-- ANDI (R407). -/
def execAndi (sw : Bool) (d a : RegName) (imm : BitVec 10) (s : State) :
    Host.Outcome State Fault Refusal :=
  issueAlu s 0x0A 0 sw { dst := some d, a := some a } d (fun v => v.a &&& imm.signExtend 64)

/-- ORI (R407). -/
def execOri (sw : Bool) (d a : RegName) (imm : BitVec 10) (s : State) :
    Host.Outcome State Fault Refusal :=
  issueAlu s 0x0B 0 sw { dst := some d, a := some a } d (fun v => v.a ||| imm.setWidth 64)

/-- XORI (R407). -/
def execXori (sw : Bool) (d a : RegName) (imm : BitVec 10) (s : State) :
    Host.Outcome State Fault Refusal :=
  issueAlu s 0x0C 0 sw { dst := some d, a := some a } d (fun v => v.a ^^^ imm.setWidth 64)

/-- SHLI (R402). -/
def execShli (sw : Bool) (d a : RegName) (n : BitVec 6) (s : State) :
    Host.Outcome State Fault Refusal :=
  issueAlu s 0x0D 0 sw { dst := some d, a := some a } d (fun v => v.a <<< n.toNat)

/-- SHRI (R402). -/
def execShri (sw : Bool) (d a : RegName) (n : BitVec 6) (s : State) :
    Host.Outcome State Fault Refusal :=
  issueAlu s 0x0D 1 sw { dst := some d, a := some a } d (fun v => v.a >>> n.toNat)

/-- SARI (R402). -/
def execSari (sw : Bool) (d a : RegName) (n : BitVec 6) (s : State) :
    Host.Outcome State Fault Refusal :=
  issueAlu s 0x0D 2 sw { dst := some d, a := some a } d (fun v => v.a.sshiftRight n.toNat)

/-- ROLI (R402). -/
def execRoli (sw : Bool) (d a : RegName) (n : BitVec 6) (s : State) :
    Host.Outcome State Fault Refusal :=
  issueAlu s 0x0D 3 sw { dst := some d, a := some a } d (fun v => v.a.rotateLeft n.toNat)

/-- RORI (R402). -/
def execRori (sw : Bool) (d a : RegName) (n : BitVec 6) (s : State) :
    Host.Outcome State Fault Refusal :=
  issueAlu s 0x0D 4 sw { dst := some d, a := some a } d (fun v => v.a.rotateRight n.toNat)

/-- CMPI_EQ (R404). -/
def execCmpiEq (sw : Bool) (d a : RegName) (imm : BitVec 7) (s : State) :
    Host.Outcome State Fault Refusal :=
  issueAlu s 0x0E 0 sw { dst := some d, a := some a } d (fun v => wordB (decide (v.a = (imm.signExtend 64))))

/-- CMPI_NE (R404). -/
def execCmpiNe (sw : Bool) (d a : RegName) (imm : BitVec 7) (s : State) :
    Host.Outcome State Fault Refusal :=
  issueAlu s 0x0E 1 sw { dst := some d, a := some a } d (fun v => wordB (decide (v.a ≠ (imm.signExtend 64))))

/-- CMPI_LT_S (R404). -/
def execCmpiLtS (sw : Bool) (d a : RegName) (imm : BitVec 7) (s : State) :
    Host.Outcome State Fault Refusal :=
  issueAlu s 0x0E 2 sw { dst := some d, a := some a } d (fun v => wordB (v.a.slt (imm.signExtend 64)))

/-- CMPI_LE_S (R404). -/
def execCmpiLeS (sw : Bool) (d a : RegName) (imm : BitVec 7) (s : State) :
    Host.Outcome State Fault Refusal :=
  issueAlu s 0x0E 3 sw { dst := some d, a := some a } d (fun v => wordB (!(imm.signExtend 64).slt v.a))

/-- CMPI_LT_N (R404). -/
def execCmpiLtN (sw : Bool) (d a : RegName) (imm : BitVec 7) (s : State) :
    Host.Outcome State Fault Refusal :=
  issueAlu s 0x0E 4 sw { dst := some d, a := some a } d (fun v => wordB (decide (v.a < (imm.signExtend 64))))

/-- CMPI_LE_N (R404). -/
def execCmpiLeN (sw : Bool) (d a : RegName) (imm : BitVec 7) (s : State) :
    Host.Outcome State Fault Refusal :=
  issueAlu s 0x0E 5 sw { dst := some d, a := some a } d (fun v => wordB (decide (v.a ≤ (imm.signExtend 64))))

/-- CMPI_TST (R404). -/
def execCmpiTst (sw : Bool) (d a : RegName) (imm : BitVec 7) (s : State) :
    Host.Outcome State Fault Refusal :=
  issueAlu s 0x0E 6 sw { dst := some d, a := some a } d (fun v => wordB (decide (v.a &&& (imm.signExtend 64) ≠ 0)))

/-- LI (R408). -/
def execLi (sw : Bool) (d : RegName) (imm : BitVec 17) (s : State) :
    Host.Outcome State Fault Refusal :=
  issueAlu s 0x0F 0 sw { dst := some d } d (fun _ => imm.signExtend 64)

/-- LIX (R408). -/
def execLix (sw : Bool) (d : RegName) (imm : BitVec 17) (s : State) :
    Host.Outcome State Fault Refusal :=
  issueAlu s 0x10 0 sw { dst := some d, d := some d } d (fun v => (v.d <<< 17) ||| imm.setWidth 64)

/-- ADDPC (R408). -/
def execAddpc (sw : Bool) (d : RegName) (imm : BitVec 17) (s : State) :
    Host.Outcome State Fault Refusal :=
  issue s 0x11 0 sw { dst := some d } (fun _ _ vs => .go (fun t c => writeLanes t c d (vs.map (fun v =>
    (v.ln, v.pos, c.st.pc + wordI (4 * imm.toInt))))))

/-- LEA_1 (R409). -/
def execLea1 (sw : Bool) (d a b : RegName) (s : State) :
    Host.Outcome State Fault Refusal :=
  issueAlu s 0x12 0 sw { dst := some d, a := some a, b := some b } d (fun v => v.a + v.b * 1)

/-- LEA_2 (R409). -/
def execLea2 (sw : Bool) (d a b : RegName) (s : State) :
    Host.Outcome State Fault Refusal :=
  issueAlu s 0x12 1 sw { dst := some d, a := some a, b := some b } d (fun v => v.a + v.b * 2)

/-- LEA_4 (R409). -/
def execLea4 (sw : Bool) (d a b : RegName) (s : State) :
    Host.Outcome State Fault Refusal :=
  issueAlu s 0x12 2 sw { dst := some d, a := some a, b := some b } d (fun v => v.a + v.b * 4)

/-- LEA_8 (R409). -/
def execLea8 (sw : Bool) (d a b : RegName) (s : State) :
    Host.Outcome State Fault Refusal :=
  issueAlu s 0x12 3 sw { dst := some d, a := some a, b := some b } d (fun v => v.a + v.b * 8)

/-- LEA_16 (R409). -/
def execLea16 (sw : Bool) (d a b : RegName) (s : State) :
    Host.Outcome State Fault Refusal :=
  issueAlu s 0x12 4 sw { dst := some d, a := some a, b := some b } d (fun v => v.a + v.b * 16)

/-- PADD_B (R410). -/
def execPaddB (sw : Bool) (d a b : RegName) (s : State) :
    Host.Outcome State Fault Refusal :=
  issueAlu s 0x13 0 sw { dst := some d, a := some a, b := some b } d (fun v => eachEl 8 8 (fun x y => x + y) v.a v.b)

/-- PADD_H (R410). -/
def execPaddH (sw : Bool) (d a b : RegName) (s : State) :
    Host.Outcome State Fault Refusal :=
  issueAlu s 0x13 1 sw { dst := some d, a := some a, b := some b } d (fun v => eachEl 16 4 (fun x y => x + y) v.a v.b)

/-- PADD_W (R410). -/
def execPaddW (sw : Bool) (d a b : RegName) (s : State) :
    Host.Outcome State Fault Refusal :=
  issueAlu s 0x13 2 sw { dst := some d, a := some a, b := some b } d (fun v => eachEl 32 2 (fun x y => x + y) v.a v.b)

/-- PSUB_B (R410). -/
def execPsubB (sw : Bool) (d a b : RegName) (s : State) :
    Host.Outcome State Fault Refusal :=
  issueAlu s 0x13 3 sw { dst := some d, a := some a, b := some b } d (fun v => eachEl 8 8 (fun x y => x + (2 ^ 8 - y)) v.a v.b)

/-- PSUB_H (R410). -/
def execPsubH (sw : Bool) (d a b : RegName) (s : State) :
    Host.Outcome State Fault Refusal :=
  issueAlu s 0x13 4 sw { dst := some d, a := some a, b := some b } d (fun v => eachEl 16 4 (fun x y => x + (2 ^ 16 - y)) v.a v.b)

/-- PSUB_W (R410). -/
def execPsubW (sw : Bool) (d a b : RegName) (s : State) :
    Host.Outcome State Fault Refusal :=
  issueAlu s 0x13 5 sw { dst := some d, a := some a, b := some b } d (fun v => eachEl 32 2 (fun x y => x + (2 ^ 32 - y)) v.a v.b)

/-- PADDS_B (R410). -/
def execPaddsB (sw : Bool) (d a b : RegName) (s : State) :
    Host.Outcome State Fault Refusal :=
  issueAlu s 0x13 6 sw { dst := some d, a := some a, b := some b } d (fun v => eachEl 8 8 (fun x y => lowBits (satS (signedN x 8 + signedN y 8) 8) 8) v.a v.b)

/-- PADDS_H (R410). -/
def execPaddsH (sw : Bool) (d a b : RegName) (s : State) :
    Host.Outcome State Fault Refusal :=
  issueAlu s 0x13 7 sw { dst := some d, a := some a, b := some b } d (fun v => eachEl 16 4 (fun x y => lowBits (satS (signedN x 16 + signedN y 16) 16) 16) v.a v.b)

/-- PMUL_H (R411). -/
def execPmulH (sw : Bool) (d a b : RegName) (s : State) :
    Host.Outcome State Fault Refusal :=
  issueAlu s 0x14 0 sw { dst := some d, a := some a, b := some b } d (fun v => eachEl 16 4 (fun x y => x * y) v.a v.b)

/-- PMUL_W (R411). -/
def execPmulW (sw : Bool) (d a b : RegName) (s : State) :
    Host.Outcome State Fault Refusal :=
  issueAlu s 0x14 1 sw { dst := some d, a := some a, b := some b } d (fun v => eachEl 32 2 (fun x y => x * y) v.a v.b)

/-- PDOT_B_S (R411). -/
def execPdotBS (sw : Bool) (d a b : RegName) (s : State) :
    Host.Outcome State Fault Refusal :=
  issueAlu s 0x14 2 sw { dst := some d, a := some a, b := some b, d := some d } d (fun v => dotWords 8 4 true v.a v.b v.d)

/-- PDOT_B_N (R411). -/
def execPdotBN (sw : Bool) (d a b : RegName) (s : State) :
    Host.Outcome State Fault Refusal :=
  issueAlu s 0x14 3 sw { dst := some d, a := some a, b := some b, d := some d } d (fun v => dotWords 8 4 false v.a v.b v.d)

/-- PDOT_H_S (R411). -/
def execPdotHS (sw : Bool) (d a b : RegName) (s : State) :
    Host.Outcome State Fault Refusal :=
  issueAlu s 0x14 4 sw { dst := some d, a := some a, b := some b, d := some d } d (fun v => dotWords 16 2 true v.a v.b v.d)

/-- PMAX_H_S (R411). -/
def execPmaxHS (sw : Bool) (d a b : RegName) (s : State) :
    Host.Outcome State Fault Refusal :=
  issueAlu s 0x14 5 sw { dst := some d, a := some a, b := some b } d (fun v => eachEl 16 4 (fun x y => if signedN x 16 < signedN y 16 then y else x) v.a v.b)

/-- PMIN_H_S (R411). -/
def execPminHS (sw : Bool) (d a b : RegName) (s : State) :
    Host.Outcome State Fault Refusal :=
  issueAlu s 0x14 6 sw { dst := some d, a := some a, b := some b } d (fun v => eachEl 16 4 (fun x y => if signedN y 16 < signedN x 16 then y else x) v.a v.b)

/-- PACKLO (R412). -/
def execPacklo (sw : Bool) (d a b : RegName) (s : State) :
    Host.Outcome State Fault Refusal :=
  issueAlu s 0x15 0 sw { dst := some d, a := some a, b := some b } d (fun v => word (v.a.toNat % 2 ^ 32 + v.b.toNat % 2 ^ 32 * 2 ^ 32))

/-- PACKHI (R412). -/
def execPackhi (sw : Bool) (d a b : RegName) (s : State) :
    Host.Outcome State Fault Refusal :=
  issueAlu s 0x15 1 sw { dst := some d, a := some a, b := some b } d (fun v => word (v.a.toNat / 2 ^ 32 + v.b.toNat / 2 ^ 32 * 2 ^ 32))

/-- SHUFB (R412). -/
def execShufb (sw : Bool) (d a b : RegName) (s : State) :
    Host.Outcome State Fault Refusal :=
  issueAlu s 0x15 2 sw { dst := some d, a := some a, b := some b } d (fun v => shuffled v.a v.b)

end Sys2Proof.Machine
end

