-- ==== Sys2Proof/Machine/FloatOps.lean ====
section
/-!
DEFINITION. Floating-point instructions: scalar and packed arithmetic, compare and classify, special functions and
conversions (R413 to R421).
-/

namespace Sys2Proof.Machine

open Sys2Proof

/-- Bits [31:0] of an operand (R413). -/
def lo32 (v : Word) : Nat := v.toNat % 2 ^ 32

/-- A result and its flags, the result as a word whose further bits are zero (R413). -/
def wordPair (r : Nat × Nat) : Word × Nat := (word r.1, r.2)

/-- 1 or 0. -/
def truth (b : Bool) : Nat := if b then 1 else 0

/-- A pattern with its sign bit inverted (R371). -/
def flipSign (n v : Nat) : Nat := if bitN v n then v - 2 ^ n else v + 2 ^ n

/-- An FP32 pattern with a given sign (R416). -/
def withSign (v : Nat) (neg : Bool) : Nat := v % 2 ^ 31 + (if neg then 2 ^ 31 else 0)

/-- Neither operand is a NaN. -/
def ordered (x y : FVal) : Bool := !x.isNan && !y.isNan

/-- A = B, A < B and A ≤ B (R417). -/
def holdsEq (x y : FVal) : Bool := ordered x y && decide (cmpV x y = 0)
def holdsLt (x y : FVal) : Bool := ordered x y && decide (cmpV x y < 0)
def holdsLe (x y : FVal) : Bool := ordered x y && decide (cmpV x y ≤ 0)

/-- NV for a signalling NaN, or for any NaN (R417). -/
def quietFlags (x y : FVal) : Nat := flagIf (x.signals || y.signals) flagNV
def loudFlags (x y : FVal) : Nat := flagIf (!ordered x y) flagNV

/-- The class of a pattern, one bit of ten (R417). -/
def classBits (f : Fmt) (v : Nat) : Nat :=
  2 ^ (match decodeF f v with
    | .nan true => 8
    | .nan false => 9
    | .inf neg => if neg then 0 else 7
    | .fin neg m _ =>
      if m = 0 then (if neg then 3 else 4)
      else if v / 2 ^ (f.prec - 1) % 2 ^ f.ebits = 0 then (if neg then 2 else 5)
      else if neg then 1 else 6)

/-- A × 2^n rounded once (R416). An exponent beyond ±1,000 gives what ±1,000 gives: every result overflows or is tiny. -/
def scaleF (mode : Rounding) (x : FVal) (n : Int) : Nat × Nat :=
  let k : Int := if n > 1000 then 1000 else if n < -1000 then -1000 else n
  match x with
  | .fin neg m e => if m = 0 then (packZero fp32 neg, 0) else roundTo fp32 mode neg m 1 (e + k)
  | v => encodeF fp32 mode v

/-- Three operands element by element, the flags of all elements together (R374). -/
def packedFp (w n : Nat) (f : Nat → Nat → Nat → Nat × Nat) (v : Vals) : Nat × Nat :=
  let rs := (elements w n v.a).zipWith (fun x g => g x) ((elements w n v.b).zipWith (fun y z x => f x y z) (elements w n v.d))
  (joinElements w (rs.map Prod.fst), flagsAll (rs.map Prod.snd))

/-! ### Conversions -/

/-- What a conversion reads or writes: a format in elements of a width, or an integer. -/
inductive ConvKind where
  | num (f : NumFmt) (w : Nat)
  | int (signed : Bool) (n : Nat)
  deriving DecidableEq, Repr

/-- A conversion: target, source and the number of elements (R421). -/
structure Conversion where
  target : ConvKind
  source : ConvKind
  count  : Nat
  deriving DecidableEq, Repr

def kindD : ConvKind := .num (.ieee fp64) 64
def kindS : ConvKind := .num (.ieee fp32) 32
def kindH : ConvKind := .num (.ieee fp16) 16
def kindBF : ConvKind := .num (.ieee bf16) 16
def kindE4 : ConvKind := .num .e4m3 8
def kindE5 : ConvKind := .num .e5m2 8
def kindT8 : ConvKind := .num .t8 8
def kindT6 : ConvKind := .num .t6 8

/-- The integer kinds SW, NW, SD and ND by the low bits of a code. -/
def kindInt (n : Nat) : ConvKind := .int (decide (n % 2 = 0)) (if n % 4 < 2 then 32 else 64)

/-- The pairs of formats in the order of the scalar codes 0x00 to 0x0F and of the packed codes 0x20 to 0x2B: the kind at an
even code is the target, at the odd code the source. -/
def scalarPairs : List (ConvKind × ConvKind) :=
  [(kindS, kindD), (kindH, kindS), (kindBF, kindS), (kindH, kindD), (kindE4, kindS), (kindE5, kindS), (kindT8, kindS),
   (kindT6, kindS)]

def packedPairs : List (ConvKind × ConvKind × Nat) :=
  [(kindH, kindS, 2), (kindBF, kindS, 2), (kindE4, kindH, 4), (kindE5, kindH, 4), (kindT8, kindH, 4), (kindT6, kindH, 4)]

/-- The conversion a code names (R421). -/
def conversion (code : Nat) : Option Conversion :=
  if code < 0x10 then
    (scalarPairs[code / 2]?).map (fun p =>
      if code % 2 = 0 then { target := p.1, source := p.2, count := 1 } else { target := p.2, source := p.1, count := 1 })
  else if code < 0x18 then
    some { target := kindInt (code % 4), source := if code < 0x14 then kindS else kindD, count := 1 }
  else if code < 0x20 then
    some { target := if code < 0x1C then kindS else kindD, source := kindInt (code % 4), count := 1 }
  else if code < 0x2C then
    (packedPairs[(code - 0x20) / 2]?).map (fun p =>
      if code % 2 = 0 then { target := p.1, source := p.2.1, count := p.2.2 }
      else { target := p.2.1, source := p.1, count := p.2.2 })
  else if code < 0x30 then
    some { target := nth kindE4 [kindE4, kindE5, kindT8, kindT6] (code % 4), source := kindBF, count := 4 }
  else none

/-- The width of an element in its register. -/
def ConvKind.width : ConvKind → Nat
  | .num _ w => w
  | .int _ n => n

/-- The bits of an element that carry the value: 6 of a T6 byte (R421). -/
def ConvKind.used : ConvKind → Nat
  | .num .t6 _ => 6
  | k => k.width

/-- One element converted, with its flags (R383 to R385). -/
def convertOne (target source : ConvKind) (mode : Rounding) (v : Nat) : Nat × Nat :=
  match source, target with
  | .num f _, .num g _ => encodeNum mode g (decodeNum f v)
  | .num f _, .int sg n => toIntV mode sg n (decodeNum f v)
  | .int sg n, .num (.ieee g) _ => ofIntV g mode (if sg then signedN v n else (v : Int))
  | _, _ => (0, 0)

/-- The elements of a conversion in ascending order: results, flags, and the generator's state, which advances by a step
for each element under SR (R386). -/
def convertAll (k : Conversion) (rm : Nat) (st : Stream) : Nat → List Nat → List Nat × Nat × Nat
  | seed, [] => ([], 0, seed)
  | seed, v :: r =>
    let next := if rm = 6 then xorshift seed else seed
    let mode := if rm = 6 then .sr next else if rm = 5 then roundingIn st else roundingOf rm
    let one := convertOne k.target k.source mode (v % 2 ^ k.source.used)
    let rest := convertAll k rm st next r
    (one.1 :: rest.1, flagsOr one.2 rest.2.1, rest.2.2)

/-- The result word of a conversion from its elements: a 32-bit integer is extended from bit 31 (R421). -/
def convertedWord (k : Conversion) (rs : List Nat) : Word :=
  match k.target with
  | .int _ 32 => extW (BitVec.ofNat 32 (joinElements k.target.width rs))
  | _ => word (joinElements k.target.width rs)

/-- FCVT of the active lanes: each lane's generator under SR, its result and the flags of all (R386, R421). -/
def convertLanes (k : Conversion) (rm : Nat) (d : RegName) (vs : List Vals) (s : State) (c : Ctx) : State :=
  let rs := vs.map (fun v => (v, convertAll k rm c.st (laneOf s v.pos).seed.toNat (elements k.source.width k.count v.a)))
  let s1 := if rm = 6 then rs.foldl (fun t p => modLane t p.1.pos (fun x => { x with seed := word p.2.2.2 })) s else s
  raiseFlags (writeLanes s1 c d (rs.map (fun p => (p.1.ln, p.1.pos, convertedWord k p.2.1)))) c.sid (flagsAll (rs.map (fun p => p.2.2.1)))

/-- FADD_S (R414). -/
def execFaddS (sw : Bool) (d a b : RegName) (s : State) :
    Host.Outcome State Fault Refusal :=
  issueFp s 0x20 0 sw { dst := some d, a := some a, b := some b } d (fun st v =>
    wordPair (addV fp32 (roundingIn st) (decodeF fp32 (lo32 v.a)) (decodeF fp32 (lo32 v.b))))

/-- FSUB_S (R414). -/
def execFsubS (sw : Bool) (d a b : RegName) (s : State) :
    Host.Outcome State Fault Refusal :=
  issueFp s 0x20 1 sw { dst := some d, a := some a, b := some b } d (fun st v =>
    wordPair (addV fp32 (roundingIn st) (decodeF fp32 (lo32 v.a)) (decodeF fp32 (lo32 v.b)).negate))

/-- FMUL_S (R414). -/
def execFmulS (sw : Bool) (d a b : RegName) (s : State) :
    Host.Outcome State Fault Refusal :=
  issueFp s 0x20 2 sw { dst := some d, a := some a, b := some b } d (fun st v =>
    wordPair (mulV fp32 (roundingIn st) (decodeF fp32 (lo32 v.a)) (decodeF fp32 (lo32 v.b))))

/-- FDIV_S (R414). -/
def execFdivS (sw : Bool) (d a b : RegName) (s : State) :
    Host.Outcome State Fault Refusal :=
  issueFpLong s 0x20 3 sw { dst := some d, a := some a, b := some b } d (fun st v =>
    wordPair (divV fp32 (roundingIn st) (decodeF fp32 (lo32 v.a)) (decodeF fp32 (lo32 v.b))))

/-- FMIN_S (R414). -/
def execFminS (sw : Bool) (d a b : RegName) (s : State) :
    Host.Outcome State Fault Refusal :=
  issueFp s 0x20 4 sw { dst := some d, a := some a, b := some b } d (fun _ v =>
    wordPair (minMaxV fp32 false (lo32 v.a) (lo32 v.b)))

/-- FMAX_S (R414). -/
def execFmaxS (sw : Bool) (d a b : RegName) (s : State) :
    Host.Outcome State Fault Refusal :=
  issueFp s 0x20 5 sw { dst := some d, a := some a, b := some b } d (fun _ v =>
    wordPair (minMaxV fp32 true (lo32 v.a) (lo32 v.b)))

/-- FABS_S (R414). -/
def execFabsS (sw : Bool) (d a : RegName) (s : State) :
    Host.Outcome State Fault Refusal :=
  issueFp s 0x20 6 sw { dst := some d, a := some a } d (fun _ v =>
    wordPair ((lo32 v.a) % 2 ^ 31, 0))

/-- FNEG_S (R414). -/
def execFnegS (sw : Bool) (d a : RegName) (s : State) :
    Host.Outcome State Fault Refusal :=
  issueFp s 0x20 7 sw { dst := some d, a := some a } d (fun _ v =>
    wordPair (flipSign 31 (lo32 v.a), 0))

/-- FMA_S (R415). -/
def execFmaS (sw : Bool) (d a b : RegName) (s : State) :
    Host.Outcome State Fault Refusal :=
  issueFp s 0x21 0 sw { dst := some d, a := some a, b := some b, d := some d } d (fun st v =>
    wordPair (fmaV fp32 (roundingIn st) (decodeF fp32 (lo32 v.a)) (decodeF fp32 (lo32 v.b)) (decodeF fp32 (lo32 v.d))))

/-- FMS_S (R415). -/
def execFmsS (sw : Bool) (d a b : RegName) (s : State) :
    Host.Outcome State Fault Refusal :=
  issueFp s 0x21 1 sw { dst := some d, a := some a, b := some b, d := some d } d (fun st v =>
    wordPair (fmaV fp32 (roundingIn st) (decodeF fp32 (lo32 v.a)) (decodeF fp32 (lo32 v.b)) (decodeF fp32 (lo32 v.d)).negate))

/-- FNMA_S (R415). -/
def execFnmaS (sw : Bool) (d a b : RegName) (s : State) :
    Host.Outcome State Fault Refusal :=
  issueFp s 0x21 2 sw { dst := some d, a := some a, b := some b, d := some d } d (fun st v =>
    wordPair (fmaV fp32 (roundingIn st) (decodeF fp32 (lo32 v.a)).negate (decodeF fp32 (lo32 v.b)) (decodeF fp32 (lo32 v.d))))

/-- FMA_D (R415). -/
def execFmaD (sw : Bool) (d a b : RegName) (s : State) :
    Host.Outcome State Fault Refusal :=
  issueFp s 0x21 3 sw { dst := some d, a := some a, b := some b, d := some d } d (fun st v =>
    wordPair (fmaV fp64 (roundingIn st) (decodeF fp64 (v.a.toNat)) (decodeF fp64 (v.b.toNat)) (decodeF fp64 (v.d.toNat))))

/-- FMS_D (R415). -/
def execFmsD (sw : Bool) (d a b : RegName) (s : State) :
    Host.Outcome State Fault Refusal :=
  issueFp s 0x21 4 sw { dst := some d, a := some a, b := some b, d := some d } d (fun st v =>
    wordPair (fmaV fp64 (roundingIn st) (decodeF fp64 (v.a.toNat)) (decodeF fp64 (v.b.toNat)) (decodeF fp64 (v.d.toNat)).negate))

/-- FNMA_D (R415). -/
def execFnmaD (sw : Bool) (d a b : RegName) (s : State) :
    Host.Outcome State Fault Refusal :=
  issueFp s 0x21 5 sw { dst := some d, a := some a, b := some b, d := some d } d (fun st v =>
    wordPair (fmaV fp64 (roundingIn st) (decodeF fp64 (v.a.toNat)).negate (decodeF fp64 (v.b.toNat)) (decodeF fp64 (v.d.toNat))))

/-- FADD_D (R414). -/
def execFaddD (sw : Bool) (d a b : RegName) (s : State) :
    Host.Outcome State Fault Refusal :=
  issueFp s 0x22 0 sw { dst := some d, a := some a, b := some b } d (fun st v =>
    wordPair (addV fp64 (roundingIn st) (decodeF fp64 (v.a.toNat)) (decodeF fp64 (v.b.toNat))))

/-- FSUB_D (R414). -/
def execFsubD (sw : Bool) (d a b : RegName) (s : State) :
    Host.Outcome State Fault Refusal :=
  issueFp s 0x22 1 sw { dst := some d, a := some a, b := some b } d (fun st v =>
    wordPair (addV fp64 (roundingIn st) (decodeF fp64 (v.a.toNat)) (decodeF fp64 (v.b.toNat)).negate))

/-- FMUL_D (R414). -/
def execFmulD (sw : Bool) (d a b : RegName) (s : State) :
    Host.Outcome State Fault Refusal :=
  issueFp s 0x22 2 sw { dst := some d, a := some a, b := some b } d (fun st v =>
    wordPair (mulV fp64 (roundingIn st) (decodeF fp64 (v.a.toNat)) (decodeF fp64 (v.b.toNat))))

/-- FDIV_D (R414). -/
def execFdivD (sw : Bool) (d a b : RegName) (s : State) :
    Host.Outcome State Fault Refusal :=
  issueFpLong s 0x22 3 sw { dst := some d, a := some a, b := some b } d (fun st v =>
    wordPair (divV fp64 (roundingIn st) (decodeF fp64 (v.a.toNat)) (decodeF fp64 (v.b.toNat))))

/-- FMIN_D (R414). -/
def execFminD (sw : Bool) (d a b : RegName) (s : State) :
    Host.Outcome State Fault Refusal :=
  issueFp s 0x22 4 sw { dst := some d, a := some a, b := some b } d (fun _ v =>
    wordPair (minMaxV fp64 false (v.a.toNat) (v.b.toNat)))

/-- FMAX_D (R414). -/
def execFmaxD (sw : Bool) (d a b : RegName) (s : State) :
    Host.Outcome State Fault Refusal :=
  issueFp s 0x22 5 sw { dst := some d, a := some a, b := some b } d (fun _ v =>
    wordPair (minMaxV fp64 true (v.a.toNat) (v.b.toNat)))

/-- FABS_D (R414). -/
def execFabsD (sw : Bool) (d a : RegName) (s : State) :
    Host.Outcome State Fault Refusal :=
  issueFp s 0x22 6 sw { dst := some d, a := some a } d (fun _ v =>
    wordPair ((v.a.toNat) % 2 ^ 63, 0))

/-- FNEG_D (R414). -/
def execFnegD (sw : Bool) (d a : RegName) (s : State) :
    Host.Outcome State Fault Refusal :=
  issueFp s 0x22 7 sw { dst := some d, a := some a } d (fun _ v =>
    wordPair (flipSign 63 (v.a.toNat), 0))

/-- FADD_2S (R418). -/
def execFadd2s (sw : Bool) (d a b : RegName) (s : State) :
    Host.Outcome State Fault Refusal :=
  issueFp s 0x23 0 sw { dst := some d, a := some a, b := some b } d (fun st v =>
    wordPair (packedFp 32 2 (fun x y _ => addV fp32 (roundingIn st) (decodeF fp32 x) (decodeF fp32 y)) v))

/-- FSUB_2S (R418). -/
def execFsub2s (sw : Bool) (d a b : RegName) (s : State) :
    Host.Outcome State Fault Refusal :=
  issueFp s 0x23 1 sw { dst := some d, a := some a, b := some b } d (fun st v =>
    wordPair (packedFp 32 2 (fun x y _ => addV fp32 (roundingIn st) (decodeF fp32 x) (decodeF fp32 y).negate) v))

/-- FMUL_2S (R418). -/
def execFmul2s (sw : Bool) (d a b : RegName) (s : State) :
    Host.Outcome State Fault Refusal :=
  issueFp s 0x23 2 sw { dst := some d, a := some a, b := some b } d (fun st v =>
    wordPair (packedFp 32 2 (fun x y _ => mulV fp32 (roundingIn st) (decodeF fp32 x) (decodeF fp32 y)) v))

/-- FMA_2S (R418). -/
def execFma2s (sw : Bool) (d a b : RegName) (s : State) :
    Host.Outcome State Fault Refusal :=
  issueFp s 0x23 3 sw { dst := some d, a := some a, b := some b, d := some d } d (fun st v =>
    wordPair (packedFp 32 2 (fun x y z => fmaV fp32 (roundingIn st) (decodeF fp32 x) (decodeF fp32 y) (decodeF fp32 z)) v))

/-- FADD_4H (R418). -/
def execFadd4h (sw : Bool) (d a b : RegName) (s : State) :
    Host.Outcome State Fault Refusal :=
  issueFp s 0x23 4 sw { dst := some d, a := some a, b := some b } d (fun st v =>
    wordPair (packedFp 16 4 (fun x y _ => addV fp16 (roundingIn st) (decodeF fp16 x) (decodeF fp16 y)) v))

/-- FMUL_4H (R418). -/
def execFmul4h (sw : Bool) (d a b : RegName) (s : State) :
    Host.Outcome State Fault Refusal :=
  issueFp s 0x23 5 sw { dst := some d, a := some a, b := some b } d (fun st v =>
    wordPair (packedFp 16 4 (fun x y _ => mulV fp16 (roundingIn st) (decodeF fp16 x) (decodeF fp16 y)) v))

/-- FMA_4H (R418). -/
def execFma4h (sw : Bool) (d a b : RegName) (s : State) :
    Host.Outcome State Fault Refusal :=
  issueFp s 0x23 6 sw { dst := some d, a := some a, b := some b, d := some d } d (fun st v =>
    wordPair (packedFp 16 4 (fun x y z => fmaV fp16 (roundingIn st) (decodeF fp16 x) (decodeF fp16 y) (decodeF fp16 z)) v))

/-- FMA_4B (R418). -/
def execFma4b (sw : Bool) (d a b : RegName) (s : State) :
    Host.Outcome State Fault Refusal :=
  issueFp s 0x23 7 sw { dst := some d, a := some a, b := some b, d := some d } d (fun st v =>
    wordPair (packedFp 16 4 (fun x y z => fmaV bf16 (roundingIn st) (decodeF bf16 x) (decodeF bf16 y) (decodeF bf16 z)) v))

/-- FEQ_S (R417). -/
def execFeqS (sw : Bool) (d a b : RegName) (s : State) :
    Host.Outcome State Fault Refusal :=
  issueFp s 0x24 0 sw { dst := some d, a := some a, b := some b } d (fun _ v =>
    wordPair (truth (holdsEq (decodeF fp32 (lo32 v.a)) (decodeF fp32 (lo32 v.b))), quietFlags (decodeF fp32 (lo32 v.a)) (decodeF fp32 (lo32 v.b))))

/-- FLT_S (R417). -/
def execFltS (sw : Bool) (d a b : RegName) (s : State) :
    Host.Outcome State Fault Refusal :=
  issueFp s 0x24 1 sw { dst := some d, a := some a, b := some b } d (fun _ v =>
    wordPair (truth (holdsLt (decodeF fp32 (lo32 v.a)) (decodeF fp32 (lo32 v.b))), loudFlags (decodeF fp32 (lo32 v.a)) (decodeF fp32 (lo32 v.b))))

/-- FLE_S (R417). -/
def execFleS (sw : Bool) (d a b : RegName) (s : State) :
    Host.Outcome State Fault Refusal :=
  issueFp s 0x24 2 sw { dst := some d, a := some a, b := some b } d (fun _ v =>
    wordPair (truth (holdsLe (decodeF fp32 (lo32 v.a)) (decodeF fp32 (lo32 v.b))), loudFlags (decodeF fp32 (lo32 v.a)) (decodeF fp32 (lo32 v.b))))

/-- FUN_S (R417). -/
def execFunS (sw : Bool) (d a b : RegName) (s : State) :
    Host.Outcome State Fault Refusal :=
  issueFp s 0x24 3 sw { dst := some d, a := some a, b := some b } d (fun _ v =>
    wordPair (truth ((decodeF fp32 (lo32 v.a)).isNan || (decodeF fp32 (lo32 v.b)).isNan), quietFlags (decodeF fp32 (lo32 v.a)) (decodeF fp32 (lo32 v.b))))

/-- FEQ_D (R417). -/
def execFeqD (sw : Bool) (d a b : RegName) (s : State) :
    Host.Outcome State Fault Refusal :=
  issueFp s 0x24 4 sw { dst := some d, a := some a, b := some b } d (fun _ v =>
    wordPair (truth (holdsEq (decodeF fp64 (v.a.toNat)) (decodeF fp64 (v.b.toNat))), quietFlags (decodeF fp64 (v.a.toNat)) (decodeF fp64 (v.b.toNat))))

/-- FLT_D (R417). -/
def execFltD (sw : Bool) (d a b : RegName) (s : State) :
    Host.Outcome State Fault Refusal :=
  issueFp s 0x24 5 sw { dst := some d, a := some a, b := some b } d (fun _ v =>
    wordPair (truth (holdsLt (decodeF fp64 (v.a.toNat)) (decodeF fp64 (v.b.toNat))), loudFlags (decodeF fp64 (v.a.toNat)) (decodeF fp64 (v.b.toNat))))

/-- FLE_D (R417). -/
def execFleD (sw : Bool) (d a b : RegName) (s : State) :
    Host.Outcome State Fault Refusal :=
  issueFp s 0x24 6 sw { dst := some d, a := some a, b := some b } d (fun _ v =>
    wordPair (truth (holdsLe (decodeF fp64 (v.a.toNat)) (decodeF fp64 (v.b.toNat))), loudFlags (decodeF fp64 (v.a.toNat)) (decodeF fp64 (v.b.toNat))))

/-- FCLASS (R417). -/
def execFclass (sw : Bool) (d a : RegName) (s : State) :
    Host.Outcome State Fault Refusal :=
  issueFp s 0x24 7 sw { dst := some d, a := some a } d (fun _ v =>
    wordPair (classBits fp32 (lo32 v.a) + 2 ^ 16 * classBits fp64 v.a.toNat, 0))

/-- FRCP_S (R420). -/
def execFrcpS (sw : Bool) (d a : RegName) (s : State) :
    Host.Outcome State Fault Refusal :=
  issueFpLong s 0x25 0 sw { dst := some d, a := some a } d (fun _ v =>
    wordPair (sfuRcp (lo32 v.a)))

/-- FRSQ_S (R420). -/
def execFrsqS (sw : Bool) (d a : RegName) (s : State) :
    Host.Outcome State Fault Refusal :=
  issueFpLong s 0x25 1 sw { dst := some d, a := some a } d (fun _ v =>
    wordPair (sfuRsq (lo32 v.a)))

/-- FSQRT_S (R420). -/
def execFsqrtS (sw : Bool) (d a : RegName) (s : State) :
    Host.Outcome State Fault Refusal :=
  issueFpLong s 0x25 2 sw { dst := some d, a := some a } d (fun st v =>
    wordPair (sqrtV fp32 (roundingIn st) (decodeF fp32 (lo32 v.a))))

/-- FEXP2_S (R420). -/
def execFexp2S (sw : Bool) (d a : RegName) (s : State) :
    Host.Outcome State Fault Refusal :=
  issueFpLong s 0x25 3 sw { dst := some d, a := some a } d (fun _ v =>
    wordPair (sfuExp2 (lo32 v.a)))

/-- FLOG2_S (R420). -/
def execFlog2S (sw : Bool) (d a : RegName) (s : State) :
    Host.Outcome State Fault Refusal :=
  issueFpLong s 0x25 4 sw { dst := some d, a := some a } d (fun _ v =>
    wordPair (sfuLog2 (lo32 v.a)))

/-- FSINPI_S (R420). -/
def execFsinpiS (sw : Bool) (d a : RegName) (s : State) :
    Host.Outcome State Fault Refusal :=
  issueFpLong s 0x25 5 sw { dst := some d, a := some a } d (fun _ v =>
    wordPair (sfuSinPi (lo32 v.a)))

/-- FCOSPI_S (R420). -/
def execFcospiS (sw : Bool) (d a : RegName) (s : State) :
    Host.Outcome State Fault Refusal :=
  issueFpLong s 0x25 6 sw { dst := some d, a := some a } d (fun _ v =>
    wordPair (sfuCosPi (lo32 v.a)))

/-- FTANH_S (R420). -/
def execFtanhS (sw : Bool) (d a : RegName) (s : State) :
    Host.Outcome State Fault Refusal :=
  issueFpLong s 0x25 7 sw { dst := some d, a := some a } d (fun _ v =>
    wordPair (sfuTanh (lo32 v.a)))

/-- FCVT (R421). -/
def execFcvt (sw : Bool) (d a : RegName) (conv : BitVec 7) (rm : BitVec 3) (s : State) :
    Host.Outcome State Fault Refusal :=
  issue s 0x26 rm.toNat sw { dst := some d, a := some a } (fun _ _ vs =>
    match conversion conv.toNat with
    | none => .illegal
    | some k => .go (convertLanes k rm.toNat d vs))

/-- FSGNJ_S (R416). -/
def execFsgnjS (sw : Bool) (d a b : RegName) (s : State) :
    Host.Outcome State Fault Refusal :=
  issueFp s 0x27 0 sw { dst := some d, a := some a, b := some b } d (fun _ v =>
    wordPair (withSign (lo32 v.a) (bitW v.b 31), 0))

/-- FSGNJN_S (R416). -/
def execFsgnjnS (sw : Bool) (d a b : RegName) (s : State) :
    Host.Outcome State Fault Refusal :=
  issueFp s 0x27 1 sw { dst := some d, a := some a, b := some b } d (fun _ v =>
    wordPair (withSign (lo32 v.a) (!bitW v.b 31), 0))

/-- FSGNJX_S (R416). -/
def execFsgnjxS (sw : Bool) (d a b : RegName) (s : State) :
    Host.Outcome State Fault Refusal :=
  issueFp s 0x27 2 sw { dst := some d, a := some a, b := some b } d (fun _ v =>
    wordPair (withSign (lo32 v.a) (bitW v.a 31 != bitW v.b 31), 0))

/-- FRINT_S (R416). -/
def execFrintS (sw : Bool) (d a : RegName) (s : State) :
    Host.Outcome State Fault Refusal :=
  issueFp s 0x27 3 sw { dst := some d, a := some a } d (fun st v =>
    wordPair (rintV fp32 (roundingIn st) (decodeF fp32 (lo32 v.a))))

/-- FRINT_D (R416). -/
def execFrintD (sw : Bool) (d a : RegName) (s : State) :
    Host.Outcome State Fault Refusal :=
  issueFp s 0x27 4 sw { dst := some d, a := some a } d (fun st v =>
    wordPair (rintV fp64 (roundingIn st) (decodeF fp64 (v.a.toNat))))

/-- FSQRT_D (R416). -/
def execFsqrtD (sw : Bool) (d a : RegName) (s : State) :
    Host.Outcome State Fault Refusal :=
  issueFpLong s 0x27 5 sw { dst := some d, a := some a } d (fun st v =>
    wordPair (sqrtV fp64 (roundingIn st) (decodeF fp64 v.a.toNat)))

/-- FSCALE_S (R416). -/
def execFscaleS (sw : Bool) (d a b : RegName) (s : State) :
    Host.Outcome State Fault Refusal :=
  issueFp s 0x27 6 sw { dst := some d, a := some a, b := some b } d (fun st v =>
    wordPair (scaleF (roundingIn st) (decodeF fp32 (lo32 v.a)) (signedW v.b 64)))

end Sys2Proof.Machine
end

