-- ==== Sys2Proof/Machine/Coma.lean ====
section
/-!
DEFINITION. The fabric as this device's work uses it: routes and the egress queues (R46 to R58), the grant table (R247,
R248), tracking blocks and fault rings (R67 to R72, R479, R519, R523), and the coma's aggregation buffers (R59 to R64).
-/

namespace Sys2Proof.Machine

open Sys2Proof

/-! ### Routes and egress -/

/-- A port's register state, at reset unless changed. -/
def portOf (s : State) (n : Nat) : Port := look .reset s.fab.ports n

/-- A port changed. -/
def modPort (s : State) (n : Nat) (f : Port → Port) : State :=
  { s with fab := { s.fab with ports := put s.fab.ports n (f (portOf s n)) } }

/-- Ports 0 to 11 whose bit is set in a mask and that are ACTIVE (R35, R48). -/
def activePorts (s : State) (mask : Nat) : List Nat :=
  (List.range 12).filter (fun n => bitN mask n && decide ((portOf s n).state = 5))

/-- The port toward a device (R48, R49); none when it cannot be reached. -/
def routePort (s : State) (dst win : Nat) : Option Nat :=
  let e := look 0 s.fab.routes dst
  let mode := bitsN e.toNat 17 16
  match activePorts s (bitsN e.toNat 11 0) with
  | [] => none
  | p :: r =>
    if mode = 1 then some p
    else if mode = 2 then some (nth p (p :: r) (Config.routeHash dst win % (p :: r).length))
    else none

/-- The capability bit a packet type needs at its port (R37, R38). -/
def capNeeded (ptype : Nat) : Option Nat :=
  if ptype = 2 ∨ ptype = 3 then some 0 else if ptype = 4 then some 1 else if ptype = 6 then some 3 else none

/-- A port may send a packet type (R38). -/
def portCarries (s : State) (n ptype : Nat) : Bool :=
  match capNeeded ptype with
  | some b => bitN (portOf s n).cap.toNat b
  | none => true

/-- A packet joins the egress queue of a VC (R43): responses travel on VC 1. -/
def enqueue (s : State) (n : Nat) (p : Packet) : State :=
  let vc := decide (p.ptype = 1 ∨ p.ptype = 7)
  pushWork (modPort s n (fun q =>
    if vc then { q with egress1 := q.egress1 ++ [p] } else { q with egress0 := q.egress0 ++ [p] })) (.egressSend n vc)

/-- A packet leaves for its DST, unless no port carries it (R38, R49). -/
def sendPacket (s : State) (p : Packet) : Option State :=
  match routePort s p.dst.toNat p.win.toNat with
  | none => none
  | some n => if portCarries s n p.ptype.toNat then some (enqueue s n p) else none

/-- HOPS of a packet this device originates (R47). -/
def startHops (s : State) : BitVec 6 := if s.fab.hopmax = 0 then 1 else s.fab.hopmax

/-- The tag of the next packet (R53). -/
def nextTag (s : State) : Nat := s.fab.nextTag % 2 ^ 24

/-- A tag has been used. -/
def useTag (s : State) : State := { s with fab := { s.fab with nextTag := s.fab.nextTag + 1 } }

/-- Cycles of COMAX.ACKTO; 0 acts as 1 µs (R66). -/
def ackCycles (s : State) : Nat := 1250 * (if s.fab.ackto = 0 then 1 else s.fab.ackto.toNat)

/-- A request packet of this device. -/
def request (s : State) (ptype : BitVec 4) (dst : BitVec 12) (win : BitVec 24) (dom nelem : Nat) (spec : Nat) (body : List Byte) :
    Packet :=
  { ptype := ptype, dst := dst, src := s.fab.id, hops := startHops s, nelem := BitVec.ofNat 5 nelem, resv := false
    tag := BitVec.ofNat 24 (nextTag s), win := win, dom := BitVec.ofNat 12 dom, spec := BitVec.ofNat 28 spec, body := body }

/-! ### Tracking blocks and fault rings -/

/-- Where a team's elements are counted now: the block RTRACK names, if it translates readable and writable and no update of
it meets poison, else inside (R67, R479). -/
def trackFor (s : State) (t : Team) : Track :=
  if t.rtrack = 0 then .inside
  else
    match domRead s t.domain t.rtrack.toNat 8 with
    | none => .inside
    | some v =>
      match domWrite s t.domain t.rtrack.toNat (spread 8 v) with
      | some _ => .block t.domain t.rtrack.toNat
      | none => .inside

/-- A 32-bit word of a tracking block changed at its home (R67). -/
def bumpWord (s : State) (dom addr : Nat) (f : Nat → Nat) : State :=
  match domRead s dom addr 4 with
  | none => s
  | some v => match domWrite s dom addr (spread 4 (f v % 2 ^ 32)) with | some t => t | none => s

/-- The team of an identifier changed, where it runs or in a vault (R186). -/
def modIdent (s : State) (ident : BitVec 32) (f : Team → Team) : State :=
  let g := each (fun _ t => if t.ident = ident then f t else t)
  { s with teams := g s.teams, sched := { s.sched with vaults := each (fun _ c => { c with teams := g c.teams }) s.sched.vaults } }

/-- The outstanding count rises (R68). -/
def trackUp (s : State) (ident : BitVec 32) (k : Track) (n : Nat) : State :=
  match k with
  | .block d a => bumpWord s d a (· + n)
  | .inside => modIdent s ident (fun t => { t with inside := t.inside + n })

/-- The outstanding count falls (R68). -/
def trackDown (s : State) (ident : BitVec 32) (k : Track) (n : Nat) : State :=
  match k with
  | .block d a => bumpWord s d a (· - n)
  | .inside => modIdent s ident (fun t => { t with inside := t.inside - n })

/-- A ring size is a power of two from 16 to 2^20 (R67). -/
def ringSizeOk (n : Nat) : Bool := (List.range 17).any (fun i => decide (n = 2 ^ (i + 4)))

/-- A failure: the failure count rises and a ring entry of three doublewords and a zero one is written (R71, R479). -/
def trackFail (s : State) (k : Track) (e0 e8 e16 : Nat) : State :=
  match k with
  | .inside => s
  | .block d a =>
    let s1 := bumpWord s d (a + 4) (· + 1)
    match domRead s1 d (a + 8) 8, domRead s1 d (a + 16) 8 with
    | some base, some w =>
      let size := w % 2 ^ 32
      let head := w / 2 ^ 32
      if !ringSizeOk size then s1
      else
        match domWrite s1 d (base % 2 ^ 64 + 32 * (head % size)) (spread 8 e0 ++ spread 8 e8 ++ spread 8 e16 ++ spread 8 0) with
        | some s2 => bumpWord s2 d (a + 20) (· + 1)
        | none => s1
    | _, _ => s1

/-- The fault ring entry of an element (R71). -/
def elementFail (s : State) (k : Track) (dev win : Nat) (atomic : Bool) (e : Element) (reason : Nat) : State :=
  let kind := if atomic then 2 ^ 11 + e.op * 2 ^ 8 else (if e.size = 8 then 2 ^ 8 else 0)
  trackFail s k (dev * 2 ^ 52 + win * 2 ^ 28 + e.off * 2 ^ 12 + kind + reason * 2 ^ 6 + (e.comb - 1) * 2) e.data.toNat
    0xFFFFFFFF

/-- The fault ring entry of a tile part (R71). -/
def partFail (s : State) (k : Track) (dev win off part reason : Nat) : State :=
  trackFail s k (dev * 2 ^ 52 + win * 2 ^ 28 + off * 2 ^ 12 + 2 ^ 11 + reason * 2 ^ 6 + 1) 0 (part * 2 ^ 32 + 0xFFFFFFFF)

/-- The fault ring entry of a multicast member (R519). -/
def memberFail (s : State) (k : Track) (group win off member reason : Nat) : State :=
  trackFail s k (group * 2 ^ 52 + win * 2 ^ 28 + off * 2 ^ 12 + reason * 2 ^ 6) 0 member

/-- The fault ring entry of an inbox append (R523). -/
def inboxFail (s : State) (k : Track) (dev handle : Nat) : State :=
  trackFail s k (dev * 2 ^ 52 + 3 * 2 ^ 6) handle 0xFFFFFFFF

/-- The team's outstanding count: of its tracking block and inside (R67, R479). -/
def outstanding (s : State) (t : Team) : Nat :=
  (match trackFor s t with
   | .block d a => (match domRead s d a 4 with | some v => v | none => 0)
   | .inside => 0) + t.inside

/-! ### Grants -/

/-- A window's grant entry as the last invalidation of it left it (R249). -/
def grantOf (s : State) (win : Nat) : Word := word (gather (fun a => look 0 s.ctl.grants a) 8 (8 * win))

/-- A word with one bit as given. -/
def withBit (v : Word) (bit : Nat) (on : Bool) : Word := if on then v ||| 1#64 <<< bit else v &&& ~~~(1#64 <<< bit)

/-- One bit of a grant entry changed by the Z5, in the table's entry as it stands in memory and in the one it caches, so that nothing
else software has written there is undone (R248, R249, R283). -/
def setGrant (s : State) (win bit : Nat) (on : Bool) : State :=
  let a := s.ctl.grtbase.toNat + 8 * win
  let t := rawWrite s a 8 (withBit (word (rawRead s a 8)) bit on).toNat
  let v := withBit (grantOf s win) bit on
  { t with ctl := { t.ctl with grants := ((spread 8 v.toNat).zipIdx).foldl (fun m b => keep 0 m (8 * win + b.2) b.1) t.ctl.grants } }

/-- The permission bits of a grant entry (R247). -/
def grantLoad : Nat := 62
def grantWrite : Nat := 61
def grantAtomic : Nat := 60

/-- A bit of an entry set, unless the entry the Z5 caches has it. -/
def orGrant (s : State) (win : Nat) (bit : Nat) : State := if bitW (grantOf s win) bit then s else setGrant s win bit true

/-- An uncharged window is charged to its owner (R283): USED below QUOTA in a valid domain entry, zero written, OT cleared. -/
def chargeWindow (s : State) (win : Nat) (key : KeySel) : Option State :=
  let e := grantOf s win
  let dom := bitsW e 43 32
  let w := word (rawRead s (domAddr s dom 0) 8)
  let used := rawRead s (domAddr s dom 8) 8 % 2 ^ 40
  if !bitW w 63 || decide (used ≥ bitsW w 39 0) then none
  else
    let s1 := rawWrite s (domAddr s dom 8) 8 (used + 1)
    some (setGrant (zeroRange s1 key (win * 65536) 65536) win 46 false)

/-- The key of a granted window (R276). -/
def grantKey (s : State) (win : Nat) : KeySel :=
  let e := grantOf s win
  if bitW e 57 then slotKey s (bitsW e 56 47) else .clear

/-- The checks of R248 on an element of `n` bytes, or with `n` zero on a write of a whole sector, which ends its poison (R271): a
reason, or the state after charging, the key, and whether the window is still uncharged. -/
def grantCheck (s : State) (win dom perm : Nat) (write : Bool) (off n : Nat) : Except Nat (State × KeySel × Bool) :=
  let e := grantOf s win
  if win ≥ 0xC00000 ∨ bitW e 63 = false ∨ bitsW e 45 44 ≠ 0 ∨ bitsW e 31 12 ≠ 0
      ∨ (bitW e 59 = false ∧ bitsW e 11 0 ≠ dom) then .error 0
  else if !bitW e perm then .error 1
  else
    let key := grantKey s win
    if bitW e 46 then
      if write then
        match chargeWindow s win key with
        | none => .error 1
        | some t => if rangeBad t key (win * 65536 + off) n then .error 2 else .ok (t, key, false)
      else .ok (s, key, true)
    else if rangeBad s key (win * 65536 + off) n then .error 2
    else .ok (s, key, false)

/-- Bytes written in a granted window, GD set in the same update (R248). -/
def grantPut (s : State) (win : Nat) (key : KeySel) (off : Nat) (bs : List Byte) : State :=
  orGrant (homeWrite s key (win * 65536 + off) bs) win 58

/-! ### Elements -/

/-- The size of a remote atomic (R475). -/
def ramoSize (op : Nat) : Nat := if op = 0 ∨ op = 2 then 4 else 8

/-- What a remote atomic leaves (R475). -/
def ramoNew (op old v : Nat) : Nat :=
  match op with
  | 0 => (old + v) % 2 ^ 32
  | 1 => (old + v) % 2 ^ 64
  | 2 => memAdd fp32 old v
  | 3 => if signedN old 64 ≤ signedN v 64 then old else v
  | 4 => if signedN old 64 ≤ signedN v 64 then v else old
  | 5 => old ||| v
  | 6 => old &&& v
  | _ => old ^^^ v

/-- Two operands of one combined atomic (R60). -/
def combineOp (op a b : Nat) : Nat :=
  if op = 0 then (a + b) % 2 ^ 32 else ramoNew op a b

/-- The operands of an op combine (R60): every op but FADD.S. -/
def combines (op : Nat) : Bool := decide (op ≠ 2)

/-- The IO die whose coma serves a team (R59). -/
def teamIo (t : Team) : Nat := ioOf (dieOf t.cluster)

/-- The number of data bytes of a buffer's elements (R59). -/
def dataBytes (l : List Element) : Nat := l.foldl (fun n e => n + e.size) 0

/-- Data items packed in element order, each aligned to its size (R54). -/
def packData : Nat → List Element → List Byte
  | _, [] => []
  | at_, e :: r =>
    let pad := (e.size - at_ % e.size) % e.size
    List.replicate pad 0 ++ spread e.size e.data.toNat ++ packData (at_ + pad + e.size) r

/-- The descriptor of an element (R54). -/
def descriptor (atomic : Bool) (e : Element) : Nat :=
  e.off * 2 ^ 16 + (if atomic then e.op * 2 ^ 13 + (e.comb - 1) * 2 ^ 8 else if e.size = 8 then 2 ^ 15 else 0)

/-- Bytes padded with zero to a multiple of 8. -/
def pad8 (l : List Byte) : List Byte := l ++ List.replicate ((8 - l.length % 8) % 8) 0

/-- The body of an aggregated packet: its descriptors padded, then the data (R54). -/
def elementBody (atomic : Bool) (l : List Element) : List Byte :=
  pad8 (l.flatMap (fun e => spread 4 (descriptor atomic e))) ++ packData 0 l

/-- Elements that are not delivered fail one by one (R49, R70, R71). -/
def failElements (s : State) (ident : BitVec 32) (k : Track) (dev win : Nat) (atomic : Bool) (l : List Element) (reason : Nat) :
    State :=
  l.foldl (fun t e => trackDown (elementFail t k dev win atomic e reason) ident k 1) s

/-- A packet is in flight, whose contents were translated under some leaves: it waits for its acknowledgement or reply until its
timeout (R70). -/
def fly (s : State) (ident : BitVec 32) (dev : BitVec 12) (win : BitVec 24) (k : Track) (w : Flight) (leaves : List TlbEntry)
    (timed : Option Instr) : State :=
  let f : InFlight := { tag := nextTag s, team := ident, dev := dev, win := win, track := k, what := w,
                        due := if timed.isSome then some (s.cycle + ackCycles s) else none, leaves := leaves }
  let s1 := useTag { s with fab := { s.fab with flights := s.fab.flights ++ [f] } }
  match timed with
  | some e => pushTimer s1 (ackCycles s) e
  | none => s1

/-- Shootdowns that wait for a buffer wait for its packet once it is flushed (R258). -/
def bufferLeft (s : State) (n tag : Nat) : State :=
  { s with ctl := { s.ctl with shoots := each (fun _ x =>
    if x.bufs.contains n then { x with bufs := removeN x.bufs n, tags := x.tags ++ [tag] } else x) s.ctl.shoots } }

/-- A flushed buffer leaves as one packet (R61); its sector is charged to its team (R149). -/
def flushBuffer (s : State) (n : Nat) : State :=
  match find? s.fab.buffers n with
  | none => s
  | some b =>
    let s1 := bufferLeft { s with fab := { s.fab with buffers := del s.fab.buffers n } } n (nextTag s)
    let s2 := match first? (fun _ t => decide (t.ident = b.team)) s1.teams with | some (k, _) => chargeTb s1 k 1 | none => s1
    let p := request s2 (if b.atomic then 3 else 2) b.dev b.win b.dom (b.elems.length - 1) 0 (elementBody b.atomic b.elems)
    match sendPacket s2 p with
    | some s3 => fly s3 b.team b.dev b.win b.track (.elements b.atomic b.elems) b.leaves (some (.ackTimeout (nextTag s)))
    | none => failElements s2 b.team b.track b.dev.toNat b.win.toNat b.atomic b.elems 3

/-- Every buffer that satisfies a condition is flushed, lowest number first. -/
def flushWhere (s : State) (p : Buffer → Bool) : State :=
  ((s.fab.buffers.filter (fun e => p e.2)).map Prod.fst).foldl flushBuffer s

/-- Every buffer of a team is flushed. -/
def flushTeam (s : State) (ident : BitVec 32) : State := flushWhere s (fun b => decide (b.team = ident))

/-- A team's buffers of both classes for a device and window are flushed (R476, R477). -/
def flushWindow (s : State) (ident : BitVec 32) (dev : BitVec 12) (win : BitVec 24) : State :=
  flushWhere s (fun b => decide (b.team = ident ∧ b.dev = dev ∧ b.win = win))

/-- The age limit of a team's buffers in cycles (R62). -/
def ageCycles (s : State) (rage : BitVec 12) : Nat :=
  let v := if rage = 0 then s.fab.age.toNat else rage.toNat
  20 * (if v < 4 then 4 else if v > 4000 then 4000 else v)

/-- One buffer is better to evict than another (R64). -/
def evictBefore (policy : Nat) (a b : Buffer) : Bool :=
  if policy = 1 then decide (a.added < b.added)
  else if policy = 2 then decide (a.elems.length > b.elems.length)
  else decide (a.opened < b.opened)

/-- The buffer R64 flushes first among some. -/
def evictChoice (policy : Nat) : List (Nat × Buffer) → Option (Nat × Buffer)
  | [] => none
  | e :: r =>
    match evictChoice policy r with
    | none => some e
    | some f => if evictBefore policy f.2 e.2 then some f else some e

/-- A buffer's place is free for a new key, after a flush if need be (R64). -/
def makeBuffer (s : State) (t : Team) (io : Nat) : State :=
  let mine := s.fab.buffers.filter (fun e => decide (e.2.team = t.ident ∧ e.2.io = io))
  let all := s.fab.buffers.filter (fun e => decide (e.2.io = io))
  let cap := if s.fab.teamcap = 0 then 256 else s.fab.teamcap.toNat
  let pick := if mine.length ≥ cap then evictChoice s.fab.evict.toNat mine
    else if all.length ≥ 256 then evictChoice s.fab.evict.toNat all else none
  match pick with
  | some e => flushBuffer s e.1
  | none => s

/-- A leaf among those a request was translated under. -/
def underLeaf (l : List TlbEntry) (e : TlbEntry) : List TlbEntry := if l.contains e then l else l ++ [e]

/-- An element opens a buffer of its own (R59). -/
def openBuffer (s : State) (t : Team) (io : Nat) (dev : BitVec 12) (win : BitVec 24) (atomic : Bool) (leaf : TlbEntry) (e : Element) :
    State :=
  let s1 := makeBuffer s t io
  let n := freeKey s1.fab.buffers (256 * io) 256
  let k := trackFor s1 t
  let b : Buffer := { io := io, team := t.ident, dom := t.domain, dev := dev, win := win, atomic := atomic, elems := [e], track := k,
                      opened := s1.cycle, added := s1.cycle, leaves := [leaf] }
  let s2 := trackUp { s1 with fab := { s1.fab with buffers := put s1.fab.buffers n b } } t.ident k 1
  pushTimer s2 (ageCycles s2 t.rage) (.comaAgeLimit n)

/-- The latest element at an offset, by its place. -/
def latestAt (l : List Element) (off : Nat) : Option (Nat × Element) :=
  (l.zipIdx.filter (fun e => decide (e.1.off = off))).getLast?.map (fun e => (e.2, e.1))

/-- Two stores overlap with different offset or size (R60). -/
def overlaps (a b : Element) : Bool :=
  decide (a.off < b.off + b.size ∧ b.off < a.off + a.size) && !(decide (a.off = b.off ∧ a.size = b.size))

/-- A new element at the end of an open buffer, which is flushed first when it would not fit and afterwards when it is full
(R59, R61). -/
def appendElement (s : State) (t : Team) (n : Nat) (b : Buffer) (leaf : TlbEntry) (e : Element) : State :=
  if dataBytes b.elems + e.size > 256 then openBuffer (flushBuffer s n) t b.io b.dev b.win b.atomic leaf e
  else
    let l := b.elems ++ [e]
    let nb := { b with elems := l, added := s.cycle, leaves := underLeaf b.leaves leaf }
    let s1 := trackUp { s with fab := { s.fab with buffers := put s.fab.buffers n nb } } t.ident b.track 1
    if l.length = 32 ∨ dataBytes l = 256 then flushBuffer s1 n else s1

/-- An element enters the coma (R59, R60). MARK: DESIGN CHOICE (log 31). R64 does not say whether a store that replaces or an atomic that
combines adds to its buffer for EVICT 1; here it does. -/
def placeElement (s : State) (t : Team) (dev : BitVec 12) (win : BitVec 24) (atomic : Bool) (leaf : TlbEntry) (e : Element) : State :=
  let io := teamIo t
  let mine (a : Bool) (b : Buffer) : Bool := decide (b.team = t.ident ∧ b.dev = dev ∧ b.win = win ∧ b.atomic = a ∧ b.io = io)
  let s1 := flushWhere s (mine (!atomic))
  match first? (fun _ b => mine atomic b) s1.fab.buffers with
  | none => openBuffer s1 t io dev win atomic leaf e
  | some (n, b) =>
    if !atomic && b.elems.any (fun x => overlaps x e) then openBuffer (flushBuffer s1 n) t io dev win atomic leaf e
    else
      match latestAt b.elems e.off with
      | some (i, x) =>
        let renew (y : Element) : State :=
          let nb := { b with elems := b.elems.set i y, added := s1.cycle, leaves := underLeaf b.leaves leaf }
          { s1 with fab := { s1.fab with buffers := put s1.fab.buffers n nb } }
        if !atomic then renew { x with data := e.data }
        else if decide (x.op = e.op) && combines e.op then
          renew { x with data := word (combineOp e.op x.data.toNat e.data.toNat), comb := Nat.min 32 (x.comb + 1) }
        else appendElement s1 t n b leaf e
      | none => appendElement s1 t n b leaf e

/-! ### Remote forms on this device -/

/-- A remote store or atomic whose page is local: applied at its home, rejected only for poison (R245). -/
def applyLocal (s : State) (t : Team) (x : Xlat) (atomic : Bool) (e : Element) : State :=
  let pa := x.local_
  if homeBad s x.key pa then elementFail s (trackFor s t) s.fab.id.toNat (pa / 65536) atomic e 2
  else
    let v := if atomic then ramoNew e.op (homeRead s x.key pa e.size) e.data.toNat else e.data.toNat
    homeWrite s x.key pa (spread e.size v)

/-- A remote store or atomic of a lane, its page translated (R475). -/
def remoteElement (s : State) (tk : Nat) (x : Xlat) (atomic : Bool) (size op : Nat) (v : Word) : State :=
  match find? s.teams tk with
  | none => s
  | some t =>
    let e : Element := { off := x.pa % 65536, size := size, op := op, data := word (v.toNat % 2 ^ (8 * size)), comb := 1 }
    if x.peer s then placeElement s t (BitVec.ofNat 12 (x.pa / 2 ^ 40)) (BitVec.ofNat 24 (x.pa % 2 ^ 40 / 65536)) atomic x.leaf e
    else applyLocal s t x atomic e

end Sys2Proof.Machine
end

