-- ==== Sys2Proof/Machine/Access.lean ====
section
/-!
DEFINITION. What the memory instructions share: the translation of every lane's address with its precise faults, plain
loads and stores through the first-level banks, accesses performed at the home, scratchpad accesses, release and acquire
actions, and kicks of engine routines (R242 to R254, R263 to R272, R295, R296, R456 to R461, R480, R481).
-/

namespace Sys2Proof.Machine

open Sys2Proof

/-! ### Addresses -/

/-- The engine aperture (R480). -/
def inAperture (va : Word) : Bool := decide (0x7FFFFFFFFF0000 ≤ va.toNat ∧ va.toNat ≤ 0x7FFFFFFFFFFFFF)

/-- A lane's accesses are checked at user privilege (R254, R320, R482). -/
def userOf (s : State) (c : Ctx) : Bool := c.routine || decide (privOf s c = 0)

/-- A translation checked for an access, nothing marked dirty yet; a peer page is let through (R242, R243, R254). -/
def permAny (s : State) (ts : List Nat) (dom : Nat) (va : Word) (need : Need) (user : Bool) : Except XFault (State × Xlat) :=
  if bitsW va 63 55 ≠ 0 then .error { code := 0x03, detail := 0 }
  else if inAperture va then .error { code := 0x07, detail := 0 }
  else
    match leafFor s ts dom va.toNat need user with
    | .error f => .error f
    | .ok (t, e) =>
      let x := applyLeaf t e va.toNat
      if !x.peer t && x.absent t then .error { code := 0x04, detail := 0 } else .ok (t, x)

/-- The same for a local access (R245). -/
def permLocal (s : State) (ts : List Nat) (dom : Nat) (va : Word) (need : Need) (user : Bool) : Except XFault (State × Xlat) :=
  match permAny s ts dom va need user with
  | .error f => .error f
  | .ok (t, x) => if x.peer t then .error { code := 0x0A, detail := 0 } else .ok (t, x)

/-- A translation whose leaf still stands, as a write needs it: the address is translated again when the leaf has changed (R279);
none when that fails. -/
def settled (s : State) (ts : List Nat) (va : Word) (need : Need) (user : Bool) (x : Xlat) : Option (State × Xlat) :=
  if leafStands s x.leaf then some (s, x)
  else match permAny s ts x.leaf.dom va need user with | .error _ => none | .ok r => some r

/-- D set in the leaf of a translation before a write through it (R279). A leaf that another lane's write of the same instruction
took away leaves a path that writes nothing. -/
def dirtied (s : State) (ts : List Nat) (va : Word) (need : Need) (user : Bool) (x : Xlat) : State × Xlat :=
  match settled s ts va need user x with
  | some (t, y) => ((setDirty t ts y.leaf).1, y)
  | none => (s, { x with key := .dead })

/-- What an instruction needs of each lane's address: its permission, alignment, whether a peer page may be named, and whether
it reads data (R254, R456, R474). -/
structure Reach where
  need   : Need
  size   : Nat
  remote : Bool
  reads  : Bool
  deriving DecidableEq, Repr

/-- A lane's address translated: the lowest of its causes, or the translation. Alignment is code 0x0C (R321, R456). -/
def laneXlat (s : State) (c : Ctx) (w : Reach) (va : Word) : Except XFault (State × Xlat) :=
  let r := (if w.remote then permAny else permLocal) s c.tlbs c.team.domain va w.need (userOf s c)
  let odd := decide (va.toNat % w.size ≠ 0)
  match r with
  | .error f => if odd && decide (f.code > 0x0C) then .error { code := 0x0C, detail := 0 } else .error f
  | .ok (t, x) =>
    if odd then .error { code := 0x0C, detail := 0 }
    else if c.routine && w.reads && !x.peer t && takeBad t (clusterBanks c.team.cluster) x.key x.local_ then .error { code := 0x18, detail := 0 }
    else .ok (t, x)

/-- A lane's operands with its address and translation. -/
structure Reached where
  v  : Vals
  va : Word
  x  : Xlat
  deriving DecidableEq, Repr

/-- Every active lane's address translated, in ascending lane order: all precise faults, or the translations. -/
def reachAll (c : Ctx) (w : Reach) : State → List (Vals × Word) → State × List LaneFault × List Reached
  | s, [] => (s, [], [])
  | s, (v, va) :: r =>
    match laneXlat s c w va with
    | .error f =>
      let (t, fs, xs) := reachAll c w s r
      (t, { ln := v.ln, code := f.code, addr := va, detail := f.detail } :: fs, xs)
    | .ok (u, x) =>
      let (t, fs, xs) := reachAll c w u r
      (t, fs, { v := v, va := va, x := x } :: xs)

/-- A page could not be backed (R181). -/
def unbacked (fs : List LaneFault) : Bool := fs.any (fun f => decide (f.code = 0x12 ∨ f.code = 0x13))

/-- A deferred release store of the group covers some bytes from a local PA upward. -/
def heldBytes (s : State) (c : Ctx) (pa n : Nat) : Bool :=
  s.moves.any (fun m => decide (m.2.kind = 5 ∧ m.2.group = c.st.group)
    && m.2.cells.any (fun e => decide (pa < e.1 + e.2.2.length ∧ e.1 < pa + n)))

/-- A deferred release store of the group covers bytes that lanes reach: a later access to them waits for it (R290). -/
def heldStore (s : State) (c : Ctx) (size : Nat) (xs : List Reached) : Bool := xs.any (fun r => heldBytes s c r.x.local_ size)

/-- The plan of an instruction that reaches memory at one address per lane. The effect translates again as it takes place:
the charge between changes no translation. When pages run out, those that could be backed are (R182). -/
def memPlan (w : Reach) (addr : Vals → Word) (eff : State → Ctx → List Reached → State) (s : State) (c : Ctx)
    (vs : List Vals) : Plan :=
  let at_ := vs.map (fun v => (v, addr v))
  match reachAll c w s at_ with
  | (t, f :: fs, _) => if unbacked (f :: fs) then .backed t (f :: fs) else .fault (f :: fs)
  | (t, [], xs) =>
    if heldStore t c w.size xs then .wait .drain
    else .go (fun u e => let r := reachAll e w u at_; eff r.1 e r.2.2)

/-! ### Results and late faults -/

/-- Outstanding work of a lane that will end in a late fault instead of a value (R272, R317, R324). -/
def failLater (s : State) (c : Ctx) (pos : Nat) (code : Nat) (addr : Word) (detail : Nat) : State :=
  issueResult s c pos [] (.fails { lane := pos, code := code, addr := addr, detail := detail, pc := c.st.pc })

/-- The value of a load or a poisoned-data late fault. -/
def loadResult (s : State) (c : Ctx) (v : Vals) (va : Word) (d : RegName) (bad : Bool) (w : Word) : State :=
  if bad then failLater s c v.pos 0x18 va 0 else writeLater s c v.ln v.pos d w

/-! ### Plain accesses -/

/-- The banks that serve a lane; an engine routine meets those of its team's cluster (R234, R235, R269). -/
def servingBanks (s : State) (c : Ctx) (pos : Nat) : List Nat :=
  if c.routine then clusterBanks c.team.cluster else banksFor s (pipeOf pos)

/-- One lane's plain load (R458): through its bank, or for a routine from the home with its cluster's dirty data (R269). -/
def plainLoad (d : RegName) (n : Nat) (ext : Nat → Word) (c : Ctx) (s : State) (r : Reached) : State :=
  let pa := r.x.local_
  if c.routine then
    writeLater (chargeSectors s c 1) c r.v.ln r.v.pos d (ext (gather (takeByte s (servingBanks s c r.v.pos) r.x.key) n pa))
  else
    let (t, v, bad, k) := bankLoad s (pipeOf r.v.pos) r.x.key pa n
    loadResult (chargeSectors t c k) c r.v r.va d bad (ext v)

/-- One lane's plain store (R458): through its bank; a routine's at the home, and its cluster's copies go (R308, R309). -/
def plainStore (n : Nat) (val : Vals → Word) (c : Ctx) (s : State) (r : Reached) : State :=
  let (s1, x) := dirtied s c.tlbs r.va ⟨false, true, false⟩ (userOf s c) r.x
  let bs := spread n (val r.v).toNat
  if c.routine then chargeSectors (homeWrite (evictRange s1 (servingBanks s1 c r.v.pos) x.local_ n) x.key x.local_ bs) c 1
  else
    let (t, k) := bankStore s1 (pipeOf r.v.pos) x.key x.local_ bs
    chargeSectors t c k

/-! ### Release, acquire and the home -/

/-- The cache actions of a release by every active lane (R295); an engine routine has no bank. -/
def releaseLanes (s : State) (c : Ctx) (sc : Scope) : State :=
  if c.routine then s else c.lanes.foldl (fun t e => releaseBanks t (pipeOf e.2) sc c.fused) s

/-- The cache actions of an acquire by every active lane (R296). -/
def acquireLanes (s : State) (c : Ctx) (sc : Scope) : State :=
  if c.routine then s else c.lanes.foldl (fun t e => acquireBanks t (pipeOf e.2) sc c.fused) s

/-- The same for one lane. -/
def acquireLane (s : State) (c : Ctx) (pos : Nat) (sc : Scope) : State :=
  if c.routine then s else acquireBanks s (pipeOf pos) sc c.fused

def releaseLane (s : State) (c : Ctx) (pos : Nat) (sc : Scope) : State :=
  if c.routine then s else releaseBanks s (pipeOf pos) sc c.fused

/-- The sectors of an access leave the lane's banks before it is performed at the home (R269); 1 sector is charged (R149). -/
def toHome (s : State) (c : Ctx) (r : Reached) (n : Nat) : State :=
  chargeSectors (evictRange s (servingBanks s c r.v.pos) r.x.local_ n) c 1

/-- An acquire load of a lane (R460). -/
def acquireLoad (d : RegName) (n : Nat) (sc : Scope) (c : Ctx) (s : State) (r : Reached) : State :=
  let t := toHome s c r n
  let u := acquireLane t c r.v.pos sc
  loadResult u c r.v r.va d (homeBad t r.x.key r.x.local_) (word (homeRead t r.x.key r.x.local_ n))

/-- A fabric-scope release of a team is over: a waiting write to RTRACK takes effect (R454). -/
def releaseDone (s : State) (tk : Nat) : State :=
  modTeam s tk (fun t => match t.rtrackTo with | some w => { t with rtrack := w, rtrackTo := none } | none => t)

/-- A release store of a lane (R460, R312): at once, or when the team's outstanding count is zero. -/
def releaseStore (n : Nat) (sc : Scope) (c : Ctx) (s : State) (r : Reached) : State :=
  let (s0, x) := dirtied (releaseLane s c r.v.pos sc) c.tlbs r.va ⟨false, true, false⟩ (userOf s c) r.x
  let s1 := toHome s0 c { r with x := x } n
  let bs := spread n r.v.d.toNat
  if sc = .fabric then
    let s2 := flushTeam s1 c.team.ident
    match find? s2.teams c.st.team with
    | none => s2
    | some t =>
      if outstanding s2 t = 0 ∧ !(s2.moves.any (fun m => decide (m.2.kind ≥ 5 ∧ m.2.group = c.st.group))) then
        releaseDone (homeWrite s2 x.key x.local_ bs) c.st.team
      else
        let m : Transfer :=
          { team := c.st.team, group := c.st.group, lane := r.v.pos, pc := c.st.pc, dom := t.domain, bar := none, kind := 5
            toMem := true, src := [], fault := none, va := r.va, dst := 0, size := n, cells := [(x.local_, x.key, bs.zipIdx.map (fun b => (b.2, b.1)))], leaves := [x.leaf] }
        addMove s2 m
  else homeWrite s1 x.key x.local_ bs

/-- Where a read-modify-write of a lane takes place, settled before its read so that both parts meet one location (R279, R298). -/
def settledAt (s : State) (c : Ctx) (r : Reached) : State × Xlat :=
  match settled s c.tlbs r.va ⟨true, true, false⟩ (userOf s c) r.x with
  | some p => p
  | none => (s, { r.x with key := .dead })

/-- One read-modify-write of a lane at the home (R298, R463); `f` gives the new value, none when nothing is written. -/
def homeUpdate (d : RegName) (n : Nat) (f : Nat → Vals → Option Nat) (c : Ctx) (s : State) (r : Reached) : State :=
  let (s1, x) := settledAt s c r
  let t := toHome s1 c { r with x := x } n
  if homeBad t x.key x.local_ then failLater t c r.v.pos 0x18 r.va 0
  else
    let old := homeRead t x.key x.local_ n
    let u := match f old r.v with
      | some w => homeWrite (setDirty t c.tlbs x.leaf).1 x.key x.local_ (spread n w)
      | none => t
    writeLater u c r.v.ln r.v.pos d (word old)

/-! ### Scratchpad -/

/-- Bytes of a team's scratchpad its accesses may reach: the allocation without the role queues (R197, R264). -/
def scratchLimit (t : Team) : Nat := t.scUnits * 4096 - (if t.layout ≠ 0 then 16384 else 0)

/-- A range lies in the allocation (R264). -/
def scratchIn (t : Team) (off n : Nat) : Bool := decide (off + n ≤ scratchLimit t)

/-- A doubleword of a range has an uncorrectable error (R266). -/
def scratchBad (s : State) (t : Team) (off n : Nat) : Bool :=
  (List.range ((off % 8 + n + 7) / 8)).any (fun i => s.scErr.contains (scratchPlace t (off / 8 * 8) / 8 + i))

/-- A little-endian read of scratchpad. -/
def scratchGet (s : State) (t : Team) (off n : Nat) : Nat := gather (fun a => look 0 s.scratch (scratchPlace t a)) n off

/-- A write of bytes to scratchpad: whole doublewords clear errors, a part of a doubleword with an error kills (R266, R338). -/
def scratchWrite (s : State) (tk : Nat) (off : Nat) (bs : List Byte) : State :=
  match find? s.teams tk with
  | none => s
  | some t =>
    if bs.length < 8 then
      if scratchBad s t off bs.length then doom s tk 0x02 0 else scratchPut s t off bs
    else
      let s1 := scratchPut s t off bs
      { s1 with scErr := s1.scErr.filter (fun e => decide (e < scratchPlace t off / 8 ∨ scratchPlace t (off + bs.length) / 8 ≤ e)) }

/-- Scratchpad offsets of each lane checked: alignment, then bounds (R456, R461). -/
def scratchFaults (t : Team) (size : Nat) (at_ : List (Nat × Word)) : List LaneFault :=
  at_.filterMap (fun e =>
    if e.2.toNat % size ≠ 0 then some { ln := e.1, code := 0x0C, addr := e.2, detail := 0 }
    else if scratchIn t e.2.toNat size then none
    else some { ln := e.1, code := 0x0D, addr := e.2, detail := 0 })

/-- The plan of a scratchpad load (R461). -/
def scratchLoadPlan (d : RegName) (n : Nat) (addr : Vals → Word) (_ : State) (c : Ctx) (vs : List Vals) : Plan :=
  match scratchFaults c.team n (vs.map (fun v => (v.ln, addr v))) with
  | f :: fs => .fault (f :: fs)
  | [] => .go (fun t e => vs.foldl (fun u v =>
      let a := (addr v).toNat
      if scratchBad u e.team a n then doom u e.st.team 0x02 0
      else writeLater u e v.ln v.pos d (word (scratchGet u e.team a n))) t)

/-- The plan of a scratchpad store (R461). -/
def scratchStorePlan (n : Nat) (addr : Vals → Word) (_ : State) (c : Ctx) (vs : List Vals) : Plan :=
  match scratchFaults c.team n (vs.map (fun v => (v.ln, addr v))) with
  | f :: fs => .fault (f :: fs)
  | [] => .go (fun t e => vs.foldl (fun u v => scratchWrite u e.st.team (addr v).toNat (spread n v.d.toNat)) t)

/-! ### Kicks -/

/-- The hart a kick word of the aperture names (R480). -/
def kickHart (c : Ctx) (va : Word) : Option Nat :=
  let o := va.toNat % 65536
  if o = 0 then some c.team.cluster
  else if 0x100 ≤ o ∧ o < 0x140 ∧ o % 8 = 0 then some (384 + 8 * teamIo c.team + (o - 0x100) / 8)
  else none

/-- The cause of a bad kick, if any (R480, R481). -/
def kickFault (c : Ctx) (va v : Word) : Option XFault :=
  if c.routine || (kickHart c va).isNone then some { code := 0x07, detail := 0 }
  else if v.toNat % 64 ≠ 0 ∨ bitsW v 63 19 ≠ 0 then some { code := 0x0C, detail := 0 }
  else if !scratchIn c.team v.toNat 64 then some { code := 0x0D, detail := 0 }
  else none

/-- A hart's state. -/
def hartOf (s : State) (h : Nat) : Hart := look .reset s.harts h

/-- A kick enters its hart's FIFO (R481). -/
def pushKick (s : State) (t : Team) (h block : Nat) : State :=
  let k : Kick := { team := t.ident, block := block, domain := t.domain, cluster := t.cluster }
  pushWork { s with harts := put s.harts h { hartOf s h with fifo := (hartOf s h).fifo ++ [k] } } (.engineRoutineStart h)

/-- Kicks of one instruction for which some hart's FIFO has no room (R481): that hart. -/
def kickFull (s : State) (hs : List Nat) : Option Nat :=
  hs.find? (fun h => decide ((hartOf s h).fifo.length + (hs.filter (fun x => decide (x = h))).length > 16))

/-- A lane's kick: a release store of fabric scope waits for the outstanding count, as it does to memory (R308, R312). -/
def kickLane (sc : Option Scope) (addr : Vals → Word) (c : Ctx) (s : State) (v : Vals) : State :=
  match kickHart c (addr v) with
  | none => s
  | some h =>
    match sc with
    | none => pushKick s c.team h v.d.toNat
    | some sc =>
      let s1 := releaseLane s c v.pos sc
      if sc = .fabric then
        let s2 := flushTeam s1 c.team.ident
        match find? s2.teams c.st.team with
        | none => s2
        | some t =>
          if outstanding s2 t = 0 ∧ !(s2.moves.any (fun m => decide (m.2.kind ≥ 5 ∧ m.2.group = c.st.group))) then
            releaseDone (pushKick s2 t h v.d.toNat) c.st.team
          else
            let m : Transfer :=
              { team := c.st.team, group := c.st.group, lane := v.pos, pc := c.st.pc, dom := t.domain, bar := none, kind := 6
                toMem := true, src := [], fault := none, va := addr v, dst := h, size := v.d.toNat, cells := [], leaves := [] }
            addMove s2 m
      else pushKick s1 c.team h v.d.toNat

/-- The plan of a doubleword store, which may kick (R480): the lanes that name the aperture apart from the others. -/
def storeOrKick (sc : Option Scope) (addr : Vals → Word) (eff : State → Ctx → List Reached → State) (s : State) (c : Ctx)
    (vs : List Vals) : Plan :=
  let ks := vs.filter (fun v => inAperture (addr v))
  let ms := vs.filter (fun v => !inAperture (addr v))
  let bad := ks.filterMap (fun v => (kickFault c (addr v) v.d).map (fun f =>
    ({ ln := v.ln, code := f.code, addr := if f.code = 0x0D then v.d else addr v, detail := f.detail } : LaneFault)))
  let rest := memPlan { need := ⟨false, true, false⟩, size := 8, remote := false, reads := false } addr eff s c ms
  match planFaults bad rest with
  | .go eff' =>
    match kickFull s (ks.filterMap (fun v => kickHart c (addr v))) with
    | some h => .wait (.kickFull h)
    | none => .go (fun t e => ks.foldl (kickLane sc addr e) (eff' t e))
  | p => p

end Sys2Proof.Machine
end

