-- ==== Sys2Proof/Machine/Loads.lean ====
section
/-!
DEFINITION. Loads, stores, scratchpad accesses, LDS, atomics, queued reservations and WAITA (R456 to R469, R299 to R302).
-/

namespace Sys2Proof.Machine

open Sys2Proof

/-- An M-format address (R456). -/
def baseOff (off : BitVec 10) (n : Nat) (v : Vals) : Word := v.a + wordI (off.toInt * n)

/-- What a load, a store, an update and a remote form need (R254, R474). -/
def loadReach (n : Nat) : Reach := { need := ⟨true, false, false⟩, size := n, remote := false, reads := true }
def storeReach (n : Nat) : Reach := { need := ⟨false, true, false⟩, size := n, remote := false, reads := false }
def updateReach (n : Nat) : Reach := { need := ⟨true, true, false⟩, size := n, remote := false, reads := true }

/-- A plain load (R458, R459). -/
def issueLoad (s : State) (major f : Nat) (sw : Bool) (o : Operands) (d : RegName) (n : Nat) (ext : Nat → Word)
    (addr : Vals → Word) : Host.Outcome State Fault Refusal :=
  issue s major f sw o (memPlan (loadReach n) addr (fun t c xs => xs.foldl (plainLoad d n ext c) t))

/-- A plain store of bytes, halves or words. -/
def issueStore (s : State) (major f : Nat) (sw : Bool) (o : Operands) (n : Nat) (addr : Vals → Word) :
    Host.Outcome State Fault Refusal :=
  issue s major f sw o (memPlan (storeReach n) addr (fun t c xs => xs.foldl (plainStore n Vals.d c) t))

/-- A plain store of doublewords, which may kick an engine hart (R480). -/
def issueStoreD (s : State) (major f : Nat) (sw : Bool) (o : Operands) (addr : Vals → Word) : Host.Outcome State Fault Refusal :=
  issue s major f sw o (storeOrKick none addr (fun t c xs => xs.foldl (plainStore 8 Vals.d c) t))

/-- An acquire load (R460). -/
def issueAcquire (s : State) (major f : Nat) (sw : Bool) (o : Operands) (d : RegName) (n : Nat) (sc : Scope) :
    Host.Outcome State Fault Refusal :=
  issue s major f sw o (memPlan (loadReach n) Vals.a (fun t c xs => xs.foldl (acquireLoad d n sc c) t))

/-- One read-modify-write per lane (R463, R464). -/
def issueUpdate (s : State) (major f : Nat) (sw : Bool) (o : Operands) (d : RegName) (n : Nat)
    (g : Nat → Vals → Option Nat) : Host.Outcome State Fault Refusal :=
  issue s major f sw o (memPlan (updateReach n) Vals.a (fun t c xs => xs.foldl (homeUpdate d n g c) t))

/-- The new value of an atomic on `n` bytes (R463). -/
def amoNew (op n old v : Nat) : Nat :=
  let w := v % 2 ^ (8 * n)
  match op with
  | 0 => (old + w) % 2 ^ (8 * n)
  | 1 => old &&& w
  | 2 => old ||| w
  | 3 => old ^^^ w
  | 4 => if signedN old (8 * n) ≤ signedN w (8 * n) then old else w
  | 5 => if signedN old (8 * n) ≤ signedN w (8 * n) then w else old
  | 6 => memAdd (if n = 8 then fp64 else fp32) old w
  | _ => w

/-! ### LDS -/

/-- A barrier object of a team (R303). -/
def barOf (t : Team) (n : Nat) : Barrier := look .reset t.bars n

/-- A barrier object changed; a phase that is due completes (R304). -/
def modBar (s : State) (tk n : Nat) (f : Barrier → Barrier) : State :=
  modTeam s tk (fun t =>
    let b := f (barOf t n)
    let due := decide (b.expect ≠ 0 ∧ b.arrived = b.expect ∧ b.pend = 0)
    { t with bars := put t.bars n (if due then { b with arrived := 0, phase := !b.phase } else b) })

/-- The pages of an LDS source: for each page its source offset and translation, up to the first that does not translate (R462). -/
def ldsPages (s : State) (c : Ctx) (va : Word) (size : Nat) : Nat → Nat → State × List (Nat × Xlat) × Option (Nat × Nat × Nat × Nat)
  | 0, _ => (s, [], none)
  | fuel + 1, off =>
    if off ≥ size then (s, [], none)
    else
      let a := va + word off
      let next := off + (65536 - a.toNat % 65536)
      match permLocal s c.tlbs c.team.domain a ⟨true, false, false⟩ (userOf s c) with
      | .error f => (s, [], some (off, f.code, a.toNat, f.detail))
      | .ok (t, x) =>
        let (u, ps, e) := ldsPages t c va size fuel next
        (u, (off, x) :: ps, e)

/-- One lane's LDS starts: its pages are translated, PEND rises and its sectors are charged (R462, R149). -/
def ldsLane (size bar : Nat) (c : Ctx) (s : State) (v : Vals) : State :=
  let (t, ps, e) := ldsPages s c v.a size 3 0
  let range : Option (Nat × Nat × Nat × Nat) := if scratchIn c.team v.d.toNat size then e else some (0, 0x0D, v.d.toNat, 0)
  let m : Transfer :=
    { team := c.st.team, group := c.st.group, lane := v.pos, pc := c.st.pc, dom := c.team.domain, bar := some bar, kind := 0
      toMem := false, src := ps.map (fun p => (p.1, p.2.local_, p.2.key)), fault := range, va := v.a, dst := v.d.toNat, size := size, cells := []
      leaves := ps.map (fun p => p.2.leaf) }
  pushWork (chargeSectors (modBar (addMove t m) c.st.team bar (fun b => { b with pend := b.pend + 1 })) c (size / 256)) (.ldsLanded t.seq)

/-- A deferred release store of the group covers bytes that an LDS of a lane reads (R290, R305). -/
def ldsHeld (s : State) (c : Ctx) (size : Nat) (v : Vals) : Bool :=
  (ldsPages s c v.a size 3 0).2.1.any (fun p => heldBytes s c p.2.local_ (Nat.min (size - p.1) (65536 - p.2.local_ % 65536)))

/-- The plan of an LDS (R462). -/
def ldsPlan (size bar : Nat) (s : State) (c : Ctx) (vs : List Vals) : Plan :=
  let bad := vs.filterMap (fun v =>
    if v.a.toNat % 256 ≠ 0 then some ({ ln := v.ln, code := 0x0C, addr := v.a, detail := 0 } : LaneFault)
    else if v.d.toNat % 256 ≠ 0 then some { ln := v.ln, code := 0x0C, addr := v.d, detail := 0 } else none)
  match bad with
  | f :: fs => .fault (f :: fs)
  | [] =>
    if (barOf c.team bar).pend.toNat + vs.length > 65535 then .wait (.pendFull bar)
    else if vs.any (ldsHeld s c size) then .wait .drain
    else .go (fun t e => vs.foldl (ldsLane size bar e) t)

/-! ### Queued reservations -/

/-- The FIFO of a line (R299). -/
def fifoOf (s : State) (line : Nat) : List Reserve := look [] s.ctl.resv line

/-- The FIFO of a line replaced. -/
def setFifo (s : State) (line : Nat) (l : List Reserve) : State := { s with ctl := { s.ctl with resv := keep [] s.ctl.resv line l } }

/-- A line's reservation is handed on: the head leaves, and the next request reaches it (R300, R301). -/
def handOn (s : State) (line : Nat) : State :=
  let t := setFifo s line ((fifoOf s line).drop 1)
  if fifoOf t line = [] then t else pushWork t (.reservationGrant line)

/-- Every request of some lanes is withdrawn; a held one is handed on (R299, R301, R467). -/
def withdrawFrom (p : Reserve → Bool) (s : State) (line : Nat) : State :=
  match fifoOf s line with
  | [] => s
  | r :: rest =>
    let s1 := setFifo s line (r :: rest.filter (fun x => !p x))
    if p r then handOn s1 line else s1

def withdraw (s : State) (p : Reserve → Bool) : State := (s.ctl.resv.map Prod.fst).foldl (withdrawFrom p) s

/-- The lane holds the reservation of the line of an address, and its 4,096 cycles have not passed (R300, R301). -/
def holds (s : State) (pos pa : Nat) : Bool :=
  match fifoOf s (pa / 1024) with
  | r :: _ => r.held && decide (r.lane = pos) && decide (s.cycle < r.since + 4096)
  | [] => false

/-- One lane's LRW (R299, R465). -/
def lrwLane (d : RegName) (c : Ctx) (s : State) (r : Reached) : State :=
  let s1 := withdraw (toHome s c r 8) (fun x => decide (x.lane = r.v.pos))
  let line := r.x.local_ / 1024
  let q : Reserve := { lane := r.v.pos, stream := c.sid, seq := s1.seq, addr := r.x.local_, key := r.x.key, since := 0, held := false }
  let was := fifoOf s1 line
  let s2 := issueResult (setFifo s1 line (was ++ [q])) c r.v.pos (resultTo s1 c r.v.ln r.v.pos d 0) (.holder line r.va)
  if was = [] then pushWork s2 (.reservationGrant line) else s2

/-- One lane's SCH (R300, R466). -/
def schLane (d : RegName) (c : Ctx) (s : State) (r : Reached) : State :=
  let (s1, x) := settledAt s c r
  let t := toHome s1 c { r with x := x } 8
  if holds t r.v.pos x.local_ then
    let u := homeWrite (setDirty (releaseLane t c r.v.pos .device) c.tlbs x.leaf).1 x.key x.local_ (spread 8 r.v.b.toNat)
    writeLater (handOn u (x.local_ / 1024)) c r.v.ln r.v.pos d 0
  else writeLater t c r.v.ln r.v.pos d 1

/-- One lane's RELR (R300, R466). -/
def relrLane (c : Ctx) (s : State) (r : Reached) : State :=
  let t := toHome s c r 8
  if holds t r.v.pos r.x.local_ then handOn (releaseLane t c r.v.pos .device) (r.x.local_ / 1024) else t

/-! ### WAITA -/

/-- Timeout of a WAITA class in cycles; none for class 7 (R468). -/
def waitClass (c : Nat) : Option Nat :=
  match c with
  | 0 => some 0 | 1 => some 256 | 2 => some 1024 | 3 => some 4096 | 4 => some 16384 | 5 => some 65536 | 6 => some 1048576
  | _ => none

/-- The word a WAITA names, read where it stands: its value and whether it is poisoned; none when it cannot be read (R468). -/
def waitRead (s : State) (c : Ctx) (pos : Nat) (a : Word) : Option (Nat × Bool) :=
  if bitW a 63 then some (scratchGet s c.team (bitsW a 18 0) 8, false)
  else
    match permLocal s c.tlbs c.team.domain a ⟨true, false, false⟩ (userOf s c) with
    | .error _ => none
    | .ok (_, x) =>
      if homeBad s x.key x.local_ then some (0, true)
      else
        let t := evictRange s (servingBanks s c pos) x.local_ 8
        some (homeRead t x.key x.local_ 8, false)

/-- The cause of a bad WAITA address of a lane (R468). -/
def waitFault (s : State) (c : Ctx) (a : Word) : Option XFault :=
  if bitW a 63 then
    if bitsW a 62 19 ≠ 0 then some { code := 0x03, detail := 0 }
    else if bitsW a 18 0 % 8 ≠ 0 then some { code := 0x0C, detail := 0 }
    else if scratchIn c.team (bitsW a 18 0) 8 then none else some { code := 0x0D, detail := 0 }
  else
    match laneXlat s c (loadReach 8) a with
    | .error f => some f
    | .ok _ => none

/-- A return on change is an acquire load of device scope; on a global word it is performed at home and charged (R149, R302,
R468). -/
def returnChanged (s : State) (c : Ctx) (pos : Nat) (a : Word) : State :=
  let t := acquireLane s c pos .device
  if bitW a 63 then t else chargeSectors t c 1

/-- The first read of a WAITA: the state it leaves, the value, and whether it is poisoned (R269, R468). -/
def waitFirst (s : State) (c : Ctx) (pos : Nat) (a : Word) : State × Nat × Bool :=
  if bitW a 63 then (s, scratchGet s c.team (bitsW a 18 0) 8, false)
  else
    match permLocal s c.tlbs c.team.domain a ⟨true, false, false⟩ (userOf s c) with
    | .error _ => (s, 0, false)
    | .ok (t, x) =>
      let u := evictRange t (servingBanks t c pos) x.local_ 8
      (u, homeRead u x.key x.local_ 8, homeBad u x.key x.local_)

/-- A WAITA lane that read the value `w`: it returns on a change, in class 0 at once, and otherwise waits (R302, R468). -/
def waitTail (d : RegName) (k : Nat) (c : Ctx) (s : State) (v : Vals) (w : Nat) : State :=
  if word w ≠ v.b then writeLater (returnChanged s c v.pos v.a) c v.ln v.pos d (word w)
  else
    match waitClass k with
    | some 0 => writeLater s c v.ln v.pos d (word w)
    | some n =>
      pushTimer (issueResult s c v.pos (resultTo s c v.ln v.pos d 0) (.change v.a v.b k (some (s.cycle + n)))) n
        (.waitaTimeout c.sid s.seq)
    | none => issueResult s c v.pos (resultTo s c v.ln v.pos d 0) (.change v.a v.b k none)

/-- One lane's WAITA starts: it reads, and waits while the value equals its comparand (R468). -/
def waitLane (d : RegName) (k : Nat) (c : Ctx) (s : State) (v : Vals) : State :=
  if bitW v.a 63 && scratchBad s c.team (bitsW v.a 18 0) 8 then doom s c.st.team 0x02 0
  else
    match waitFirst s c v.pos v.a with
    | (s0, w, bad) => if bad then failLater s0 c v.pos 0x18 v.a 0 else waitTail d k c s0 v w

/-- The plan of a WAITA. -/
def waitPlan (d : RegName) (k : Nat) (s : State) (c : Ctx) (vs : List Vals) : Plan :=
  let bad := vs.filterMap (fun v => (waitFault s c v.a).map (fun f =>
    ({ ln := v.ln, code := f.code, addr := if f.code = 0x0D then word (bitsW v.a 18 0) else v.a, detail := f.detail } : LaneFault)))
  match bad with
  | f :: fs => .fault (f :: fs)
  | [] => .go (fun t e => vs.foldl (waitLane d k e) t)

/-! ### The instructions -/

/-- LD_B_S (R458). -/
def execLdBS (sw : Bool) (d base : RegName) (off : BitVec 10) (s : State) :
    Host.Outcome State Fault Refusal :=
  issueLoad s 0x40 0 sw { dst := some d, a := some base } d 1 (fun v => wordI (signedN v 8)) (baseOff off 1)

/-- LD_B_N (R458). -/
def execLdBN (sw : Bool) (d base : RegName) (off : BitVec 10) (s : State) :
    Host.Outcome State Fault Refusal :=
  issueLoad s 0x41 0 sw { dst := some d, a := some base } d 1 word (baseOff off 1)

/-- LD_H_S (R458). -/
def execLdHS (sw : Bool) (d base : RegName) (off : BitVec 10) (s : State) :
    Host.Outcome State Fault Refusal :=
  issueLoad s 0x42 0 sw { dst := some d, a := some base } d 2 (fun v => wordI (signedN v 16)) (baseOff off 2)

/-- LD_H_N (R458). -/
def execLdHN (sw : Bool) (d base : RegName) (off : BitVec 10) (s : State) :
    Host.Outcome State Fault Refusal :=
  issueLoad s 0x43 0 sw { dst := some d, a := some base } d 2 word (baseOff off 2)

/-- LD_W_S (R458). -/
def execLdWS (sw : Bool) (d base : RegName) (off : BitVec 10) (s : State) :
    Host.Outcome State Fault Refusal :=
  issueLoad s 0x44 0 sw { dst := some d, a := some base } d 4 (fun v => wordI (signedN v 32)) (baseOff off 4)

/-- LD_W_N (R458). -/
def execLdWN (sw : Bool) (d base : RegName) (off : BitVec 10) (s : State) :
    Host.Outcome State Fault Refusal :=
  issueLoad s 0x45 0 sw { dst := some d, a := some base } d 4 word (baseOff off 4)

/-- LD_D (R458). -/
def execLdD (sw : Bool) (d base : RegName) (off : BitVec 10) (s : State) :
    Host.Outcome State Fault Refusal :=
  issueLoad s 0x46 0 sw { dst := some d, a := some base } d 8 word (baseOff off 8)

/-- ST_B (R458). -/
def execStB (sw : Bool) (d base : RegName) (off : BitVec 10) (s : State) :
    Host.Outcome State Fault Refusal :=
  issueStore s 0x47 0 sw { a := some base, d := some d } 1 (baseOff off 1)

/-- ST_H (R458). -/
def execStH (sw : Bool) (d base : RegName) (off : BitVec 10) (s : State) :
    Host.Outcome State Fault Refusal :=
  issueStore s 0x48 0 sw { a := some base, d := some d } 2 (baseOff off 2)

/-- ST_W (R458). -/
def execStW (sw : Bool) (d base : RegName) (off : BitVec 10) (s : State) :
    Host.Outcome State Fault Refusal :=
  issueStore s 0x49 0 sw { a := some base, d := some d } 4 (baseOff off 4)

/-- ST_D (R458). -/
def execStD (sw : Bool) (d base : RegName) (off : BitVec 10) (s : State) :
    Host.Outcome State Fault Refusal :=
  issueStoreD s 0x4A 0 sw { a := some base, d := some d } (baseOff off 8)

/-- LD_D_X (R459). -/
def execLdDX (sw : Bool) (d a b : RegName) (s : State) :
    Host.Outcome State Fault Refusal :=
  issueLoad s 0x4B 0 sw { dst := some d, a := some a, b := some b } d 8 word (fun v => v.a + v.b)

/-- LD_W_X (R459). -/
def execLdWX (sw : Bool) (d a b : RegName) (s : State) :
    Host.Outcome State Fault Refusal :=
  issueLoad s 0x4B 1 sw { dst := some d, a := some a, b := some b } d 4 word (fun v => v.a + v.b)

/-- ST_D_X (R459). -/
def execStDX (sw : Bool) (d a b : RegName) (s : State) :
    Host.Outcome State Fault Refusal :=
  issueStoreD s 0x4B 2 sw { a := some a, b := some b, d := some d } (fun v => v.a + v.b)

/-- ST_W_X (R459). -/
def execStWX (sw : Bool) (d a b : RegName) (s : State) :
    Host.Outcome State Fault Refusal :=
  issueStore s 0x4B 3 sw { a := some a, b := some b, d := some d } 4 (fun v => v.a + v.b)

/-- LD_D_ACQ (R460). -/
def execLdDAcq (sw : Bool) (d a : RegName) (sc : Scope) (s : State) :
    Host.Outcome State Fault Refusal :=
  issueAcquire s 0x4B 4 sw { dst := some d, a := some a } d 8 sc

/-- ST_D_REL (R460). -/
def execStDRel (sw : Bool) (d a : RegName) (sc : Scope) (s : State) :
    Host.Outcome State Fault Refusal :=
  issue s 0x4B 5 sw { a := some a, d := some d } (storeOrKick (some sc) Vals.a (fun t c xs => xs.foldl (releaseStore 8 sc c) t))

/-- LD_W_ACQ (R460). -/
def execLdWAcq (sw : Bool) (d a : RegName) (sc : Scope) (s : State) :
    Host.Outcome State Fault Refusal :=
  issueAcquire s 0x4B 6 sw { dst := some d, a := some a } d 4 sc

/-- ST_W_REL (R460). -/
def execStWRel (sw : Bool) (d a : RegName) (sc : Scope) (s : State) :
    Host.Outcome State Fault Refusal :=
  issue s 0x4B 7 sw { a := some a, d := some d } (memPlan (storeReach 4) Vals.a (fun t c xs => xs.foldl (releaseStore 4 sc c) t))

/-- SLD_W (R461). -/
def execSldW (sw : Bool) (d base : RegName) (off : BitVec 10) (s : State) :
    Host.Outcome State Fault Refusal :=
  issue s 0x4C 0 sw { dst := some d, a := some base } (scratchLoadPlan d 4 (baseOff off 4))

/-- SLD_D (R461). -/
def execSldD (sw : Bool) (d base : RegName) (off : BitVec 10) (s : State) :
    Host.Outcome State Fault Refusal :=
  issue s 0x4D 0 sw { dst := some d, a := some base } (scratchLoadPlan d 8 (baseOff off 8))

/-- SST_W (R461). -/
def execSstW (sw : Bool) (d base : RegName) (off : BitVec 10) (s : State) :
    Host.Outcome State Fault Refusal :=
  issue s 0x4E 0 sw { a := some base, d := some d } (scratchStorePlan 4 (baseOff off 4))

/-- SST_D (R461). -/
def execSstD (sw : Bool) (d base : RegName) (off : BitVec 10) (s : State) :
    Host.Outcome State Fault Refusal :=
  issue s 0x4F 0 sw { a := some base, d := some d } (scratchStorePlan 8 (baseOff off 8))

/-- LDS_256 (R462). -/
def execLds256 (sw : Bool) (d a : RegName) (bar : BitVec 4) (s : State) :
    Host.Outcome State Fault Refusal :=
  issue s 0x50 0 sw { a := some a, d := some d } (ldsPlan 256 bar.toNat)

/-- LDS_1K (R462). -/
def execLds1k (sw : Bool) (d a : RegName) (bar : BitVec 4) (s : State) :
    Host.Outcome State Fault Refusal :=
  issue s 0x50 1 sw { a := some a, d := some d } (ldsPlan 1024 bar.toNat)

/-- LDS_4K (R462). -/
def execLds4k (sw : Bool) (d a : RegName) (bar : BitVec 4) (s : State) :
    Host.Outcome State Fault Refusal :=
  issue s 0x50 2 sw { a := some a, d := some d } (ldsPlan 4096 bar.toNat)

/-- LDS_16K (R462). -/
def execLds16k (sw : Bool) (d a : RegName) (bar : BitVec 4) (s : State) :
    Host.Outcome State Fault Refusal :=
  issue s 0x50 3 sw { a := some a, d := some d } (ldsPlan 16384 bar.toNat)

/-- AMO_ADD_D (R463). -/
def execAmoAddD (sw : Bool) (d a b : RegName) (s : State) :
    Host.Outcome State Fault Refusal :=
  issueUpdate s 0x51 0 sw { dst := some d, a := some a, b := some b } d 8 (fun old v => some (amoNew 0 8 old v.b.toNat))

/-- AMO_AND_D (R463). -/
def execAmoAndD (sw : Bool) (d a b : RegName) (s : State) :
    Host.Outcome State Fault Refusal :=
  issueUpdate s 0x51 1 sw { dst := some d, a := some a, b := some b } d 8 (fun old v => some (amoNew 1 8 old v.b.toNat))

/-- AMO_OR_D (R463). -/
def execAmoOrD (sw : Bool) (d a b : RegName) (s : State) :
    Host.Outcome State Fault Refusal :=
  issueUpdate s 0x51 2 sw { dst := some d, a := some a, b := some b } d 8 (fun old v => some (amoNew 2 8 old v.b.toNat))

/-- AMO_XOR_D (R463). -/
def execAmoXorD (sw : Bool) (d a b : RegName) (s : State) :
    Host.Outcome State Fault Refusal :=
  issueUpdate s 0x51 3 sw { dst := some d, a := some a, b := some b } d 8 (fun old v => some (amoNew 3 8 old v.b.toNat))

/-- AMO_MIN_S_D (R463). -/
def execAmoMinSD (sw : Bool) (d a b : RegName) (s : State) :
    Host.Outcome State Fault Refusal :=
  issueUpdate s 0x51 4 sw { dst := some d, a := some a, b := some b } d 8 (fun old v => some (amoNew 4 8 old v.b.toNat))

/-- AMO_MAX_S_D (R463). -/
def execAmoMaxSD (sw : Bool) (d a b : RegName) (s : State) :
    Host.Outcome State Fault Refusal :=
  issueUpdate s 0x51 5 sw { dst := some d, a := some a, b := some b } d 8 (fun old v => some (amoNew 5 8 old v.b.toNat))

/-- AMO_FADD_D (R463). -/
def execAmoFaddD (sw : Bool) (d a b : RegName) (s : State) :
    Host.Outcome State Fault Refusal :=
  issueUpdate s 0x51 6 sw { dst := some d, a := some a, b := some b } d 8 (fun old v => some (amoNew 6 8 old v.b.toNat))

/-- AMO_SWAP_D (R463). -/
def execAmoSwapD (sw : Bool) (d a b : RegName) (s : State) :
    Host.Outcome State Fault Refusal :=
  issueUpdate s 0x51 7 sw { dst := some d, a := some a, b := some b } d 8 (fun old v => some (amoNew 7 8 old v.b.toNat))

/-- AMO_ADD_W (R463). -/
def execAmoAddW (sw : Bool) (d a b : RegName) (s : State) :
    Host.Outcome State Fault Refusal :=
  issueUpdate s 0x52 0 sw { dst := some d, a := some a, b := some b } d 4 (fun old v => some (amoNew 0 4 old v.b.toNat))

/-- AMO_AND_W (R463). -/
def execAmoAndW (sw : Bool) (d a b : RegName) (s : State) :
    Host.Outcome State Fault Refusal :=
  issueUpdate s 0x52 1 sw { dst := some d, a := some a, b := some b } d 4 (fun old v => some (amoNew 1 4 old v.b.toNat))

/-- AMO_OR_W (R463). -/
def execAmoOrW (sw : Bool) (d a b : RegName) (s : State) :
    Host.Outcome State Fault Refusal :=
  issueUpdate s 0x52 2 sw { dst := some d, a := some a, b := some b } d 4 (fun old v => some (amoNew 2 4 old v.b.toNat))

/-- AMO_XOR_W (R463). -/
def execAmoXorW (sw : Bool) (d a b : RegName) (s : State) :
    Host.Outcome State Fault Refusal :=
  issueUpdate s 0x52 3 sw { dst := some d, a := some a, b := some b } d 4 (fun old v => some (amoNew 3 4 old v.b.toNat))

/-- AMO_MIN_S_W (R463). -/
def execAmoMinSW (sw : Bool) (d a b : RegName) (s : State) :
    Host.Outcome State Fault Refusal :=
  issueUpdate s 0x52 4 sw { dst := some d, a := some a, b := some b } d 4 (fun old v => some (amoNew 4 4 old v.b.toNat))

/-- AMO_MAX_S_W (R463). -/
def execAmoMaxSW (sw : Bool) (d a b : RegName) (s : State) :
    Host.Outcome State Fault Refusal :=
  issueUpdate s 0x52 5 sw { dst := some d, a := some a, b := some b } d 4 (fun old v => some (amoNew 5 4 old v.b.toNat))

/-- AMO_FADD_S (R463). -/
def execAmoFaddS (sw : Bool) (d a b : RegName) (s : State) :
    Host.Outcome State Fault Refusal :=
  issueUpdate s 0x52 6 sw { dst := some d, a := some a, b := some b } d 4 (fun old v => some (amoNew 6 4 old v.b.toNat))

/-- AMO_SWAP_W (R463). -/
def execAmoSwapW (sw : Bool) (d a b : RegName) (s : State) :
    Host.Outcome State Fault Refusal :=
  issueUpdate s 0x52 7 sw { dst := some d, a := some a, b := some b } d 4 (fun old v => some (amoNew 7 4 old v.b.toNat))

/-- CAS_D (R464). -/
def execCasD (sw : Bool) (d a b : RegName) (s : State) :
    Host.Outcome State Fault Refusal :=
  issueUpdate s 0x53 0 sw { dst := some d, a := some a, b := some b, d := some d } d 8 (fun old v => if old = v.d.toNat % 2 ^ 64 then some (v.b.toNat % 2 ^ 64) else none)

/-- CAS_W (R464). -/
def execCasW (sw : Bool) (d a b : RegName) (s : State) :
    Host.Outcome State Fault Refusal :=
  issueUpdate s 0x53 1 sw { dst := some d, a := some a, b := some b, d := some d } d 4 (fun old v => if old = v.d.toNat % 2 ^ 32 then some (v.b.toNat % 2 ^ 32) else none)

/-- LRW (R465). -/
def execLrw (sw : Bool) (d a : RegName) (s : State) :
    Host.Outcome State Fault Refusal :=
  issue s 0x54 0 sw { dst := some d, a := some a } (memPlan { updateReach 8 with reads := false } Vals.a (fun t c xs => xs.foldl (lrwLane d c) t))

/-- SCH (R466). -/
def execSch (sw : Bool) (d a b : RegName) (s : State) :
    Host.Outcome State Fault Refusal :=
  issue s 0x54 1 sw { dst := some d, a := some a, b := some b } (memPlan { updateReach 8 with reads := false } Vals.a (fun t c xs => xs.foldl (schLane d c) t))

/-- RELR (R466). -/
def execRelr (sw : Bool) (a : RegName) (s : State) :
    Host.Outcome State Fault Refusal :=
  issue s 0x54 2 sw { a := some a } (memPlan { updateReach 8 with reads := false } Vals.a (fun t c xs => xs.foldl (relrLane c) t))

/-- WAITA (R468). -/
def execWaita (sw : Bool) (d a b : RegName) (c : BitVec 3) (s : State) :
    Host.Outcome State Fault Refusal :=
  issue s 0x55 c.toNat sw { dst := some d, a := some a, b := some b } (waitPlan d c.toNat)

end Sys2Proof.Machine
end

