-- ==== Sys2Proof/Machine/Sync.lean ====
section
/-!
DEFINITION. Fences, barrier objects, cache operations and ISYNC, and how long-latency work returns: results, reservations,
WAITA, LDS and release stores that wait (R205, R206, R299 to R304, R312, R462, R470 to R473).
-/

namespace Sys2Proof.Machine

open Sys2Proof

/-! ### Fences -/

/-- The team of a stream has nothing outstanding on the fabric (R312). -/
def quiet (s : State) (tk : Nat) : Bool :=
  match find? s.teams tk with
  | some t => decide (outstanding s t = 0)
  | none => true

/-- Release stores of a group that wait for the outstanding count. -/
def heldReleases (s : State) (gk : Nat) : Bool := s.moves.any (fun m => decide (m.2.kind ≥ 5 ∧ m.2.group = gk))

/-- An LDS of a group still reads its source (R305). -/
def readsLds (s : State) (gk : Nat) : Bool := s.moves.any (fun m => decide (m.2.kind = 0 ∧ m.2.group = gk))

/-- What a fence waits for is over: reads, an LDS's among them, have returned with an acquire side, remote elements are acknowledged with a release
side at fabric scope, and with one at device or fabric scope the group's ENQs have arrived (R124, R312, R470). -/
def fenceReady (s : State) (c : Ctx) (acq rel : Bool) (sc : Scope) : Bool :=
  !(acq && (decide (c.st.pend ≠ []) || readsLds s c.st.group))
    && !(rel && (heldReleases s c.st.group || (decide (sc = .fabric) && !quiet s c.st.team)))
    && !(rel && decide (sc = .device ∨ sc = .fabric) && c.st.pend.any (fun p => decide (p.await = .arrival)))

/-- The end of a fence: the acquire actions, a waiting write to RTRACK, and the next instruction (R454, R470). -/
def endFence (s : State) (c : Ctx) (acq rel : Bool) (sc : Scope) : State :=
  let s1 := if rel && decide (sc = .fabric) then releaseDone s c.st.team else s
  let s2 := if acq then acquireLanes s1 c sc else s1
  advance s2 c.sid

/-- A fence (R470): the release actions and the flush of fabric scope at once, then its waits. -/
def fencePlan (acq rel : Bool) (sc : Scope) (sw : Bool) (_ : State) (_ : Ctx) (_ : List Vals) : Plan :=
  .own (fun t e =>
    let t1 := if rel then releaseLanes t e sc else t
    let t2 := if rel && decide (sc = .fabric) then flushTeam t1 e.team.ident else t1
    if fenceReady t2 e acq rel sc then endFence t2 e acq rel sc else park t2 e.sid (.fence acq rel sc sw))

/-! ### Barriers -/

/-- The observed bit of a stream for an object (R471). -/
def observedBit (st : Stream) (n : Nat) : Bool := bitN st.observed.toNat n

/-- The observed bit set to a phase. -/
def observe (st : Stream) (n : Nat) (b : Bool) : Stream :=
  { st with observed := if b then st.observed ||| maskOf [n] else st.observed &&& ~~~(maskOf [n]) }

/-- BARINIT (R471). -/
def barInitPlan (n : Nat) (_ : State) (_ : Ctx) (vs : List Vals) : Plan :=
  .go (fun t e =>
    match vs with
    | v :: _ => modTeam t e.st.team (fun x => { x with bars := put x.bars n { barOf x n with expect := v.b.setWidth 8, arrived := 0 } })
    | [] => t)

/-- An arrival: a release of team scope, the observed bit takes PHASE, and the phase completes when it is due (R304, R471). -/
def arrive (t : State) (e : Ctx) (n : Nat) : State :=
  let t1 := releaseLanes t e .team
  let phase := (barOf e.team n).phase
  modBar (modStream t1 e.sid (fun st => observe st n phase)) e.st.team n (fun b => { b with arrived := b.arrived + 1 })

/-- An arrival finds every arrival of the phase in (R471). -/
def phaseFull (t : Team) (n : Nat) : Bool := decide ((barOf t n).expect ≠ 0 ∧ (barOf t n).arrived = (barOf t n).expect)

/-- The phase a stream observed is over (R304). -/
def phasePassed (s : State) (st : Stream) (n : Nat) : Bool :=
  match find? s.teams st.team with
  | some t => (barOf t n).phase != observedBit st n
  | none => false

/-- BARARV (R471). -/
def bararvPlan (n : Nat) (_ : State) (c : Ctx) (_ : List Vals) : Plan :=
  if phaseFull c.team n then .wait (.phaseFull n) else .go (fun t e => arrive t e n)

/-- A stream waits for a phase, or goes on with an acquire of team scope (R289, R471). -/
def awaitPhase (t : State) (sid n : Nat) (sw : Bool) : State :=
  match ctxOf t sid with
  | none => t
  | some e => if phasePassed t e.st n then advance (acquireLanes t e .team) sid else park t sid (.phase n sw)

/-- BARTRY (R471). -/
def bartryPlan (d : RegName) (n : Nat) (s : State) (c : Ctx) (_ : List Vals) : Plan :=
  if phasePassed s c.st n then .go (fun t e => acquireLanes (statusAll t e d 1) e .team)
  else .go (fun t e => statusAll t e d 0)

/-- TBAR (R471). -/
def tbarPlan (n : Nat) (sw : Bool) (_ : State) (c : Ctx) (_ : List Vals) : Plan :=
  if phaseFull c.team n then .wait (.phaseFull n) else .own (fun t e => awaitPhase (arrive t e n) e.sid n sw)

/-! ### Cache operations -/

/-- One lane's PREF: a fault drops it (R254, R472). -/
def prefLane (c : Ctx) (s : State) (v : Vals) : State :=
  match permLocal s c.tlbs c.team.domain v.a ⟨true, false, false⟩ (userOf s c) with
  | .error _ => s
  | .ok (t, x) =>
    let (u, k) := ensureSector t (bankFor t (pipeOf v.pos) x.local_) x.key (x.local_ / 256)
    chargeSectors u c k

/-- The dirty sectors of a line in some banks (R472). -/
def dirtyIn (s : State) (banks : List Nat) (num : Nat) : Nat :=
  banks.foldl (fun n b => match findLine (linesOf s b) num with | some l => n + (dirtySectors l).length | none => n) 0

/-- A line of a bank written back (`wb`), and kept clean or dropped (R472). -/
def cacheLine (num : Nat) (wb drop : Bool) (s : State) (b : Nat) : State :=
  match findLine (linesOf s b) num with
  | none => s
  | some l =>
    let t := if wb then mergeLine s l else s
    let ls := linesOf t b
    setLines t b (if drop then dropLine ls num else ls.map (fun x => if x.num = num then cleanLine x else x))

/-- One lane's CWB, CINV or CWBI on the line of its address, in the bank that serves it (R472). -/
def cacheLane (inval : Bool) (keepDirty : Bool) (c : Ctx) (s : State) (r : Reached) : State :=
  let num := r.x.local_ / 1024
  let bs := if c.routine then servingBanks s c r.v.pos else [bankFor s (pipeOf r.v.pos) r.x.local_]
  let n := if keepDirty then dirtyIn s bs num else 0
  chargeSectors (bs.foldl (cacheLine num keepDirty (inval && !c.routine)) s) c n

/-- The plan of CWB, CINV and CWBI. Only a supervisor's CINV discards (R472). -/
def cachePlan (inval discard : Bool) (s : State) (c : Ctx) (vs : List Vals) : Plan :=
  memPlan { need := ⟨true, false, false⟩, size := 1, remote := false, reads := false } Vals.a
    (fun t e xs => xs.foldl (cacheLane inval (!(discard && !userOf t e)) e) t) s c vs

/-! ### Work that returns -/

/-- The stream that holds an outstanding result, and the result. -/
def findPend (s : State) (seq : Nat) : Option (Nat × Pending) :=
  match s.streams.find? (fun e => e.2.pend.any (fun p => decide (p.seq = seq))) with
  | none => none
  | some (k, st) => (st.pend.find? (fun p => decide (p.seq = seq))).map (fun p => (k, p))

/-- An outstanding result changed. -/
def modPend (s : State) (sid seq : Nat) (f : Pending → Pending) : State :=
  modStream s sid (fun st => { st with pend := st.pend.map (fun p => if p.seq = seq then f p else p) })

/-- The value of an outstanding result is known. -/
def setPend (s : State) (sid seq : Nat) (w : Word) : State :=
  modPend s sid seq (fun p => { p with writes := p.writes.map (fun d => (d.1, w)), await := .nothing })

/-- Earlier work of a lane turned out to fail (R272, R324). -/
def failPend (s : State) (sid seq code : Nat) (addr : Word) (detail : Nat) : State :=
  modPend s sid seq (fun p => { p with writes := [], await := .fails { lane := p.lane, code := code, addr := addr, detail := detail, pc := p.pc } })

/-- A late fault is known: it is delivered at the group's next instruction boundary (R324). -/
def lateFault (s : State) (tk : Nat) (f : LateFault) : State :=
  pushWork (modTeam s tk (fun t => { t with late := t.late ++ [f] })) (.lateFaultDelivery (laneOf s f.lane).stream)

/-- A stream goes on when what it waited for is over: its results, a trap to be taken, a fence, or a phase (R206, R304, R312,
R328). -/
def settleStream (s : State) (sid : Nat) : State :=
  match ctxOf s sid with
  | none => s
  | some c =>
    match c.st.park with
    | some .results => if c.st.pend = [] then unpark s sid else s
    | some (.trap t) => if c.st.pend = [] then runEffect (unpark s sid) sid (fun u d => enterTrap u d t) else s
    | some (.fence acq rel sc sw) =>
      if fenceReady s c acq rel sc then switchPoint (endFence (unpark s sid) c acq rel sc) sid sw else s
    | some (.phase n sw) =>
      if phasePassed s c.st n then switchPoint (advance (acquireLanes (unpark s sid) c .team) sid) sid sw else s
    | _ => s

/-- A result is written where it has not been overtaken, and leaves the list (R205, R208). -/
def writeBack (s : State) (seq : Nat) : State :=
  match findPend s seq with
  | none => s
  | some (sid, p) =>
    let drop (t : State) : State := modStream t sid (fun st => { st with pend := st.pend.filter (fun q => decide (q.seq ≠ seq)) })
    match p.await with
    | .nothing => settleStream (drop (p.writes.foldl (fun t w => writeDest t sid w.1 w.2) s)) sid
    | .fails f =>
      match ctxOf s sid with
      | some c =>
        match c.st.hart with
        | some h => routineFault (drop s) h c.team f.code f.detail f.addr f.pc
        | none => settleStream (lateFault (drop s) c.st.team f) sid
      | none => s
    | _ => s

/-- The head of a line's FIFO becomes holder and reads its doubleword, as an acquire of device scope (R289, R299). -/
def grantReservation (s : State) (line : Nat) : State :=
  match fifoOf s line with
  | [] => s
  | r :: rest =>
    if r.held then s
    else
      let hold (t : State) : State :=
        pushTimer (setFifo t line ({ r with held := true, since := s.cycle } :: rest)) 4096 (.reservationTimeout line r.seq)
      match findPend s r.seq with
      | none => hold s
      | some (sid, p) =>
        let t := match ctxOf s sid with | some c => acquireLane s c p.lane .device | none => s
        if homeBad t r.key r.addr then
          let va := match p.await with | .holder _ a => a | _ => 0
          pushWork (failPend (hold t) sid r.seq 0x18 va 0) (.resultWriteback sid r.seq)
        else pushWork (setPend (hold t) sid r.seq (word (homeRead t r.key r.addr 8))) (.resultWriteback sid r.seq)

/-- A holder has held for 4,096 cycles (R301). -/
def timeoutReservation (s : State) (line owner : Nat) : State :=
  match fifoOf s line with
  | [] => s
  | r :: _ => if r.held && decide (r.seq = owner) && decide (s.cycle ≥ r.since + 4096) then handOn s line else s

/-- A WAITA lane reads its word again: on a change, or at its timeout whatever it reads, it returns (R302, R468). -/
def rereadWaita (s : State) (seq : Nat) (expired : Bool) : State :=
  match findPend s seq with
  | none => s
  | some (sid, p) =>
    match ctxOf s sid, p.await with
    | some c, .change a b _ lim =>
      let late := expired && (match lim with | some t => decide (s.cycle ≥ t) | none => false)
      if bitW a 63 && scratchBad s c.team (bitsW a 18 0) 8 then doom s c.st.team 0x02 0
      else
        match waitRead s c p.lane a with
        | none => s
        | some (_, true) => pushWork (failPend s sid seq 0x18 a 0) (.resultWriteback sid seq)
        | some (w, false) =>
          if word w ≠ b then pushWork (setPend (returnChanged s c p.lane a) sid seq (word w)) (.resultWriteback sid seq)
          else if late then pushWork (setPend s sid seq (word w)) (.resultWriteback sid seq)
          else s
    | _, _ => s

/-- A WAITA whose word differs from its comparand now (R302). -/
def waitChanged (s : State) (seq : Nat) : Bool :=
  match findPend s seq with
  | some (sid, p) =>
    match ctxOf s sid, p.await with
    | some c, .change a b _ _ => (match waitRead s c p.lane a with | some (w, bad) => bad || decide (word w ≠ b) | none => false)
    | _, _ => false
  | none => false

/-- The doublewords of an LDS copied in ascending order from `off`, with dirty data of the cluster's banks: how far it came, and
whether poison stopped it (R269, R272, R462). -/
def ldsCopy (t : Team) (m : Transfer) : Nat → Nat → State → State × Nat × Bool
  | 0, off, s => (s, off, false)
  | n + 1, off, s =>
    match (m.src.filter (fun p => decide (p.1 ≤ off))).getLast? with
    | none => (s, off, false)
    | some p =>
      let pa := p.2.1 + (off - p.1)
      let banks := clusterBanks t.cluster
      if takeBad s banks p.2.2 pa then (s, off, true)
      else ldsCopy t m n (off + 8) (scratchPut8 s t (m.dst + off) (word (gather (takeByte s banks p.2.2) 8 pa)))

/-- An LDS lands, or faults: PEND falls by 1 (R304, R305, R335, R462). -/
def landLds (s : State) (id : Nat) : State :=
  match find? s.moves id with
  | none => s
  | some m =>
    if m.kind ≠ 0 then s
    else
      let s0 := { s with moves := del s.moves id }
      match find? s0.teams m.team with
      | none => s0
      | some t =>
        let stop := match m.fault with | some (off, _) => off | none => m.size
        let (s2, done, bad) := ldsCopy t m (stop / 8) 0 s0
        let s3 := match m.bar with
          | some n => modBar s2 m.team n (fun b => { b with pend := b.pend - 1 })
          | none => s2
        if bad then
          lateFault s3 m.team { lane := m.lane, code := 0x18, addr := m.va + word done, detail := done / 8, pc := m.pc }
        else
          match m.fault with
          | some (_, code, addr, _) => lateFault s3 m.team { lane := m.lane, code := code, addr := word addr, detail := done / 8, pc := m.pc }
          | none => s3

/-- A release store, or a kick by one, that waited for the outstanding count is performed (R312); the lane's banks lose what they
hold of its bytes (R269). -/
def performHeld (s : State) (id : Nat) : State :=
  match find? s.moves id with
  | none => s
  | some m =>
    if m.kind < 5 then s
    else
      match find? s.teams m.team with
      | none => { s with moves := del s.moves id }
      | some t =>
        if outstanding s t ≠ 0 then s
        else
          let s1 := releaseDone { s with moves := del s.moves id } m.team
          if m.kind = 5 then
            m.cells.foldl (fun u e =>
              homeWrite (evictRange u (banksFor u (pipeOf m.lane)) e.1 e.2.2.length) e.2.1 e.1 (e.2.2.map Prod.snd)) s1
          else pushKick s1 t m.dst m.size

/-- The first release store that waits and whose team has nothing outstanding. -/
def heldDue (s : State) : Option Nat :=
  (s.moves.find? (fun m =>
    decide (m.2.kind ≥ 5) && match find? s.teams m.2.team with | some t => decide (outstanding s t = 0) | none => true)).map Prod.fst

/-! ### The instructions -/

/-- FENCE_ACQ (R470). -/
def execFenceAcq (sw : Bool) (sc : Scope) (s : State) :
    Host.Outcome State Fault Refusal :=
  issue s 0x56 0 sw {} (fencePlan true false sc sw)

/-- FENCE_REL (R470). -/
def execFenceRel (sw : Bool) (sc : Scope) (s : State) :
    Host.Outcome State Fault Refusal :=
  issue s 0x56 1 sw {} (fencePlan false true sc sw)

/-- FENCE_AR (R470). -/
def execFenceAr (sw : Bool) (sc : Scope) (s : State) :
    Host.Outcome State Fault Refusal :=
  issue s 0x56 2 sw {} (fencePlan true true sc sw)

/-- FENCE_SC (R470). -/
def execFenceSc (sw : Bool) (sc : Scope) (s : State) :
    Host.Outcome State Fault Refusal :=
  issue s 0x56 3 sw {} (fencePlan true true sc sw)

/-- BARINIT (R471). -/
def execBarinit (sw : Bool) (bar : BitVec 4) (b : RegName) (s : State) :
    Host.Outcome State Fault Refusal :=
  issue s 0x57 0 sw { b := some b } (barInitPlan bar.toNat)

/-- BARARV (R471). -/
def execBararv (sw : Bool) (bar : BitVec 4) (s : State) :
    Host.Outcome State Fault Refusal :=
  issue s 0x57 1 sw {} (bararvPlan bar.toNat)

/-- BARWAIT (R471). -/
def execBarwait (sw : Bool) (bar : BitVec 4) (s : State) :
    Host.Outcome State Fault Refusal :=
  issue s 0x57 2 sw {} (fun _ _ _ => .own (fun t e => awaitPhase t e.sid bar.toNat sw))

/-- BARTRY (R471). -/
def execBartry (sw : Bool) (d : RegName) (bar : BitVec 4) (s : State) :
    Host.Outcome State Fault Refusal :=
  issue s 0x57 3 sw { dst := some d } (bartryPlan d bar.toNat)

/-- TBAR (R471). -/
def execTbar (sw : Bool) (bar : BitVec 4) (s : State) :
    Host.Outcome State Fault Refusal :=
  issue s 0x57 4 sw {} (tbarPlan bar.toNat sw)

/-- PREF (R472). -/
def execPref (sw : Bool) (a : RegName) (s : State) :
    Host.Outcome State Fault Refusal :=
  issue s 0x58 0 sw { a := some a } (fun _ _ vs => .go (fun t e => vs.foldl (prefLane e) t))

/-- CWB (R472). -/
def execCwb (sw : Bool) (a : RegName) (s : State) :
    Host.Outcome State Fault Refusal :=
  issue s 0x58 1 sw { a := some a } (cachePlan false false)

/-- CINV (R472). -/
def execCinv (sw : Bool) (a : RegName) (s : State) :
    Host.Outcome State Fault Refusal :=
  issue s 0x58 2 sw { a := some a } (cachePlan true true)

/-- CWBI (R472). -/
def execCwbi (sw : Bool) (a : RegName) (s : State) :
    Host.Outcome State Fault Refusal :=
  issue s 0x58 3 sw { a := some a } (cachePlan true false)

/-- ISYNC (R473). -/
def execIsync (sw : Bool) (s : State) :
    Host.Outcome State Fault Refusal :=
  issue s 0x58 4 sw {} (fun _ _ _ => .go (fun t e => modStream t e.sid (fun st => { st with fetch := none })))

/-- RESULT_WRITEBACK (R205, R208). -/
def execResultWriteback (_ seq : Nat) (s : State) : Host.Outcome State Fault Refusal :=
  .next (writeBack s seq)

/-- RESERVATION_GRANT (R299). -/
def execReservationGrant (line : Nat) (s : State) : Host.Outcome State Fault Refusal :=
  .next (grantReservation s line)

/-- RESERVATION_TIMEOUT (R301). -/
def execReservationTimeout (line owner : Nat) (s : State) : Host.Outcome State Fault Refusal :=
  .next (timeoutReservation s line owner)

/-- WAITA_WAKE (R302). -/
def execWaitaWake (_ seq : Nat) (s : State) : Host.Outcome State Fault Refusal :=
  .next (rereadWaita s seq false)

/-- WAITA_TIMEOUT (R468). -/
def execWaitaTimeout (_ seq : Nat) (s : State) : Host.Outcome State Fault Refusal :=
  .next (rereadWaita s seq true)

/-- LDS_LANDED (R462). -/
def execLdsLanded (id : Nat) (s : State) : Host.Outcome State Fault Refusal :=
  .next (landLds s id)

end Sys2Proof.Machine
end

