-- ==== Sys2Proof/Machine/Remote.lean ====
section
/-!
DEFINITION. The remote instructions RST, RAMO, RLD, RFLUSH and MCST, multicast lines at a root or router, and the copies of
engine routines (R73 to R76, R474 to R479, R484 to R486).
-/

namespace Sys2Proof.Machine

open Sys2Proof

/-! ### RST, RAMO, RLD, RFLUSH -/

/-- What a remote form needs of its address (R254, R474). -/
def remoteReach (need : Need) (size : Nat) : Reach := { need := need, size := size, remote := true, reads := false }

/-- The device and window of a peer translation (R474). -/
def devOf (x : Xlat) : BitVec 12 := BitVec.ofNat 12 (x.pa / 2 ^ 40)
def winOf (x : Xlat) : BitVec 24 := BitVec.ofNat 24 (x.pa % 2 ^ 40 / 65536)

/-- One lane's RST or RAMO; D is set in the leaf first (R279). On this device it is performed at the home, so that the lane's banks give
up its sector before (R269, R290). -/
def remoteLane (atomic : Bool) (size op : Nat) (c : Ctx) (s : State) (r : Reached) : State :=
  let (t, x) := dirtied s c.tlbs r.va ⟨atomic, true, false⟩ (userOf s c) r.x
  remoteElement (if x.peer t then t else evictRange t (servingBanks t c r.v.pos) x.local_ size) c.st.team x atomic size op r.v.b

/-- RST and RAMO (R475). -/
def issueRemote (s : State) (major f : Nat) (sw : Bool) (o : Operands) (atomic : Bool) (size op : Nat) :
    Host.Outcome State Fault Refusal :=
  issue s major f sw o (memPlan (remoteReach ⟨atomic, true, false⟩ size) Vals.a
    (fun t c xs => xs.foldl (remoteLane atomic size op c) t))

/-- One lane's RLD (R476): from a peer by a remote load; from this device at the home, refused only for poison (R245). -/
def rldLane (d : RegName) (n : Nat) (c : Ctx) (s : State) (r : Reached) : State :=
  if r.x.peer s then
    let s1 := chargeSectors (flushWindow s c.team.ident (devOf r.x) (winOf r.x)) c 1
    let p := request s1 0 (devOf r.x) (winOf r.x) c.team.domain 0 ((if n = 8 then 65536 else 0) + r.x.pa % 65536) []
    match sendPacket s1 p with
    | none => failLater s1 c r.v.pos 0x19 r.va 3
    | some s2 =>
      let s3 := issueResult s2 c r.v.pos (resultTo s2 c r.v.ln r.v.pos d 0) (.reply (nextTag s1) r.va n)
      fly s3 c.team.ident (devOf r.x) (winOf r.x) .inside (.load c.sid s2.seq) [r.x.leaf] (some (.rldTimeout (nextTag s1)))
  else
    let t := toHome s c r n
    if homeBad t r.x.key r.x.local_ then failLater t c r.v.pos 0x19 r.va 2
    else writeLater t c r.v.ln r.v.pos d (word (homeRead t r.x.key r.x.local_ n))

/-- RLD. -/
def issueRld (s : State) (major f : Nat) (sw : Bool) (o : Operands) (d : RegName) (n : Nat) : Host.Outcome State Fault Refusal :=
  issue s major f sw o (memPlan (remoteReach ⟨true, false, false⟩ n) Vals.a (fun t c xs => xs.foldl (rldLane d n c) t))

/-- One lane's RFLUSH.ONE (R477). -/
def rflushLane (c : Ctx) (s : State) (r : Reached) : State :=
  if r.x.peer s then flushWindow s c.team.ident (devOf r.x) (winOf r.x) else s

/-! ### Multicast -/

/-- A group table entry (R73). -/
def groupEntry (s : State) (n : Nat) : GroupEntry := look .reset s.fab.groups n

/-- An entry of a combined acknowledgement (R75). -/
def castEntry (reason member : Nat) : BitVec 16 := BitVec.ofNat 16 (reason * 2 ^ 14 + member)

/-- A line written at a member under the checks of an aggregated store: the reason, or the state (R74, R248). It covers its sector
whole, so that poison there does not reject it (R271). -/
def writeLine (s : State) (p : Packet) : Except Nat State :=
  let off := bitsN p.spec.toNat 15 8 * 256
  match grantCheck s p.win.toNat p.dom.toNat grantWrite true off 0 with
  | .error r => .error r
  | .ok (t, key, _) => .ok (grantPut t p.win.toNat key off p.body)

/-- The body of a combined acknowledgement (R75). -/
def castBody (l : List (BitVec 16)) (more : Bool) : List Byte :=
  spread 8 (l.length * 2 ^ 52 + (if more then 1 else 0)) ++ pad8 (l.flatMap (fun e => spread 2 e.toNat))

/-- A port carries multicast: ACTIVE with MCAST agreed (R38, R75). -/
def takesCopy (s : State) (n : Nat) : Bool := decide ((portOf s n).state = 5) && bitN (portOf s n).cap.toNat 2

/-- The combined acknowledgements of a subtree, at most 64 entries each (R75); `fuel` bounds their number. One that its port does not
carry is dropped (R38, R49). -/
def castAcks : Nat → State → Cast → List (BitVec 16) → State
  | 0, s, _, _ => s
  | fuel + 1, s, c, l =>
    let more := decide (l.length > 64)
    let e := groupEntry s c.group.toNat
    let p : Packet :=
      { ptype := 7, dst := c.group, src := s.fab.id, hops := startHops s, nelem := 0, resv := false, tag := c.tag, win := 0
        dom := 0, spec := BitVec.ofNat 28 (2 * 2 ^ 26), body := castBody (l.take 64) more }
    let t := if decide (e.parent.toNat < 12) && takesCopy s e.parent.toNat then enqueue s e.parent.toNat p else s
    if more then castAcks fuel t c (l.drop 64) else t

/-- A line is complete at its root (R76): a failure for each negative entry, then the count falls. -/
def castDone (s : State) (c : Cast) : State :=
  let mine (f : InFlight) : Bool := decide (f.tag = c.tag.toNat) && (match f.what with | .line _ => true | _ => false)
  match s.fab.flights.find? mine with
  | none => s
  | some f =>
    let off := match f.what with | .line o => o | _ => 0
    let t := c.entries.foldl (fun u e =>
      memberFail u f.track c.group.toNat f.win.toNat off (bitsN e.toNat 11 0) (bitsN e.toNat 15 14)) s
    trackDown { t with fab := { t.fab with flights := t.fab.flights.filter (fun x => !mine x) } } f.team f.track 1

/-- The multicast line of a group and tag that this device replicates. -/
def castOf (s : State) (group tag : Nat) : Option Cast :=
  s.fab.casts.find? (fun c => decide (c.group.toNat = group ∧ c.tag.toNat = tag))

/-- A line changed. -/
def modCast (s : State) (group tag : Nat) (f : Cast → Cast) : State :=
  { s with fab := { s.fab with casts := s.fab.casts.map (fun c => if c.group.toNat = group ∧ c.tag.toNat = tag then f c else c) } }

/-- A subtree whose ports have all answered reports (R75, R76). -/
def finishCast (s : State) (group tag : Nat) : State :=
  match castOf s group tag with
  | none => s
  | some c =>
    if c.wait ≠ [] then s
    else
      let t := { s with fab := { s.fab with casts := s.fab.casts.filter (fun x => !(decide (x.group.toNat = group ∧ x.tag.toNat = tag))) } }
      if c.root then castDone t c else castAcks (c.entries.length / 64 + 1) t c c.entries

/-- A line at its root or a router (R74, R75): the local write, and a copy to each CHILD port unless its hops are spent. The wait for an
answer starts as the copy is sent. -/
def replicate (s : State) (p : Packet) (root : Bool) : State :=
  let g := groupEntry s p.dst.toNat
  let kids := (List.range 12).filter (fun n => bitN g.child.toNat n)
  let h := p.hops.toNat - 1
  let good := kids.filter (fun n => decide (p.hops ≠ 0) && takesCopy s n)
  let lost := (kids.filter (fun n => !good.contains n)).map (fun n => castEntry 3 (0xFF0 + n))
  let (s1, mine) := if g.local_ then
      (match writeLine s p with | .error r => (s, [castEntry r g.midx.toNat]) | .ok t => (t, []))
    else (s, [])
  let c : Cast := { group := p.dst, tag := p.tag, src := p.src, wait := good, entries := mine ++ lost, hops := h, root := root, by_ := [] }
  let s2 := { s1 with fab := { s1.fab with casts := s1.fab.casts ++ [c] } }
  finishCast (good.foldl (fun t n => enqueue t n { p with hops := BitVec.ofNat 6 h }) s2) p.dst.toNat p.tag.toNat

/-- One lane's MCST (R74, R478, R519). -/
def mcstLane (c : Ctx) (s : State) (v : Vals) : State :=
  if scratchBad s c.team v.a.toNat 256 then doom s c.st.team 0x02 0
  else
    let group := bitsW v.b 43 32
    let win := bitsW v.b 31 8
    let line := bitsW v.b 7 0
    let s0 := chargeSectors s c 1
    let k := trackFor s0 c.team
    let s1 := trackUp s0 c.team.ident k 1
    let g := groupEntry s1 group
    if !g.valid || decide (g.parent ≠ 0xF) then
      trackDown (memberFail s1 k group win (line * 256) 0xFFF 3) c.team.ident k 1
    else
      let p := request s1 5 (BitVec.ofNat 12 group) (BitVec.ofNat 24 win) c.team.domain 0 (line * 256)
        (listBytes (fun a => look 0 s1.scratch (scratchPlace c.team a)) 256 v.a.toNat)
      replicate (fly s1 c.team.ident (BitVec.ofNat 12 group) (BitVec.ofNat 24 win) k (.line (line * 256)) [] none) p true

/-- The precise faults of MCST (R478). -/
def mcstFaults (c : Ctx) (vs : List Vals) : List LaneFault :=
  vs.flatMap (fun v =>
    (if bitsW v.b 63 44 ≠ 0 then [({ ln := v.ln, code := 0x03, addr := v.b, detail := 0 } : LaneFault)] else [])
      ++ scratchFaults c.team 256 [(v.ln, v.a)])

/-! ### Copies of an engine routine -/

/-- A 32-byte granule read by a routine (R269, R272, R484): code 0 stands for an uncorrectable scratchpad error (R266).
`last` is the sector read before, charged already (R149). -/
def readGranule (s : State) (c : Ctx) (glob : Bool) (a : Word) (last : Option Nat) :
    Except XFault (State × List Byte × Option Nat) :=
  if glob then
    match permLocal s c.tlbs c.team.domain a ⟨true, false, false⟩ true with
    | .error f => .error f
    | .ok (t, x) =>
      let banks := servingBanks t c c.sid
      if takeBad t banks x.key x.local_ then .error { code := 0x18, detail := 0 }
      else
        let w := if last = some (x.local_ / 256) then t else chargeSectors t c 1
        .ok (w, listBytes (takeByte w banks x.key) 32 x.local_, some (x.local_ / 256))
  else if scratchBad s c.team a.toNat 32 then .error { code := 0, detail := 0 }
  else .ok (s, listBytes (fun o => look 0 s.scratch (scratchPlace c.team o)) 32 a.toNat, last)

/-- How much of a sector a copy has written from its start on: the sector, and granules. -/
structure Front where
  sector : Nat
  done   : Nat
  deriving DecidableEq, Repr

/-- The front after a granule at a local PA; `new` says that no earlier granule belongs to the same write. -/
def Front.next (f : Option Front) (new : Bool) (pa : Nat) : Front :=
  let k := pa % 256 / 32
  match f with
  | some g => { sector := pa / 256, done := if k = 0 then 1 else if !new && decide (g.sector = pa / 256) && decide (g.done = k) then k + 1 else 0 }
  | none => { sector := pa / 256, done := if k = 0 then 1 else 0 }

/-- A sector of which a routine's write has covered every byte loses its poison (R271). -/
def coverSector (s : State) (key : KeySel) (f : Front) : State :=
  if f.done = 8 ∧ key ≠ .dead then { s with poison := removeN s.poison f.sector } else s

/-- A 32-byte granule written by a routine (R279, R486); `last` is the front of the write so far. -/
def writeGranule (s : State) (c : Ctx) (glob new : Bool) (a : Word) (bs : List Byte) (last : Option Front) :
    Except XFault (State × Option Front) :=
  if glob then
    match permLocal s c.tlbs c.team.domain a ⟨false, true, false⟩ true with
    | .error f => .error f
    | .ok (t, x) =>
      let (u, y) := dirtied t c.tlbs a ⟨false, true, false⟩ true x
      let v := homeWrite (evictRange u (servingBanks u c c.sid) y.local_ 32) y.key y.local_ bs
      let f := Front.next last new y.local_
      let w := coverSector v y.key f
      .ok (if last.map Front.sector = some f.sector then w else chargeSectors w c 1, some f)
  else .ok (scratchWrite s c.st.team a.toNat bs, last)

/-- Granules copied in order (R486), `per` of them in one write: `at_` gives the destination and source of granule `k`, none when an
index cannot be read. Answers the granules written, and the fault and address that stopped the copy. -/
def copyRun (c : Ctx) (dg sg : Bool) (per : Nat) (at_ : State → Nat → Option (Word × Word)) :
    Nat → Nat → State → Option Nat → Option Front → State × Nat × Option (XFault × Word)
  | 0, k, s, _, _ => (s, k, none)
  | n + 1, k, s, lr, lw =>
    match at_ s k with
    | none => (s, k, some ({ code := 0, detail := 0 }, 0))
    | some (da, sa) =>
      match readGranule s c sg sa lr with
      | .error f => (s, k, some (f, sa))
      | .ok (t, bs, lr') =>
        match writeGranule t c dg (decide (k % per = 0)) da bs lw with
        | .error f => (t, k, some (f, da))
        | .ok (u, lw') => copyRun c dg sg per at_ n (k + 1) u lr' lw'

/-- The effect of a copy: the next instruction, or the fault with the granules written (R335, R336). -/
def copyEffect (dg sg : Bool) (per n : Nat) (at_ : State → Nat → Option (Word × Word)) (s : State) (c : Ctx) : State :=
  match copyRun c dg sg per at_ n 0 s none none with
  | (t, _, none) => advance t c.sid
  | (t, k, some (f, a)) =>
    if f.code = 0 then doom t c.st.team 0x02 0
    else
      raiseTrap t c { faults := [{ ln := 0, code := f.code, addr := a, detail := k }], tpc := c.st.pc, late := false
                      noroll := false, pcs := [] }

/-- Copies wait for the routine's earlier release stores (R290). -/
def copyGo (s : State) (c : Ctx) (eff : State → Ctx → State) : Plan :=
  if heldReleases s c.st.group then .wait .drain else .own eff

/-- A misaligned operand of a copy, the first of some (R317). -/
def copyAlign (l : List (Word × Nat)) : List LaneFault :=
  match l.find? (fun e => decide (e.1.toNat % e.2 ≠ 0)) with
  | some e => [{ ln := 0, code := 0x0C, addr := e.1, detail := 0 }]
  | none => []

/-- A scratchpad range of a copy outside the allocation (R461); an empty one is in no place. -/
def copyRange (t : Team) (a : Word) (n : Nat) : List LaneFault :=
  if n = 0 ∨ scratchIn t a.toNat n then [] else [{ ln := 0, code := 0x0D, addr := a, detail := 0 }]

/-- CPY (R484). -/
def cpyPlan (dg sg : Bool) (s : State) (c : Ctx) (vs : List Vals) : Plan :=
  match vs with
  | [] => .go (fun t _ => t)
  | v :: _ =>
    let odd := if v.b.toNat % 32 ≠ 0 ∨ v.b.toNat > 2 ^ 24 then [({ ln := 0, code := 0x0C, addr := v.d, detail := 0 } : LaneFault)]
      else copyAlign [(v.a, 32), (v.d, 32)]
    let n := v.b.toNat
    planFaults (odd ++ (if dg then [] else copyRange c.team v.d n) ++ (if sg then [] else copyRange c.team v.a n))
      (copyGo s c (copyEffect dg sg (n / 32) (n / 32) (fun _ k => some (v.d + word (32 * k), v.a + word (32 * k)))))

/-- GTH (`gather` true) and SCT with elements of `e` bytes (R485). -/
def gatherPlan (gth : Bool) (e : Nat) (a : RegName) (s : State) (c : Ctx) (vs : List Vals) : Plan :=
  match vs with
  | [] => .go (fun t _ => t)
  | v :: _ =>
    let base := readField s c v.pos (fieldOf a)
    let list := readField s c v.pos (fieldOf a + 1)
    let n := v.b.toNat
    let many := if n > 65536 then [({ ln := 0, code := 0x03, addr := v.b, detail := 0 } : LaneFault)] else []
    planFaults (many ++ copyAlign [(base, 32), (list, 4), (v.d, 32)] ++ copyRange c.team list (4 * n) ++ copyRange c.team v.d (n * e))
      (copyGo s c (copyEffect (!gth) gth (e / 32) (n * (e / 32)) (fun t k =>
        let i := k / (e / 32)
        let j := k % (e / 32) * 32
        let at_ := list.toNat + 4 * i
        if scratchBad t c.team at_ 4 then none
        else
          let g := base + word (scratchGet t c.team at_ 4 * e + j)
          let p := v.d + word (i * e + j)
          some (if gth then (p, g) else (g, p)))))

/-! ### The instructions -/

/-- RST_W (R475). -/
def execRstW (sw : Bool) (a b : RegName) (s : State) :
    Host.Outcome State Fault Refusal :=
  issueRemote s 0x60 0 sw { a := some a, b := some b } false 4 0

/-- RST_D (R475). -/
def execRstD (sw : Bool) (a b : RegName) (s : State) :
    Host.Outcome State Fault Refusal :=
  issueRemote s 0x60 1 sw { a := some a, b := some b } false 8 0

/-- RAMO_ADD_W (R475). -/
def execRamoAddW (sw : Bool) (a b : RegName) (s : State) :
    Host.Outcome State Fault Refusal :=
  issueRemote s 0x61 0 sw { a := some a, b := some b } true (ramoSize 0) 0

/-- RAMO_ADD_D (R475). -/
def execRamoAddD (sw : Bool) (a b : RegName) (s : State) :
    Host.Outcome State Fault Refusal :=
  issueRemote s 0x61 1 sw { a := some a, b := some b } true (ramoSize 1) 1

/-- RAMO_FADD_S (R475). -/
def execRamoFaddS (sw : Bool) (a b : RegName) (s : State) :
    Host.Outcome State Fault Refusal :=
  issueRemote s 0x61 2 sw { a := some a, b := some b } true (ramoSize 2) 2

/-- RAMO_MIN_S (R475). -/
def execRamoMinS (sw : Bool) (a b : RegName) (s : State) :
    Host.Outcome State Fault Refusal :=
  issueRemote s 0x61 3 sw { a := some a, b := some b } true (ramoSize 3) 3

/-- RAMO_MAX_S (R475). -/
def execRamoMaxS (sw : Bool) (a b : RegName) (s : State) :
    Host.Outcome State Fault Refusal :=
  issueRemote s 0x61 4 sw { a := some a, b := some b } true (ramoSize 4) 4

/-- RAMO_OR_D (R475). -/
def execRamoOrD (sw : Bool) (a b : RegName) (s : State) :
    Host.Outcome State Fault Refusal :=
  issueRemote s 0x61 5 sw { a := some a, b := some b } true (ramoSize 5) 5

/-- RAMO_AND_D (R475). -/
def execRamoAndD (sw : Bool) (a b : RegName) (s : State) :
    Host.Outcome State Fault Refusal :=
  issueRemote s 0x61 6 sw { a := some a, b := some b } true (ramoSize 6) 6

/-- RAMO_XOR_D (R475). -/
def execRamoXorD (sw : Bool) (a b : RegName) (s : State) :
    Host.Outcome State Fault Refusal :=
  issueRemote s 0x61 7 sw { a := some a, b := some b } true (ramoSize 7) 7

/-- RLD_W (R476). -/
def execRldW (sw : Bool) (d a : RegName) (s : State) :
    Host.Outcome State Fault Refusal :=
  issueRld s 0x62 0 sw { dst := some d, a := some a } d 4

/-- RLD_D (R476). -/
def execRldD (sw : Bool) (d a : RegName) (s : State) :
    Host.Outcome State Fault Refusal :=
  issueRld s 0x62 1 sw { dst := some d, a := some a } d 8

/-- RFLUSH_ONE (R477). -/
def execRflushOne (sw : Bool) (a : RegName) (s : State) :
    Host.Outcome State Fault Refusal :=
  issue s 0x63 0 sw { a := some a } (memPlan (remoteReach ⟨false, false, false⟩ 1) Vals.a (fun t c xs => xs.foldl (rflushLane c) t))

/-- RFLUSH_ALL (R477). -/
def execRflushAll (sw : Bool) (s : State) :
    Host.Outcome State Fault Refusal :=
  issue s 0x63 1 sw {} (fun _ _ _ => .go (fun t c => flushTeam t c.team.ident))

/-- MCST (R478). -/
def execMcst (sw : Bool) (a b : RegName) (s : State) :
    Host.Outcome State Fault Refusal :=
  issue s 0x64 0 sw { a := some a, b := some b } (fun _ c vs => planFaults (mcstFaults c vs) (.go (fun t e => vs.foldl (mcstLane e) t)))

/-- CPY_GG (R484). -/
def execCpyGg (sw : Bool) (d a b : RegName) (s : State) :
    Host.Outcome State Fault Refusal :=
  issue s 0x65 0 sw { a := some a, b := some b, d := some d } (cpyPlan true true)

/-- CPY_GS (R484). -/
def execCpyGs (sw : Bool) (d a b : RegName) (s : State) :
    Host.Outcome State Fault Refusal :=
  issue s 0x65 1 sw { a := some a, b := some b, d := some d } (cpyPlan true false)

/-- CPY_SG (R484). -/
def execCpySg (sw : Bool) (d a b : RegName) (s : State) :
    Host.Outcome State Fault Refusal :=
  issue s 0x65 2 sw { a := some a, b := some b, d := some d } (cpyPlan false true)

/-- CPY_SS (R484). -/
def execCpySs (sw : Bool) (d a b : RegName) (s : State) :
    Host.Outcome State Fault Refusal :=
  issue s 0x65 3 sw { a := some a, b := some b, d := some d } (cpyPlan false false)

/-- GTH_32 (R485). -/
def execGth32 (sw : Bool) (d a b : RegName) (s : State) :
    Host.Outcome State Fault Refusal :=
  issue s 0x66 0 sw { b := some b, d := some d, runs := [(a, 2)] } (gatherPlan true 32 a)

/-- GTH_64 (R485). -/
def execGth64 (sw : Bool) (d a b : RegName) (s : State) :
    Host.Outcome State Fault Refusal :=
  issue s 0x66 1 sw { b := some b, d := some d, runs := [(a, 2)] } (gatherPlan true 64 a)

/-- GTH_128 (R485). -/
def execGth128 (sw : Bool) (d a b : RegName) (s : State) :
    Host.Outcome State Fault Refusal :=
  issue s 0x66 2 sw { b := some b, d := some d, runs := [(a, 2)] } (gatherPlan true 128 a)

/-- GTH_256 (R485). -/
def execGth256 (sw : Bool) (d a b : RegName) (s : State) :
    Host.Outcome State Fault Refusal :=
  issue s 0x66 3 sw { b := some b, d := some d, runs := [(a, 2)] } (gatherPlan true 256 a)

/-- SCT_32 (R485). -/
def execSct32 (sw : Bool) (d a b : RegName) (s : State) :
    Host.Outcome State Fault Refusal :=
  issue s 0x67 0 sw { b := some b, d := some d, runs := [(a, 2)] } (gatherPlan false 32 a)

/-- SCT_64 (R485). -/
def execSct64 (sw : Bool) (d a b : RegName) (s : State) :
    Host.Outcome State Fault Refusal :=
  issue s 0x67 1 sw { b := some b, d := some d, runs := [(a, 2)] } (gatherPlan false 64 a)

/-- SCT_128 (R485). -/
def execSct128 (sw : Bool) (d a b : RegName) (s : State) :
    Host.Outcome State Fault Refusal :=
  issue s 0x67 2 sw { b := some b, d := some d, runs := [(a, 2)] } (gatherPlan false 128 a)

/-- SCT_256 (R485). -/
def execSct256 (sw : Bool) (d a b : RegName) (s : State) :
    Host.Outcome State Fault Refusal :=
  issue s 0x67 3 sw { b := some b, d := some d, runs := [(a, 2)] } (gatherPlan false 256 a)

end Sys2Proof.Machine
end

