-- ==== Sys2Proof/Machine/Queues.lean ====
section
/-!
DEFINITION. Queues and their engines: descriptors, arrivals, rings, mapping and refill (R83 to R93, R109 to R113, R522),
completion words and MSI-X (R93, R94), pools (R169 to R172), joins and launch fault logs (R133 to R137), and partitions as
placement sees them (R95, R108).
-/

namespace Sys2Proof.Machine

open Sys2Proof

/-! ### Partitions -/

/-- A field of a partition entry (R95). -/
def partWord (e : List Word) (n : Nat) : Word := nth 0 e n

/-- A queue lies in a partition's range. -/
def partHasQueue (e : List Word) (q : Nat) : Bool :=
  decide (bitsW (partWord e 0) 15 0 ≤ q) && decide (q < bitsW (partWord e 0) 15 0 + bitsW (partWord e 0) 47 32)

/-- A cluster's bit of a partition's bitmap. -/
def partHasCluster (e : List Word) (c : Nat) : Bool := bitW (partWord e (5 + c / 64)) (c % 64)

/-- A domain lies in a partition's range. -/
def partHasDomain (e : List Word) (d : Nat) : Bool :=
  decide (bitsW (partWord e 1) 11 0 ≤ d) && decide (d < bitsW (partWord e 1) 11 0 + bitsW (partWord e 1) 28 16)

/-- A key slot lies in a partition's range. -/
def partHasKey (e : List Word) (k : Nat) : Bool :=
  decide (bitsW (partWord e 2) 9 0 ≤ k) && decide (k < bitsW (partWord e 2) 9 0 + bitsW (partWord e 2) 26 16)

/-- The active partition of a queue. -/
def partOfQueue (s : State) (q : Nat) : Option Nat := (first? (fun _ p => partHasQueue p.1 q) s.host.parts).map Prod.fst

/-- The clusters of a die on which records of a partition, or of none, may be placed (R108, R186). -/
def allowedClusters (s : State) (die : Nat) (p : Option Nat) : List Nat :=
  ((List.range 48).map (48 * die + ·)).filter (fun c =>
    (look .reset s.clusters c).released
      && match p with
         | none => s.host.parts.all (fun e => !partHasCluster e.2.1 c)
         | some n => match find? s.host.parts n with | some e => partHasCluster e.1 c && !e.2 | none => false)

/-! ### Descriptors -/

/-- A queue descriptor as it stands (R83). -/
structure QView where
  logsize : Nat
  rbase   : Nat
  head    : Nat
  tail    : Nat
  spcnt   : Nat
  spill   : Nat
  domain  : Nat
  cls     : Nat
  weight  : Nat
  pool    : Nat
  tag     : Nat
  enable  : Bool
  mapped  : Bool
  pending : Bool
  err     : Bool
  hostq   : Bool
  cwhost  : Bool
  hfed    : Bool
  die     : Nat
  slot    : Nat
  vector  : Nat
  cwaddr  : Word
  rlog    : Nat
  rsbase  : Nat
  rhead   : Nat
  rtail   : Nat
  deriving DecidableEq, Repr

/-- The local PA of a word of a descriptor. -/
def qAddr (s : State) (q w : Nat) : Nat := s.host.qtbase.toNat + 64 * q + 8 * w

/-- A word of a descriptor. -/
def qWord (s : State) (q w : Nat) : Word := word (rawRead s (qAddr s q w) 8)

/-- A descriptor read. -/
def viewQ (s : State) (q : Nat) : QView :=
  let w0 := qWord s q 0
  let w1 := qWord s q 1
  let w2 := qWord s q 2
  let w3 := qWord s q 3
  let w4 := qWord s q 4
  let w6 := qWord s q 6
  let w7 := qWord s q 7
  { logsize := bitsW w0 63 59, rbase := bitsW w0 54 0, head := bitsW w1 63 32, tail := bitsW w1 31 0
    spcnt := bitsW w2 63 58, spill := bitsW w2 54 0, domain := bitsW w3 63 52, cls := bitsW w3 47 45
    weight := bitsW w3 39 32, pool := bitsW w3 31 22, tag := bitsW w3 15 0, enable := bitW w4 63, mapped := bitW w4 62
    pending := bitW w4 61, err := bitW w4 60, hostq := bitW w4 59, cwhost := bitW w4 58, hfed := bitW w4 57
    die := bitsW w4 55 53, slot := bitsW w4 52 45, vector := bitsW w4 42 32, cwaddr := qWord s q 5
    rlog := bitsW w6 63 59, rsbase := bitsW w6 54 0, rhead := bitsW w7 63 32, rtail := bitsW w7 31 0 }

/-- A field [hi:lo] of a word replaced. -/
def setBits (w : Word) (hi lo v : Nat) : Word :=
  word (w.toNat - bitsW w hi lo * 2 ^ lo + v % 2 ^ (hi + 1 - lo) * 2 ^ lo)

/-- A field of a descriptor written by the Z5. -/
def setQ (s : State) (q w hi lo v : Nat) : State := rawWrite s (qAddr s q w) 8 (setBits (qWord s q w) hi lo v).toNat

def setHead (s : State) (q v : Nat) : State := setQ s q 1 63 32 v
def setTail (s : State) (q v : Nat) : State := setQ s q 1 31 0 v
def setRhead (s : State) (q v : Nat) : State := setQ s q 7 63 32 v
def setRtail (s : State) (q v : Nat) : State := setQ s q 7 31 0 v

/-- The records between two wrapping indexes. -/
def between (head tail : Nat) : Nat := (tail + 2 ^ 32 - head) % 2 ^ 32

/-- What an engine keeps for a queue. -/
def keepOf (s : State) (q : Nat) : QKeep := look .reset s.host.keeps q

/-- What an engine keeps for a queue changed. -/
def modKeep (s : State) (q : Nat) (f : QKeep → QKeep) : State :=
  { s with host := { s.host with keeps := put s.host.keeps q (f (keepOf s q)) } }

/-! ### Launch fault log -/

/-- A failure logged in SCHFLT of a die (R137). -/
def logFault (s : State) (die code queue : Nat) (seq : BitVec 32) : State :=
  let f := look .reset s.sched.faults die
  let g : SchFault :=
    if f.valid then { f with ovf := true }
    else { valid := true, ovf := false, code := BitVec.ofNat 8 code, queue := BitVec.ofNat 16 queue, seq := seq }
  { s with sched := { s.sched with faults := put s.sched.faults die g } }

/-- ERR of a queue set: it is eligible no longer and leaves its waiting list (R87, R90). -/
def setErr (s : State) (q : Nat) : State :=
  let t := setQ s q 4 60 60 1
  { t with host := { t.host with waits := each (fun _ l => removeN l q) t.host.waits } }

/-- An engine's access to a queue's memory failed (R522). -/
def queueFault (s : State) (q : Nat) : State := logFault (setErr s q) (viewQ s q).die 0x0B q (keepOf s q).seq

/-! ### Pools -/

/-- A pool (R169). -/
def poolOf (s : State) (n : Nat) : Pool := look .reset s.sched.pools n

/-- A pool replaced. -/
def setPool (s : State) (n : Nat) (p : Pool) : State := { s with sched := { s.sched with pools := put s.sched.pools n p } }

/-- The dies whose engines hold a queue decide again. -/
def nudge (s : State) : State :=
  ((List.range 8).filter (fun d => s.host.slots.any (fun e => decide (e.1 / 256 = d)) && !s.work.contains (.dispatchDecision d))).foldl
    (fun t d => pushWork t (.dispatchDecision d)) s

/-- A credit, which leaves an unmetered pool unchanged (R170, R172); what it funds is a candidate at the next decision. -/
def creditPool (s : State) (n ib tb : Nat) : State :=
  let p := poolOf s n
  if p.unm then s
  else nudge <| setPool s n { p with ib := word (Nat.min (p.ib.toNat + ib) (2 ^ 64 - 1)), tb := word (Nat.min (p.tb.toNat + tb) (2 ^ 64 - 1)) }

/-- A credit to the pool of a queue. -/
def creditQueue (s : State) (q ib tb : Nat) : State := creditPool s (viewQ s q).pool ib tb

/-- A pool can fund two amounts (R170). -/
def canFund (s : State) (n ib tb : Nat) : Bool :=
  let p := poolOf s n
  p.unm || (decide (ib ≤ p.ib.toNat) && decide (tb ≤ p.tb.toNat))

/-- A draw (R170). -/
def drawPool (s : State) (n ib tb : Nat) : State :=
  let p := poolOf s n
  if p.unm then s else setPool s n { p with ib := word (p.ib.toNat - ib), tb := word (p.tb.toNat - tb) }

/-- The budgets in word 1 of a record (R107). -/
def ibOf (words : List Word) : Nat := bitsW (nth 0 words 1) 63 32
def tbOf (words : List Word) : Nat := bitsW (nth 0 words 1) 31 0

/-! ### Toward the host -/

/-- A doubleword of an MSI-X table: a vector's control word masks it at reset. -/
def msixWord (s : State) (fn n : Nat) : Word := look (if n % 4 = 3 then 1 else 0) s.host.msixCtl (fn * 2 ^ 20 + n)

/-- An MSI-X message leaves, or sets its pending bit when its vector is masked (R94). -/
def sendMsix (s : State) (port vf vector : Nat) : State :=
  let fn := 64 * port + vf
  if bitW (msixWord s fn (4 * vector + 3)) 0 then
    { s with host := { s.host with pba := if s.host.pba.contains (fn, vector) then s.host.pba else s.host.pba ++ [(fn, vector)] } }
  else { s with host := { s.host with out := s.host.out ++ [.msix port vf vector] } }

/-- A vector raised, at most once in each interval of ITHR (R94). -/
def raiseVector (s : State) (port vf vector : Nat) : State :=
  let key := (64 * port + vf) * 2048 + vector
  if s.host.ithr = 0 then sendMsix s port vf vector
  else
    match find? s.host.gated key with
    | some _ => { s with host := { s.host with gated := put s.host.gated key 1 } }
    | none =>
      pushTimer (sendMsix { s with host := { s.host with gated := put s.host.gated key 0 } } port vf vector)
        (1250 * s.host.ithr.toNat) (.msixIntervalEnd { port := port, vf := vf } vector)

/-- The end of an interval (R94): a message held in it is sent, and another interval begins. -/
def endInterval (s : State) (port vf vector : Nat) : State :=
  let key := (64 * port + vf) * 2048 + vector
  match find? s.host.gated key with
  | none => s
  | some n =>
    let s1 := { s with host := { s.host with gated := del s.host.gated key } }
    if n = 0 then s1 else raiseVector s1 port vf vector

/-- The VFMAP entry of VF v of a port (R97). -/
def vfMap (s : State) (port vf : Nat) : BitVec 5 := look 0 s.host.vfmap (64 * port + vf - 1)

/-- The function on which a HOSTQ queue raises its interrupts (R97). -/
def vectorOwner (s : State) (q die : Nat) : Nat × Nat :=
  let port := ioOf die
  match partOfQueue s q with
  | none => (port, 0)
  | some p =>
    match ((List.range 63).map (· + 1)).find? (fun v =>
      bitN (vfMap s port v).toNat 4 && decide (bitsN (vfMap s port v).toNat 3 0 = p)) with
    | some v => (port, v)
    | none => (port, 0)

/-! ### Rings -/

/-- The eight words of a record as bytes. -/
def recBytes (words : List Word) : List Byte := (List.range 8).flatMap (fun i => spread 8 (nth 0 words i).toNat)

/-- The place of a ring entry in what the engine keeps beyond memory: ring 0, resume ring 1, save area 2. -/
def ringKey (q region i : Nat) : Nat := (q * 4 + region) * 2 ^ 32 + i

/-- A record of which the engine knows nothing beyond its words. -/
def plainRec (ws : List Word) : Rec := { words := ws, exempt := false, owner := none, again := none, grid := none }

/-- A record written to a queue's memory, with what the engine knows of it; none when the access fails. -/
def writeRec (s : State) (q region i va : Nat) (r : Rec) : Option State :=
  match domWrite s (viewQ s q).domain va (recBytes r.words) with
  | none => none
  | some t =>
    let key := ringKey q region i
    some { t with host := { t.host with held := if r = plainRec r.words then del t.host.held key else put t.host.held key (va, r) } }

/-- A record read from a queue's memory. What the engine knows of it holds for the words it wrote at that address; it writes no
record to a host-fed ring (R84, R123). -/
def readRec (s : State) (q region i va : Nat) : Option Rec :=
  match domRead s (viewQ s q).domain va 64 with
  | none => none
  | some n =>
    let ws := (List.range 8).map (fun k => word (n / 2 ^ (64 * k)))
    some (match find? s.host.held (ringKey q region i) with
      | some (a, r) => if a = va ∧ r.words = ws ∧ ¬(region = 0 ∧ (viewQ s q).hfed) then r else plainRec ws
      | none => plainRec ws)

/-- `n` records from an index have been consumed: what the engine knew of their places ends. -/
def dropMarks (q region log : Nat) : Nat → Nat → State → State
  | 0, _, s => s
  | n + 1, i, s =>
    dropMarks q region log n (i + 1) { s with host := { s.host with held := del s.host.held (ringKey q region (i % 2 ^ log)) } }

/-- Whether a ring place holds a record of a queue that is being enabled. -/
def livePlace (v : QView) (region i : Nat) : Bool :=
  match region with
  | 0 => !v.hfed && decide ((i + 2 ^ 32 - v.head) % 2 ^ v.logsize < between v.head v.tail)
  | 1 => v.hfed && decide ((i + 2 ^ 32 - v.rhead) % 2 ^ v.rlog < between v.rhead v.rtail)
  | _ => decide (i < v.spcnt)

/-- What the engine knows of ring places of a queue that hold no record ends at ENABLE. -/
def trimMarks (s : State) (q : Nat) : State :=
  let v := viewQ s q
  { s with host := { s.host with held := s.host.held.filter (fun e =>
    decide (e.1 / 2 ^ 34 ≠ q) || livePlace v (e.1 / 2 ^ 32 % 4) (e.1 % 2 ^ 32)) } }

/-- `n` records read in order from an index. -/
def readRecs (s : State) (q region log base : Nat) : Nat → Nat → Option (List Rec)
  | 0, _ => some []
  | n + 1, i =>
    match readRec s q region (i % 2 ^ log) (base + 64 * (i % 2 ^ log)), readRecs s q region log base n (i + 1) with
    | some r, some l => some (r :: l)
    | _, _ => none

/-! ### Eligible queues and slots -/

/-- A queue has work (R87). -/
def eligible (v : QView) : Bool :=
  v.enable && !v.hostq && !v.err
    && (decide (v.tail ≠ v.head) || decide (v.spcnt > 0) || (v.hfed && decide (v.rtail ≠ v.rhead)) || v.pending)

/-- The slots of a die that have had nothing to dispatch for 20 µs (R90). -/
def idleSlots (s : State) (die : Nat) : List Nat :=
  (s.host.slots.filter (fun e =>
    decide (e.1 / 256 = die) && decide (e.2.recs = []) && decide (e.2.refill = 0) && decide (s.cycle ≥ e.2.busy + 25000))).map
    (fun e => e.1 % 256)

/-- An eligible unmapped queue joins the waiting list of its class, and slots that idle may have to leave (R90). -/
def enlist (s : State) (q : Nat) : State :=
  let v := viewQ s q
  let l := look [] s.host.waits (8 * v.die + v.cls)
  if eligible v && !v.mapped && !l.contains q then
    (idleSlots s v.die).foldl (fun t n => pushWork t (.idleUnmap v.die n))
      (pushWork { s with host := { s.host with waits := put s.host.waits (8 * v.die + v.cls) (l ++ [q]) } } (.queueMap v.die))
  else s

/-- A hardware slot. -/
def slotAt (s : State) (die slot : Nat) : Option QSlot := find? s.host.slots (256 * die + slot)

/-- A hardware slot changed. -/
def modSlot (s : State) (die slot : Nat) (f : QSlot → QSlot) : State :=
  { s with host := { s.host with slots := upd s.host.slots (256 * die + slot) f } }

/-- A slot's refill may start (R111). -/
def wantRefill (s : State) (die slot : Nat) : State := pushWork s (.refillStart die slot)

/-- A record stands at the head of a slot from now on: its promotion comes due after SCHX.DAGE µs (R116). -/
def armHead (s : State) (die slot : Nat) : State :=
  if s.sched.dage = 0 then s else pushTimer s (1250 * s.sched.dage.toNat) (.recordPromotion die slot)

/-- A slot has nothing to dispatch from now on: it may have to leave in 20 µs (R90). -/
def armIdle (s : State) (die slot : Nat) : State :=
  pushTimer (modSlot s die slot (fun x => { x with busy := s.cycle })) 25000 (.idleUnmap die slot)

/-- A slot holds no record. -/
def slotEmpty (s : State) (die slot : Nat) : Bool := match slotAt s die slot with | some x => x.recs.isEmpty | none => true

/-- A record goes on chip behind the others (R110). -/
def onChip (s : State) (die slot : Nat) (r : Rec) : State :=
  let t := modSlot s die slot (fun x =>
    { x with recs := x.recs ++ [r], head := if x.recs = [] then s.cycle else x.head, busy := s.cycle })
  pushWork (if slotEmpty s die slot then armHead t die slot else t) (.dispatchDecision die)

/-- A record written to the ring at TAIL: status 0, 1 when the access fails, 2 when the ring is full (R110, R522). -/
def toRing (s : State) (q : Nat) (r : Rec) : State × Nat :=
  let v := viewQ s q
  if between v.head v.tail ≥ 2 ^ v.logsize then (s, 2)
  else
    let i := v.tail % 2 ^ v.logsize
    match writeRec s q 0 i (v.rbase + 64 * i) r with
    | none => (queueFault s q, 1)
    | some t => (setTail t q (v.tail + 1), 0)

/-- A record written to a host-owned completion queue: TAIL, the completion word, then MSI-X (R93, R94). -/
def toHostq (s : State) (q : Nat) (r : Rec) : State × Nat :=
  match toRing s q r with
  | (t, 0) =>
    let t1 := modKeep t q (fun k => { k with written := k.written + 1 })
    let v := viewQ t1 q
    let cw := word ((keepOf t1 q).written.toNat * 2 ^ 32 + v.tail)
    let (port, vf) := vectorOwner t1 q v.die
    let t2 :=
      if v.cwhost then { t1 with host := { t1.host with out := t1.host.out ++ [.write port v.cwaddr (spread 8 cw.toNat)] } }
      else match domWrite t1 v.domain v.cwaddr.toNat (spread 8 cw.toNat) with
        | some u => u
        | none => queueFault t1 q
    (raiseVector t2 port vf v.vector, 0)
  | other => other

/-- A record enters an engine-fed queue: 0 accepted, 1 refused, 2 full (R93, R110, R112). -/
def enterQueue (s : State) (q : Nat) (r : Rec) : State × Nat :=
  let v := viewQ s q
  if v.hostq then toHostq s q r
  else if v.mapped then
    match slotAt s v.die v.slot with
    | some x => if v.head = v.tail ∧ x.recs.length < 32 then (onChip s v.die v.slot r, 0)
                else let (t, k) := toRing s q r; (wantRefill t v.die v.slot, k)
    | none => toRing s q r
  else
    let (t, k) := toRing s q r
    (enlist t q, k)

/-- A return enters the resume ring of its host-fed home queue (R113). -/
def enterResume (s : State) (q : Nat) (r : Rec) : State × Nat :=
  let v := viewQ s q
  if between v.rhead v.rtail ≥ 2 ^ v.rlog then (s, 2)
  else
    let i := v.rtail % 2 ^ v.rlog
    match writeRec s q 1 i (v.rsbase + 64 * i) r with
    | none => (queueFault s q, 1)
    | some t =>
      let u := setRtail t q (v.rtail + 1)
      (if v.mapped then wantRefill u v.die v.slot else enlist u q, 0)

/-! ### Joins and grids -/

/-- A team has ended at its grid node (R130). -/
def nodeReport (s : State) (grid cluster : Nat) (failed : Bool) (ib tb : Nat) : State :=
  let add (n : Node) : Node :=
    { n with ended := n.ended + 1, failed := n.failed + (if failed then 1 else 0), ib := n.ib + ib, tb := n.tb + tb }
  let t := { s with sched := { s.sched with grids := upd s.sched.grids grid (fun g =>
    { g with nodes := put g.nodes cluster (add (look .reset g.nodes cluster)) }) } }
  pushWork t (.gridNodeReport grid cluster)

/-- A join block's update at a task's end (R134, R172): what logs stands in `die`, and a task without a join, or with one
that cannot be updated, returns its budget to its home queue's pool. The log takes queue and counter value from the task's DSEQ. -/
def joinUpdate (s : State) (die dom addr ib tb : Nat) (failed : Bool) (home : Nat) (dseq : Word) : State :=
  let unmade := creditQueue (logFault s die 0x07 (bitsW dseq 63 48) (dseq.setWidth 32)) home ib tb
  match domRead s dom addr 128, domRead s dom (addr + 72) 8 with
  | some b, some w =>
    let count := b % 2 ^ 32
    let bad := b / 2 ^ 32 % 2 ^ 32
    let target := b / 2 ^ 64 % 2 ^ 32
    if count = 0 then creditQueue (logFault s die 0x09 (target / 2 ^ 16) (dseq.setWidth 32)) home ib tb
    else
      let nib := Nat.min (w / 2 ^ 32 + ib) (2 ^ 32 - 1)
      let ntb := Nat.min (w % 2 ^ 32 + tb) (2 ^ 32 - 1)
      let nbad := if failed then Nat.min (bad + 1) (2 ^ 32 - 1) else bad
      match domWrite s dom (addr + 72) (spread 8 (nib * 2 ^ 32 + ntb)) with
      | none => unmade
      | some s1 =>
        match domWrite s1 dom addr (spread 8 (nbad * 2 ^ 32 + (count - 1))) with
        | none => unmade
        | some s2 =>
          let s3 := creditQueue s2 (target / 2 ^ 16) ib tb
          if count ≠ 1 then s3
          else
            match domRead s3 dom (addr + 64) 64 with
            | none => s3
            | some r =>
              pushWork s3 (.recordArrival
                { queue := target / 2 ^ 16, tag := target % 2 ^ 16, words := (List.range 8).map (fun k => word (r / 2 ^ (64 * k)))
                  origin := .join, exempt := false })
  | _, _ => unmade

/-- A task has ended or failed (R130, R134, R172): it reports to its grid node, decrements its join, or credits its home
queue's pool. -/
def taskOver (s : State) (die dom : Nat) (join : Word) (node : Option (Nat × Nat)) (ib tb : Nat) (failed : Bool) (home : Nat)
    (dseq : Word) : State :=
  match node with
  | some (g, c) => nodeReport s g c failed ib tb
  | none =>
    if bitsW join 54 0 = 0 then creditQueue s home ib tb else joinUpdate s die dom (bitsW join 54 0) ib tb failed home dseq

/-- A record's join block is none or valid: 128-byte aligned and mapped writable in its domain (R133, R136). -/
def joinValid (s : State) (dom : Nat) (w : Word) : Bool :=
  let a := bitsW w 54 0
  decide (a = 0) || (decide (a % 128 = 0)
    && match translateLocal s [] dom (word a) ⟨true, true, false⟩ false with | .ok _ => true | .error _ => false)

/-- Save blocks go back to a domain's arena, the first block ending as its head (R167, R179). -/
def returnBlocks (s : State) (dom : Nat) (blocks : List Nat) : State :=
  noteArena (blocks.foldr (fun b t =>
    let (head, cnt) := listAt t dom 32
    rawWrite (rawWrite (rawWrite t b 8 head) (domAddr t dom 32) 8 b) (domAddr t dom 40) 8 (cnt + 1)) s) dom blocks

/-- A continuation or relaunch record is discarded: its blocks return, its team counts as failed, code 0x08 (R165). -/
def discardBack (s : State) (r : Arrival) (die : Nat) : State :=
  let v := viewQ s r.queue
  let seq := (keepOf s r.queue).seq
  let s1 := logFault s die 0x08 r.queue seq
  let d := word (r.queue * 2 ^ 48 + seq.toNat)
  match r.origin with
  | .back b =>
    match find? s1.sched.images b with
    | some im =>
      let s2 := returnBlocks { s1 with sched := { s1.sched with images := del s1.sched.images b } } im.team.domain im.blocks
      taskOver s2 die v.domain (nth 0 r.words 2) im.team.node 0 0 true r.queue d
    | none => taskOver s1 die v.domain (nth 0 r.words 2) none 0 0 true r.queue d
  | .relaunch _ _ node => taskOver s1 die v.domain (nth 0 r.words 2) node 0 0 true r.queue d
  | _ => s1

/-- What an engine keeps of an arriving record. -/
def recOf (r : Arrival) : Rec :=
  { words := r.words, exempt := r.exempt, owner := none, grid := none
    again := match r.origin with | .relaunch d t n => some { dseq := d, ti := t, node := n } | _ => none }

/-- A join continuation, continuation or relaunch record arrives; a full ring keeps it waiting (R113, R134, R135, R165). -/
def arriveBack (s : State) (r : Arrival) : State :=
  let v := viewQ s r.queue
  let keepIt (t : State) : State := modKeep t r.queue (fun k => { k with late := k.late ++ [r] })
  match r.origin with
  | .join =>
    if !v.enable || v.err || v.hfed || decide (v.tag ≠ r.tag) then logFault s v.die 0x08 r.queue (keepOf s r.queue).seq
    else
      match enterQueue s r.queue (recOf r) with
      | (t, 0) => t
      | (t, 2) => keepIt t
      | (t, _) => logFault t v.die 0x08 r.queue (keepOf s r.queue).seq
  | _ =>
    if !v.enable || v.err then discardBack s r v.die
    else
      match (if v.hfed then enterResume else enterQueue) s r.queue (recOf r) with
      | (t, 0) => t
      | (t, 2) => keepIt t
      | (t, _) => discardBack t r v.die

/-- Records that wait for space try again, in order (R135). -/
def retryLate (s : State) (q : Nat) : State :=
  (keepOf s q).late.foldl arriveBack (modKeep s q (fun k => { k with late := [] }))

/-- An ENQ's record arrives (R122, R171): the status goes to the waiting lane, and the amounts it took to the target's pool
or back to the parent. -/
def arriveEnq (s : State) (r : Arrival) (seq ib tb : Nat) : State :=
  let v := viewQ s r.queue
  let (t, k) := if !v.enable || v.err || v.hfed then (s, 1) else enterQueue s r.queue (recOf r)
  match findPend t seq with
  | none => if k = 0 then creditQueue t r.queue ib tb else t
  | some (sid, _) =>
    let u :=
      if k = 0 then creditQueue t r.queue ib tb
      else match find? t.streams sid with
        | some st => modTeam t st.team (fun x =>
            { x with ib := BitVec.ofNat 32 (Nat.min (x.ib.toNat + ib) (2 ^ 32 - 1))
                     tb := BitVec.ofNat 32 (Nat.min (x.tb.toNat + tb) (2 ^ 32 - 1)) })
        | none => t
    pushWork (setPend u sid seq (word k)) (.resultWriteback sid seq)

/-- A record arrives at its queue's engine (R110). -/
def arriveRecord (s : State) (r : Arrival) : State :=
  match r.origin with
  | .enq _ _ seq ib tb _ => arriveEnq s r seq ib tb
  | _ => arriveBack s r

/-! ### Mapping -/

/-- Slots of a die that a class holds. -/
def classSlots (s : State) (die cls : Nat) : Nat :=
  (s.host.slots.filter (fun e => decide (e.1 / 256 = die) && decide ((viewQ s e.2.queue).cls = cls))).length

/-- A class's minimum share (R91). -/
def shareOf (s : State) (cls : Nat) : Nat := Nat.max 1 (bitsW s.host.qshare (8 * cls + 7) (8 * cls))

/-- The first waiting queue of a class that is still eligible and unmapped. -/
def firstWaiting (s : State) (die cls : Nat) : Option Nat :=
  (look [] s.host.waits (8 * die + cls)).find? (fun q => eligible (viewQ s q) && !(viewQ s q).mapped)

/-- The queue to map next (R90). -/
def nextToMap (s : State) (die : Nat) : Option Nat :=
  let cs := (List.range 8).filter (fun c => (firstWaiting s die c).isSome)
  match cs.find? (fun c => decide (classSlots s die c < shareOf s c)) with
  | some c => firstWaiting s die c
  | none => match cs with | c :: _ => firstWaiting s die c | [] => none

/-- A queue is mapped to a slot at one instant (R88); a save area that cannot be read leaves it unmapped (R522). -/
def mapQueue (s : State) (die slot q : Nat) : State :=
  let v := viewQ s q
  let s0 := { s with host := { s.host with waits := put s.host.waits (8 * die + v.cls) (removeN (look [] s.host.waits (8 * die + v.cls)) q) } }
  match readRecs s0 q 2 5 v.spill v.spcnt 0 with
  | none => queueFault s0 q
  | some l =>
    let s1 := setQ (setQ (setQ (setQ s0 q 2 63 58 0) q 4 62 62 1) q 4 61 61 0) q 4 52 45 slot
    let x : QSlot := { queue := q, recs := l, refill := 0, deficit := 0, quantum := s.cycle + 25000, busy := s.cycle, head := s.cycle
                       promoted := none, unfit := none, claim := none }
    let s2 := dropMarks q 2 5 v.spcnt 0 { s1 with host := { s1.host with slots := put s1.host.slots (256 * die + slot) x } }
    let s3 := pushTimer (armIdle (wantRefill s2 die slot) die slot) 25000 (.quantumEnd die slot)
    if l = [] then s3 else pushWork (armHead s3 die slot) (.dispatchDecision die)

/-- A free slot goes to a waiting queue (R90). -/
def mapNext (s : State) (die : Nat) : State :=
  match nextToMap s die, (List.range 256).find? (fun n => (slotAt s die n).isNone) with
  | some q, some n =>
    let t := mapQueue s die n q
    match nextToMap t die with | some _ => pushWork t (.queueMap die) | none => t
  | _, _ => s

/-- A record that fails before its team is placed counts as one failed child where its join is valid (R136); what was drawn for it goes
there, else to a pool. -/
def settleRec (s : State) (die queue dom home : Nat) (seq : BitVec 32) (r : Rec) : State :=
  let ib := if r.exempt then 0 else ibOf r.words
  let tb := if r.exempt then 0 else tbOf r.words
  let node := match r.again with
    | some a => a.node
    | none =>
      if bitsW (nth 0 r.words 0) 47 40 = 0xFF then
        match find? s.sched.images (bitsW (nth 0 r.words 4) 54 0) with | some im => im.team.node | none => none
      else none
  taskOver s die dom (if joinValid s dom (nth 0 r.words 2) then nth 0 r.words 2 else 0) node ib tb true home
    (word (queue * 2 ^ 48 + seq.toNat))

/-- A record that fails a launch check (R136). -/
def failRec (s : State) (die code queue dom home : Nat) (seq : BitVec 32) (r : Rec) : State :=
  settleRec (logFault s die code queue seq) die queue dom home seq r

/-- A grid whose record is lost sends no more teams (R522): it ends with those it has sent, and as one that failed. -/
def cutGrid (s : State) (id : Nat) : State :=
  match find? s.sched.grids id with
  | none => s
  | some g =>
    let root := nth 0 g.order 0
    let n := look .reset g.nodes root
    let h := { g with n := g.next, nodes := put g.nodes root { n with failed := n.failed + 1 } }
    g.order.reverse.foldl (fun t k => pushWork t (.gridNodeReport id k)) { s with sched := { s.sched with grids := put s.sched.grids id h } }

/-- A record on chip is lost (R522): it draws from its pool what that can fund, and is settled as a record that fails its launch
checks; of a grid, the teams not yet sent are lost. -/
def loseRec (s : State) (q : Nat) (r : Rec) : State :=
  match r.grid with
  | some id => cutGrid s id
  | none =>
    let v := viewQ s q
    let seq := (keepOf s q).seq
    if r.exempt || !canFund s v.pool (ibOf r.words) (tbOf r.words) then settleRec s v.die q v.domain q seq { r with exempt := true }
    else settleRec (drawPool s v.pool (ibOf r.words) (tbOf r.words)) v.die q v.domain q seq r

/-- A slot's records are written to the save area in order (R88); those that cannot be are failed (R522). -/
def saveRecs (q : Nat) : List Rec → Nat → State → State × Nat
  | [], n, s => (s, n)
  | r :: l, n, s =>
    match writeRec s q 2 n ((viewQ s q).spill + 64 * n) r with
    | some t => saveRecs q l (n + 1) t
    | none => saveRecs q l n (loseRec (queueFault s q) q r)

/-- A claim has gone: the cluster's deque and the die's queues may place on it again (R120, R127). -/
def unclaimed (s : State) (die : Nat) (c : Option Nat) : State :=
  match c with
  | some k => pushWork (pushWork s (.dequePop k)) (.dispatchDecision die)
  | none => s

/-- A queue is unmapped at one instant (R88); a claim of its head ends (R120). -/
def unmapQueue (s : State) (die slot : Nat) : State :=
  match slotAt s die slot with
  | none => s
  | some x =>
    let (s1, n) := saveRecs x.queue x.recs 0 s
    let s2 := setQ (setQ (setQ s1 x.queue 2 63 58 n) x.queue 4 62 62 0) x.queue 4 52 45 0
    let s3 := { s2 with host := { s2.host with slots := del s2.host.slots (256 * die + slot) } }
    let s4 := pushWork (enlist s3 x.queue) (.queueMap die)
    unclaimed s4 die x.claim

/-- A queue's work that a refill can read. -/
def refillable (v : QView) : Nat := (if v.hfed then between v.rhead v.rtail else 0) + between v.head v.tail

/-- A refill starts (R111). -/
def startRefill (s : State) (die slot : Nat) : State :=
  match slotAt s die slot with
  | none => s
  | some x =>
    let v := viewQ s x.queue
    let k := Nat.min 8 (Nat.min (32 - x.recs.length) (refillable v))
    if x.refill ≠ 0 ∨ x.recs.length > 24 ∨ k = 0 then s
    else pushWork (modSlot s die slot (fun y => { y with refill := k, busy := s.cycle })) (.refillLand die slot)

/-- A refill lands (R111, R113): returns first, then the ring; HEAD and RHEAD advance. -/
def landRefill (s : State) (die slot : Nat) : State :=
  match slotAt s die slot with
  | none => s
  | some x =>
    if x.refill = 0 then s
    else
      let q := x.queue
      let v := viewQ s q
      let s0 := modSlot s die slot (fun y => { y with refill := 0 })
      let a := if v.hfed then Nat.min x.refill (between v.rhead v.rtail) else 0
      let b := Nat.min (x.refill - a) (between v.head v.tail)
      match readRecs s0 q 1 v.rlog v.rsbase a v.rhead, readRecs s0 q 0 v.logsize v.rbase b v.head with
      | some la, some lb =>
        let s1 := if a = 0 then s0 else dropMarks q 1 v.rlog a v.rhead (setRhead s0 q (v.rhead + a))
        let s2 := if b = 0 then s1 else dropMarks q 0 v.logsize b v.head (setHead s1 q (v.head + b))
        let s3 := (la ++ lb).foldl (fun t r => onChip t die slot r) s2
        let s4 := wantRefill (if (keepOf s3 q).late = [] then s3 else pushWork s3 (.continuationRetry q)) die slot
        if slotEmpty s4 die slot then armIdle s4 die slot else s4
      | _, _ => let t := queueFault s0 q; if x.recs = [] then armIdle t die slot else t

/-- A mapped queue with nothing to dispatch for 20 µs leaves while another waits (R90). -/
def idleCheck (s : State) (die slot : Nat) : State :=
  if (idleSlots s die).contains slot ∧ (nextToMap s die).isSome then unmapQueue s die slot else s

/-- The end of a mapped queue's quantum (R90). -/
def quantumCheck (s : State) (die slot : Nat) : State :=
  match slotAt s die slot with
  | none => s
  | some x =>
    if s.cycle < x.quantum then s
    else
      let c := (viewQ s x.queue).cls
      let above := decide (classSlots s die c > shareOf s c)
        && (List.range 8).any (fun k => decide (k ≠ c) && decide (classSlots s die k < shareOf s k) && (firstWaiting s die k).isSome)
      if (firstWaiting s die c).isSome || above then unmapQueue s die slot
      else
        let left := 25000 - (s.cycle - x.quantum) % 25000
        pushTimer (modSlot s die slot (fun y => { y with quantum := s.cycle + left })) left (.quantumEnd die slot)

/-! ### The events -/

/-- RECORD_ARRIVAL (R110). -/
def execRecordArrival (r : Arrival) (s : State) : Host.Outcome State Fault Refusal := .next (arriveRecord s r)

/-- QUEUE_MAP (R88, R90). -/
def execQueueMap (die : Nat) (s : State) : Host.Outcome State Fault Refusal := .next (mapNext s die)

/-- IDLE_UNMAP (R90). -/
def execIdleUnmap (die slot : Nat) (s : State) : Host.Outcome State Fault Refusal := .next (idleCheck s die slot)

/-- QUANTUM_END (R90). -/
def execQuantumEnd (die slot : Nat) (s : State) : Host.Outcome State Fault Refusal := .next (quantumCheck s die slot)

/-- REFILL_START (R111). -/
def execRefillStart (die slot : Nat) (s : State) : Host.Outcome State Fault Refusal := .next (startRefill s die slot)

/-- REFILL_LAND (R111). -/
def execRefillLand (die slot : Nat) (s : State) : Host.Outcome State Fault Refusal := .next (landRefill s die slot)

/-- CONTINUATION_RETRY (R135). -/
def execContinuationRetry (q : Nat) (s : State) : Host.Outcome State Fault Refusal := .next (retryLate s q)

/-- MSIX_INTERVAL_END (R94). -/
def execMsixIntervalEnd (caller : Caller) (vector : Nat) (s : State) : Host.Outcome State Fault Refusal :=
  .next (endInterval s caller.port caller.vf vector)

end Sys2Proof.Machine
end

