-- ==== Sys2Proof/Machine/Tasks.lean ====
section
/-!
DEFINITION. Tasks and inboxes: ENQ, SPAWN, END, CPT, YIELD, BTOP, MSGAPP and MSGRECV (R122 to R126, R134, R154, R155, R171 to
R175, R195, R437 to R447), and how a team ends, is killed or is relaunched (R337 to R340).
-/

namespace Sys2Proof.Machine

open Sys2Proof

/-! ### Funding -/

/-- The budgets a record takes from its parent: as asked, or the whole remainder, which exhausts the counter (R171). -/
def takeBudget (s : State) (tk ib tb : Nat) : State × Nat × Nat :=
  match find? s.teams tk with
  | none => (s, 0, 0)
  | some t =>
    let gi := Nat.min ib t.ib.toNat
    let gt := Nat.min tb t.tb.toNat
    let s1 := modTeam s tk (fun x => { x with ib := BitVec.ofNat 32 (x.ib.toNat - gi), tb := BitVec.ofNat 32 (x.tb.toNat - gt) })
    let s2 := if gi < ib then pendYield s1 tk 1 0 else s1
    (if gt < tb then pendYield s2 tk 2 0 else s2, gi, gt)

/-- Amounts given back to a team's budgets, saturating. -/
def giveBudget (s : State) (tk ib tb : Nat) : State :=
  modTeam s tk (fun x =>
    { x with ib := BitVec.ofNat 32 (Nat.min (x.ib.toNat + ib) (2 ^ 32 - 1))
             tb := BitVec.ofNat 32 (Nat.min (x.tb.toNat + tb) (2 ^ 32 - 1)) })

/-- EXEMPT of a record is honoured: an ENQ or SPAWN at supervisor or firmware privilege carries it (R123). -/
def exemptOf (s : State) (c : Ctx) (words : List Word) : Bool := bitW (nth 0 words 0) 10 && decide (privOf s c ≥ 1)

/-- A record funded by its parent: the state, the record with word 1 as taken, and the amounts taken. An exempt parent, or an
exempt record, takes nothing and passes word 1 as written (R171, R176). -/
def fund (s : State) (c : Ctx) (words : List Word) : State × List Word × Nat × Nat :=
  if c.team.exempt || exemptOf s c words then (s, words, 0, 0)
  else
    let (t, ib, tb) := takeBudget s c.st.team (ibOf words) (tbOf words)
    (t, words.set 1 (word (ib * 2 ^ 32 + tb)), ib, tb)

/-! ### ENQ and SPAWN -/

/-- The team's partition lets it name a queue (R122). -/
def queueAllowed (s : State) (p : Option Nat) (q : Nat) : Bool :=
  match p with
  | none => s.host.parts.all (fun e => !partHasQueue e.2.1 q)
  | some n => match find? s.host.parts n with | some e => partHasQueue e.1 q | none => false

/-- A queue handle fails its check (R122). -/
def badHandle (s : State) (c : Ctx) (h : Nat) : Bool :=
  decide ((viewQ s (h / 65536)).tag ≠ h % 65536) || !queueAllowed s c.team.part (h / 65536)

/-- One lane's ENQ (R122, R171, R437). -/
def enqLane (d : RegName) (c : Ctx) (s : State) (e : Vals × List Word) : State :=
  let h := e.1.a.toNat % 2 ^ 32
  let ex := exemptOf s c e.2
  let (t, ws, ib, tb) := fund s c e.2
  let u := issueResult t c e.1.pos (resultTo t c e.1.ln e.1.pos d 0) .arrival
  pushWork u (.recordArrival
    { queue := h / 65536, tag := h % 65536, words := ws, origin := .enq c.sid e.1.pos t.seq ib tb (decide (privOf s c ≥ 1))
      exempt := ex })

/-- ENQ (R437). -/
def enqPlan (d b : RegName) (s : State) (c : Ctx) (vs : List Vals) : Plan :=
  let es := vs.map (fun v => (v, readRun s c v.pos b 8))
  let bad := vs.filter (fun v => badHandle s c (v.a.toNat % 2 ^ 32))
  planFaults (bad.map (fun v => { ln := v.ln, code := 0x14, addr := word (v.a.toNat % 2 ^ 32), detail := 0x68 }))
    (.go (fun t e => es.foldl (enqLane d e) t))

/-- Mesh hops between two clusters of a die (R126). -/
def meshHops (a b : Nat) : Nat :=
  let col (c : Nat) : Int := (c % 48 % 8 : Nat)
  let row (c : Nat) : Int := (c % 48 / 8 : Nat)
  (col a - col b).natAbs + (row a - row b).natAbs

/-- A cluster's state. -/
def clusterAt (s : State) (c : Nat) : Cluster := look .reset s.clusters c

/-- The clusters of a die in a partition, or outside every active partition (R126). -/
def deckClusters (s : State) (die : Nat) (p : Option Nat) : List Nat :=
  ((List.range 48).map (48 * die + ·)).filter (fun c =>
    match p with
    | none => s.host.parts.all (fun e => !partHasCluster e.2.1 c)
    | some n => match find? s.host.parts n with | some e => partHasCluster e.1 c | none => false)

/-- The cluster whose deque SPAWN.DIE pushes to: the fewest entries, then the nearest, then the lowest number (R126). -/
def spawnTarget (s : State) (own : Nat) : List Nat → Nat
  | [] => own
  | c :: r =>
    let b := spawnTarget s own r
    if r = [] then c
    else
      let key (x : Nat) : Nat := ((clusterAt s x).deque.length * 64 + meshHops own x) * 512 + x
      if key c ≤ key b then c else b

/-- One lane's SPAWN (R114, R126, R171, R438). -/
def spawnLane (wide : Bool) (d : RegName) (c : Ctx) (s : State) (e : Vals × List Word) : State :=
  let ex := exemptOf s c e.2
  let own := c.team.cluster
  let k := if wide then spawnTarget s own (deckClusters s (dieOf own) c.team.part) else own
  let x := clusterAt s k
  let (t, ws, ib, tb) := fund s c e.2
  if x.deque.length ≥ 64 then writeLater (giveBudget t c.st.team ib tb) c e.1.ln e.1.pos d 1
  else
    let r : Rec :=
      { words := ws, exempt := ex, again := none, grid := none
        owner := some { domain := c.team.domain, cls := c.team.cls, home := c.team.home, part := c.team.part, seq := x.pushes.toNat } }
    let u := { t with clusters := put t.clusters k { x with deque := r :: x.deque, pushes := x.pushes + 1 } }
    pushWork (writeLater u c e.1.ln e.1.pos d 0) (.dequePop k)

/-- SPAWN (R438). -/
def spawnPlan (wide : Bool) (d b : RegName) (s : State) (c : Ctx) (vs : List Vals) : Plan :=
  let es := vs.map (fun v => (v, readRun s c v.pos b 8))
  .go (fun t e => es.foldl (spawnLane wide d e) t)

/-! ### How a team ends -/

/-- A hart runs a routine of a team. -/
def hartRuns (x : Hart) (ident : BitVec 32) : Bool := match x.run with | some k => decide (k.team = ident) | none => false

/-- Every routine a team kicked that has not finished is abandoned: queued kicks are dropped, a running routine stops without
a completion store (R487). -/
def abandonRoutines (s : State) (ident : BitVec 32) : State :=
  s.harts.foldl (fun t e =>
    let t1 := { t with harts := upd t.harts e.1 (fun x => { x with fifo := x.fifo.filter (fun k => decide (k.team ≠ ident)) }) }
    if hartRuns e.2 ident then pushWork (freeHart t1 e.1) (.engineRoutineStart e.1) else t1) s

/-- A team's slot positions, registers, scratchpad, tiles, reservations and transfers are free; its scratchpad is zeroed
(R159 step 4, R264, R301, R489). -/
def dropTeam (s : State) (tk : Nat) (t : Team) : State :=
  let lo := t.cluster * 524288 + t.scBase * 4096
  let hi := lo + t.scUnits * 4096
  let s1 := withdraw s (fun r => match find? s.lanes r.lane with | some l => decide (l.team = tk) | none => false)
  let s2 :=
    { s1 with
      lanes := s1.lanes.filter (fun e => decide (e.2.team ≠ tk))
      streams := s1.streams.filter (fun e => decide (e.2.team ≠ tk))
      groups := s1.groups.filter (fun e => decide (e.2.team ≠ tk))
      teams := del s1.teams tk
      scratch := s1.scratch.filter (fun e => decide (e.1 < lo ∨ hi ≤ e.1))
      scErr := s1.scErr.filter (fun d => decide (8 * d < lo ∨ hi ≤ 8 * d))
      owners := s1.owners.filter (fun e => decide (e.2 ≠ tk))
      restore := s1.restore.filter (fun e => decide (e.1 / 6144 ≠ tk))
      meets := s1.meets.filter (fun e => decide (e.2.team ≠ tk))
      moves := s1.moves.filter (fun e => decide (e.2.team ≠ tk))
      sched := { s1.sched with placing := del s1.sched.placing tk } }
  rebank s s2 t.cluster tk

/-- Resources of a cluster have become free: its dispatcher, and its die's engine, look again (R115, R127, R128). -/
def freed (s : State) (c : Nat) : State :=
  pushWork (pushWork (pushWork s (.dequePop c)) (.dispatchDecision (dieOf c))) (.dequeSteal c)

/-- Every bank of a cluster written back: the release of END covers everything the team wrote (R134). -/
def releaseCluster (s : State) (c : Nat) : State := ((List.range 16).map (16 * c + ·)).foldl writeBackBank s

/-- The budgets a team returns (R172). -/
def returned (s : State) (tk : Nat) : Nat × Nat :=
  match find? s.teams tk with
  | some t => if t.exempt then (0, 0) else (t.ib.toNat, t.tb.toNat)
  | none => (0, 0)

/-- The end of a team: its buffers are flushed, its routines abandoned, it reports and returns its budgets, and its resources
are free (R61, R134, R172, R487). -/
def finishTeam (s : State) (tk : Nat) (failed : Bool) : State :=
  match find? s.teams tk with
  | none => s
  | some t =>
    let s1 := abandonRoutines (flushTeam s t.ident) t.ident
    let (ib, tb) := returned s1 tk
    let s2 := taskOver s1 (dieOf t.cluster) t.domain (nth 0 t.words 2) t.node ib tb failed t.home t.dseq
    freed (dropTeam s2 tk t) t.cluster

/-- A kill in the kill log of a die (R340). -/
def logKill (s : State) (die kcode fcode : Nat) (ident : BitVec 32) : State :=
  let k := look .reset s.sched.kills die
  let n : KillLog :=
    if k.valid then { k with ovf := true }
    else { valid := true, ovf := false, kcode := BitVec.ofNat 8 kcode, fcode := BitVec.ofNat 8 fcode, team := ident }
  { s with sched := { s.sched with kills := put s.sched.kills die n } }

/-- The record of a killed team runs again (R339): an uncorrectable scratchpad error, IDEM set, the first run. -/
def relaunches (t : Team) (kcode : Nat) : Bool := decide (kcode = 2) && bitW (nth 0 t.words 0) 11 && !t.resumed && !t.relaunch

/-- A team is killed (R337, R339). -/
def killTeam (s : State) (tk kcode fcode : Nat) : State :=
  match find? s.teams tk with
  | none => s
  | some t =>
    let s1 := logKill s (dieOf t.cluster) kcode fcode t.ident
    if relaunches t kcode then
      let s2 := abandonRoutines (flushTeam s1 t.ident) t.ident
      let (ib, tb) := returned s2 tk
      let s3 := freed (dropTeam (creditQueue s2 t.home ib tb) tk t) t.cluster
      pushWork s3 (.recordArrival
        { queue := t.home, tag := (viewQ s3 t.home).tag, words := t.words, origin := .relaunch t.dseq t.ti t.node, exempt := t.exempt })
    else finishTeam s1 tk true

/-! ### END, CPT, YIELD -/

/-- Transfers of a group that END and a parking CPT wait for (R325), and release stores that have not been performed. -/
def draining (s : State) (gk : Nat) : Bool := s.moves.any (fun m => decide (m.2.group = gk))

/-- Every lane of a group has ended. -/
def groupEnded (g : Group) : Bool := (List.range g.lanes.length).all (inMask g.ended)

/-- Every group of a team has ended (R195). -/
def teamEnded (s : State) (tk : Nat) : Bool := s.groups.all (fun e => decide (e.2.team ≠ tk) || decide (e.1 ≥ 49152) || groupEnded e.2)

/-- END in a routine: the completion store, and the hart is free (R309, R487). -/
def endRoutine (s : State) (c : Ctx) (h : Nat) : State :=
  let x := hartOf s h
  pushWork (freeHart (scratchPut8 s c.team x.word x.value) h) (.engineRoutineStart h)

/-- END: the lanes of the stream end, and with its last group the team (R134, R195, R439). -/
def endEffect (s : State) (c : Ctx) : State :=
  match c.st.hart with
  | some h => endRoutine s c h
  | none =>
    let gone := (lanesIn c.grp c.st.members).map Prod.snd
    let s1 := withdraw s (fun r => gone.contains r.lane)
    let s2 := modGroup { s1 with streams := del s1.streams c.sid } c.st.group (fun g =>
      let e := g.ended ||| c.st.members
      { g with ended := e, mode := if groupEnded { g with ended := e } then .single else g.mode })
    let s3 := rebank s s2 c.team.cluster c.st.team
    let s4 := if c.st.handler then leaveHandler s3 c.st.team c.st.group c.first.1 true else s3
    if teamEnded s4 c.st.team then finishTeam (releaseCluster s4 c.team.cluster) c.st.team false else s4

/-- END (R439). -/
def endPlan (s : State) (c : Ctx) (_ : List Vals) : Plan :=
  if draining s c.st.group || (c.routine && decide (c.st.pend ≠ [])) then .wait .drain else .own endEffect

/-- The team of a stream is yield pending. -/
def yieldPending (s : State) (tk : Nat) : Bool := match find? s.teams tk with | some t => t.pend.isSome | none => false

/-- A stream parks at a continuation point: at a CPT, or with a full save that resumes at the next instruction (R154, R155). -/
def parkPoint (full : Bool) (s : State) (sid : Nat) : State := if full then park (advance s sid) sid .yielded else park s sid .cpt

/-- A group goes to a continuation point, once its transfers have completed or faulted (R325). -/
def goPark (full : Bool) (s : State) (sid : Nat) : State :=
  match find? s.streams sid with
  | some st => if draining s st.group then park s sid (.parking full) else parkPoint full s sid
  | none => s

/-- A parked stream whose wait is over goes on. -/
def resumeStream (s : State) (sid : Nat) : State :=
  match (find? s.streams sid).bind Stream.park with
  | some (.parking full) => goPark full s sid
  | some (.status d v sw) => giveStatus d sw v s sid
  | _ => settleStream s sid

/-- CPT (R154): it declares, and parks when the team is yield pending once its charge is taken. -/
def cptPlan (n : BitVec 7) (imm : BitVec 17) (_ : State) (_ : Ctx) (_ : List Vals) : Plan :=
  if n.toNat > 96 then .illegal
  else
    .own (fun t e =>
      let t1 := modStream t e.sid (fun st => { st with contpc := (branchTarget e.st.pc imm).setWidth 55, contlive := n })
      if e.team.pend.isSome then goPark false t1 e.sid else advance t1 e.sid)

/-- YIELD, and YIELD.IF whose condition is met (R155, R441): the team is yield pending at once. -/
def yieldPlan (met : Ctx → List Vals → Bool) (_ : State) (c : Ctx) (vs : List Vals) : Plan :=
  if !met c vs then .go (fun t _ => t)
  else .own (fun t e => goPark (decide (e.st.contpc = 0)) (pendYield t e.st.team 4 0) e.sid)

/-- ib < A, A by uniform read (R423, R441). -/
def belowBudget (c : Ctx) (vs : List Vals) : Bool :=
  match vs with
  | v :: _ => decide ((readBudget c.team c.team.ib).toNat < v.a.toNat)
  | [] => false

/-! ### BTOP -/

/-- The team a full identifier names (R174). -/
def teamNamed (s : State) (ident : Nat) : Option Team :=
  match find? s.teams (ident % 65536) with
  | some t => if t.ident.toNat = ident then some t else none
  | none => none

/-- A top-up of a team whose issue a yield has stopped: it goes to word 1 of the continuation (R160). -/
def topUpStopped (s : State) (tk ib tb : Nat) (x : Stopped) : State :=
  modTeam s tk (fun t => { t with stopped := some { x with addIb := x.addIb + ib, addTb := x.addTb + tb } })

/-- A top-up of a team that may run (R160, R173): it cancels a yield of cause 1 or 2 when both budgets are above 0 and nothing rules
that out. -/
def topUpRunning (s : State) (tk ib tb : Nat) : State :=
  let s1 := giveBudget s tk ib tb
  match find? s1.teams tk with
  | none => s1
  | some t =>
    match t.pend with
    | none => s1
    | some g =>
      if g.cause ≤ 2 && !g.nocan && decide (t.ib ≠ 0) && decide (t.tb ≠ 0) then
        let s2 := modTeam s1 tk (fun x => { x with pend := none })
        { s2 with
          streams := each (fun _ st =>
            if st.team = tk ∧ (st.park = some .cpt ∨ st.park = some (.parking false)) then { st with park := none, pc := st.contpc.setWidth 64, fetch := none } else st)
            s2.streams }
      else s1

/-- A top-up (R160, R173). -/
def topUp (s : State) (tk ib tb : Nat) : State :=
  match (find? s.teams tk).bind Team.stopped with
  | some x => topUpStopped s tk ib tb x
  | none => topUpRunning s tk ib tb

/-- The capability of a user-level BTOP does not cover its target (R173). -/
def topUpBarred (s : State) (c : Ctx) (v : Vals) : Bool :=
  decide (privOf s c = 0) &&
    (!bitW c.team.budcap 63 ||
      match teamNamed s (v.a.toNat % 2 ^ 32) with
      | some t => decide (t.domain ≠ bitsW c.team.budcap 11 0)
      | none => false)

/-- One lane's BTOP (R173, R442). -/
def btopLane (traffic : Bool) (d : RegName) (c : Ctx) (s : State) (v : Vals) : State :=
  let n := Nat.min v.b.toNat (2 ^ 32 - 1)
  let ib := if traffic then 0 else n
  let tb := if traffic then n else 0
  let pool := bitsW c.team.budcap 41 32
  match teamNamed s (v.a.toNat % 2 ^ 32) with
  | none => writeLater s c v.ln v.pos d 1
  | some t =>
    if t.exempt then writeLater s c v.ln v.pos d 3
    else if privOf s c = 0 then
      if canFund s pool ib tb then writeLater (topUp (drawPool s pool ib tb) (v.a.toNat % 65536) ib tb) c v.ln v.pos d 0
      else writeLater s c v.ln v.pos d 2
    else writeLater (topUp s (v.a.toNat % 65536) ib tb) c v.ln v.pos d 0

/-- BTOP (R442). -/
def btopPlan (traffic : Bool) (d : RegName) (s : State) (c : Ctx) (vs : List Vals) : Plan :=
  planFaults ((vs.filter (topUpBarred s c)).map (fun v => { ln := v.ln, code := 0x02, addr := 0, detail := 0x6D }))
    (.go (fun t e => vs.foldl (btopLane traffic d e) t))

/-! ### Inboxes -/

/-- An inbox descriptor (R443). -/
structure InboxView where
  valid   : Bool
  domain  : Nat
  logsize : Nat
  tag     : Nat
  rbase   : Nat
  head    : Nat
  tail    : Nat
  deriving DecidableEq, Repr

/-- The local PA of an inbox descriptor. -/
def inboxAt (s : State) (n : Nat) : Nat := s.ctl.inbbase.toNat + 32 * n

/-- A descriptor read at its home; one with a reserved bit set, or a bad LOGSIZE, is not valid (R443). -/
def viewInbox (s : State) (n : Nat) : InboxView :=
  let w0 := rawRead s (inboxAt s n) 8
  let w1 := rawRead s (inboxAt s n + 8) 8
  let w2 := rawRead s (inboxAt s n + 16) 8
  let w3 := rawRead s (inboxAt s n + 24) 8
  let log := bitsN w0 44 40
  let good := bitN w0 63 && decide (bitsN w0 62 60 = 0 ∧ bitsN w0 47 45 = 0 ∧ bitsN w0 39 16 = 0 ∧ bitsN w1 63 55 = 0 ∧ w3 = 0 ∧ 1 ≤ log ∧ log ≤ 20)
  { valid := good, domain := bitsN w0 59 48, logsize := log, tag := bitsN w0 15 0, rbase := bitsN w1 54 0
    head := bitsN w2 63 32, tail := bitsN w2 31 0 }

/-- A message handle passes the descriptor's check (R444). -/
def inboxOk (s : State) (p : Option Nat) (v : InboxView) (tag : Nat) : Bool :=
  v.valid && decide (v.tag = tag)
    && match partOfDom s v.domain with | some e => decide (some e.1 = p) | none => true

/-- The entry at an index of a ring, translated by the Z5 (R445, R447). -/
def inboxEntry (s : State) (v : InboxView) (i : Nat) (need : Need) : Except XFault (State × Xlat) :=
  translateLocal s [] v.domain (word (v.rbase + 64 * (i % 2 ^ v.logsize))) need false

/-- HEAD and TAIL of a descriptor written. -/
def setInbox (s : State) (n head tail : Nat) : State :=
  rawWrite s (inboxAt s n + 16) 8 (head % 2 ^ 32 * 2 ^ 32 + tail % 2 ^ 32)

/-- A waiting MSGRECV lane's result once its message is known, or 1 for no message: the status, and the run (R447). -/
def answerRecv (s : State) (sid seq : Nat) (dests : List Dest) (status : Word) (msg : List Word) : State :=
  let s1 := modPend s sid seq (fun p =>
    { p with
      await := .nothing
      writes := p.writes.filterMap (fun w =>
        match dests.findIdx? (fun d => decide (d = w.1)) with
        | some i => if status = 0 then some (w.1, nth 0 msg i) else none
        | none => some (w.1, status)) })
  pushWork s1 (.resultWriteback sid seq)

/-- A waiting MSGRECV lane takes the entry at HEAD, if there is one (R447): an acquire load of device scope (R289). -/
def takeMessage (s : State) (seq : Nat) : State :=
  match findPend s seq with
  | none => s
  | some (sid, p) =>
    match p.await with
    | .message n k dests _ =>
      let v := viewInbox s n
      if !v.valid || decide (v.head = v.tail) then s
      else
        let va := v.rbase + 64 * (v.head % 2 ^ v.logsize)
        match inboxEntry s v v.head ⟨true, false, false⟩ with
        | .error f => pushWork (failPend s sid seq f.code (word va) f.detail) (.resultWriteback sid seq)
        | .ok (t, x) =>
          if rangeBad t x.key x.local_ 64 then pushWork (failPend t sid seq 0x18 (word va) 0) (.resultWriteback sid seq)
          else
            let msg := (List.range k).map (fun i => word (homeRead t x.key (x.local_ + 8 * i) 8))
            let t1 := setInbox t n (v.head + 1) v.tail
            let t2 := match ctxOf t1 sid with | some c => acquireLane t1 c p.lane .device | none => t1
            answerRecv t2 sid seq dests 0 msg
    | _ => s

/-- The results that wait for a message of an inbox, in order of issue. -/
def receivers (s : State) (n : Nat) : List Nat :=
  let all := s.streams.flatMap (fun e => e.2.pend.filterMap (fun p => match p.await with | .message m _ _ _ => if m = n then some p.seq else none | _ => none))
  all.foldl insertN []

/-- An append to an inbox of this device (R445): the status. Waiting lanes then take entries (R447). -/
def appendMessage (s : State) (n : Nat) (msg : List Word) : State × Nat :=
  let v := viewInbox s n
  if between v.head v.tail = 2 ^ v.logsize then (s, 1)
  else
    match inboxEntry s v v.tail ⟨false, true, false⟩ with
    | .error _ => (s, 3)
    | .ok (t, x) =>
      let t1 := setInbox (homeWrite t x.key x.local_ (recBytes msg)) n v.head (v.tail + 1)
      ((receivers t1 n).foldl takeMessage t1, 0)

/-- An append to an inbox of a peer (R446): a packet, whose acknowledgement gives the status. -/
def appendRemote (d : RegName) (c : Ctx) (s : State) (v : Vals) (msg : List Word) : State :=
  let handle := v.a.toNat % 2 ^ 32
  let dev := BitVec.ofNat 12 (bitsW v.a 43 32)
  let k := trackFor s c.team
  let s1 := trackUp s c.team.ident k 1
  let p := request s1 6 dev 0 c.team.domain 0 ((msg.length - 1) * 2 ^ 25) (spread 8 handle ++ msg.flatMap (fun w => spread 8 w.toNat))
  match sendPacket s1 p with
  | none => writeLater (trackDown (inboxFail s1 k dev.toNat handle) c.team.ident k 1) c v.ln v.pos d 3
  | some s2 =>
    let s3 := issueResult s2 c v.pos (resultTo s2 c v.ln v.pos d 0) (.append (nextTag s1))
    fly s3 c.team.ident dev 0 k (.inbox handle c.sid s2.seq) [] (some (.ackTimeout (nextTag s1)))

/-- One lane's MSGAPP (R445, R446): a release store of device scope (R289), 1 sector (R149). -/
def msgappLane (d : RegName) (c : Ctx) (s : State) (e : Vals × List Word) : State :=
  let s1 := chargeSectors (releaseLane s c e.1.pos .device) c 1
  if bitsW e.1.a 43 32 ≠ s1.fab.id.toNat then appendRemote d c s1 e.1 e.2
  else
    let (s2, k) := appendMessage s1 (bitsW e.1.a 31 16) e.2
    writeLater s2 c e.1.ln e.1.pos d (word k)

/-- The fault of an inbox operand (R444, R447). -/
def inboxFaults (recv : Bool) (major : Nat) (s : State) (c : Ctx) (vs : List Vals) : List LaneFault :=
  let mine (v : Vals) : Bool := decide (bitsW v.a 43 32 = s.fab.id.toNat)
  let good (v : Vals) : Bool :=
    decide (bitsW v.a 63 44 = 0)
      && (if mine v then
            let b := viewInbox s (bitsW v.a 31 16)
            inboxOk s c.team.part b (bitsW v.a 15 0) && (!recv || decide (b.domain = c.team.domain))
          else !recv)
  (vs.filter (fun v => !good v)).map (fun v => { ln := v.ln, code := 0x14, addr := word (v.a.toNat % 2 ^ 32), detail := major })

/-- MSGAPP (R445). -/
def msgappPlan (d b : RegName) (n : Nat) (s : State) (c : Ctx) (vs : List Vals) : Plan :=
  let es := vs.map (fun v => (v, readRun s c v.pos b n))
  planFaults (inboxFaults false 0x6E s c vs) (.go (fun t e => es.foldl (msgappLane d e) t))

/-- One lane's MSGRECV (R447): it takes an entry, or waits for B[31:0] cycles. -/
def msgrecvLane (d : RegName) (n : Nat) (c : Ctx) (s : State) (v : Vals) : State :=
  let dests := (runFields (fieldOf d + 1) n).map (destOfField s c.st v.pos)
  let mine := dests.filter (fun x => match x with | .k _ => decide (v.ln = c.first.1) | .reg _ => true)
  let wait := v.b.toNat % 2 ^ 32
  let s1 := issueResult (chargeSectors s c 1) c v.pos (resultTo s c v.ln v.pos d 0 ++ mine.map (fun x => (x, 0)))
    (.message (bitsW v.a 31 16) n dests (s.cycle + wait))
  let s2 := takeMessage s1 s.seq
  match findPend s2 s.seq with
  | some (_, p) =>
    match p.await with
    | .message _ _ _ _ =>
      if wait = 0 then answerRecv s2 c.sid s.seq dests 1 [] else pushTimer s2 wait (.msgrecvTimeout c.sid s.seq)
    | _ => s2
  | none => s2

/-- MSGRECV (R447). -/
def msgrecvPlan (d : RegName) (n : Nat) (s : State) (c : Ctx) (vs : List Vals) : Plan :=
  planFaults (inboxFaults true 0x6F s c vs) (.go (fun t e => vs.foldl (msgrecvLane d n e) t))

/-- A waiting MSGRECV lane gives up: status 1, its run unchanged (R447). -/
def giveUpRecv (s : State) (seq : Nat) : State :=
  match findPend s seq with
  | none => s
  | some (sid, p) =>
    match p.await with
    | .message _ _ dests _ => answerRecv s sid seq dests 1 []
    | _ => s

/-- The end of a MSGRECV's timeout (R447). -/
def timeoutRecv (s : State) (seq : Nat) : State :=
  match findPend s seq with
  | none => s
  | some (_, p) =>
    match p.await with
    | .message _ _ _ u => if s.cycle ≥ u then giveUpRecv s seq else s
    | _ => s

/-- MSGRECV_TIMEOUT (R447). -/
def execMsgrecvTimeout (_stream seq : Nat) (s : State) : Host.Outcome State Fault Refusal := .next (timeoutRecv s seq)

/-- ENQ (R437). -/
def execEnq (sw : Bool) (d a b : RegName) (s : State) :
    Host.Outcome State Fault Refusal :=
  issue s 0x68 0 sw { dst := some d, a := some a, runs := [(b, 8)] } (enqPlan d b)

/-- SPAWN_LOCAL (R438). -/
def execSpawnLocal (sw : Bool) (d b : RegName) (s : State) :
    Host.Outcome State Fault Refusal :=
  issue s 0x69 0 sw { dst := some d, runs := [(b, 8)] } (spawnPlan false d b)

/-- SPAWN_DIE (R438). -/
def execSpawnDie (sw : Bool) (d b : RegName) (s : State) :
    Host.Outcome State Fault Refusal :=
  issue s 0x69 1 sw { dst := some d, runs := [(b, 8)] } (spawnPlan true d b)

/-- END (R439). -/
def execEndOp (sw : Bool) (s : State) :
    Host.Outcome State Fault Refusal :=
  issue s 0x6A 0 sw {} endPlan

/-- CPT (R440). -/
def execCpt (sw : Bool) (n : BitVec 7) (imm : BitVec 17) (s : State) :
    Host.Outcome State Fault Refusal :=
  issue s 0x6B 0 sw {} (cptPlan n imm)

/-- YIELD (R441). -/
def execYield (sw : Bool) (s : State) :
    Host.Outcome State Fault Refusal :=
  issue s 0x6C 0 sw {} (yieldPlan (fun _ _ => true))

/-- YIELD_IF (R441). -/
def execYieldIf (sw : Bool) (a : RegName) (s : State) :
    Host.Outcome State Fault Refusal :=
  issue s 0x6C 1 sw { a := some a } (yieldPlan belowBudget)

/-- BTOP_IB (R442). -/
def execBtopIb (sw : Bool) (d a b : RegName) (s : State) :
    Host.Outcome State Fault Refusal :=
  issue s 0x6D 0 sw { dst := some d, a := some a, b := some b } (btopPlan false d)

/-- BTOP_TB (R442). -/
def execBtopTb (sw : Bool) (d a b : RegName) (s : State) :
    Host.Outcome State Fault Refusal :=
  issue s 0x6D 1 sw { dst := some d, a := some a, b := some b } (btopPlan true d)

/-- MSGAPP (R445). -/
def execMsgapp (sw : Bool) (d a b : RegName) (n : BitVec 3) (s : State) :
    Host.Outcome State Fault Refusal :=
  issue s 0x6E n.toNat sw { dst := some d, a := some a, runs := [(b, (n.toNat + 1))] } (msgappPlan d b (n.toNat + 1))

/-- MSGRECV (R447). -/
def execMsgrecv (sw : Bool) (d a b : RegName) (n : BitVec 3) (s : State) :
    Host.Outcome State Fault Refusal :=
  issueWith s 0x6F n.toNat sw { dst := some d, a := some a, b := some b } (runFields (fieldOf d + 1) (n.toNat + 1)) (msgrecvPlan d (n.toNat + 1))

end Sys2Proof.Machine
end

