-- ==== Sys2Proof/Machine/Matrix.lean ====
section
/-!
DEFINITION. Matrix and tiles: accumulators and claims, format slots, operand descriptors, TMMA by engine steps, TRD, TWR and
TCVT, and tile stores (R488 to R517).
-/

namespace Sys2Proof.Machine

open Sys2Proof

/-! ### Accumulators and claims -/

/-- The key of element `e` of a pipeline's tile (R488): row 8 × ⌊e / 8⌋, column e mod 8. -/
def tileKey (pipe t e : Nat) : Nat := 64 * (64 * pipe + t) + e

/-- An element of a lane's slice. -/
def tileGet (s : State) (pipe t e : Nat) : BitVec 32 := look 0 s.tiles (tileKey pipe t e)

/-- An element of a slice written. -/
def tilePut (s : State) (pipe t e : Nat) (v : BitVec 32) : State := { s with tiles := keep 0 s.tiles (tileKey pipe t e) v }

/-- Two elements that share a protected doubleword written: an error there is cleared (R493). -/
def tilePair (s : State) (pipe t e : Nat) (lo hi : BitVec 32) : State :=
  let s1 := tilePut (tilePut s pipe t e lo) pipe t (e + 1) hi
  { s1 with tileErr := removeN s1.tileErr (tileKey pipe t e / 2) }

/-- A slice holds an uncorrectable error (R493). -/
def tileBad (s : State) (pipe t : Nat) : Bool := (List.range 32).any (fun n => s.tileErr.contains (tileKey pipe t 0 / 2 + n))

/-- The pipelines a tile instruction of a stream claims: all of a fused group's, else the lane's own (R489). -/
def claimPipes (c : Ctx) : List Nat := (lanesIn c.grp c.st.members).map (fun e => pipeOf e.2)

/-- The claim can be made: no pipeline's tiles are held by another team (R489). -/
def canClaim (s : State) (tk : Nat) (pipes : List Nat) : Bool :=
  pipes.all (fun p => match find? s.owners p with | some o => decide (o = tk) | none => true)

/-- All 64 tiles of a pipeline hold the given contents. -/
def fillTiles (s : State) (pipe : Nat) (m : SMap (BitVec 32)) : State :=
  let s1 := { s with tiles := s.tiles.filter (fun e => decide (e.1 / 4096 ≠ pipe)), tileErr := s.tileErr.filter (fun d => decide (d / 2048 ≠ pipe)) }
  m.foldl (fun t e => { t with tiles := keep 0 t.tiles (4096 * pipe + e.1 % 4096) e.2 }) s1

/-- The claim of a pipeline's tiles: zero, or what a forced yield saved (R489). -/
def claimPipe (tk : Nat) (s : State) (pipe : Nat) : State :=
  match find? s.owners pipe with
  | some _ => s
  | none =>
    let key := 6144 * tk + pipe
    let s1 := fillTiles s pipe (look [] s.restore key)
    { s1 with owners := put s1.owners pipe tk, restore := del s1.restore key }

/-- A tile instruction: it waits for its tiles, claims them, then takes effect (R489). -/
def withTiles (s : State) (c : Ctx) (eff : State → Ctx → State) : Plan :=
  if canClaim s c.st.team (claimPipes c) then
    .go (fun t e => eff ((claimPipes e).foldl (claimPipe e.st.team) t) e)
  else .wait .tileClaim

/-- The same for an instruction that sets the pc itself. -/
def withTilesOwn (s : State) (c : Ctx) (eff : State → Ctx → State) : Plan :=
  match withTiles s c eff with
  | .go f => .own f
  | p => p

/-- A stream parked on tiles goes on when it can claim them (R489). -/
def retryClaim (s : State) (sid : Nat) : State :=
  match ctxOf s sid with
  | none => s
  | some c =>
    if c.st.park = some .tileClaim ∧ canClaim s c.st.team (claimPipes c) then unpark s sid else s

/-! ### TZERO, TRD, TWR, TCVT, FMT, LUT4 -/

/-- A slice of zeros. -/
def zeroSlice (t : Nat) (s : State) (v : Vals) : State :=
  (List.range 32).foldl (fun u n => tilePair u (pipeOf v.pos) t (2 * n) 0 0) s

/-- TZERO (R510). -/
def tzeroPlan (t : Nat) (s : State) (c : Ctx) (vs : List Vals) : Plan := withTiles s c (fun u _ => vs.foldl (zeroSlice t) u)

/-- The first element of the pair x[b] names (R510). -/
def pairOf (b : Word) : Nat := 8 * (b.toNat % 32 / 4) + 2 * (b.toNat % 4)

/-- One lane's TRD (R510). -/
def trdLane (t : Nat) (d : RegName) (c : Ctx) (s : State) (v : Vals) : State :=
  let p := pipeOf v.pos
  let e := pairOf v.b
  if s.tileErr.contains (tileKey p t e / 2) then doom s c.st.team 0x02 0
  else writeLater s c v.ln v.pos d ((tileGet s p t (e + 1)) ++ (tileGet s p t e))

/-- TRD (R510). -/
def trdPlan (t : Nat) (d : RegName) (s : State) (c : Ctx) (vs : List Vals) : Plan :=
  withTiles s c (fun u e => vs.foldl (trdLane t d e) u)

/-- TWR (R510). -/
def twrPlan (t : Nat) (s : State) (c : Ctx) (vs : List Vals) : Plan :=
  withTiles s c (fun u _ => vs.foldl (fun (w : State) (v : Vals) =>
    tilePair w (pipeOf v.pos) t (pairOf v.b) (v.a.setWidth 32) ((v.a >>> 32).setWidth 32)) u)

/-- The target of a TCVT and its bits per element (R511). -/
def cvtTarget (n : Nat) : Option (NumFmt × Nat) :=
  match n with
  | 0 => some (.ieee bf16, 16) | 1 => some (.ieee fp16, 16) | 2 => some (.e4m3, 8) | 3 => some (.e5m2, 8)
  | 4 => some (.t8, 8) | 5 => some (.t6, 8) | _ => none

/-- A control value TCVT refuses (R511). -/
def cvtBad (b : Word) : Bool :=
  decide (bitsW b 63 13 ≠ 0) || bitW b 11 || decide (bitsW b 7 4 ≠ 0)
    || match cvtTarget (bitsW b 10 8) with | none => true | some (_, w) => bitW b 3 && decide (w = 8)

/-- Elements converted in ascending order: the results, the flags, and the generator's state (R386, R511). -/
def cvtAll (f : NumFmt) (sr : Bool) (st : Stream) : Nat → List (BitVec 32) → List Nat × Nat × Nat
  | seed, [] => ([], 0, seed)
  | seed, v :: r =>
    let next := if sr then xorshift seed else seed
    let one := encodeNum (if sr then .sr next else roundingIn st) f (decodeF fp32 v.toNat)
    let rest := cvtAll f sr st next r
    (one.1 :: rest.1, flagsOr one.2 rest.2.1, rest.2.2)

/-- One lane's TCVT (R511). -/
def tcvtLane (t : Nat) (d : RegName) (c : Ctx) (s : State) (v : Vals) : State :=
  match cvtTarget (bitsW v.b 10 8) with
  | none => s
  | some (f, w) =>
    let p := pipeOf v.pos
    let row := 8 * bitsW v.b 2 0
    let first := if w = 16 ∧ bitW v.b 3 then row + 4 else row
    let n := 64 / w
    if (List.range (n / 2)).any (fun i => s.tileErr.contains (tileKey p t first / 2 + i)) then doom s c.st.team 0x02 0
    else
      let sr := bitW v.b 12
      let (rs, fl, seed) := cvtAll f sr c.st (laneOf s v.pos).seed.toNat ((List.range n).map (fun i => tileGet s p t (first + i)))
      let res := word (rs.foldr (fun x a => x % 2 ^ w + 2 ^ w * a) 0)
      let s1 := if sr then modLane s v.pos (fun x => { x with seed := word seed }) else s
      raiseFlags (writeLater s1 c v.ln v.pos d res) c.sid fl

/-- TCVT (R511). -/
def tcvtPlan (t : Nat) (d : RegName) (s : State) (c : Ctx) (vs : List Vals) : Plan :=
  planFaults ((vs.filter (fun v => cvtBad v.b)).map (fun v => { ln := v.ln, code := 0x15, addr := 0, detail := 1 }))
    (withTiles s c (fun u e => vs.foldl (tcvtLane t d e) u))

/-- FMT (R498). -/
def fmtPlan (n : Nat) (_ : State) (_ : Ctx) (vs : List Vals) : Plan :=
  .go (fun t e => match vs with | v :: _ => modStream t e.sid (fun st => { st with fmts := keep 0 st.fmts n v.a }) | [] => t)

/-- LUT4 (R382, R499). -/
def lut4Plan (_ : State) (_ : Ctx) (vs : List Vals) : Plan :=
  .go (fun t e => match vs with
    | v :: _ => { t with clusters := put t.clusters e.team.cluster { clusterAt t e.team.cluster with lut0 := v.a, lut1 := v.b } }
    | [] => t)

/-! ### Geometry and formats -/

/-- Block columns C of a group of width w (R490). -/
def blockCols (w : Nat) : Nat := if w = 1 then 1 else if w ≤ 4 then 2 else 4

/-- Rows M and columns N of its tile. -/
def tileRows (w : Nat) : Nat := 8 * (w / blockCols w)
def tileCols (w : Nat) : Nat := 8 * blockCols w

/-- The first row and column of a lane's block. -/
def blockRow (w ln : Nat) : Nat := 8 * (ln / blockCols w)
def blockCol (w ln : Nat) : Nat := 8 * (ln % blockCols w)

/-- ks of a format code, 0 for a reserved code (R496). -/
def stepLen (code : Nat) : Nat := if code ≤ 1 then 8 else if code ≤ 4 then 16 else if code ≤ 6 then 32 else 0

/-- Element size of a format code in half bytes (R496). -/
def halfBytes (code : Nat) : Nat := if code ≤ 1 then 4 else if code = 6 then 1 else 2

/-- A block's length along K (R497). -/
def blockLen (n : Nat) : Nat := match n with | 1 => 16 | 2 => 32 | 3 => 64 | _ => 0

/-- An operand of a TMMA: its descriptor and its format slot (R497, R500), whether it is B, and the function (R501). -/
structure MatArg where
  dw0 : Word
  dw1 : Word
  fmt : Word
  isB : Bool
  fn  : Nat
  deriving DecidableEq, Repr

def MatArg.inreg (o : MatArg) : Bool := bitW o.dw0 63
def MatArg.steps (o : MatArg) : Nat := bitsW o.dw0 47 32
def MatArg.base (o : MatArg) : Nat := if o.inreg then bitsW o.dw0 6 0 else bitsW o.dw0 18 0
def MatArg.rot (o : MatArg) : Nat := bitsW o.dw1 42 40
def MatArg.tpitch (o : MatArg) : Nat := bitsW o.dw1 31 16
def MatArg.rpitch (o : MatArg) : Nat := bitsW o.dw1 15 0
def MatArg.code (o : MatArg) : Nat := bitsW o.fmt 3 0
def MatArg.block (o : MatArg) : Nat := blockLen (bitsW o.fmt 5 4)
def MatArg.ks (o : MatArg) : Nat := stepLen o.code

/-- kb: positions of a step in this operand (R501). -/
def MatArg.kb (o : MatArg) : Nat := if o.isB && decide (o.fn = 4) then 2 * o.ks else o.ks

/-- nr: registers of a step (R502). -/
def MatArg.nr (o : MatArg) : Nat := o.kb * halfBytes o.code / 2

/-- The operand is rejected for `steps` engine steps (R500 to R503). -/
def MatArg.bad (o : MatArg) (steps : Nat) : Bool :=
  decide (bitsW o.dw0 62 48 ≠ 0 ∨ bitsW o.dw0 31 19 ≠ 0 ∨ bitsW o.dw1 63 51 ≠ 0 ∨ bitsW o.dw1 47 43 ≠ 0 ∨ bitsW o.dw1 39 32 ≠ 0)
    || decide (bitsW o.fmt 63 48 ≠ 0 ∨ bitsW o.fmt 31 27 ≠ 0 ∨ bitsW o.fmt 7 6 ≠ 0 ∨ o.code > 6)
    || decide (o.block ≠ 0 ∧ o.code ≤ 1) || decide (o.rot > 5) || decide (o.rpitch % 8 ≠ 0 ∨ o.tpitch % 8 ≠ 0)
    || (if o.inreg then
          decide (bitsW o.dw0 18 7 ≠ 0 ∨ o.base > 95 ∨ o.rpitch ≠ 0 ∨ o.tpitch ≠ 0 ∨ o.rot ≠ 0 ∨ o.base + steps * o.nr > 96)
            || !(decide (o.fn = 0) || (o.isB && decide (o.fn = 4)))
        else decide (o.base % 8 ≠ 0))
    || (decide (o.isB = true ∧ o.steps ≠ 0) || decide (o.isB = false ∧ o.steps = 0))
    || decide (o.block ≠ 0 ∧ steps * o.kb % o.block ≠ 0)

/-- Stored row and column of row or column `a` at position `q` of a step (R501). -/
def MatArg.stored (o : MatArg) (a q : Nat) : Nat × Nat :=
  if o.isB then (if o.fn = 2 ∨ o.fn = 3 then (a, q) else (q, a)) else if o.fn = 1 ∨ o.fn = 3 then (q, a) else (a, q)

/-- The physical scratchpad offset of an element's first byte, and its stored column (R265, R501). -/
def MatArg.offset (o : MatArg) (step a q : Nat) : Nat × Nat :=
  let (sr, sc) := o.stored a q
  ((o.base + step * o.tpitch + sr * o.rpitch + sc * halfBytes o.code / 2) ^^^ (sr % 2 ^ o.rot * 8), sc)

/-- The bytes of scratchpad that a step reads for rows or columns `first` to `first + 7` of an operand: elements, and scales
of logical positions `k0` to `k0 + len − 1` (R497, R501). -/
def MatArg.reads (o : MatArg) (step first k0 len : Nat) : List Nat :=
  let rows := (List.range 8).map (first + ·)
  let elems := if o.inreg then []
    else rows.flatMap (fun a => (List.range o.kb).flatMap (fun q =>
      let p := (o.offset step a q).1
      if halfBytes o.code = 4 then [p, p + 1] else [p]))
  let scales := if o.block = 0 then []
    else rows.flatMap (fun a => (List.range ((k0 + len - 1) / o.block - k0 / o.block + 1)).map (fun i =>
      bitsW o.fmt 26 8 + a * bitsW o.fmt 47 32 + (k0 / o.block + i)))
  elems ++ scales

/-- The code of an element (R500 to R502). `i` counts within the lane's block. -/
def MatArg.fetch (o : MatArg) (s : State) (c : Ctx) (pos step a i q : Nat) : Nat :=
  let byteAt : Nat → Nat := fun n =>
    if o.inreg then bitsN (readField s c pos (o.base + step * o.nr + n / 8)).toNat (8 * (n % 8) + 7) (8 * (n % 8))
    else (look 0 s.scratch (scratchPlace c.team n)).toNat
  let (p, sc) := if o.inreg then
      (let e := if o.isB then q * 8 + i else i * o.ks + q
       (e * halfBytes o.code / 2, e))
    else o.offset step a q
  match halfBytes o.code with
  | 4 => byteAt p + 256 * byteAt (p + 1)
  | 1 => if sc % 2 = 0 then byteAt p % 16 else byteAt p / 16
  | _ => byteAt p

/-- The value of a code under a cluster's L4 table (R382, R496). -/
def codeValue (k : Cluster) (code v : Nat) : FVal :=
  match code with
  | 0 => decodeNum (.ieee bf16) v
  | 1 => decodeNum (.ieee fp16) v
  | 2 => decodeNum .e4m3 v
  | 3 => decodeNum .e5m2 v
  | 4 => decodeNum .t8 v
  | 5 => decodeNum .t6 (v % 64)
  | _ =>
    let n := signedW ((if v % 16 < 8 then k.lut0 else k.lut1) >>> (8 * (v % 8))) 8
    .fin (decide (n < 0)) n.natAbs 0

/-- The scale of a row or column at logical position k: its exponent, none for a NaN (R380, R381, R497). -/
def MatArg.scale (o : MatArg) (s : State) (c : Ctx) (a k : Nat) : Option Int :=
  if o.block = 0 then some 0
  else
    let u := (look 0 s.scratch (scratchPlace c.team (bitsW o.fmt 26 8 + a * bitsW o.fmt 47 32 + k / o.block))).toNat
    if u = 255 then none else some ((u : Int) - 127)

/-! ### TMMA -/

/-- The operands of a TMMA of a stream. -/
def matArgs (st : Stream) (m : Tmma) : MatArg × MatArg :=
  ({ dw0 := m.a0, dw1 := m.a1, fmt := look 0 st.fmts (bitsW m.a1 50 48), isB := false, fn := m.fn },
   { dw0 := m.b0, dw1 := m.b1, fmt := look 0 st.fmts (bitsW m.b1 50 48), isB := true, fn := m.fn })

/-- MSTREAM.OFF (R508). -/
def metaBase (st : Stream) : Nat := bitsW st.mstream 18 0

/-- The offset of the metadata entry of a step, tile row and group (R508). -/
def metaAt (st : Stream) (w ks step row g : Nat) : Nat := metaBase st + 2 * ((step * tileRows w + row) * (ks / 4) + g)

/-- A metadata entry. -/
def metaEntry (s : State) (c : Ctx) (ks step row g : Nat) : Nat := scratchGet s c.team (metaAt c.st c.width ks step row g) 2

/-- A metadata entry is malformed (R509). -/
def metaBad (v : Nat) : Bool :=
  let n := bitsN v 14 12
  bitN v 15 || decide (n > 4)
    || (List.range (n - 1)).any (fun x => decide (bitsN v (3 * x + 2) (3 * x) ≥ bitsN v (3 * x + 5) (3 * x + 3)))

/-- Logical positions of a step. -/
def logicalLen (m : Tmma) (a : MatArg) : Nat := if m.fn = 4 then 2 * a.ks else a.ks

/-- The scratchpad bytes a step reads for one lane (R497, R501, R508). -/
def stepReads (st : Stream) (w : Nat) (m : Tmma) (ln step : Nat) : List Nat :=
  let (a, b) := matArgs st m
  let len := logicalLen m a
  a.reads step (blockRow w ln) (step * len) len ++ b.reads step (blockCol w ln) (step * len) len
    ++ (if m.fn = 4 then
          (List.range 8).flatMap (fun i => (List.range (a.ks / 4)).flatMap (fun g =>
            let o := metaAt st w a.ks step (blockRow w ln + i) g
            [o, o + 1]))
        else [])

/-- The lowest number of a list. -/
def leastOf : List Nat → Option Nat
  | [] => none
  | n :: r => match leastOf r with | some m => some (Nat.min n m) | none => some n

/-- The lowest offset outside the allocation that the remaining steps would read for a lane (R503). Offsets never fall from
step to step but within 256 aligned bytes, and the limit is a multiple of 4,096: the last step tells whether any is. -/
def outOfBounds (c : Ctx) (m : Tmma) (ln steps : Nat) : Option Nat :=
  let lim := scratchLimit c.team
  let beyond (step : Nat) : List Nat := (stepReads c.st c.width m ln step).filter (fun o => decide (o ≥ lim))
  if steps ≤ m.next ∨ beyond (steps - 1) = [] then none
  else leastOf ((List.range (steps - m.next)).flatMap (fun i => beyond (m.next + i)))

/-- The first register of an operand's run that lies outside a lane's allocation (R203, R503). -/
def regOutside (s : State) (c : Ctx) (pos : Nat) (o : MatArg) (next steps : Nat) : Option Nat :=
  let lim := (laneOf s pos).alloc - c.st.wbase.toNat
  let last := o.base + steps * o.nr
  if !o.inreg || decide (steps ≤ next) || decide (last ≤ lim) then none else some (Nat.max lim (o.base + next * o.nr))

/-- The operand a TMMA rejects, if any (R503): DETAIL of code 0x15. -/
def operandFault (st : Stream) (m : Tmma) : Option Nat :=
  let (a, b) := matArgs st m
  if a.bad a.steps || (bitW st.tprog 31 && decide (m.next ≥ a.steps)) || (decide (m.fn = 4) && decide (metaBase st % 2 = 1)) then some 0
  else if b.bad a.steps || decide (a.ks ≠ b.ks) then some 1
  else none

/-- The causes a TMMA finds in each lane before any step (R503). -/
def tmmaFaults (s : State) (c : Ctx) (m : Tmma) (vs : List Vals) : List LaneFault :=
  let (a, b) := matArgs c.st m
  let n := a.steps
  vs.flatMap (fun v =>
    (match operandFault c.st m with
      | some d => [({ ln := v.ln, code := 0x15, addr := 0, detail := d } : LaneFault)]
      | none => [])
    ++ [a, b].filterMap (fun o => (regOutside s c v.pos o m.next n).map (fun r => { ln := v.ln, code := 0x0E, addr := 0, detail := r }))
    ++ (if a.ks ≠ b.ks ∨ a.ks = 0 then []
        else match outOfBounds c m v.ln n with
          | some o => [{ ln := v.ln, code := 0x0D, addr := word o, detail := 0 }]
          | none => []))

/-- The engine steps a TMMA has performed already (R504). -/
def stepsDone (st : Stream) : Nat := if bitW st.tprog 31 then bitsW st.tprog 15 0 else 0

/-- TMMA (R504): after the checks the stream parks, and its engine steps follow. -/
def tmmaPlan (fn t : Nat) (a b : RegName) (sw : Bool) (s : State) (c : Ctx) (vs : List Vals) : Plan :=
  match vs with
  | [] => .go (fun u _ => u)
  | v :: _ =>
    let ra := readRun s c v.pos a 2
    let rb := readRun s c v.pos b 2
    let m : Tmma := { tile := t, fn := fn, a0 := nth 0 ra 0, a1 := nth 0 ra 1, b0 := nth 0 rb 0, b1 := nth 0 rb 1
                      next := stepsDone c.st, sw := sw }
    planFaults (tmmaFaults s c m vs) (withTilesOwn s c (fun u e =>
      pushTimer (modStream u e.sid (fun st => { st with tmma := some m, park := some .tmma })) 5 (.tmmaEngineStep e.sid)))

/-- The value and scale of A at row i of a lane's block and logical position q of a step (R501, R508). -/
def aValue (s : State) (c : Ctx) (k : Cluster) (m : Tmma) (a : MatArg) (pos row0 step i q : Nat) : FVal × Option Int :=
  let row := row0 + i
  if m.fn = 4 then
    let e := metaEntry s c a.ks step row (q / 8)
    let sc := a.scale s c row (step * (2 * a.ks) + q)
    match (List.range (bitsN e 14 12)).find? (fun x => decide (bitsN e (3 * x + 2) (3 * x) = q % 8)) with
    | some x => (codeValue k a.code (a.fetch s c pos step row i (q / 8 * 4 + x)), sc)
    | none => (.fin false 0 0, sc)
  else (codeValue k a.code (a.fetch s c pos step row i q), a.scale s c row (step * a.ks + q))

/-- The value and scale of B at position q of a step and column j of a lane's block. -/
def bValue (s : State) (c : Ctx) (k : Cluster) (b : MatArg) (pos col0 step j q : Nat) : FVal × Option Int :=
  (codeValue k b.code (b.fetch s c pos step (col0 + j) j q), b.scale s c (col0 + j) (step * b.kb + q))

/-- A product term of an engine step (R388). -/
def stepTerm (x y : FVal × Option Int) : Term :=
  match x.2, y.2 with
  | some p, some q => termOf x.1 y.1 (p + q) false
  | _, _ => termOf x.1 y.1 0 true

/-- The exact integer product of two L4 elements (R389). -/
def stepProduct (x y : FVal) : Int :=
  match x, y with
  | .fin na ma _, .fin nb mb _ => signedOf (na != nb) (ma * mb)
  | _, _ => 0

/-- An engine step on one lane's slice (R388, R389, R504): operands and the accumulator as they stand before it. -/
def stepLane (c : Ctx) (m : Tmma) (step : Nat) (s : State) (e : Nat × Nat) : State :=
  let (a, b) := matArgs c.st m
  let k := clusterAt s c.team.cluster
  let p := pipeOf e.2
  let len := logicalLen m a
  let ints := decide (a.code = 6 ∧ b.code = 6 ∧ a.block = 0 ∧ b.block = 0)
  let av := (List.range 8).map (fun i => (List.range len).map (aValue s c k m a e.2 (blockRow c.width e.1) step i))
  let bv := (List.range 8).map (fun j => (List.range len).map (bValue s c k b e.2 (blockCol c.width e.1) step j))
  let out (n : Nat) : BitVec 32 :=
    let xs := (nth [] av (n / 8)).zip (nth [] bv (n % 8))
    let acc := tileGet s p m.tile n
    if ints then BitVec.ofInt 32 (satS (acc.toInt + xs.foldl (fun t x => t + stepProduct x.1.1 x.2.1) 0) 32)
    else BitVec.ofNat 32 (accumulate acc.toNat (xs.map (fun x => stepTerm x.1 x.2)))
  ((List.range 64).map (fun n => (n, out n))).foldl (fun t x => tilePut t p m.tile x.1 x.2) s

/-- The lanes whose rows hold a malformed entry in a step (R509). -/
def malformedLanes (s : State) (c : Ctx) (m : Tmma) : List (Nat × Nat) :=
  let ks := (matArgs c.st m).1.ks
  if m.fn ≠ 4 then []
  else c.lanes.filter (fun e => (List.range 8).any (fun i => (List.range (ks / 4)).any (fun g =>
    metaBad (metaEntry s c ks m.next (blockRow c.width e.1 + i) g))))

/-- A TMMA stops at a step boundary, its progress in TPROG (R507). -/
def stopTmma (s : State) (sid : Nat) : State :=
  modStream s sid (fun st =>
    match st.tmma with
    | some m => { st with tprog := word (2 ^ 31 + m.next), tmma := none, park := if st.park = some .tmma then none else st.park }
    | none => st)

/-- The last step is written: TPROG is zero and the stream goes on (R504). -/
def endTmma (s : State) (sid : Nat) (sw : Bool) : State :=
  switchPoint (advance (modStream s sid (fun st => { st with tprog := 0, tmma := none, park := none })) sid) sid sw

/-- The next engine step of a stream's TMMA (R504, R507, R509): a halt stops it, malformed metadata raises the step fault, an
uncorrectable error kills the team; a step performed is charged 8 units (R148). -/
def engineStep (s : State) (sid : Nat) : State :=
  match ctxOf s sid with
  | none => s
  | some c =>
    match c.st.tmma with
    | none => s
    | some m =>
      if c.st.park ≠ some .tmma then s
      else if c.st.haltIn = some 0 then stopTmma s sid
      else
        let bad := malformedLanes s c m
        let n := (matArgs c.st m).1.steps
        if c.lanes.any (fun e => (stepReads c.st c.width m e.1 m.next).any (fun o => scratchBad s c.team o 1) || tileBad s (pipeOf e.2) m.tile)
        then doom s c.st.team 0x02 0
        else if bad ≠ [] then
          runEffect (stopTmma s sid) sid (fun t e =>
            raise t e (bad.map (fun l => { ln := l.1, code := 0x16, addr := c.st.mstream, detail := m.next })))
        else
          let s1 := chargeIssue (c.lanes.foldl (stepLane c m m.next) s) c 8
          if m.next + 1 ≥ n then endTmma s1 sid m.sw
          else pushTimer (modStream s1 sid (fun st => { st with tmma := some { m with next := m.next + 1 } })) 1 (.tmmaEngineStep sid)

/-! ### TST and TSTA -/

/-- Which tile store: format, and addition (R512, R513). -/
inductive TileStore where
  | f32 | bf16 | f16 | addF32 | addS32
  deriving DecidableEq, Repr

/-- Bytes of an element at the destination (R513). -/
def TileStore.size : TileStore → Nat | .bf16 => 2 | .f16 => 2 | _ => 4

/-- The store adds to what stands at the destination (R516). -/
def TileStore.adds : TileStore → Bool | .addF32 => true | .addS32 => true | _ => false

/-- The kind of its transfer. -/
def TileStore.kind (k : TileStore) (mem : Bool) : Nat :=
  match k with | .addF32 => 3 | .addS32 => 4 | _ => if mem then 2 else 1

/-- An element's bytes as stored (R513). -/
def TileStore.bytes (k : TileStore) (v : BitVec 32) : List Byte :=
  match k with
  | .bf16 => spread 2 (encodeF Sys2Proof.Machine.bf16 .rne (decodeF fp32 v.toNat)).1
  | .f16 => spread 2 (encodeF fp16 .rne (decodeF fp32 v.toNat)).1
  | _ => spread 4 v.toNat

/-- The bytes a tile store writes, by offset from its destination (R513). -/
def tileBytes (s : State) (c : Ctx) (k : TileStore) (t pitch : Nat) : List (Nat × Byte) :=
  c.lanes.flatMap (fun e => (List.range 64).flatMap (fun n =>
    let off := (blockRow c.width e.1 + n / 8) * pitch + (blockCol c.width e.1 + n % 8) * k.size
    let bs := k.bytes (tileGet s (pipeOf e.2) t n)
    (List.range bs.length).map (fun i => (off + i, nth 0 bs i))))

/-- The granules a lane's block covers, by offset / 32. -/
def laneGranules (w : Nat) (k : TileStore) (pitch ln : Nat) : List Nat :=
  (List.range 8).flatMap (fun i =>
    let off := (blockRow w ln + i) * pitch + blockCol w ln * k.size
    (List.range ((off % 32 + 8 * k.size + 31) / 32)).map (off / 32 + ·))

/-- All granules of the active lanes, ascending. -/
def tileGranules (c : Ctx) (k : TileStore) (pitch : Nat) : List Nat :=
  (c.lanes.flatMap (fun e => laneGranules c.width k pitch e.1)).foldl insertN []

/-- The granules of a destination translated, in order (R514). -/
def granulePages (c : Ctx) (dst : Word) : State → List Nat → State × List (Nat × Except XFault Xlat)
  | s, [] => (s, [])
  | s, g :: r =>
    match permAny s c.tlbs c.team.domain (dst + word (32 * g)) ⟨false, true, false⟩ (userOf s c) with
    | .error f => let (t, l) := granulePages c dst s r; (t, (g, .error f) :: l)
    | .ok (u, x) => let (t, l) := granulePages c dst u r; (t, (g, .ok x) :: l)

/-- The leaves under which granules were translated (R258). -/
def pageLeaves (l : List (Nat × Except XFault Xlat)) : List TlbEntry :=
  l.foldl (fun m p => match p.2 with | .ok x => underLeaf m x.leaf | .error _ => m) []

/-- The first granule lies on a peer page (R515). -/
def toPeer (s : State) (l : List (Nat × Except XFault Xlat)) : Bool :=
  match l with
  | (_, .ok x) :: _ => x.peer s
  | _ => false

/-- The control value's faults (R512, R513). -/
def tileControlBad (w : Nat) (k : TileStore) (ctl : Word) : Bool :=
  let pitch := bitsW ctl 19 0
  decide (bitsW ctl 63 37 ≠ 0 ∨ bitsW ctl 31 20 ≠ 0) || decide (pitch % (8 * k.size) ≠ 0) || decide (pitch < tileCols w * k.size)

/-- Runs of at most 8 consecutive granules (R515). -/
def granuleRuns : List Nat → List (List Nat)
  | [] => []
  | g :: r =>
    match granuleRuns r with
    | (h :: l) :: q => if h = g + 1 ∧ (h :: l).length < 8 then (g :: h :: l) :: q else [g] :: (h :: l) :: q
    | q => [g] :: q

/-- The faults that only a peer destination has (R515): a granule that is not covered whole, a tile that leaves its window or
has more parts than a packet can number, or BV. -/
def peerFaults (c : Ctx) (k : TileStore) (dst ctl : Word) (gs : List Nat) : List LaneFault :=
  let pitch := bitsW ctl 19 0
  let n := c.lanes.length * 64 * k.size
  let out := gs.find? (fun g => decide ((dst.toNat % 65536) + 32 * g ≥ 65536))
  (match out with | some g => everyLane c 0x0C (dst + word (32 * g)) 0 | none => [])
    ++ (if bitW ctl 36 || decide (pitch % 32 ≠ 0) || decide (tileCols c.width * k.size % 32 ≠ 0) || decide (32 * gs.length ≠ n)
          || decide ((granuleRuns gs).length > 32) then everyLane c 0x15 0 1 else [])

/-- The precise faults of translating a local destination: the page's cause in each lane whose block it takes (R514); on-touch
failures are late (R183). -/
def localFaults (s : State) (c : Ctx) (k : TileStore) (dst : Word) (pitch : Nat) (l : List (Nat × Except XFault Xlat)) : List LaneFault :=
  c.lanes.flatMap (fun e =>
    let mine := laneGranules c.width k pitch e.1
    (l.filter (fun p => mine.contains p.1)).filterMap (fun p =>
      match p.2 with
      | .error f => if f.code = 0x12 ∨ f.code = 0x13 then none
                    else some { ln := e.1, code := f.code, addr := dst + word (32 * p.1), detail := f.detail }
      | .ok x => if x.peer s then some { ln := e.1, code := 0x0A, addr := dst + word (32 * p.1), detail := 0 } else none))

/-- The cells of granules up to the first that failed, and that failure. -/
def granuleCells (c : Ctx) (dst : Word) (bytes : List (Nat × Byte)) :
    State → Nat → List (Nat × Except XFault Xlat) → State × List (Nat × KeySel × List (Nat × Byte)) × Option (Nat × Nat × Nat × Nat)
  | s, _, [] => (s, [], none)
  | s, n, (g, .error f) :: _ => (s, [], some (n, f.code, (dst + word (32 * g)).toNat, 0))
  | s, n, (g, .ok x) :: r =>
    let (t, y) := dirtied s c.tlbs (dst + word (32 * g)) ⟨false, true, false⟩ (userOf s c) x
    let (u, cs, e) := granuleCells c dst bytes t (n + 1) r
    (u, (y.local_, y.key, (bytes.filter (fun b => decide (b.1 / 32 = g))).map (fun b => (b.1 % 32, b.2))) :: cs, e)

/-- A transfer starts: PEND of its barrier rises (R517). -/
def startTransfer (s : State) (m : Transfer) : State :=
  let s1 := addMove s m
  let s2 := match m.bar with | some n => modBar s1 m.team n (fun b => { b with pend := b.pend + 1 }) | none => s1
  pushWork s2 (.tileTransferDone s.seq)

/-- A tile store to scratchpad or local memory at issue (R513, R514): the tile is read, the pages are translated. -/
def storeLocal (k : TileStore) (t : Nat) (dst ctl : Word) (s : State) (c : Ctx) : State :=
  let pitch := bitsW ctl 19 0
  let bytes := tileBytes s c k t pitch
  let gs := tileGranules c k pitch
  let base : Transfer :=
    { team := c.st.team, group := c.st.group, lane := c.first.2, pc := c.st.pc, dom := c.team.domain
      bar := if bitW ctl 36 then some (bitsW ctl 35 32) else none, kind := k.kind (!bitW dst 63), toMem := !bitW dst 63
      src := [], fault := none, va := dst, dst := bitsW dst 18 0, size := bytes.length, cells := [], leaves := [] }
  if bitW dst 63 then
    let off := bitsW dst 18 0
    let bad := gs.any (fun g => !scratchIn c.team (off + 32 * g) 32)
    startTransfer s
      { base with
        fault := if bad then some (0, 0x0D, off, 0) else none
        cells := gs.map (fun g => (off + 32 * g, .clear, (bytes.filter (fun b => decide (b.1 / 32 = g))).map (fun b => (b.1 % 32, b.2)))) }
  else
    let (s1, l) := granulePages c dst s gs
    let (s2, cells, f) := granuleCells c dst bytes s1 0 l
    startTransfer (chargeSectors s2 c (ceilDiv bytes.length 256)) { base with fault := f, cells := cells, leaves := pageLeaves l }

/-- The parts of a tile sent to a peer (R54, R68, R515): each counts as one element and shares the tile's tag. -/
def storePeer (k : TileStore) (t : Nat) (ctl : Word) (s : State) (c : Ctx) (x : Xlat) : State :=
  let pitch := bitsW ctl 19 0
  let bytes := tileBytes s c k t pitch
  let runs := granuleRuns (tileGranules c k pitch)
  let n := runs.length
  let tk := trackFor s c.team
  let tag := nextTag s % 2 ^ 23 + (if k.adds then 0 else 2 ^ 23)
  let byteAt (o : Nat) : Byte := match bytes.find? (fun b => decide (b.1 = o)) with | some b => b.2 | none => 0
  let s1 := trackUp (chargeSectors s c (ceilDiv bytes.length 256)) c.team.ident tk n
  let send (u : State) (p : Nat × List Nat) : State :=
    let go := (x.pa % 65536) / 32 + (match p.2 with | g :: _ => g | [] => 0)
    let spec := go * 2 ^ 17 + (p.2.length - 1) * 2 ^ 14 + (if k = .addS32 then 2 ^ 13 else 0) + p.1 * 2 ^ 8 + (n - 1) * 2 ^ 3
    let q := { request u 4 (devOf x) (winOf x) c.team.domain 0 spec (p.2.flatMap (fun g => listBytes byteAt 32 (32 * g))) with tag := BitVec.ofNat 24 tag }
    match sendPacket u q with
    | none => trackDown (partFail u tk (devOf x).toNat (winOf x).toNat (32 * go) p.1 3) c.team.ident tk 1
    | some v =>
      let f : InFlight := { tag := tag, team := c.team.ident, dev := devOf x, win := winOf x, track := tk
                            what := .tilePart p.1 (32 * go) 0, due := some (v.cycle + ackCycles v), leaves := [x.leaf] }
      pushTimer { v with fab := { v.fab with flights := v.fab.flights ++ [f] } } (ackCycles v) (.ackTimeout tag)
  useTag (((List.range n).zip runs).foldl send s1)

/-- TST and TSTA (R512 to R516). -/
def tilePlan (k : TileStore) (t : Nat) (s : State) (c : Ctx) (vs : List Vals) : Plan :=
  match vs with
  | [] => .go (fun u _ => u)
  | v :: _ =>
    let dst := v.a
    let ctl := v.b
    let gs := tileGranules c k (bitsW ctl 19 0)
    let bar := if bitW ctl 36 then some (bitsW ctl 35 32) else none
    let common :=
      (if bitW dst 63 ∧ bitsW dst 62 19 ≠ 0 then everyLane c 0x03 dst 0 else [])
        ++ (if dst.toNat % 32 ≠ 0 then everyLane c 0x0C dst 0 else [])
        ++ (if tileControlBad c.width k ctl then everyLane c 0x15 0 1 else [])
    let pages := if bitW dst 63 then (s, []) else granulePages c dst s gs
    let peer := toPeer pages.1 pages.2
    let more := if bitW dst 63 then [] else if peer then peerFaults c k dst ctl gs else localFaults pages.1 c k dst (bitsW ctl 19 0) pages.2
    let full := match bar with | some n => decide ((barOf c.team n).pend.toNat ≥ 65535) | none => false
    planFaults (common ++ more)
      (if full then .wait (.pendFull (bitsW ctl 35 32))
       else withTiles s c (fun u e =>
         if e.lanes.any (fun l => tileBad u (pipeOf l.2) t) then doom u e.st.team 0x02 0
         else if peer then
           match granulePages e dst u (gs.take 1) with
           | (w, (g, .ok x) :: _) =>
             let (z, y) := dirtied w e.tlbs (dst + word (32 * g)) ⟨false, true, false⟩ (userOf w e) x
             storePeer k t ctl z e { y with pa := y.pa - 32 * g }
           | _ => u
         else storeLocal k t dst ctl u e))

/-- Bytes written to scratchpad by a granule: whole doublewords (R266, R310). -/
def putGranule (t : Team) (s : State) (e : Nat × KeySel × List (Nat × Byte)) : State :=
  e.2.2.foldl (fun u b =>
    let a := scratchPlace t (e.1 + b.1)
    { u with scratch := keep 0 u.scratch a b.2, scErr := removeN u.scErr (a / 8) }) s

/-- Bytes of a granule written at their home. -/
def homeGranule (s : State) (e : Nat × KeySel × List (Nat × Byte)) : State :=
  e.2.2.foldl (fun u b => homeWrite u e.2.1 (e.1 + b.1) [b.2]) s

/-- The elements of a granule added to what it finds (R516): `rd` reads four bytes. -/
def addCells (kind : Nat) (rd : Nat → Nat) (bs : List (Nat × Byte)) : List (Nat × Byte) :=
  ((List.range 8).filter (fun i => bs.any (fun b => decide (b.1 = 4 * i)))).flatMap (fun i =>
    let v := joinBytes ((bs.filter (fun b => decide (b.1 / 4 = i))).map Prod.snd)
    let old := rd (4 * i)
    let n := if kind = 3 then memAdd fp32 old v else lowBits (satS (signedN old 32 + signedN v 32) 32) 32
    let out := spread 4 n
    (List.range 4).map (fun j => (4 * i + j, nth 0 out j)))

/-- The banks that serve a group's lanes (R514). -/
def groupBanks (s : State) (gk : Nat) : List Nat :=
  match find? s.groups gk with
  | some g => (g.lanes.flatMap (fun p => banksFor s (pipeOf p))).foldl insertN []
  | none => []

/-- A tile store to scratchpad: granules in order, or one addition (R310, R311, R514). -/
def landScratch (s : State) (t : Team) (m : Transfer) : State × Option (Nat × Nat × Nat × Nat) :=
  match m.fault with
  | some f => (s, some f)
  | none =>
    if m.kind = 1 then (m.cells.foldl (putGranule t) s, none)
    else if m.cells.any (fun e => e.2.2.any (fun b => scratchBad s t (e.1 + b.1) 1)) then (doom s m.team 0x02 0, none)
    else
      (m.cells.foldl (fun u e =>
        putGranule t u (e.1, e.2.1, addCells m.kind (fun o => scratchGet u t (e.1 + o) 4) e.2.2)) s, none)

/-- A tile store to local memory (R272, R310, R311, R335, R514, R516). -/
def landMemory (s : State) (m : Transfer) : State × Option (Nat × Nat × Nat × Nat) :=
  let s1 := m.cells.foldl (fun u e => evictRange u (groupBanks u m.group) e.1 32) s
  if m.kind = 2 then (m.cells.foldl homeGranule s1, m.fault.map (fun f => (f.1, f.2.1, f.2.2.1, f.1)))
  else
    match m.fault with
    | some f => (s1, some (0, f.2.1, f.2.2.1, 0))
    | none =>
      match m.cells.find? (fun e => homeBad s1 e.2.1 e.1) with
      | some _ => (s1, some (0, 0x18, m.va.toNat, 0))
      | none =>
        (m.cells.foldl (fun u e =>
          homeGranule u (e.1, e.2.1, addCells m.kind (fun o => homeRead u e.2.1 (e.1 + o) 4) e.2.2)) s1, none)

/-- A tile transfer ends (R517): PEND falls, and a failure is a late fault of the issuing lane. -/
def landTile (s : State) (id : Nat) : State :=
  match find? s.moves id with
  | none => s
  | some m =>
    if m.kind = 0 ∨ m.kind ≥ 5 then s
    else
      let s0 := { s with moves := del s.moves id }
      match find? s0.teams m.team with
      | none => s0
      | some t =>
        let (s1, f) := if m.toMem then landMemory s0 m else landScratch s0 t m
        let s2 := match m.bar with | some n => modBar s1 m.team n (fun b => { b with pend := b.pend - 1 }) | none => s1
        match f with
        | some (_, code, addr, detail) => lateFault s2 m.team { lane := m.lane, code := code, addr := word addr, detail := detail, pc := m.pc }
        | none => s2

/-! ### The events -/

/-- TMMA_ENGINE_STEP (R504). -/
def execTmmaEngineStep (stream : Nat) (s : State) : Host.Outcome State Fault Refusal := .next (engineStep s stream)

/-- TILE_CLAIM_RETRY (R489). -/
def execTileClaimRetry (stream : Nat) (s : State) : Host.Outcome State Fault Refusal := .next (retryClaim s stream)

/-- TILE_TRANSFER_DONE (R517). -/
def execTileTransferDone (id : Nat) (s : State) : Host.Outcome State Fault Refusal := .next (landTile s id)

/-- FMT (R498). -/
def execFmt (sw : Bool) (a : RegName) (n : BitVec 3) (s : State) :
    Host.Outcome State Fault Refusal :=
  issue s 0x70 n.toNat sw { a := some a } (fmtPlan n.toNat)

/-- LUT4 (R499). -/
def execLut4 (sw : Bool) (a b : RegName) (s : State) :
    Host.Outcome State Fault Refusal :=
  issue s 0x71 0 sw { a := some a, b := some b } lut4Plan

/-- TZERO (R510). -/
def execTzero (sw : Bool) (t : BitVec 6) (s : State) :
    Host.Outcome State Fault Refusal :=
  issue s 0x72 0 sw {} (tzeroPlan t.toNat)

/-- TRD (R510). -/
def execTrd (sw : Bool) (t : BitVec 6) (a b : RegName) (s : State) :
    Host.Outcome State Fault Refusal :=
  issue s 0x72 1 sw { dst := some a, b := some b } (trdPlan t.toNat a)

/-- TWR (R510). -/
def execTwr (sw : Bool) (t : BitVec 6) (a b : RegName) (s : State) :
    Host.Outcome State Fault Refusal :=
  issue s 0x72 2 sw { a := some a, b := some b } (twrPlan t.toNat)

/-- TCVT (R511). -/
def execTcvt (sw : Bool) (t : BitVec 6) (a b : RegName) (s : State) :
    Host.Outcome State Fault Refusal :=
  issue s 0x72 3 sw { dst := some a, b := some b } (tcvtPlan t.toNat a)

/-- TMMA_NN (R504). -/
def execTmmaNn (sw : Bool) (t : BitVec 6) (a b : RegName) (s : State) :
    Host.Outcome State Fault Refusal :=
  issue s 0x73 0 sw { runs := [(a, 2), (b, 2)] } (tmmaPlan 0 t.toNat a b sw)

/-- TMMA_TN (R504). -/
def execTmmaTn (sw : Bool) (t : BitVec 6) (a b : RegName) (s : State) :
    Host.Outcome State Fault Refusal :=
  issue s 0x73 1 sw { runs := [(a, 2), (b, 2)] } (tmmaPlan 1 t.toNat a b sw)

/-- TMMA_NT (R504). -/
def execTmmaNt (sw : Bool) (t : BitVec 6) (a b : RegName) (s : State) :
    Host.Outcome State Fault Refusal :=
  issue s 0x73 2 sw { runs := [(a, 2), (b, 2)] } (tmmaPlan 2 t.toNat a b sw)

/-- TMMA_TT (R504). -/
def execTmmaTt (sw : Bool) (t : BitVec 6) (a b : RegName) (s : State) :
    Host.Outcome State Fault Refusal :=
  issue s 0x73 3 sw { runs := [(a, 2), (b, 2)] } (tmmaPlan 3 t.toNat a b sw)

/-- TMMA_SP (R508). -/
def execTmmaSp (sw : Bool) (t : BitVec 6) (a b : RegName) (s : State) :
    Host.Outcome State Fault Refusal :=
  issue s 0x73 4 sw { runs := [(a, 2), (b, 2)] } (tmmaPlan 4 t.toNat a b sw)

/-- TST_F32 (R512). -/
def execTstF32 (sw : Bool) (t : BitVec 6) (a b : RegName) (s : State) :
    Host.Outcome State Fault Refusal :=
  issue s 0x74 0 sw { a := some a, b := some b } (tilePlan .f32 t.toNat)

/-- TST_BF16 (R512). -/
def execTstBf16 (sw : Bool) (t : BitVec 6) (a b : RegName) (s : State) :
    Host.Outcome State Fault Refusal :=
  issue s 0x74 1 sw { a := some a, b := some b } (tilePlan .bf16 t.toNat)

/-- TST_F16 (R512). -/
def execTstF16 (sw : Bool) (t : BitVec 6) (a b : RegName) (s : State) :
    Host.Outcome State Fault Refusal :=
  issue s 0x74 2 sw { a := some a, b := some b } (tilePlan .f16 t.toNat)

/-- TSTA_F32 (R516). -/
def execTstaF32 (sw : Bool) (t : BitVec 6) (a b : RegName) (s : State) :
    Host.Outcome State Fault Refusal :=
  issue s 0x75 0 sw { a := some a, b := some b } (tilePlan .addF32 t.toNat)

/-- TSTA_S32 (R516). -/
def execTstaS32 (sw : Bool) (t : BitVec 6) (a b : RegName) (s : State) :
    Host.Outcome State Fault Refusal :=
  issue s 0x75 1 sw { a := some a, b := some b } (tilePlan .addS32 t.toNat)

end Sys2Proof.Machine
end

