-- ==== Sys2Proof/Machine/Sched.lean ====
section
/-!
DEFINITION. Scheduling: team shapes, placement, launch checks, new and resumed teams, dispatch decisions, promotion, claims,
deques, stealing and grids (R106 to R120, R126 to R132, R136, R140, R161, R163, R167, R193, R320).
-/

namespace Sys2Proof.Machine

open Sys2Proof

/-! ### Handles and role tables -/

/-- The local PA of a handle entry of a domain (R361); none beyond LAST or without a valid root entry. -/
def handleAt (s : State) (dom index : Nat) : Option Nat :=
  let root := word (rawRead s (s.ctl.ghtroot.toNat + 8 * dom) 8)
  if !bitW root 63 || decide (index > bitsW root 55 40) then none else some (bitsW root 39 6 * 64 + 64 * index)

/-- A word of a handle entry (R362). -/
def handleWord (s : State) (dom index w : Nat) : Word :=
  match handleAt s dom index with
  | some a => word (rawRead s (a + 8 * w) 8)
  | none => 0

/-- A role layout: groups and registers of roles 0 to 3; none when it is absent or cannot be read (R196, R362). -/
def roleTable (s : State) (g : Geode) (layout : Nat) : Option (List (Nat × Nat)) :=
  let w := handleWord s g.dom g.index 3
  if layout > bitsW w 35 32 then none
  else
    match domRead s g.dom (g.base + bitsW w 31 0 + 16 * (layout - 1)) 16 with
    | none => none
    | some v => some ((List.range 4).map (fun i => (bitsN (v / 2 ^ (32 * i)) 7 0, bitsN (v / 2 ^ (32 * i)) 25 16)))

/-- The registers of group `gi` by its role, the roles taken in layout order (R118). -/
def roleRegs : List (Nat × Nat) → Nat → Nat → Nat
  | [], _, d => d
  | (n, r) :: t, gi, d => if gi < n then r else roleRegs t (gi - n) d

/-! ### Shapes (R106, R118) -/

def recGeode (ws : List Word) : Nat := bitsW (nth 0 ws 0) 63 48
def recEntry (ws : List Word) : Nat := bitsW (nth 0 ws 0) 47 40
def recLogw (ws : List Word) : Nat := bitsW (nth 0 ws 0) 39 37
def recGroups (ws : List Word) : Nat := bitsW (nth 0 ws 0) 36 29 + 1
def recRegs (ws : List Word) : Nat := 32 * (bitsW (nth 0 ws 0) 28 25 + 1)
def recScratch (ws : List Word) : Nat := bitsW (nth 0 ws 0) 24 17
def recRoles (ws : List Word) : Nat := bitsW (nth 0 ws 0) 16 13
def recGrid (ws : List Word) : Bool := bitW (nth 0 ws 0) 12
def recCount (ws : List Word) : Nat := bitsW (nth 0 ws 4) 31 0

/-- What a team needs: its group width, the registers of each lane in layout order, scratchpad units, and the pipeline at which
its run must stand, if that is settled. -/
structure Shape where
  w     : Nat
  regs  : List Nat
  units : Nat
  run   : Option Nat
  deriving DecidableEq, Repr

/-- The shape a record asks for. -/
def shapeOf (s : State) (dom : Nat) (ws : List Word) : Shape :=
  let w := 2 ^ recLogw ws
  let roles := if recRoles ws = 0 then none else (handleOf s dom (recGeode ws)).bind (fun g => roleTable s g (recRoles ws))
  let regs := (List.range (recGroups ws * w)).map (fun n =>
    match roles with | some t => roleRegs t (n / w) (recRegs ws) | none => recRegs ws)
  { w := w, regs := regs, units := recScratch ws, run := none }

/-- What is taken of a cluster: positions 8 × pipeline + slot, register ranges by pipeline, scratchpad units. -/
structure Usage where
  pos  : List Nat
  regs : List (Nat × Nat × Nat)
  sc   : List (Nat × Nat)
  deriving DecidableEq, Repr

/-- A cluster's use, some teams left out. -/
def usageOf (s : State) (c : Nat) (skip : List Nat) : Usage :=
  let ls := s.lanes.filter (fun e => decide (clusterOf e.1 = c) && !skip.contains e.2.team)
  let ts := s.teams.filter (fun e => decide (e.2.cluster = c) && !skip.contains e.1)
  { pos := ls.map (fun e => e.1 % 128) ++ ts.flatMap (fun e => e.2.spare.map (· % 128))
    regs := ls.map (fun e => (e.1 % 128 / 8, e.2.base, e.2.alloc))
    sc := ts.map (fun e => (e.2.scBase, e.2.scUnits)) }

/-- Two ranges have no number in common. -/
def apart (a n b m : Nat) : Bool := decide (a + n ≤ b ∨ b + m ≤ a)

/-- Bases for allocations on one pipeline, each the lowest with which the others still find theirs (R118). -/
def allocPipe : List Nat → List (Nat × Nat) → Option (List Nat)
  | [], _ => some []
  | a :: r, used =>
    (List.range 64).findSome? (fun i =>
      if 32 * i + a ≤ 2048 ∧ used.all (fun u => apart (32 * i) a u.1 u.2) then
        (allocPipe r ((32 * i, a) :: used)).map (32 * i :: ·)
      else none)

/-- The registers that lanes ask for on a pipeline. -/
def askedOn (lanes : List (Nat × Nat)) (p : Nat) : List Nat := (lanes.filter (fun l => decide (l.1 = p))).map Prod.snd

/-- The ranges taken on a pipeline. -/
def takenOn (u : Usage) (p : Nat) : List (Nat × Nat) := (u.regs.filter (fun r => decide (r.1 = p))).map Prod.snd

/-- The pipelines on which registers are missing. -/
def lackingPipes (u : Usage) (lanes : List (Nat × Nat)) : List Nat :=
  (List.range 16).filter (fun p => (allocPipe (askedOn lanes p) (takenOn u p)).isNone)

/-- Register bases for lanes given by pipeline and count, in order. -/
def allocAll (u : Usage) (lanes : List (Nat × Nat)) : Option (List Nat) :=
  if lackingPipes u lanes ≠ [] then none
  else
    some ((List.range lanes.length).map (fun n =>
      let p := (nth (0, 0) lanes n).1
      let rank := ((lanes.take n).filter (fun l => decide (l.1 = p))).length
      match allocPipe (askedOn lanes p) (takenOn u p) with | some l => nth 0 l rank | none => 0))

/-- The smallest power of two at least `n`, for n up to 16. -/
def powerAbove (n : Nat) : Nat := if n ≤ 1 then 1 else if n ≤ 2 then 2 else if n ≤ 4 then 4 else if n ≤ 8 then 8 else 16

/-- Whole free rows of a cluster (R118). -/
def freeRows (u : Usage) : List Nat := (List.range 8).filter (fun r => (List.range 16).all (fun p => !u.pos.contains (8 * p + r)))

/-- The positions a shape may take, lane by lane, with the run's positions beyond its lanes (R118). -/
def positionsFor (u : Usage) (sh : Shape) : List (List Nat × List Nat) :=
  let n := sh.regs.length
  let rows := (freeRows u).take (n / 16)
  if rows.length < n / 16 then []
  else
    let main := rows.flatMap (fun r => (List.range 16).map (fun p => 8 * p + r))
    let m := n % 16
    if m = 0 then [(main, [])]
    else
      let len := powerAbove m
      ((List.range 8).filter (fun r => !rows.contains r)).flatMap (fun r =>
        ((List.range (16 / len)).filter (fun k => match sh.run with | some p => decide (len * k = p) | none => true)).filterMap (fun k =>
          let run := (List.range len).map (fun i => 8 * (len * k + i) + r)
          if run.any u.pos.contains then none else some (main ++ run.take m, run.drop m)))

/-- The lowest free scratchpad range (R118). -/
def scratchFor (u : Usage) (units : Nat) : Option Nat :=
  if units = 0 then some 0
  else (List.range 129).find? (fun b => decide (b + units ≤ 128) && u.sc.all (fun e => decide (e.2 = 0) || apart b units e.1 e.2))

/-- Where a team goes on a cluster. -/
structure Placement where
  pos   : List Nat
  bases : List Nat
  spare : List Nat
  sc    : Nat
  deriving DecidableEq, Repr

/-- Lanes by pipeline and registers. -/
def lanePairs (sh : Shape) (pos : List Nat) : List (Nat × Nat) := (pos.map (· / 8)).zip sh.regs

/-- A team fits a cluster when positions, registers and scratchpad are free at once (R118). -/
def fitIn (u : Usage) (sh : Shape) : Option Placement :=
  match scratchFor u sh.units with
  | none => none
  | some b =>
    (positionsFor u sh).findSome? (fun e =>
      (allocAll u (lanePairs sh e.1)).map (fun bs => { pos := e.1, bases := bs, spare := e.2, sc := b }))

/-- A shape fits some cluster even when it is empty (R136, code 0x04). -/
def shapeOk (ws : List Word) (sh : Shape) : Bool :=
  decide (recLogw ws ≤ 4) && decide (recGroups ws ≤ 128) && decide (recGroups ws * 2 ^ recLogw ws ≤ 128) && decide (recScratch ws ≤ 128)
    && (fitIn { pos := [], regs := [], sc := [] } sh).isSome

/-! ### Launch checks (R136, R167) -/

/-- The key of a domain's save images (R168, R179). -/
def saveKey (s : State) (dom : Nat) : KeySel :=
  let w := word (rawRead s (domAddr s dom 48) 8)
  if bitW w 10 then slotKey s (bitsW w 9 0) else .clear

/-- The image of a continuation passes its check (R167): its seal reads back, and no byte of its blocks has changed or is
poisoned. -/
def imageOk (s : State) (dom : Nat) (ws : List Word) : Bool :=
  let b := bitsW (nth 0 ws 4) 54 0
  match find? s.sched.images b with
  | none => false
  | some im =>
    decide (im.team.domain = dom) && decide (word (homeRead s (saveKey s dom) (b + 16) 8) = im.sealWord)
      && decide (blockCells s im.blocks = im.cells) && !im.blocks.any (fun k => rangeBad s (saveKey s dom) k 65536)

/-- The first launch check a record fails (R136). -/
def launchCheck (s : State) (dom : Nat) (ws : List Word) : Option Nat :=
  let back := decide (recEntry ws = 0xFF)
  let sh := shapeOf s dom ws
  let w4 := handleWord s dom (recGeode ws) 4
  match handleOf s dom (recGeode ws) with
  | none => some 0x01
  | some g =>
    if g.dom ≠ dom then some 0x01
    else if !back && (entryPc s g (recEntry ws)).isNone then some 0x02
    else if bitsW (nth 0 ws 0) 9 0 ≠ 0 ∨ bitsW (nth 0 ws 2) 63 55 ≠ 0 ∨ bitsW (nth 0 ws 3) 63 55 ≠ 0 then some 0x03
    else if !shapeOk ws sh then some 0x04
    else if recRegs ws < bitsW w4 9 0 ∨ recScratch ws < bitsW w4 23 16 then some 0x05
    else if recRoles ws ≠ 0 ∧
        (recScratch ws < 4 ∨
          (match roleTable s g (recRoles ws) with
           | none => true
           | some t => decide ((t.map Prod.fst).foldl (· + ·) 0 ≠ recGroups ws)) = true) then some 0x05
    else if !back && recGrid ws && decide (recCount ws = 0) then some 0x06
    else if !joinValid s dom (nth 0 ws 2) then some 0x07
    else if back && !imageOk s dom ws then some 0x0A
    else none

/-! ### New teams (R106 to R108, R174, R193, R320, R386) -/

/-- What a placement is told of the team it makes. -/
structure Launch where
  domain   : Nat
  cls      : Nat
  home     : Nat
  part     : Option Nat
  exempt   : Bool
  dseq     : Word
  ti       : Nat
  node     : Option (Nat × Nat)
  words    : List Word
  relaunch : Bool
  deriving DecidableEq, Repr

/-- The lowest team number that is free on a cluster (R174). -/
def freeTeam (s : State) (c : Nat) : Nat := freeKey s.teams (128 * c) 128

/-- A new identifier on a cluster: its generation grows at each placement (R174). -/
def newIdent (s : State) (c : Nat) : BitVec 32 :=
  BitVec.ofNat 32 (((clusterAt s c).gen + 1).toNat * 65536 + freeTeam s c)

/-- A lane at placement (R319, R320, R386). -/
def laneFor (s : State) (part : Option Nat) (tk gk sid ln order pos base alloc w : Nat) : Lane :=
  { team := tk, group := gk, stream := sid, ln := ln, order := order, base := base, alloc := alloc, seed := word (seedFor 1 ln 0 w)
    tcause := 0, tpc := 0, taddr := 0, tinfo := 0, tvec := look 0 s.sched.trpvec (partIndex part)
    tsave := word (saveArea s part pos), priv := 0 }

/-- The eight words of a record in k0 to k7 (R107). -/
def recordK (ws : List Word) : SMap Word := (List.range 8).foldl (fun m n => keep 0 m n (nth 0 ws n)) []

/-- A group's stream at its first instruction (R107, R193). -/
def streamFor (s : State) (tk gk w : Nat) (g : Geode) (pc : Word) (ws : List Word) : Stream :=
  let m := maskOf (List.range w)
  { team := tk, group := gk, members := m, mask := m, pc := pc, geode := g, handler := false, stack := [], trapRec := none
    waits := [], csspill := 0, spilled := 0, k := recordK ws, wbase := 0, alanes := 0, adiv := 0, fcsr := 0, contpc := 0
    contlive := 0, tprog := 0, mstream := 0, fmts := [], region := none, observed := 0, pend := [], park := none, lowRun := 0
    haltIn := none, skid := 0, noJoin := false, paid := none, tmma := none, fetch := none, cyBase := s.cycle, hart := none }

/-- One group of a new team laid out: its lanes and its stream, which waits for the start. -/
def layGroup (tk : Nat) (part : Option Nat) (w c : Nat) (pl : Placement) (sh : Shape) (st : Nat → Stream) (s : State) (gi : Nat) : State :=
  let gk := freeGroup s
  let at_ (l : Nat) : Nat := 128 * c + nth 0 pl.pos (gi * w + l)
  let sid := at_ 0
  let lanes := (List.range w).foldl (fun m l =>
    put m (at_ l) (laneFor s part tk gk sid l (gi * w + l) (at_ l) (nth 0 pl.bases (gi * w + l)) (nth 32 sh.regs (gi * w + l)) w)) s.lanes
  let g : Group := { team := tk, gi := gi, lanes := (List.range w).map at_, ended := 0, mode := if w = 1 then .single else .fused
                     trap := none, rejoinBy := none }
  { s with
    lanes := lanes
    groups := put s.groups gk g
    sched := { s.sched with placing := put s.sched.placing tk (put (look [] s.sched.placing tk) sid (st gk)) } }

/-- The transfers of a cluster's teams land: accesses already issued complete before its banks are shared (R237). -/
def landCluster (s : State) (c : Nat) : State :=
  (s.moves.filter (fun m => decide (m.2.kind < 5) && decide ((find? s.teams m.2.team).map Team.cluster = some c))).foldl
    (fun t m => if m.2.kind = 0 then landLds t m.1 else landTile t m.1) s

/-- A cluster and a domain made ready for a team: before a fused group comes to a cluster without one, step 1 of R237 (R241). -/
def readyFor (s : State) (c dom : Nat) (fused : Bool) : State :=
  let t := openArena s dom
  if fused && !sharedOn t c then landCluster t c else t

/-- A team placed on a cluster from a record (R106 to R108, R174): its streams start with TEAM_START. -/
def placeTeam (r : State) (c : Nat) (pl : Placement) (sh : Shape) (l : Launch) : State :=
  let s := readyFor r c l.domain (decide (sh.w ≥ 2))
  match handleOf r l.domain (recGeode l.words) with
  | none => r
  | some g =>
    let ident := newIdent s c
    let tk := ident.toNat % 65536
    let pc := match entryPc r g (recEntry l.words) with | some a => a | none => 0
    let t : Team :=
      { ident := ident, cluster := c, domain := l.domain, cls := l.cls, home := l.home, part := l.part, words := l.words
        dseq := l.dseq, ti := l.ti, node := l.node, exempt := l.exempt, ib := BitVec.ofNat 32 (ibOf l.words)
        tb := BitVec.ofNat 32 (tbOf l.words), pend := none, stopped := none, geode := g, layout := recRoles l.words, queues := []
        popped := [], bars := []
        scBase := pl.sc, scUnits := sh.units, rtrack := 0, rtrackTo := none, inside := 0, rage := 0, budcap := 0
        born := s.sched.births, spare := pl.spare.map (128 * c + ·), resumed := false, relaunch := l.relaunch, handlers := 0
        late := [], doomed := none }
    let s1 :=
      { s with
        teams := put s.teams tk t
        clusters := put s.clusters c { clusterAt s c with gen := (clusterAt s c).gen + 1 }
        sched := { s.sched with births := s.sched.births + 1, placing := put s.sched.placing tk [] } }
    let s2 := (List.range (recGroups l.words)).foldl
      (layGroup tk l.part sh.w c pl sh (fun gk => streamFor s tk gk sh.w g pc l.words)) s1
    pushWork (rebank s s2 c tk) (.teamStart tk)

/-! ### Resumed teams (R158, R163, R167, R320, R330) -/

/-- A long-latency result's place moved to a lane's new allocation: image places are 2,048 × order + place. -/
def placeDest (s : State) (at_ : Nat → Nat) : Dest → Dest
  | .reg n => .reg (pipeOf (at_ (n / 2048)) * 2048 + (laneOf s (at_ (n / 2048))).base + n % 2048)
  | .k n => .k n

/-- A saved stream at its new place. -/
def placeStream (s : State) (tk : Nat) (gof : Nat → Nat) (at_ : Nat → Nat) (st : Stream) : Stream :=
  { st with
    team := tk, group := gof st.group, cyBase := s.cycle, fetch := none
    pend := st.pend.map (fun p => { p with lane := at_ p.lane, writes := p.writes.map (fun w => (placeDest s at_ w.1, w.2)) }) }

/-- The save area of a lane in a handler, written at its new place (R330). -/
def placeSave (part : Option Nat) (at_ : Nat → Nat) (s : State) (e : Nat × Word) : State :=
  rawWrite s (saveArea s part (at_ (e.1 / 8)) + 8 * (e.1 % 8)) 8 e.2.toNat

/-- A team restored from its image on a cluster (R167); its header is zeroed and its blocks return to the arena. -/
def restoreTeam (r : State) (c : Nat) (pl : Placement) (sh : Shape) (l : Launch) (im : Image) : State :=
  let s := readyFor r c im.team.domain (im.groups.any (fun e => decide (e.2.mode = .fused)))
  let w5 := bitsW (nth 0 l.words 5) 15 0
  let ident := newIdent s c
  let tk := ident.toNat % 65536
  let at_ (n : Nat) : Nat := 128 * c + nth 0 pl.pos n
  let t : Team :=
    { im.team with
      ident := ident, cluster := c, cls := l.cls, home := l.home, part := l.part, dseq := l.dseq, ti := l.ti, exempt := l.exempt
      words := im.team.words.set 2 (nth 0 l.words 2), node := if w5 = 0xFFFF then none else im.team.node.map (fun n => (n.1, w5))
      ib := BitVec.ofNat 32 (ibOf l.words), tb := BitVec.ofNat 32 (tbOf l.words), pend := none, stopped := none
      geode := match handleOf r l.domain (recGeode l.words) with | some g => g | none => im.team.geode
      scBase := pl.sc, scUnits := sh.units, inside := 0, born := s.sched.births, spare := pl.spare.map (128 * c + ·)
      resumed := true, relaunch := false, late := [], doomed := none }
  let s1 :=
    { s with
      teams := put s.teams tk t
      clusters := put s.clusters c { clusterAt s c with gen := (clusterAt s c).gen + 1 }
      sched := { s.sched with births := s.sched.births + 1, images := del s.sched.images (match im.blocks with | b :: _ => b | [] => 0) } }
  let names := im.groups.foldl (fun (a : List (Nat × Nat) × SMap Group) e =>
    let k := freeGroup { s1 with groups := a.2 }
    (a.1 ++ [(e.1, k)], put a.2 k { e.2 with team := tk, lanes := e.2.lanes.map at_ })) ([], s1.groups)
  let gof (n : Nat) : Nat := match names.1.find? (fun e => decide (e.1 = n)) with | some e => e.2 | none => 0
  let sidOf (n : Nat) : Nat := at_ n
  let lanes := im.lanes.foldl (fun m e =>
    put m (at_ e.1)
      { e.2 with
        team := tk, group := gof e.2.group, stream := sidOf e.2.stream, base := nth 0 pl.bases e.1
        tvec := look 0 s.sched.trpvec (partIndex l.part), tsave := word (saveArea s l.part (at_ e.1)) }) s1.lanes
  let s2 := { s1 with lanes := lanes, groups := names.2 }
  let groups := each (fun _ (g : Group) =>
    if g.team = tk then
      { g with trap := match g.trap with | some tc => some { tc with saved := placeStream s2 tk gof at_ tc.saved } | none => none }
    else g) s2.groups
  let runs := im.streams.foldl (fun m e => put m (sidOf e.1) (placeStream s2 tk gof at_ e.2)) []
  let s3 :=
    { s2 with
      groups := groups
      regs := im.regs.foldl (fun m e => keep 0 m (pipeOf (at_ (e.1 / 2048)) * 2048 + (laneOf s2 (at_ (e.1 / 2048))).base + e.1 % 2048) e.2) s2.regs
      scratch := im.scratch.foldl (fun m e => keep 0 m (c * 524288 + pl.sc * 4096 + e.1) e.2) s2.scratch
      restore := im.tiles.foldl (fun m e =>
        let key := 6144 * tk + pipeOf (at_ (e.1 / 4096))
        put m key (keep 0 (look [] m key) (e.1 % 4096) e.2)) s2.restore
      sched := { s2.sched with placing := put s2.sched.placing tk runs } }
  let s4 := im.moves.foldl (fun u e => addMove u { e.2 with team := tk, group := gof e.2.group, lane := at_ e.2.lane })
    (im.save.foldl (placeSave l.part at_) s3)
  let first := match im.blocks with | b :: _ => b | [] => 0
  let s5 := returnBlocks (homeWrite s4 (saveKey s4 im.team.domain) first (spread 24 0)) im.team.domain im.blocks
  pushWork (rebank s s5 c tk) (.teamStart tk)

/-- A load, reservation or WAITA that was waiting at the yield is issued again (R161). -/
def reissue (sid : Nat) (s : State) (p : Pending) : State :=
  match ctxOf s sid with
  | none => s
  | some c =>
    match p.await with
    | .reply _ a n =>
      (match permAny s c.tlbs c.team.domain a ⟨true, false, false⟩ (userOf s c) with
      | .error f => pushWork (failPend s sid p.seq f.code a f.detail) (.resultWriteback sid p.seq)
      | .ok (t, x) =>
        if x.peer t then
          let q := request t 0 (devOf x) (winOf x) c.team.domain 0 ((if n = 8 then 65536 else 0) + x.pa % 65536) []
          match sendPacket t q with
          | none => pushWork (failPend t sid p.seq 0x19 a 3) (.resultWriteback sid p.seq)
          | some u =>
            fly (modPend u sid p.seq (fun y => { y with await := .reply (nextTag t) a n })) c.team.ident (devOf x) (winOf x) .inside
              (.load sid p.seq) [x.leaf] (some (.rldTimeout (nextTag t)))
        else if homeBad t x.key x.local_ then pushWork (failPend t sid p.seq 0x19 a 2) (.resultWriteback sid p.seq)
        else pushWork (setPend t sid p.seq (word (homeRead t x.key x.local_ n))) (.resultWriteback sid p.seq))
    | .holder _ a =>
      (match permLocal s c.tlbs c.team.domain a ⟨true, true, false⟩ (userOf s c) with
      | .error f => pushWork (failPend s sid p.seq f.code a f.detail) (.resultWriteback sid p.seq)
      | .ok (t, x) =>
        let line := x.local_ / 1024
        let r : Reserve := { lane := p.lane, stream := sid, seq := p.seq, addr := x.local_, key := x.key, since := 0, held := false }
        let was := fifoOf t line
        let u := modPend (setFifo t line (was ++ [r])) sid p.seq (fun y => { y with await := .holder line a })
        if was = [] then pushWork u (.reservationGrant line) else u)
    | .change a b k lim =>
      (match lim, waitClass k with
      | some _, some n =>
        rereadWaita (pushTimer (modPend s sid p.seq (fun y => { y with await := .change a b k (some (s.cycle + n)) })) n
          (.waitaTimeout sid p.seq)) p.seq false
      | _, _ => rereadWaita s p.seq false)
    | .nothing => pushWork s (.resultWriteback sid p.seq)
    | .fails _ => pushWork s (.resultWriteback sid p.seq)
    | _ => s

/-- A stream that a placement left waiting begins: its first instruction is an acquire of device scope (R125, R140). -/
def startStream (s : State) (e : Nat × Stream) : State :=
  let s1 := { s with streams := put s.streams e.1 e.2 }
  match ctxOf s1 e.1 with
  | none => s1
  | some c =>
    let s2 := (lanesIn c.grp c.st.members).foldl (fun t l => acquireLane t c l.2 .device) s1
    e.2.pend.foldl (reissue e.1) s2

/-- TEAM_START (R140, R167). -/
def startTeam (s : State) (tk : Nat) : State :=
  (look [] s.sched.placing tk).foldl startStream { s with sched := { s.sched with placing := del s.sched.placing tk } }

/-! ### Where a record may go (R119, R120) -/

/-- Another slot's record claims a cluster. -/
def claimedByOther (s : State) (key c : Nat) : Bool := s.host.slots.any (fun e => decide (e.1 ≠ key) && decide (e.2.claim = some c))

/-- The head of a cluster's deque goes before a queue record of a class: it is of that class or above (R119). -/
def deckFirst (s : State) (c cls : Nat) : Bool :=
  match (clusterAt s c).deque with
  | r :: _ => match r.owner with | some o => decide (o.cls ≤ cls) | none => false
  | [] => false

/-- The slot's own record claims a cluster. -/
def claimsIt (s : State) (key c : Nat) : Bool := match find? s.host.slots key with | some x => decide (x.claim = some c) | none => false

/-- The clusters a record fits now, each with its placement. `key` names the slot, or no slot. No other record goes to a claimed
cluster, a deque's head neither (R120). -/
def fitting (s : State) (key : Nat) (clusters : List Nat) (deck : Option Nat) (sh : Shape) : List (Nat × Placement) :=
  clusters.filterMap (fun c =>
    if claimedByOther s key c || (match deck with | some cls => deckFirst s c cls && !claimsIt s key c | none => false) then none
    else (fitIn (usageOf s c []) sh).map (fun p => (c, p)))

/-- Free slot positions of a cluster. -/
def freePositions (s : State) (c : Nat) : Nat := 128 - (usageOf s c []).pos.length

/-- The choice of SCHX.PLACE among fitting clusters, in cluster order (R119). -/
def choosePlace (s : State) : List (Nat × Placement) → Option (Nat × Placement)
  | [] => none
  | e :: r =>
    match choosePlace s r with
    | none => some e
    | some f =>
      let a := freePositions s e.1
      let b := freePositions s f.1
      match s.sched.place.toNat with
      | 1 => if a ≤ b then some e else some f
      | 2 => some e
      | _ => if b ≤ a then some e else some f

/-- A continuation's run stands where it stood when the team also holds whole rows and tiles were saved: its lanes share the tiles of
their pipelines. -/
def runOf (s : State) (ws : List Word) (n : Nat) : Option Nat :=
  if recEntry ws ≠ 0xFF ∨ n ≤ 16 ∨ n % 16 = 0 then none
  else
    match find? s.sched.images (bitsW (nth 0 ws 4) 54 0) with
    | some im => if im.tiles = [] then none else some im.run
    | none => none

/-- The shape of a record as placement takes it. -/
def placeShape (s : State) (dom : Nat) (ws : List Word) : Shape :=
  let sh := shapeOf s dom ws
  { sh with run := runOf s ws sh.regs.length }

/-- The grid that a queue's head record is dispatching (R129). -/
def queueGrid (s : State) (q : Nat) (r : Rec) : Option (Nat × Grid) :=
  match r.grid with
  | none => none
  | some id => match find? s.sched.grids id with
    | some g => if !g.engine && decide (g.home = q) && decide (g.next < g.n) then some (id, g) else none
    | none => none

/-- The pool can fund a head record (R170). -/
def funded (s : State) (q : Nat) (r : Rec) : Bool := r.exempt || canFund s (viewQ s q).pool (ibOf r.words) (tbOf r.words)

/-- The clusters a queue's records go to (R108). -/
def queueClusters (s : State) (q : Nat) : List Nat := allowedClusters s (viewQ s q).die (partOfQueue s q)

/-- Where the head record of a slot fits now. -/
def slotFits (s : State) (key : Nat) (x : QSlot) (r : Rec) : List (Nat × Placement) :=
  let v := viewQ s x.queue
  fitting s key (queueClusters s x.queue) (some v.cls) (placeShape s v.domain r.words)

/-- The head record of a slot fails a launch check: it is taken and not run (R136). -/
def headFails (s : State) (x : QSlot) (r : Rec) : Bool :=
  (queueGrid s x.queue r).isNone && (launchCheck s (viewQ s x.queue).domain r.words).isSome

/-- What a decision finds of a slot: none when it has no head record that can be funded, else whether it is a candidate (R115,
R170). -/
def slotState (s : State) (key : Nat) (x : QSlot) : Option Bool :=
  match x.recs with
  | [] => none
  | r :: _ => if !funded s x.queue r then none else some (headFails s x r || slotFits s key x r ≠ [])

/-! ### Grids (R129 to R132) -/

/-- The grids in progress that a die's engine has taken from deques. -/
def engineGrids (s : State) (die : Nat) : List (Nat × Grid) :=
  s.sched.grids.filter (fun e => e.2.engine && decide (e.2.die = die) && decide (e.2.next < e.2.n))

/-- A grid begins: its combining tree lies over the clusters its teams may be placed on (R130). -/
def openGrid (s : State) (g : Grid) : State × Nat :=
  let id := newKey s.sched.grids
  ({ s with sched := { s.sched with grids := put s.sched.grids id g } }, id)

/-- The cluster of a grid's tree that counts a team: its own, or the root for a cluster that the tree does not hold. -/
def nodeOf (g : Grid) (c : Nat) : Nat := if g.order.contains c then c else nth 0 g.order 0

/-- A team of a grid has been dispatched to a node; with the last one every node learns its number (R130). -/
def countDispatch (s : State) (id c : Nat) : State :=
  let s1 := { s with sched := { s.sched with grids := upd s.sched.grids id (fun g =>
    let n := look .reset g.nodes c
    { g with next := g.next + 1, nodes := put g.nodes c { n with sent := n.sent + 1 } }) } }
  match find? s1.sched.grids id with
  | some g => if g.next < g.n then s1 else g.order.reverse.foldl (fun t k => pushWork t (.gridNodeReport id k)) s1
  | none => s1

/-- The next team of a grid placed on a cluster. -/
def placeGridTeam (s : State) (id : Nat) (g : Grid) (c : Nat) (pl : Placement) : State :=
  let l : Launch :=
    { domain := g.domain, cls := g.cls, home := g.home, part := g.part, exempt := g.recd.exempt, dseq := g.dseq, ti := g.next
      node := some (id, nodeOf g c), words := g.recd.words, relaunch := false }
  countDispatch (placeTeam s c pl (placeShape s g.domain g.recd.words) l) id (nodeOf g c)

/-- The index of a cluster in a grid's tree. -/
def nodeIndex (g : Grid) (c : Nat) : Nat := match g.order.findIdx? (fun x => decide (x = c)) with | some i => i | none => 0

/-- Children of node `i` in a tree of `n` nodes. -/
def nodeKids (n i : Nat) : Nat := ((List.range 4).filter (fun j => decide (4 * i + 1 + j < n))).length

/-- A node whose teams have ended and whose children have reported sends its sum to its parent; the root's sum completes the
grid (R130, R131). -/
def reportNode (s : State) (id c : Nat) : State :=
  match find? s.sched.grids id with
  | none => s
  | some g =>
    let i := nodeIndex g c
    let n := look .reset g.nodes c
    if g.next < g.n ∨ n.done ∨ n.ended < n.sent ∨ n.kids < nodeKids g.order.length i ∨ (i = 0 ∧ n.ended < g.n) then s
    else if i = 0 then
      taskOver { s with sched := { s.sched with grids := del s.sched.grids id } } g.die g.domain (nth 0 g.recd.words 2) none n.ib n.tb
        (decide (n.failed > 0)) g.home g.dseq
    else
      let p := nth 0 g.order ((i - 1) / 4)
      let up (x : Node) : Node :=
        { x with sent := x.sent + n.sent, ended := x.ended + n.ended, failed := x.failed + n.failed, ib := x.ib + n.ib
                 tb := x.tb + n.tb, kids := x.kids + 1 }
      let nodes := put g.nodes c { n with done := true }
      pushWork { s with sched := { s.sched with grids := put s.sched.grids id { g with nodes := put nodes p (up (look .reset nodes p)) } } }
        (.gridNodeReport id p)

/-! ### Dispatch decisions (R115) -/

/-- The head record of a slot has gone: the next one's waits begin (R116, R120). -/
def popHead (s : State) (die slot : Nat) : State :=
  let s1 := modSlot s die slot (fun x => { x with recs := x.recs.drop 1, head := s.cycle, busy := s.cycle, promoted := none, unfit := none, claim := none })
  let s2 := wantRefill (if slotEmpty s1 die slot then armIdle s1 die slot else armHead s1 die slot) die slot
  unclaimed s2 die ((slotAt s die slot).bind QSlot.claim)

/-- A head record stays after one of its teams was placed, as that of a grid. -/
def keepHead (s : State) (die slot id : Nat) : State :=
  match slotAt s die slot with
  | none => s
  | some x =>
    let recs := match x.recs with | r :: l => { r with grid := some id } :: l | [] => []
    let s1 := unclaimed (modSlot s die slot (fun y => { y with recs := recs, busy := s.cycle, unfit := none, claim := none })) die x.claim
    if x.promoted.isSome then armHead (modSlot s1 die slot (fun y => { y with promoted := none, head := s.cycle })) die slot else s1

/-- A dispatch takes the counter's value and adds 1 (R114). -/
def takeSeq (s : State) (q : Nat) : State × Word :=
  (modKeep s q (fun k => { k with seq := k.seq + 1 }), word (q * 2 ^ 48 + (keepOf s q).seq.toNat))

/-- One team of a slot's head record placed (R115, R129, R136, R163, R167, R170, R339). -/
def placeHead (s : State) (die slot : Nat) : State :=
  match slotAt s die slot with
  | none => s
  | some x =>
    match x.recs with
    | [] => s
    | r :: _ =>
      let q := x.queue
      let v := viewQ s q
      let s0 := if r.exempt then s else drawPool s v.pool (ibOf r.words) (tbOf r.words)
      let sh := placeShape s v.domain r.words
      let base : Launch :=
        { domain := v.domain, cls := v.cls, home := q, part := partOfQueue s q, exempt := r.exempt, dseq := 0, ti := 0, node := none
          words := r.words, relaunch := false }
      match queueGrid s q r with
      | some (id, g) =>
        (match choosePlace s (slotFits s (256 * die + slot) x r) with
        | none => s
        | some (c, pl) =>
          let s1 := placeGridTeam s0 id g c pl
          if g.next + 1 < g.n then keepHead s1 die slot id else popHead s1 die slot)
      | none =>
        match launchCheck s v.domain r.words with
        | some code => popHead (failRec s0 die code q v.domain q (keepOf s q).seq r) die slot
        | none =>
          match choosePlace s (slotFits s (256 * die + slot) x r) with
          | none => s
          | some (c, pl) =>
            if recEntry r.words = 0xFF then
              match find? s.sched.images (bitsW (nth 0 r.words 4) 54 0) with
              | some im =>
                popHead (restoreTeam s0 c pl sh { base with dseq := nth 0 r.words 6, ti := bitsW (nth 0 r.words 5) 63 32 } im) die slot
              | none => s
            else
              match r.again with
              | some a => popHead (placeTeam s0 c pl sh { base with dseq := a.dseq, ti := a.ti, node := a.node, relaunch := true }) die slot
              | none =>
                let (s1, d) := takeSeq s0 q
                if recGrid r.words then
                  let g : Grid :=
                    { recd := r, die := die, n := recCount r.words, next := 0, order := queueClusters s q, nodes := [], dseq := d
                      domain := v.domain, cls := v.cls, home := q, part := partOfQueue s q, engine := false }
                  let (s2, id) := openGrid s1 g
                  let s3 := placeGridTeam s2 id g c pl
                  if g.n ≤ 1 then popHead s3 die slot else keepHead s3 die slot id
                else popHead (placeTeam s1 c pl sh { base with dseq := d }) die slot

/-- A slot's weight; 0 acts as 1 (R83). -/
def slotWeight (s : State) (x : QSlot) : Nat := Nat.max 1 (viewQ s x.queue).weight

/-- The next mapped slot of a class after one, by slot number, wrapping (R115). -/
def nextSlot (l : List Nat) (n : Nat) : Nat :=
  match l.find? (fun m => decide (m > n)) with
  | some m => m
  | none => match l with | m :: _ => m | [] => n

/-- The credit a slot gains when the rotation reaches it; a slot that holds no records has none (R115). -/
def gained (s : State) (x : QSlot) : Nat := if x.recs = [] then 0 else Nat.min (x.deficit + slotWeight s x) (2 * slotWeight s x)

/-- The rotation of R115 over the slots `l` of a class, from slot `n`; `fuel` bounds its passes. -/
def rotate (die : Nat) (l good : List Nat) : Nat → State → Nat → Option (State × Nat)
  | 0, _, _ => none
  | fuel + 1, s, n =>
    let credit := match slotAt s die n with | some x => x.deficit | none => 0
    if good.contains n ∧ credit ≥ 1 then some (s, n)
    else
      let m := nextSlot l n
      rotate die l good fuel (modSlot s die m (fun x => { x with deficit := gained s x })) m

/-- The promoted candidate that was promoted earliest; ties go to the lower slot (R115). -/
def firstPromoted : List (Nat × QSlot) → Option Nat
  | [] => none
  | (n, x) :: r =>
    match x.promoted, firstPromoted r with
    | some _, none => some n
    | some a, some m => if (r.filterMap (fun e => e.2.promoted)).all (fun b => decide (a ≤ b)) then some n else some m
    | none, o => o

/-- The slots of a die, by slot number. -/
def dieSlots (s : State) (die : Nat) : List (Nat × QSlot) :=
  (s.host.slots.filter (fun e => decide (e.1 / 256 = die))).map (fun e => (e.1 % 256, e.2))

/-- Where the next team of a deque grid fits (R132). -/
def engineFits (s : State) (g : Grid) : List (Nat × Placement) :=
  fitting s (2 ^ 20) (allowedClusters s g.die g.part) none (placeShape s g.domain g.recd.words)

/-- What each slot's wait for room comes to at a decision (R120): it begins, goes on or is over; a claim may be due. -/
def markFit (die : Nat) (s : State) (e : Nat × Option Bool) : State :=
  match slotAt s die e.1, e.2 with
  | some x, some false =>
    (match x.unfit with
    | none =>
      let s1 := modSlot s die e.1 (fun y => { y with unfit := some s.cycle })
      if s.sched.claim = 0 then pushWork s1 (.clusterClaim die e.1) else pushTimer s1 (1250 * s.sched.claim.toNat) (.clusterClaim die e.1)
    | some t => if x.claim.isNone ∧ s.cycle ≥ t + 1250 * s.sched.claim.toNat then pushWork s (.clusterClaim die e.1) else s)
  | some _, some true => modSlot s die e.1 (fun y => { y with unfit := none })
  | _, _ => s

/-- A grid record at the head of a deque of the die is tried again (R132). -/
def retryGrids (s : State) (die : Nat) : State :=
  if (engineGrids s die).length ≥ 16 then s
  else ((List.range 48).map (48 * die + ·)).foldl (fun t c =>
    match (clusterAt s c).deque with
    | r :: _ => if recGrid r.words then pushWork t (.dequePop c) else t
    | [] => t) s

/-- One decision of a die's queue engine (R115, R132). -/
def decideNow (r : State) (die : Nat) : State :=
  let s := retryGrids r die
  let slots := dieSlots s die
  let states := slots.map (fun e => (e.1, slotState s (256 * die + e.1) e.2))
  let good := (states.filter (fun e => decide (e.2 = some true))).map Prod.fst
  let s1 := slots.foldl (fun t e => if e.2.recs = [] then modSlot t die e.1 (fun y => { y with deficit := 0 }) else t) s
  let s2 := states.foldl (markFit die) s1
  let again (t : State) : State := pushTimer t 4 (.dispatchDecision die)
  match firstPromoted (slots.filter (fun e => good.contains e.1)) with
  | some n => again (placeHead s2 die n)
  | none =>
    let clsOf (n : Nat) : Nat := match slotAt s die n with | some x => (viewQ s x.queue).cls | none => 8
    let grids := (engineGrids s die).filter (fun e => engineFits s e.2 ≠ [])
    match (List.range 8).find? (fun c => good.any (fun n => decide (clsOf n = c)) || grids.any (fun e => decide (e.2.cls = c))) with
    | none => s2
    | some c =>
      match grids.find? (fun e => decide (e.2.cls = c)) with
      | some (id, g) =>
        (match choosePlace s (engineFits s g) with
        | some (k, pl) => again (placeGridTeam s2 id g k pl)
        | none => s2)
      | none =>
        let l := (slots.map Prod.fst).filter (fun n => decide (clsOf n = c))
        match rotate die l (good.filter (fun n => decide (clsOf n = c))) 2048 s2 (look 0 s.sched.cur (8 * die + c)) with
        | none => s2
        | some (s3, n) =>
          let s4 := { s3 with sched := { s3.sched with cur := put s3.sched.cur (8 * die + c) n } }
          again (placeHead (modSlot s4 die n (fun x => { x with deficit := x.deficit - 1 })) die n)

/-- A die's queue engine starts a decision every 4 cycles (R115). -/
def decideDispatch (s : State) (die : Nat) : State :=
  match find? s.sched.decided die with
  | some t =>
    if s.cycle < t + 4 then
      if s.timers.contains (t + 4, .dispatchDecision die) then s else pushTimer s (t + 4 - s.cycle) (.dispatchDecision die)
    else decideNow { s with sched := { s.sched with decided := put s.sched.decided die s.cycle } } die
  | none => decideNow { s with sched := { s.sched with decided := put s.sched.decided die s.cycle } } die

/-- A head record is promoted after its wait (R116). -/
def promote (s : State) (die slot : Nat) : State :=
  match slotAt s die slot with
  | none => s
  | some x =>
    if x.recs = [] ∨ s.sched.dage = 0 ∨ x.promoted.isSome ∨ s.cycle < x.head + 1250 * s.sched.dage.toNat then s
    else pushWork (modSlot s die slot (fun y => { y with promoted := some s.cycle })) (.dispatchDecision die)

/-! ### Claims (R120) -/

/-- The pipelines that lack registers, for each choice of positions a shape may take. -/
def lacks (u : Usage) (sh : Shape) : List (List Nat) := (positionsFor u sh).map (fun e => lackingPipes u (lanePairs sh e.1))

/-- A team gives up resources of which some are missing (R120), those of `gone` counting as free: scratchpad; positions, where no choice
of them is free; registers, where every choice lacks some: of a pipeline that one lacks, or such that another choice lacks none. -/
def helps (s : State) (c : Nat) (sh : Shape) (gone : List Nat) (tk : Nat) (t : Team) : Bool :=
  let u := usageOf s c gone
  let pipes := (s.lanes.filter (fun l => decide (l.2.team = tk))).map (fun l => l.1 % 128 / 8)
  ((scratchFor u sh.units).isNone && decide (t.scUnits > 0)) || decide (positionsFor u sh = [])
    || ((lacks u sh).all (fun l => decide (l ≠ []))
      && ((lacks u sh).any (fun l => l.any pipes.contains) || (lacks (usageOf s c (tk :: gone)) sh).any (fun l => decide (l = []))))

/-- The teams to revoke among some, in order, until the shape fits (R120): `gone` are those whose resources count as free. -/
def victims (s : State) (c : Nat) (sh : Shape) : List (Nat × Team) → List Nat → Option (List Nat)
  | [], gone => if (fitIn (usageOf s c gone) sh).isSome then some [] else none
  | (k, t) :: r, gone =>
    if (fitIn (usageOf s c gone) sh).isSome then some []
    else if helps s c sh gone k t then (victims s c sh r (k :: gone)).map (k :: ·)
    else victims s c sh r gone

/-- One team is revoked before another: lower class first, then the later dispatch (R120). -/
def revokeBefore (a b : Nat × Team) : Bool := decide (a.2.cls > b.2.cls) || (decide (a.2.cls = b.2.cls) && decide (a.2.born ≥ b.2.born))

/-- A list of teams in the order of revocation. -/
def revokeOrder : List (Nat × Team) → List (Nat × Team)
  | [] => []
  | e :: r =>
    let l := revokeOrder r
    l.takeWhile (fun f => revokeBefore f e) ++ e :: l.dropWhile (fun f => revokeBefore f e)

/-- The teams a claim of class `cls` on a cluster would revoke; none when the shape would not fit (R120, R176). -/
def claimCost (s : State) (c cls : Nat) (sh : Shape) : Option (List Nat) :=
  let on := s.teams.filter (fun e => decide (e.2.cluster = c) && !e.2.exempt)
  let going := (on.filter (fun e => e.2.pend.isSome)).map Prod.fst
  victims s c sh (revokeOrder (on.filter (fun e => e.2.pend.isNone && decide (e.2.cls > cls)))) going

/-- The cheapest claim: the fewest teams, ties to the lower cluster. -/
def bestClaim (s : State) (cls : Nat) (sh : Shape) : List Nat → Option (Nat × List Nat)
  | [] => none
  | c :: r =>
    match claimCost s c cls sh, bestClaim s cls sh r with
    | some l, some (d, m) => if l.length ≤ m.length then some (c, l) else some (d, m)
    | some l, none => some (c, l)
    | none, o => o

/-- A record that has failed to fit for SCHX.CLAIM µs claims a cluster (R120). -/
def claimCluster (s : State) (die slot : Nat) : State :=
  match slotAt s die slot with
  | none => s
  | some x =>
    match x.recs, x.unfit with
    | r :: _, some t =>
      if x.claim.isSome ∨ s.cycle < t + 1250 * s.sched.claim.toNat then s
      else
        let v := viewQ s x.queue
        let holder (c : Nat) : Option (Nat × QSlot) := first? (fun _ y => decide (y.claim = some c)) s.host.slots
        let open_ (c : Nat) : Bool := match holder c with | some e => decide ((viewQ s e.2.queue).cls > v.cls) | none => true
        match bestClaim s v.cls (placeShape s v.domain r.words) ((queueClusters s x.queue).filter open_) with
        | none => s
        | some (c, l) =>
          let s1 := match holder c with
            | some e =>
              { s with host := { s.host with slots := upd s.host.slots e.1 (fun y => { y with claim := none, unfit := none }) } }
            | none => s
          let s2 := modSlot s1 die slot (fun y => { y with claim := some c })
          let s3 := if s.sched.evict then l.foldl (fun u k => pendYield u k 3 0) s2 else s2
          pushWork s3 (.dispatchDecision die)
    | _, _ => s

/-! ### Deques (R127, R128, R132) -/

/-- A deque record fits a cluster now. -/
def deckFits (s : State) (c : Nat) (r : Rec) : Option Placement :=
  match r.owner with
  | none => none
  | some o =>
    if (allowedClusters s (dieOf c) o.part).contains c ∧ !claimedByOther s (2 ^ 20) c then fitIn (usageOf s c []) (placeShape s o.domain r.words)
    else none

/-- A deque record taken by a cluster: placed there, failed, or handed as a grid to its die's engine; none when it must wait. -/
def takeDeck (s : State) (c : Nat) (r : Rec) : Option State :=
  match r.owner with
  | none => some s
  | some o =>
    let die := dieOf c
    let d := word (0xFFFF * 2 ^ 48 + o.seq)
    match launchCheck s o.domain r.words with
    | some code =>
      if (allowedClusters s die o.part).contains c then some (failRec s die code 0xFFFF o.domain o.home (BitVec.ofNat 32 o.seq) r) else none
    | none =>
      if recGrid r.words then
        if (engineGrids s die).length ≥ 16 ∨ (deckFits s c r).isNone then none
        else
          let g : Grid :=
            { recd := r, die := die, n := recCount r.words, next := 0, order := allowedClusters s die o.part, nodes := [], dseq := d
              domain := o.domain, cls := o.cls, home := o.home, part := o.part, engine := true }
          some (pushWork (openGrid s g).1 (.dispatchDecision die))
      else
        match deckFits s c r with
        | none => none
        | some pl =>
          some (placeTeam s c pl (placeShape s o.domain r.words)
            { domain := o.domain, cls := o.cls, home := o.home, part := o.part, exempt := r.exempt, dseq := d, ti := 0, node := none
              words := r.words, relaunch := false })

/-- A deque replaced. -/
def setDeque (s : State) (c : Nat) (l : List Rec) : State := { s with clusters := put s.clusters c { clusterAt s c with deque := l } }

/-- The active partition that holds a cluster; one whose context stands in the vaults only where no other does (R184, R186). -/
def partOfCluster (s : State) (c : Nat) : Option Nat :=
  match first? (fun _ e => partHasCluster e.1 c && !e.2) s.host.parts with
  | some e => some e.1
  | none => (first? (fun _ e => partHasCluster e.1 c) s.host.parts).map Prod.fst

/-- The clusters with an empty deque that may steal from a cluster: on its die, then with XSTEAL on the others (R128). -/
def thieves (s : State) (c : Nat) : List Nat :=
  let near := (List.range 48).map (48 * dieOf c + ·)
  let far := if s.sched.xsteal then (List.range 384).filter (fun k => decide (dieOf k ≠ dieOf c)) else []
  (near ++ far).filter (fun k =>
    decide (k ≠ c) && (clusterAt s k).released && (clusterAt s k).deque.isEmpty && decide (partOfCluster s k = partOfCluster s c))

/-- A cluster's dispatcher takes its deque's head while it can (R127); otherwise a cluster with room may steal (R128). -/
def popDeque (s : State) (c : Nat) : State :=
  match (clusterAt s c).deque with
  | [] => s
  | r :: rest =>
    match takeDeck s c r with
    | some t => if rest = [] then setDeque t c rest else pushWork (setDeque t c rest) (.dequePop c)
    | none =>
      if !s.sched.steal then s
      else
        match (r :: rest).getLast? with
        | none => s
        | some l => match (thieves s c).find? (fun k => (takeDeck s k l).isSome) with
          | some k => pushWork s (.dequeSteal k)
          | none => s

/-- The deque a thief takes from among some: the most entries, its tail takable, ties to the lower number (R128). -/
def stealFrom (s : State) (c : Nat) : List Nat → Option Nat
  | [] => none
  | k :: r =>
    let ok := match (clusterAt s k).deque.getLast? with | some l => decide (k ≠ c) && (takeDeck s c l).isSome | none => false
    match stealFrom s c r with
    | none => if ok then some k else none
    | some j => if ok && decide ((clusterAt s k).deque.length ≥ (clusterAt s j).deque.length) then some k else some j

/-- A thief's search: its own die, then with XSTEAL the others in order (R128). -/
def stealVictim (s : State) (c : Nat) : Option Nat :=
  let p := partOfCluster s c
  let on (die : Nat) : List Nat := ((List.range 48).map (48 * die + ·)).filter (fun k => decide (partOfCluster s k = p))
  match stealFrom s c (on (dieOf c)) with
  | some k => some k
  | none =>
    if s.sched.xsteal then ((List.range 8).filter (fun d => decide (d ≠ dieOf c))).findSome? (fun d => stealFrom s c (on d)) else none

/-- A cluster with an empty deque steals the oldest entry of another (R128). -/
def stealDeque (s : State) (c : Nat) : State :=
  if !s.sched.steal || !(clusterAt s c).deque.isEmpty || !(clusterAt s c).released then s
  else
    match stealVictim s c with
    | none => s
    | some k =>
      match (clusterAt s k).deque.getLast? with
      | none => s
      | some l =>
        match takeDeck s c l with
        | none => s
        | some t => pushWork (setDeque t k ((clusterAt s k).deque.take ((clusterAt s k).deque.length - 1))) (.dequeSteal c)

/-! ### The events -/

/-- DISPATCH_DECISION (R115). -/
def execDispatchDecision (die : Nat) (s : State) : Host.Outcome State Fault Refusal := .next (decideDispatch s die)

/-- TEAM_START (R140). -/
def execTeamStart (team : Nat) (s : State) : Host.Outcome State Fault Refusal := .next (startTeam s team)

/-- RECORD_PROMOTION (R116). -/
def execRecordPromotion (die slot : Nat) (s : State) : Host.Outcome State Fault Refusal := .next (promote s die slot)

/-- CLUSTER_CLAIM (R120). -/
def execClusterClaim (die slot : Nat) (s : State) : Host.Outcome State Fault Refusal := .next (claimCluster s die slot)

/-- DEQUE_POP (R127). -/
def execDequePop (cluster : Nat) (s : State) : Host.Outcome State Fault Refusal := .next (popDeque s cluster)

/-- DEQUE_STEAL (R128). -/
def execDequeSteal (cluster : Nat) (s : State) : Host.Outcome State Fault Refusal := .next (stealDeque s cluster)

/-- GRID_NODE_REPORT (R130). -/
def execGridNodeReport (grid cluster : Nat) (s : State) : Host.Outcome State Fault Refusal := .next (reportNode s grid cluster)

end Sys2Proof.Machine
end

