-- ==== Sys2Proof/Machine/Yield.lean ====
section
/-!
DEFINITION. Yields: the stop, the save image, the continuation record; revocation, kills by register, pools and domain
commands (R151 to R169, R177, R180, R340).
-/

namespace Sys2Proof.Machine

open Sys2Proof

/-! ### Step 1: the team stops (R156, R159, R161) -/

/-- The streams of a team, its engine routines left out. -/
def teamStreams (s : State) (tk : Nat) : List (Nat × Stream) :=
  s.streams.filter (fun e => decide (e.2.team = tk) && decide (e.1 < 49152))

/-- A stream stands at a continuation point (R154, R155). -/
def atPoint (st : Stream) : Bool := decide (st.park = some .cpt) || decide (st.park = some .yielded)

/-- Every group of a team is parked at a continuation point or has ended, and has no transfer to wait for (R156, R325). -/
def cleanReady (s : State) (tk : Nat) : Bool :=
  (teamStreams s tk).all (fun e => atPoint e.2 && !draining s e.2.group)

/-- Grace has run out (R152). -/
def graceOver (s : State) (g : Grace) : Bool := decide (g.units = 0) || decide (g.until_ ≤ s.cycle)

/-- What a stream still waits with when its team's save starts: waits of the machine are kept, waits before an effect are
executed again (R206, R222, R304, R451, R470). -/
def stopPark : Option Park → Option Park
  | some .results => some .results
  | some .cpt => some .cpt
  | some .yielded => some .yielded
  | some (.phase n sw) => some (.phase n sw)
  | some (.parking full) => some (.parking full)
  | some (.status d v sw) => some (.status d v sw)
  | some .halted => some .halted
  | some .atTrap => some .atTrap
  | _ => none

/-- A stream stops at its instruction boundary, a TMMA at its step boundary (R156, R507). -/
def stopStream (s : State) (sid : Nat) : State := modStream (stopTmma s sid) sid (fun st => { st with park := stopPark st.park })

/-- A stream that a CPT or YIELD parks once its transfers are over, as they are when the team stops: it counts as parked (R157). -/
def endParking (s : State) (sid : Nat) : State :=
  match (find? s.streams sid).bind Stream.park with
  | some (.parking full) => parkPoint full s sid
  | _ => s

/-- What an outstanding result comes to at step 1 (R161, R446, R447, R467, R469): remote loads, reservations and WAITAs wait
to be issued again, an append has status 4, a MSGRECV has status 1, any other result is written. -/
def settleResult (sid : Nat) (s : State) (p : Pending) : State :=
  match p.await with
  | .nothing => writeBack s p.seq
  | .fails _ => writeBack s p.seq
  | .append _ => writeBack (setPend s sid p.seq 4) p.seq
  | .message _ _ _ _ => writeBack (giveUpRecv s p.seq) p.seq
  | _ => s

/-- The outstanding results of a team at step 1. -/
def settleResults (s : State) (tk : Nat) : State :=
  (teamStreams s tk).foldl (fun t e => e.2.pend.foldl (settleResult e.1) t) s

/-- Transfers of a team land at step 1; release stores that wait stay with the team. -/
def landAll (s : State) (tk : Nat) : State :=
  (s.moves.filter (fun m => decide (m.2.team = tk) && decide (m.2.kind < 5))).foldl
    (fun t m => if m.2.kind = 0 then landLds t m.1 else landTile t m.1) s

/-- An ENQ of a team has not arrived at its queue. -/
def awaitsArrival (s : State) (tk : Nat) : Bool :=
  (teamStreams s tk).any (fun e => e.2.pend.any (fun p => decide (p.await = .arrival)))

/-- Steps 1 and 2 of R159: issue stops, results complete, buffers are flushed, waits are withdrawn, routines abandoned. -/
def stopTeam (s : State) (tk : Nat) (t : Team) : State :=
  let s1 := (teamStreams s tk).foldl (fun u e => stopStream u e.1) s
  let s2 := (teamStreams s tk).foldl (fun u e => endParking u e.1) (settleResults (landAll s1 tk) tk)
  let s3 := withdraw s2 (fun r => match find? s2.lanes r.lane with | some l => decide (l.team = tk) | none => false)
  abandonRoutines { (flushTeam s3 t.ident) with meets := s3.meets.filter (fun e => decide (e.2.team ≠ tk)) } t.ident

/-! ### Step 3: the image (R158, R166) -/

/-- The place of a lane at launch. -/
def orderOf (s : State) (pos : Nat) : Nat := (laneOf s pos).order

/-- A result's place by the lane's launch order. -/
def awayDest (s : State) (pos : Nat) : Dest → Dest
  | .reg n => .reg (2048 * orderOf s pos + (n - (pipeOf pos * 2048 + (laneOf s pos).base)))
  | .k n => .k n

/-- A stream as an image keeps it: group by its index in the team, lanes by launch order. -/
def awayStream (s : State) (st : Stream) : Stream :=
  { st with
    group := match find? s.groups st.group with | some g => g.gi | none => 0
    fetch := none, tmma := none
    park := if st.park = some .yielded then none else st.park
    pend := st.pend.map (fun p =>
      { p with lane := orderOf s p.lane, writes := p.writes.map (fun w => (awayDest s p.lane w.1, w.2)) }) }

/-- What a clean park keeps of a stream (R158): it goes on at CONTPC. -/
def cleanStream (st : Stream) : Stream :=
  { st with
    pc := st.contpc.setWidth 64, park := none, fmts := [], tprog := 0, mstream := 0, region := none, observed := 0, contpc := 0
    contlive := 0, alanes := 0, adiv := 0, lowRun := 0, noJoin := false }

/-- A stream of a yielding team as saved. -/
def savedStream (s : State) (st : Stream) : Stream :=
  if st.park = some .cpt then cleanStream (awayStream s st) else awayStream s st

/-- The registers of a lane that are kept, by place in its allocation: the live ones of its window, or all (R158). -/
def keptRegs (s : State) (pos : Nat) (la : Lane) : List Nat :=
  match find? s.streams la.stream with
  | none => []
  | some st =>
    if st.park = some .cpt then (List.range (Nat.min st.contlive.toNat (la.alloc - st.wbase.toNat))).map (st.wbase.toNat + ·)
    else (List.range la.alloc).filter (fun o => (find? s.regs (pipeOf pos * 2048 + la.base + o)).isSome)

/-- The saved registers of a lane. -/
def saveLaneRegs (s : State) (m : SMap Word) (e : Nat × Lane) : SMap Word :=
  (keptRegs s e.1 e.2).foldl (fun r o => put r (2048 * e.2.order + o) (look 0 s.regs (pipeOf e.1 * 2048 + e.2.base + o))) m

/-- The lowest launch order among a team's lanes on a pipeline. -/
def orderOn (ls : List (Nat × Lane)) (pipe : Nat) : Nat :=
  match ls.filter (fun e => decide (pipeOf e.1 = pipe)) with
  | [] => 0
  | e :: r => r.foldl (fun a f => Nat.min a f.2.order) e.2.order

/-- The tiles a team holds, with those it has not claimed again since it was resumed (R158, R489). -/
def savedTiles (s : State) (tk : Nat) (ls : List (Nat × Lane)) : SMap (BitVec 32) :=
  let mine := s.owners.filter (fun e => decide (e.2 = tk))
  let held := mine.foldl (fun m e =>
    (s.tiles.filter (fun x => decide (x.1 / 4096 = e.1))).foldl (fun r x => put r (4096 * orderOn ls e.1 + x.1 % 4096) x.2) m) []
  (s.restore.filter (fun e => decide (e.1 / 6144 = tk))).foldl (fun m e =>
    e.2.foldl (fun r x => put r (4096 * orderOn ls (e.1 % 6144) + x.1) x.2) m) held

/-- The save area of a lane in a handler (R330). -/
def savedArea (s : State) (t : Team) (m : SMap Word) (e : Nat × Lane) : SMap Word :=
  match find? s.streams e.2.stream with
  | some st =>
    if st.handler then
      (List.range 8).foldl (fun r n => put r (8 * e.2.order + n) (word (rawRead s (saveArea s t.part e.1 + 8 * n) 8))) m
    else m
  | none => m

/-- The first pipeline of the run that held a team's lanes beyond whole rows. -/
def runPipe (ls : List (Nat × Lane)) : Nat :=
  match ls.find? (fun e => decide (e.2.order = 16 * (ls.length / 16))) with
  | some e => e.1 / 8 % 16
  | none => 0

/-- A lane that a forced yield stops inside a handler, whose privilege is recorded (R156, R320). -/
def inHandler (s : State) (la : Lane) : Bool := match find? s.streams la.stream with | some st => st.handler && !atPoint st | none => false

/-- The image of a stopped team (R158); `full` adds what only a forced yield saves. -/
def imageOf (s : State) (tk : Nat) (t : Team) (full : Bool) (blocks : List Nat) (mark : Word) : Image :=
  let ls := s.lanes.filter (fun e => decide (e.2.team = tk) && decide (e.1 < 49152))
  let gs := s.groups.filter (fun e => decide (e.2.team = tk) && decide (e.1 < 49152))
  let lo := t.cluster * 524288 + t.scBase * 4096
  { team := if full then t else { t with queues := [], bars := [] }
    groups := gs.foldl (fun m e =>
      put m e.2.gi
        { e.2 with
          lanes := e.2.lanes.map (orderOf s), rejoinBy := none
          trap := match e.2.trap with | some tc => some { tc with saved := awayStream s tc.saved } | none => none }) []
    lanes := ls.foldl (fun m e =>
      put m e.2.order
        { e.2 with
          group := (match find? s.groups e.2.group with | some g => g.gi | none => 0), stream := orderOf s e.2.stream
          priv := if inHandler s e.2 then e.2.priv else 0 }) []
    streams := (teamStreams s tk).foldl (fun m e => put m (orderOf s e.1) (savedStream s e.2)) []
    regs := ls.foldl (saveLaneRegs s) []
    scratch := if full then
        (s.scratch.filter (fun e => decide (lo ≤ e.1) && decide (e.1 < lo + t.scUnits * 4096))).map (fun e => (e.1 - lo, e.2))
      else []
    tiles := if full then savedTiles s tk ls else []
    save := ls.foldl (savedArea s t) []
    moves := (s.moves.filter (fun m => decide (m.2.team = tk))).foldl (fun m e =>
      put m e.1 { e.2 with lane := orderOf s e.2.lane, group := match find? s.groups e.2.group with | some g => g.gi | none => 0 }) []
    run := if ls.length % 16 = 0 then 0 else runPipe ls
    blocks := blocks
    sealWord := mark
    cells := [] }

/-- Blocks of a clean yield whose groups are all parked at CPTs (R166). -/
def cleanBlocks (s : State) (tk : Nat) : Nat :=
  let live := (s.groups.filter (fun e => decide (e.2.team = tk) && decide (e.1 < 49152) && !groupEnded e.2)).length
  let bytes := (teamStreams s tk).foldl (fun n e => n + (onesOf e.2.members).length * e.2.contlive.toNat * 8) 0
  1 + ceilDiv (bytes + live * 2048) 65536

/-- Blocks an image takes: any number up to 18 for a full save (R166). -/
def blocksFor (s : State) (tk : Nat) (clean : Bool) : State × Nat :=
  if clean && (teamStreams s tk).all (fun e => decide (e.2.park = some .cpt)) then (s, cleanBlocks s tk)
  else let (t, n) := chooseFree s 18; (t, n + 1)

/-- Blocks taken from a domain's save arena (R179); none when it holds too few. -/
def takeBlocks (dom : Nat) : Nat → State → Option (State × List Nat)
  | 0, s => some (s, [])
  | n + 1, s =>
    let (head, cnt) := listAt s dom 32
    if head = 0 ∨ cnt = 0 ∨ !ownedBlock s dom head then none
    else
      let next := rawRead s head 8
      let s1 := rawWrite (rawWrite s (domAddr s dom 32) 8 next) (domAddr s dom 40) 8 (cnt - 1)
      match takeBlocks dom n (noteArena s1 dom []) with
      | some (t, l) => some (t, head :: l)
      | none => none

/-- The image's blocks written: linked through their first doublewords, with a header of domain, count and seal; the rest
is not architected (R166, R168). -/
def writeBlocks (key : KeySel) (dom n : Nat) (mark : Word) : List Nat → Bool → State → State
  | [], _, s => s
  | b :: r, first, s =>
    let next := match r with | c :: _ => c | [] => 0
    let fixed := spread 8 next ++ (if first then spread 8 (dom * 2 ^ 32 + n) ++ spread 8 mark.toNat else [])
    let rest := (List.range (65536 - fixed.length)).map (fun i => Config.imageByte b (fixed.length + i))
    writeBlocks key dom n mark r false (homeWrite s key b (fixed ++ rest))

/-! ### Steps 4 to 6 -/

/-- Word 1 of a continuation (R160, R164): the launch budgets for causes 1 and 2, those left at step 1 for 3 and 4, and top-ups. -/
def contBudget (t : Team) (g : Grace) (x : Stopped) : Word :=
  let ib := if g.cause ≤ 2 then ibOf t.words else x.ib
  let tb := if g.cause ≤ 2 then tbOf t.words else x.tb
  word (Nat.min (ib + x.addIb) (2 ^ 32 - 1) * 2 ^ 32 + Nat.min (tb + x.addTb) (2 ^ 32 - 1))

/-- The continuation record of a team (R163, R164). -/
def continuation (t : Team) (g : Grace) (x : Stopped) (block : Nat) : List Word :=
  [ setBits (setBits (nth 0 t.words 0) 47 40 0xFF) 12 12 0,
    contBudget t g x,
    if t.node.isSome then 0 else nth 0 t.words 2,
    nth 0 t.words 3,
    word block,
    word (t.ti * 2 ^ 32 + t.home * 2 ^ 16 + (match t.node with | some n => n.2 | none => 0xFFFF)),
    setBits t.dseq 47 32 0,
    word (g.cause * 256 + (if x.clean then 1 else 2)) ]

/-- A reader of the save finds an uncorrectable error (R338, R493). -/
def saveBad (s : State) (tk : Nat) (t : Team) : Bool :=
  let lo := t.cluster * 524288 + t.scBase * 4096
  s.scErr.any (fun d => decide (lo ≤ 8 * d) && decide (8 * d < lo + t.scUnits * 4096))
    || s.tileErr.any (fun d => decide (find? s.owners (2 * d / 4096) = some tk))

/-- A stopped team is saved and leaves (R159 steps 3 to 6); with too few blocks it is killed (R166). -/
def saveTeam (s : State) (tk : Nat) (t : Team) (g : Grace) (x : Stopped) : State :=
  let (s1, n) := blocksFor s tk x.clean
  match takeBlocks t.domain n s1 with
  | none => killTeam s tk 0x03 0
  | some (s2, blocks) =>
    let first := match blocks with | b :: _ => b | [] => 0
    let mark := Config.sealOf s.pkg.resets first
    let im := imageOf s2 tk t (!x.clean) blocks mark
    let s3 := writeBlocks (saveKey s2 t.domain) t.domain n mark blocks true s2
    let s4 := { s3 with sched := { s3.sched with images := put s3.sched.images first { im with cells := blockCells s3 blocks } } }
    let s5 := dropTeam s4 tk t
    let s6 := if t.exempt then s5 else creditQueue s5 t.home t.ib.toNat t.tb.toNat
    let r : Arrival :=
      { queue := t.home, tag := (viewQ s6 t.home).tag, words := continuation t g x first, origin := .back first, exempt := t.exempt }
    freed (pushWork s6 (.recordArrival r)) t.cluster

/-- Steps 1 and 2 of a yield that is due (R159): the team stops, its budgets noted before its buffers are flushed. A late fault found
then kills it (R324). -/
def stopNow (s : State) (tk : Nat) (t : Team) : State :=
  let x : Stopped := { ib := t.ib.toNat, tb := t.tb.toNat, addIb := 0, addTb := 0, clean := cleanReady s tk }
  let s1 := modTeam (stopTeam s tk t) tk (fun y => { y with stopped := some x })
  match find? s1.teams tk with
  | none => s1
  | some t1 =>
    match t1.doomed with
    | some (k, f) => killTeam s1 tk k f
    | none => if t1.late ≠ [] then killTeam s1 tk 0x04 0 else s1

/-- A yield of a team, clean or forced (R156, R159), as two events: steps 1 and 2, then the save and what follows it. Nothing happens
before one of the two kinds is due. -/
def yieldTeam (s : State) (tk : Nat) : State :=
  match find? s.teams tk with
  | none => s
  | some t =>
    match t.pend, t.stopped with
    | none, _ => s
    | some g, none =>
      if t.doomed.isSome || awaitsArrival s tk || !(cleanReady s tk || graceOver s g) || (find? s.sched.placing tk).isSome then s
      else stopNow s tk t
    | some g, some x =>
      match t.doomed with
      | some (k, f) => killTeam s tk k f
      | none => if !x.clean && saveBad s tk t then killTeam s tk 0x02 0 else saveTeam s tk t g x

/-- The end of a grace time (R152, R156). -/
def endGrace (s : State) (tk : Nat) : State :=
  match find? s.teams tk with
  | some t => match t.pend with
    | some g => if graceOver s g then pushWork s (.teamYield tk) else s
    | none => s
  | none => s

/-! ### Registers that name teams, pools and domains -/

/-- The number of the team a full identifier names. -/
def teamKey (s : State) (v : Word) : Option Nat := (teamNamed s (bitsW v 31 0)).map (fun t => t.ident.toNat % 65536)

/-- A write to BREV (R177). -/
def revoke (s : State) (v : Word) : State :=
  match teamKey s v with
  | none => s
  | some tk => match find? s.teams tk with
    | some t => if t.exempt then s else pendYield s tk 3 0
    | none => s

/-- A write to KILLT (R340). -/
def killNamed (s : State) (v : Word) : State :=
  match teamKey s v with
  | some tk => killTeam s tk 0x05 0
  | none => s

/-- A write to BPADD (R169). -/
def addPool (s : State) (v : Word) : State :=
  let n := s.sched.bpidx.toNat
  let p := poolOf s n
  let up (b : Word) : Word := word (Nat.min (b.toNat + bitsW v 47 0) (2 ^ 64 - 1))
  nudge (setPool s n (if bitW v 63 then { p with tb := up p.tb } else { p with ib := up p.ib }))

/-- The status of a domain command. -/
def dcmdStatus (s : State) (n : Nat) : State := { s with sched := { s.sched with dcmd := { s.sched.dcmd with status := BitVec.ofNat 3 n } } }

/-- A domain command, refused for a domain that is not valid (R180). -/
def onDomain (s : State) (dom : Nat) (f : State → State) : State :=
  if bitW (word (rawRead s (domAddr s dom 0) 8)) 63 then f s else dcmdStatus s 1

/-- The argument of a push is misaligned (R180). -/
def pushBad (a : Word) : Bool :=
  decide (bitsW a 15 0 ≠ 0) || decide (bitsW a 63 40 ≠ 0) || decide (bitsW a 39 16 = 0) || decide (a.toNat ≥ localLimit)

/-- A page or block pushed onto a list of a domain: its head stands at `at_`, its count behind it (R179, R180). -/
def pushFree (at_ : Nat) (dom : Nat) (s : State) : State :=
  let a := s.sched.dcarg
  if pushBad a then dcmdStatus s 2
  else
    let head := rawRead s (domAddr s dom at_) 8
    let cnt := rawRead s (domAddr s dom (at_ + 8)) 8
    let s1 := rawWrite s a.toNat 8 (bitsN head 39 16 * 2 ^ 16)
    let s2 := rawWrite s1 (domAddr s dom at_) 8 a.toNat
    dcmdStatus (noteArena (rawWrite s2 (domAddr s dom (at_ + 8)) 8 (cnt / 2 ^ 40 * 2 ^ 40 + (cnt + 1) % 2 ^ 40)) dom [a.toNat]) 0

/-- The quota of a domain set (R180). -/
def setQuota (dom : Nat) (s : State) : State :=
  let w := rawRead s (domAddr s dom 0) 8
  dcmdStatus (rawWrite s (domAddr s dom 0) 8 (w / 2 ^ 40 * 2 ^ 40 + bitsW s.sched.dcarg 39 0)) 0

/-- USED lowered, not below zero (R180). -/
def subtractUsed (dom : Nat) (s : State) : State :=
  let w := rawRead s (domAddr s dom 8) 8
  dcmdStatus (noteArena (rawWrite s (domAddr s dom 8) 8 (w / 2 ^ 40 * 2 ^ 40 + (w % 2 ^ 40 - bitsW s.sched.dcarg 39 0))) dom []) 0

/-! ### The events -/

/-- GRACE_EXPIRY (R152). -/
def execGraceExpiry (team : Nat) (s : State) : Host.Outcome State Fault Refusal := .next (endGrace s team)

/-- TEAM_YIELD (R159). -/
def execTeamYield (team : Nat) (s : State) : Host.Outcome State Fault Refusal := .next (yieldTeam s team)

/-- TEAM_REVOKE (R177). -/
def execTeamRevoke (v : Word) (s : State) : Host.Outcome State Fault Refusal := .next (revoke s v)

/-- KILLT_WRITE (R340). -/
def execKilltWrite (v : Word) (s : State) : Host.Outcome State Fault Refusal := .next (killNamed s v)

/-- POOL_ADD (R169). -/
def execPoolAdd (v : Word) (s : State) : Host.Outcome State Fault Refusal := .next (addPool s v)

/-- DOMAIN_SET_QUOTA (R180). -/
def execDomainSetQuota (dom : Nat) (s : State) : Host.Outcome State Fault Refusal := .next (onDomain s dom (setQuota dom))

/-- DOMAIN_PUSH_PAGE (R180). -/
def execDomainPushPage (dom : Nat) (s : State) : Host.Outcome State Fault Refusal := .next (onDomain s dom (pushFree 16 dom))

/-- DOMAIN_PUSH_SAVE_BLOCK (R180). -/
def execDomainPushSaveBlock (dom : Nat) (s : State) : Host.Outcome State Fault Refusal := .next (onDomain s dom (pushFree 32 dom))

/-- DOMAIN_SUBTRACT_USED (R180). -/
def execDomainSubtractUsed (dom : Nat) (s : State) : Host.Outcome State Fault Refusal := .next (onDomain s dom (subtractUsed dom))

end Sys2Proof.Machine
end

