-- ==== Sys2Proof/Machine/Vault.lean ====
section
/-!
DEFINITION. The vault: a partition's clusters are halted and their context moves out of them and back (R184 to R186).
-/

namespace Sys2Proof.Machine

open Sys2Proof

/-! ### The halt (R185) -/

/-- The clusters of a partition entry. -/
def entryClusters (e : List Word) : List Nat := (List.range 384).filter (partHasCluster e)

/-- The teams on some clusters. -/
def teamsOn (s : State) (cs : List Nat) : List (Nat × Team) := s.teams.filter (fun e => cs.contains e.2.cluster)

/-- Every stream of a team, its engine routines among them. -/
def allStreams (s : State) (tk : Nat) : List (Nat × Stream) := s.streams.filter (fun e => decide (e.2.team = tk))

/-- Local results that are outstanding complete at a halt; remote loads, reservations, WAITAs, appends and messages stay
(R185, R467, R469). -/
def completeLocal (s : State) (p : Pending) : State :=
  match p.await with
  | .nothing => writeBack s p.seq
  | .fails _ => writeBack s p.seq
  | _ => s

/-- A team halted at an instruction boundary, a TMMA at a step boundary; its transfers land, its reservations are handed on
and its buffers are flushed. -/
def haltTeam (s : State) (e : Nat × Team) : State :=
  let s1 := (allStreams s e.1).foldl (fun t x => stopTmma t x.1) s
  let s2 := (allStreams s1 e.1).foldl (fun t x => x.2.pend.foldl completeLocal t) (landAll s1 e.1)
  let s3 := withdraw s2 (fun r => match find? s2.lanes r.lane with | some l => decide (l.team = e.1) | none => false)
  flushTeam s3 e.2.ident

/-- A team that a vault move finds in error, or that was to be killed, is killed (R337, R338). -/
def killHalted (s : State) (e : Nat × Team) : State :=
  match find? s.teams e.1 with
  | none => s
  | some t =>
    match t.doomed with
    | some (k, f) => killTeam s e.1 k f
    | none => if saveBad s e.1 t then killTeam s e.1 0x02 0 else s

/-- Records on their way arrive, and teams placed and not started start, before a halt. -/
def settleArrivals (s : State) (cs : List Nat) : State :=
  let s1 := s.work.foldl (fun t e => match e with | .recordArrival r => arriveRecord t r | _ => t)
    { s with work := s.work.filter (fun e => match e with | .recordArrival _ => false | _ => true) }
  (teamsOn s1 cs).foldl (fun t e => startTeam t e.1) s1

/-- Clusters halted: their teams stop, dirty sectors are written back and the first-level caches are invalidated. -/
def haltClusters (s : State) (cs : List Nat) : State :=
  let s1 := settleArrivals s cs
  let s2 := (teamsOn s1 cs).foldl haltTeam s1
  let s3 := (teamsOn s2 cs).foldl killHalted s2
  (cs.flatMap (fun c => (List.range 16).map (16 * c + ·))).foldl clearBank s3

/-! ### The context (R186) -/

/-- A time kept as what is left of it. -/
def timeLeft (s : State) (t : Nat) : Nat := t - s.cycle

/-- Waits with a limit as a context keeps them: what is left of the limit. -/
def awayPend (f : Nat → Nat) (p : Pending) : Pending :=
  { p with await := match p.await with | .message i n d u => .message i n d (f u) | a => a }

/-- A stream, a team, a group and a rendezvous with their limits changed. -/
def limitStream (f : Nat → Nat) (st : Stream) : Stream := { st with pend := st.pend.map (awayPend f), fetch := none }
def limitTeam (f : Nat → Nat) (t : Team) : Team := { t with pend := match t.pend with | some g => some { g with until_ := f g.until_ } | none => none }
def limitGroup (f : Nat → Nat) (g : Group) : Group := { g with rejoinBy := match g.rejoinBy with | some t => some (f t) | none => none }
def limitMeet (f : Nat → Nat) (m : Rendezvous) : Rendezvous := { m with by_ := f m.by_ }

/-- The harts whose routines a context holds: the clusters' copy harts, and collective harts that run a routine of their teams. -/
def contextHarts (s : State) (cs : List Nat) (ids : List (BitVec 32)) : List Nat :=
  (s.harts.filter (fun e =>
    decide (e.1 < 384) && cs.contains e.1
      || decide (e.1 ≥ 384) && (match e.2.run with | some k => ids.contains k.team | none => false))).map Prod.fst

/-- What is moved: teams, clusters, harts. -/
structure Moved where
  tks : List Nat
  ids : List (BitVec 32)
  cs  : List Nat
  hs  : List Nat
  deriving DecidableEq, Repr

/-- A pipeline belongs to what is moved. -/
def Moved.pipe (m : Moved) (p : Nat) : Bool := if p < 6144 then m.cs.contains (p / 16) else m.hs.contains (p - 6144)

/-- A position belongs to what is moved. -/
def Moved.pos (m : Moved) (p : Nat) : Bool := if p < 49152 then m.cs.contains (clusterOf p) else m.hs.contains (p - 49152)

/-- The context of halted clusters. -/
def contextOf (s : State) (m : Moved) : Context :=
  let f := timeLeft s
  { teams := each (fun _ => limitTeam f) (part (fun k => m.tks.contains k) s.teams)
    groups := each (fun _ => limitGroup f) (s.groups.filter (fun e => m.tks.contains e.2.team))
    lanes := part m.pos s.lanes
    streams := each (fun _ => limitStream f) (part m.pos s.streams)
    regs := part (fun k => m.pipe (k / 2048)) s.regs
    scratch := part (fun k => m.cs.contains (k / 524288)) s.scratch
    tiles := part (fun k => m.pipe (k / 4096)) s.tiles
    owners := part m.pipe s.owners
    clusters := part (fun k => m.cs.contains k) s.clusters
    harts := (s.harts.filter (fun e => m.hs.contains e.1 || e.2.fifo.any (fun k => m.ids.contains k.team))).map (fun e =>
      if e.1 < 384 then e
      else (e.1, { e.2 with fifo := e.2.fifo.filter (fun k => m.ids.contains k.team), run := if m.hs.contains e.1 then e.2.run else none }))
    meets := each (fun _ => limitMeet f) (s.meets.filter (fun e => m.tks.contains e.2.team))
    moves := s.moves.filter (fun e => m.tks.contains e.2.team)
    restore := part (fun k => m.tks.contains (k / 6144)) s.restore }

/-- The state without a context that has left: free clusters and harts. -/
def withoutContext (s : State) (m : Moved) : State :=
  { s with
    teams := part (fun k => !m.tks.contains k) s.teams
    groups := s.groups.filter (fun e => !m.tks.contains e.2.team)
    lanes := part (fun k => !m.pos k) s.lanes
    streams := part (fun k => !m.pos k) s.streams
    regs := part (fun k => !m.pipe (k / 2048)) s.regs
    scratch := part (fun k => !m.cs.contains (k / 524288)) s.scratch
    tiles := part (fun k => !m.pipe (k / 4096)) s.tiles
    owners := part (fun k => !m.pipe k) s.owners
    harts := (s.harts.filter (fun e => !(decide (e.1 < 384) && m.cs.contains e.1))).map (fun e =>
      (e.1, { e.2 with fifo := e.2.fifo.filter (fun k => !m.ids.contains k.team), run := if m.hs.contains e.1 then none else e.2.run }))
    meets := s.meets.filter (fun e => !m.tks.contains e.2.team)
    moves := s.moves.filter (fun e => !m.tks.contains e.2.team)
    restore := part (fun k => !m.tks.contains (k / 6144)) s.restore }

/-- Teams have come to clusters, or left them, with a vault move: each cluster changes mode once, at the cost of one of its teams
(R237, R241). -/
def rebankAll (before : State) (cs : List Nat) (ts : List (Nat × Team)) (after : State) : State :=
  cs.foldl (fun t c => rebank before t c (match ts.find? (fun e => decide (e.2.cluster = c)) with | some e => e.1 | none => 0)) after

/-- A partition's clusters are halted and their context moves into the vaults. -/
def stow (s : State) (p : Nat) (e : List Word) : State :=
  let cs := entryClusters e
  let s1 := haltClusters s cs
  let ts := teamsOn s1 cs
  let ids := ts.map (fun x => x.2.ident)
  let m : Moved := { tks := ts.map Prod.fst, ids := ids, cs := cs, hs := contextHarts s1 cs ids }
  let s2 := rebankAll s1 cs ts (withoutContext s1 m)
  let s3 :=
    { s2 with
      sched := { s2.sched with vaults := put s2.sched.vaults p (contextOf s1 m) }
      host := { s2.host with parts := put s2.host.parts p (e, true) } }
  m.hs.foldl (fun t h => if h ≥ 384 then pushWork t (.engineRoutineStart h) else t) s3

/-- Every pair of one table put into another. -/
def merge {α : Type} (a b : SMap α) : SMap α := a.foldl (fun m e => put m e.1 e.2) b

/-- A cluster takes back its generation and its L4 table; the counters of R240, its deque and the state of the queue engine are not
of the context (R186). -/
def mergeCluster (s : State) (m : SMap Cluster) (e : Nat × Cluster) : SMap Cluster :=
  put m e.1 { clusterAt s e.1 with gen := e.2.gen, lut0 := e.2.lut0, lut1 := e.2.lut1 }

/-- A hart takes back its routine and its kicks, which were there first. -/
def mergeHart (m : SMap Hart) (e : Nat × Hart) : SMap Hart :=
  let x := look .reset m e.1
  put m e.1 (match e.2.run with
    | some _ => { e.2 with fifo := e.2.fifo ++ x.fifo }
    | none => { x with fifo := e.2.fifo ++ x.fifo })

/-- The collective harts that a context's routines ran on are idle. -/
def hartsFree (s : State) (x : Context) : Bool :=
  x.harts.all (fun e => e.2.run.isNone || (look .reset s.harts e.1).run.isNone)

/-- A MSGRECV that waited goes on for what was left of its limit, as the context kept it; any other wait is issued again (R161, R447). -/
def rearm (sid : Nat) (s : State) (p : Pending) : State :=
  match p.await with
  | .message _ _ _ u => takeMessage (pushTimer s u (.msgrecvTimeout sid p.seq)) p.seq
  | _ => reissue sid s p

/-- The timers of a restored context: grace, rejoins and rendezvous. -/
def restart (x : Context) (s : State) : State :=
  let s1 := x.teams.foldl (fun t e => match e.2.pend with | some g => pushTimer t g.until_ (.graceExpiry e.1) | none => t) s
  let s2 := x.groups.foldl (fun t e => match e.2.rejoinBy with | some n => pushTimer t (n + 1) (.rejoinTimeout e.1) | none => t) s1
  let s3 := x.meets.foldl (fun t e => pushTimer t (e.2.by_ + 1) (.fuseTimeout e.1)) s2
  x.harts.foldl (fun t e => pushWork t (.engineRoutineStart e.1)) s3

/-- A context moves back from the vaults into its clusters; its teams go on (R186). -/
def unstow (s : State) (p : Nat) (e : List Word) (x : Context) : State :=
  let f (n : Nat) : Nat := n + s.cycle
  let s1 :=
    { s with
      teams := merge (each (fun _ => limitTeam f) x.teams) s.teams
      groups := merge (each (fun _ => limitGroup f) x.groups) s.groups
      lanes := merge x.lanes s.lanes
      streams := merge (each (fun _ => limitStream f) x.streams) s.streams
      regs := merge x.regs s.regs
      scratch := merge x.scratch s.scratch
      tiles := merge x.tiles s.tiles
      owners := merge x.owners s.owners
      clusters := x.clusters.foldl (mergeCluster s) s.clusters
      harts := x.harts.foldl mergeHart s.harts
      meets := merge (each (fun _ => limitMeet f) x.meets) s.meets
      restore := merge x.restore s.restore
      sched := { s.sched with vaults := del s.sched.vaults p }
      host := { s.host with parts := put s.host.parts p (e, false) } }
  let s2 := rebankAll s (entryClusters e) x.teams (x.moves.foldl (fun t a => addMove t a.2) s1)
  let s3 := x.streams.foldl (fun t a => a.2.pend.foldl (rearm a.1) t) s2
  let s4 := restart x s3
  (entryClusters e).foldl freed s4

/-! ### The commands (R184) -/

/-- The status of a vault command. -/
def vcmdStatus (s : State) (n : Nat) : State := { s with sched := { s.sched with vcmd := { s.sched.vcmd with status := BitVec.ofNat 3 n } } }

/-- An active partition whose context is in its clusters. -/
def activePart (s : State) (p : Nat) : Option (List Word) :=
  match find? s.host.parts p with | some (e, false) => some e | _ => none

/-- A partition whose context is in the vaults. -/
def vaultPart (s : State) (p : Nat) : Option (List Word × Context) :=
  match find? s.host.parts p, find? s.sched.vaults p with | some (e, true), some x => some (e, x) | _, _ => none

/-- Two entries have a cluster in common. -/
def meetClusters (a b : List Word) : Bool := (entryClusters a).any (partHasCluster b)

/-- STOW (R184, R185). -/
def stowCommand (s : State) (out : Nat) : State :=
  match activePart s out with
  | none => vcmdStatus s 1
  | some e =>
    if s.host.parts.any (fun f => f.2.2 && meetClusters e f.2.1) then vcmdStatus s 4
    else (entryClusters e).foldl freed (vcmdStatus (stow s out e) 0)

/-- SWAP (R184, R186): both moves at once. It waits while a collective hart that the incoming context needs is busy. -/
def swapCommand (s : State) (out inn : Nat) : State :=
  match activePart s out with
  | none => vcmdStatus s 1
  | some e =>
    match vaultPart s inn with
    | none => vcmdStatus s 2
    | some (f, x) =>
      if entryClusters e ≠ entryClusters f then vcmdStatus s 3
      else
        let t := stow s out e
        if hartsFree t x then unstow (vcmdStatus t 0) inn f x else pushTimer s 1 (.vaultSwap out inn)

/-- RESTORE (R184, R186), which waits as SWAP does. -/
def restoreCommand (s : State) (inn : Nat) : State :=
  match vaultPart s inn with
  | none => vcmdStatus s 2
  | some (f, x) =>
    if s.host.parts.any (fun g => !g.2.2 && meetClusters f g.2.1) then vcmdStatus s 5
    else if hartsFree s x then unstow (vcmdStatus s 0) inn f x else pushTimer s 1 (.vaultRestore inn)

/-! ### The events -/

/-- VAULT_STOW (R185). -/
def execVaultStow (out : Nat) (s : State) : Host.Outcome State Fault Refusal := .next (stowCommand s out)

/-- VAULT_SWAP (R186). -/
def execVaultSwap (out inn : Nat) (s : State) : Host.Outcome State Fault Refusal := .next (swapCommand s out inn)

/-- VAULT_RESTORE (R186). -/
def execVaultRestore (inn : Nat) (s : State) : Host.Outcome State Fault Refusal := .next (restoreCommand s inn)

end Sys2Proof.Machine
end

