-- ==== Sys2Proof/Machine/System.lean ====
section
/-!
DEFINITION. System instructions and special registers, control stack spills, shootdowns, fetch, late faults, engine routines and
the memory system's own events (R214, R246, R249, R255 to R262, R273, R318, R324, R333, R334, R448 to R454, R481, R482).
-/

namespace Sys2Proof.Machine

open Sys2Proof

/-! ### TRAP and RETT (R448, R449) -/

/-- TRAP (R448): the software trap is taken once TRAP has executed; TPC is the next instruction. -/
def trapPlan (imm : BitVec 17) (_ : State) (_ : Ctx) (_ : List Vals) : Plan :=
  .own (fun t e =>
    raiseTrap t e { faults := everyLane e 0x1A 0 imm.toNat, tpc := e.st.pc + 4, late := false, noroll := false, pcs := [] })

/-- RETT (R332, R334). -/
def rettPlan (s : State) (c : Ctx) (_ : List Vals) : Plan :=
  if privOf s c = 0 then .fault (everyLane c 0x02 0 0x79)
  else if !c.st.handler then .fault (everyLane c 0x1B 0 0)
  else .own returnFromTrap

/-! ### Special registers (R452) -/

/-- log2 of a width up to 16. -/
def log2Width (w : Nat) : Nat := if w ≤ 1 then 0 else if w ≤ 2 then 1 else if w ≤ 4 then 2 else if w ≤ 8 then 3 else 4

/-- MODE as read (R225). -/
def readMode (c : Ctx) : Word :=
  let pipes := maskOf (c.grp.lanes.map (fun p => p / 8 % 16))
  word ((if c.fused then log2Width c.width else 0) * 2 ^ 32 + pipes.toNat * 2 ^ 16 + slotOf c.sid * 2 ^ 12 + c.st.alanes.toNat * 2 ^ 8
    + c.st.adiv.toNat)

/-- GRACE as read (R153). -/
def readGrace (s : State) (t : Team) : Word :=
  match t.pend with
  | none => 0
  | some g =>
    word (2 ^ 63 + g.cause * 2 ^ 60 + (if g.nocan then 2 ^ 59 else 0) + Nat.min ((g.until_ - s.cycle) / 20) 4095 * 2 ^ 32
      + Nat.min g.units 4095)

/-- A count of the team's tracking block; 0 without one (R453, R479). -/
def readTrack (s : State) (t : Team) (off : Nat) : Word :=
  match trackFor s t with
  | .block d a => (match domRead s d (a + off) 4 with | some v => word v | none => 0)
  | .inside => 0

/-- A special register as a lane reads it (R450, R453); reserved and WO fields read as zero. -/
def readSpecial (s : State) (c : Ctx) (pos : Nat) (r : Nat) : Word :=
  let la := laneOf s pos
  match r with
  | 0x000 => readMode c
  | 0x001 => word (pos / 8 % 16 * 2 ^ 52 + slotOf pos * 2 ^ 48 + c.team.ident.toNat)
  | 0x002 => c.st.wbase.setWidth 64
  | 0x003 => word c.st.stack.length
  | 0x004 => c.st.csspill.setWidth 64
  | 0x005 => word c.st.spilled
  | 0x010 => c.st.fcsr.setWidth 64
  | 0x011 => la.seed
  | 0x020 => readGrace s c.team
  | 0x021 => c.st.contpc.setWidth 64
  | 0x022 => c.st.contlive.setWidth 64
  | 0x023 => c.team.dseq
  | 0x024 => c.team.budcap
  | 0x030 => c.st.tprog
  | 0x031 => c.st.mstream
  | 0x040 => readTrack s c.team 0
  | 0x041 => readTrack s c.team 4
  | 0x042 => c.team.rtrack
  | 0x043 => c.team.rage.setWidth 64
  | 0x050 => word c.team.domain
  | 0x060 => la.tcause
  | 0x061 => la.tpc
  | 0x062 => la.taddr
  | 0x063 => la.tinfo
  | 0x064 => la.tvec
  | 0x065 => la.tsave
  | 0x066 => la.priv.setWidth 64
  | 0x070 => (clusterAt s c.team.cluster).lut0
  | 0x071 => (clusterAt s c.team.cluster).lut1
  | _ => 0

/-- The registers of R452. -/
def specialRegisters : List Nat :=
  [0x000, 0x001, 0x002, 0x003, 0x004, 0x005, 0x010, 0x011, 0x020, 0x021, 0x022, 0x023, 0x024, 0x030, 0x031] ++
  [0x040, 0x041, 0x042, 0x043, 0x050, 0x060, 0x061, 0x062, 0x063, 0x064, 0x065, 0x066, 0x070, 0x071]

/-- The registers with a field that is RW at user privilege. -/
def userWritable : List Nat := [0x000, 0x002, 0x010, 0x011, 0x021, 0x022, 0x030, 0x031, 0x042, 0x043]

/-- The registers with a field that is RW at supervisor or firmware privilege. -/
def superWritable : List Nat := userWritable ++ [0x004, 0x005, 0x024, 0x061, 0x062, 0x064]

/-- A word with only the bits of a field list kept. -/
def keepFields (v : Word) (fs : List (Nat × Nat)) : Word := word (fs.foldl (fun n f => n + bitsW v f.1 f.2 * 2 ^ f.2) 0)

/-- SRD (R450). -/
def srdPlan (d : RegName) (r : Nat) (_ : State) (_ : Ctx) (vs : List Vals) : Plan :=
  if !specialRegisters.contains r then .illegal
  else .go (fun t e => writeLanes t e d (vs.map (fun v => (v.ln, v.pos, readSpecial t e v.pos r))))

/-- A buffer of a team: its age is checked again under a new limit (R454). -/
def retimeBuffers (s : State) (ident : BitVec 32) (rage : BitVec 12) : State :=
  (s.fab.buffers.filter (fun e => decide (e.2.team = ident))).foldl (fun t e =>
    pushTimer t (Nat.max 1 (e.2.opened + ageCycles s rage - s.cycle)) (.comaAgeLimit e.1)) s

/-- A write to RTRACK (R454): at once, or after the team's next fabric-scope release. -/
def writeTrack (s : State) (tk : Nat) (v : Word) : State :=
  match find? s.teams tk with
  | none => s
  | some t =>
    if outstanding s t ≠ 0 ∨ s.fab.buffers.any (fun e => decide (e.2.team = t.ident)) then modTeam s tk (fun x => { x with rtrackTo := some v })
    else modTeam s tk (fun x => { x with rtrack := v, rtrackTo := none })

/-- A register held once per group or per team written with one value (R450). -/
def writeHeld (s : State) (c : Ctx) (r : Nat) (v : Word) : State :=
  let st (f : Stream → Stream) : State := modStream s c.sid f
  match r with
  | 0x000 => st (fun x => { x with alanes := BitVec.ofNat 4 (bitsW v 11 8), adiv := BitVec.ofNat 8 (bitsW v 7 0) })
  | 0x004 => st (fun x => { x with csspill := BitVec.ofNat 55 (bitsW v 54 4 * 16) })
  | 0x010 =>
    let rm := bitsW v 7 5
    st (fun x => { x with fcsr := BitVec.ofNat 8 ((if rm > 4 then 0 else rm) * 32 + bitsW v 4 0) })
  | 0x021 => st (fun x => { x with contpc := BitVec.ofNat 55 (bitsW v 54 2 * 4) })
  | 0x022 => st (fun x => { x with contlive := BitVec.ofNat 7 (Nat.min (bitsW v 6 0) 96) })
  | 0x030 => st (fun x => { x with tprog := keepFields v [(31, 31), (15, 0)] })
  | 0x031 => st (fun x => { x with mstream := keepFields v [(18, 0)] })
  | 0x024 => modTeam s c.st.team (fun x => { x with budcap := keepFields v [(63, 63), (41, 32), (11, 0)] })
  | 0x042 => writeTrack s c.st.team (keepFields v [(54, 5)])
  | 0x043 =>
    retimeBuffers (modTeam s c.st.team (fun x => { x with rage := BitVec.ofNat 12 (bitsW v 11 0) })) c.team.ident (BitVec.ofNat 12 (bitsW v 11 0))
  | _ => s

/-- A register held per lane written with that lane's value (R450). -/
def writeOwn (r : Nat) (s : State) (v : Vals) : State :=
  modLane s v.pos (fun x =>
    match r with
    | 0x011 => { x with seed := if bitsW v.d 31 0 = 0 then 1 else keepFields v.d [(31, 0)] }
    | 0x061 => { x with tpc := keepFields v.d [(54, 0)] }
    | 0x062 => { x with taddr := v.d }
    | 0x064 => { x with tvec := keepFields v.d [(63, 48), (47, 40), (1, 1)] }
    | _ => x)

/-- A register is held per lane. -/
def heldPerLane (r : Nat) : Bool := [0x011, 0x061, 0x062, 0x064].contains r

/-! ### Spills and fills (R214) -/

/-- The entries that a write of CSSPILLN moves, and their addresses. -/
def moveCount (st : Stream) (fill : Bool) (n : Nat) : Nat :=
  if fill then Nat.min n (Nat.min st.spilled (16 - st.stack.length))
  else
    let k := Nat.min n st.stack.length
    if st.spilled + k > 65535 then 0 else k

/-- The address of the `i`-th entry a move touches. -/
def moveAddr (st : Stream) (fill : Bool) (i : Nat) : Word :=
  if fill then (st.csspill - BitVec.ofNat 55 (16 * (i + 1))).setWidth 64 else (st.csspill + BitVec.ofNat 55 (16 * i)).setWidth 64

/-- The first fault among the accesses of a move: it moves no entry. -/
def moveFault (s : State) (c : Ctx) (fill : Bool) : List Nat → Option LaneFault
  | [] => none
  | i :: r =>
    let va := moveAddr c.st fill i
    match permLocal s c.tlbs c.team.domain va ⟨fill, !fill, false⟩ (userOf s c) with
    | .error f => some { ln := c.first.1, code := f.code, addr := va, detail := f.detail }
    | .ok (t, x) =>
      if fill && viewBad t (pipeOf c.first.2) x.key x.local_ then some { ln := c.first.1, code := 0x18, addr := va, detail := 0 }
      else moveFault t c fill r

/-- One entry written to memory through the lane's bank. -/
def spillEntry (c : Ctx) (s : State) (e : Nat × CsEntry) : State :=
  let va := moveAddr c.st false e.1
  match permLocal s c.tlbs c.team.domain va ⟨false, true, false⟩ (userOf s c) with
  | .error _ => s
  | .ok (t, x) =>
    let (u, y) := dirtied t c.tlbs va ⟨false, true, false⟩ (userOf s c) x
    let (w, n) := bankStore u (pipeOf c.first.2) y.key y.local_ (spread 8 (entryWord0 e.2) ++ spread 8 e.2.pc.toNat)
    chargeSectors w c n

/-- One entry read from memory through the lane's bank. -/
def fillEntry (c : Ctx) (a : State × List CsEntry) (i : Nat) : State × List CsEntry :=
  let va := moveAddr c.st true i
  match permLocal a.1 c.tlbs c.team.domain va ⟨true, false, false⟩ (userOf a.1 c) with
  | .error _ => a
  | .ok (t, x) =>
    let (u, d0, _, n) := bankLoad t (pipeOf c.first.2) x.key x.local_ 8
    let (w, d1, _, m) := bankLoad u (pipeOf c.first.2) x.key (x.local_ + 8) 8
    (chargeSectors w c (n + m), a.2 ++ [entryOf d0 d1])

/-- Entries leave the chip, the bottom entry first. -/
def spillStack (s : State) (c : Ctx) (n : Nat) : State :=
  let out := (c.st.stack.drop (c.st.stack.length - n)).reverse
  let t := (((List.range n).zip out)).foldl (spillEntry c) s
  modStream t c.sid (fun st =>
    { st with stack := st.stack.take (st.stack.length - n), csspill := st.csspill + BitVec.ofNat 55 (16 * n), spilled := st.spilled + n })

/-- Entries come back beneath those on chip; a region entry recorded with more entries spilled is lost (R322). -/
def fillStack (s : State) (c : Ctx) (n : Nat) : State :=
  let (t, l) := (List.range n).foldl (fillEntry c) (s, [])
  modStream t c.sid (fun st =>
    { st with
      stack := st.stack ++ l, csspill := st.csspill - BitVec.ofNat 55 (16 * n), spilled := st.spilled - n
      region := match st.region with | some r => if st.spilled - n < r.spilled then none else some r | none => none })

/-- A write to CSSPILLN (R214). -/
def spillPlan (s : State) (c : Ctx) (v : Word) : Plan :=
  let fill := bitW v 63
  let n := moveCount c.st fill (bitsW v 15 0)
  match moveFault s c fill (List.range n) with
  | some f => .fault [f]
  | none => .go (fun t e => if fill then fillStack t e n else spillStack t e n)

/-- SWR (R450): refused when no field is RW at the privilege, else the value by uniform read or each lane's own. -/
def swrPlan (r : Nat) (s : State) (c : Ctx) (vs : List Vals) : Plan :=
  if !specialRegisters.contains r then .illegal
  else if !(if privOf s c = 0 then userWritable else superWritable).contains r then .fault (everyLane c 0x02 0 r)
  else
    match vs with
    | [] => .go (fun t _ => t)
    | v :: _ =>
      if r = 0x002 then windowPlan s c (bitsW v.d 8 3 * 8)
      else if r = 0x005 then spillPlan s c v.d
      else if heldPerLane r then .go (fun t _ => vs.foldl (writeOwn r) t)
      else .go (fun t e => writeHeld t e r v.d)

/-! ### Shootdowns (R258, R451) -/

/-- What a stream fetched is translated again before it runs on (R261). -/
def refetch (s : State) : State := { s with streams := each (fun _ st => { st with fetch := none }) s.streams }

/-- Pages that a slot was erased or reloaded under have been mapped anew when their leaves are no longer what they were (R99). -/
def dropStale (s : State) : State :=
  { s with host := { s.host with stale := s.host.stale.filter (fun r => decide (word (rawRead s r.at_ 8) &&& ~~~0x40 = r.pte)) } }

/-- A shootdown starts (R258 steps 1 and 2): the covered entries leave every TLB, and every request translated under a covered leaf is
marked, whether or not a TLB still held the leaf. -/
def startShoot (s : State) (p : TlbEntry → Bool) : State × Nat :=
  let x : Shoot :=
    { moves := (s.moves.filter (fun m => m.2.leaves.any p)).map Prod.fst
      tags := (s.fab.flights.filter (fun f => f.leaves.any p)).map InFlight.tag
      bufs := (s.fab.buffers.filter (fun b => b.2.leaves.any p)).map Prod.fst }
  let id := s.seq
  let t := dropStale s
  ({ t with
     seq := s.seq + 1
     ctl := { s.ctl with tlbs := each (fun _ l => l.filter (fun e => !p e)) s.ctl.tlbs, shoots := put s.ctl.shoots id x } }, id)

/-- Every marked request of a shootdown has been accepted (R258 step 3). -/
def shootOver (s : State) (x : Shoot) : Bool :=
  x.moves.all (fun i => (find? s.moves i).isNone) && x.tags.all (fun t => !(s.fab.flights.any (fun f => decide (f.tag = t)))) && x.bufs.isEmpty

/-- A stream parked at a TLBI goes on when none of its shootdowns is left (R451). -/
def leaveShoot (s : State) (sid : Nat) : State :=
  match find? s.streams sid with
  | some st =>
    match st.park with
    | some (.shootdown ids sw) =>
      if ids.all (fun i => (find? s.ctl.shoots i).isNone) then switchPoint (advance (unpark s sid) sid) sid sw else s
    | _ => s
  | none => s

/-- A shootdown completes (R258 step 4). -/
def endShoot (s : State) (id : Nat) : State :=
  match find? s.ctl.shoots id with
  | none => s
  | some x =>
    if !shootOver s x then s
    else
      let s1 := refetch { s with ctl := { s.ctl with shoots := del s.ctl.shoots id } }
      (s1.streams.map Prod.fst).foldl leaveShoot s1

/-- The domains of a team's partition (R95); none for a team outside every partition. -/
def domainsOf (s : State) (p : Option Nat) : Option (Nat → Bool) :=
  match p with
  | none => none
  | some n => match find? s.host.parts n with | some e => some (partHasDomain e.1) | none => some (fun _ => false)

/-- A domain that a TLBI may name (R451). -/
def mayShoot (s : State) (c : Ctx) (dom : Nat) : Bool := match domainsOf s c.team.part with | some f => f dom | none => true

/-- TLBI (R451): one shootdown for each active lane, then a park until each has completed. `dom` names a lane's domain, `p` what
its shootdown covers. -/
def tlbiPlan (sw : Bool) (dom : Vals → Option Nat) (p : State → Ctx → Vals → TlbEntry → Bool) (s : State) (c : Ctx) (vs : List Vals) : Plan :=
  if privOf s c = 0 then .fault (everyLane c 0x02 0 0x7C)
  else
    match vs.filter (fun v => match dom v with | some d => !mayShoot s c d | none => false) with
    | f :: fs => .fault ((f :: fs).map (fun v => { ln := v.ln, code := 0x02, addr := 0, detail := 0x7C }))
    | [] =>
      .own (fun t e =>
        let (u, ids) := vs.foldl (fun a v => let (w, i) := startShoot a.1 (p t e v); (w, a.2 ++ [i])) (t, ([] : List Nat))
        leaveShoot (park u e.sid (.shootdown ids sw)) e.sid)

/-! ### Fetch (R246, R262) -/

/-- A 64-byte block of code as a stream fetches it. -/
def fetchBlock (s : State) (c : Ctx) : Except XFault (State × List Byte) :=
  let pc := c.st.pc.toNat
  match translateLocal s c.tlbs c.team.domain c.st.pc ⟨false, false, true⟩ (userOf s c) with
  | .error f => .error f
  | .ok (t, x) =>
    let at_ := x.local_ - pc % 64
    let banks := fetchBanks t c x.local_
    if takeBad t banks x.key x.local_ then .error { code := 0x17, detail := 0 } else .ok (t, listBytes (takeByte t banks x.key) 64 at_)

/-- The instruction word at a stream's pc: from its fetch block, which is fetched when it is another one. -/
def fetchWord (s : State) (c : Ctx) : Except XFault (State × Nat) :=
  let pc := c.st.pc.toNat
  if pc < c.st.geode.base ∨ pc + 4 > c.st.geode.base + c.st.geode.len then .error { code := 0x0B, detail := 0 }
  else
    let take (l : List Byte) : Nat := joinBytes ((l.drop (pc % 64)).take 4)
    match c.st.fetch with
    | some b =>
      if b.block = pc / 64 then .ok (s, take b.bytes)
      else (match fetchBlock s c with
        | .error f => .error f
        | .ok (t, l) => .ok (modStream t c.sid (fun st => { st with fetch := some { block := pc / 64, bytes := l } }), take l))
    | none =>
      match fetchBlock s c with
      | .error f => .error f
      | .ok (t, l) => .ok (modStream t c.sid (fun st => { st with fetch := some { block := pc / 64, bytes := l } }), take l)

/-- The fault of the fetch at the issuing stream's pc (R246, R272, R317). -/
def fetchFault (s : State) (c : Ctx) : State :=
  match fetchWord s c with
  | .error f => raise s c (everyLane c f.code c.st.pc f.detail)
  | .ok _ => s

/-! ### Late faults (R324) -/

/-- The late faults that are due at a stream. -/
def lateAt (s : State) (t : Team) (sid : Nat) : List LateFault :=
  t.late.filter (fun f => decide ((laneOf s f.lane).stream = sid))

/-- The lowest cause of a lane among some late faults. -/
def lateOf : List LateFault → Nat → Option LateFault
  | [], _ => none
  | f :: r, pos =>
    match lateOf r pos with
    | some g => if f.lane = pos ∧ f.code ≤ g.code then some f else some g
    | none => if f.lane = pos then some f else none

/-- What a rollback discards (R324 step 1): an ENQ on its way still settles its budgets. -/
def discardPend (s : State) (sid : Nat) : State :=
  match find? s.streams sid with
  | none => s
  | some st =>
    let gone := (st.pend.filter (fun p => decide (p.await ≠ .arrival))).map Pending.seq
    let s1 := modStream s sid (fun x =>
      { x with pend := (x.pend.filter (fun p => decide (p.await = .arrival))).map (fun p => { p with writes := [] }) })
    withdraw s1 (fun r => decide (r.stream = sid) && gone.contains r.seq)

/-- The stack popped down to a depth; the lanes that waited at a popped entry join the mask (R324 step 2). -/
def rollTo (st : Stream) (r : Region) : Stream :=
  let back := st.waits.filter (fun w => decide (w.depth > r.depth))
  { st with
    stack := st.stack.drop (depthOf st - r.depth)
    spilled := Nat.min st.spilled r.depth
    csspill := st.csspill - BitVec.ofNat 55 (16 * (st.spilled - r.depth))
    mask := st.mask ||| maskOf (back.map Waiting.lane)
    waits := st.waits.filter (fun w => decide (w.depth ≤ r.depth))
    pc := r.pc }

/-- A participant that goes to a handler leaves its rendezvous. -/
def leaveMeets (s : State) (sid : Nat) : State :=
  let ms := each (fun _ m => if m.come.contains sid then { m with come := removeN m.come sid, full := false } else m) s.meets
  { s with meets := ms.filter (fun e => e.2.come ≠ []) }

/-- A late fault may be delivered to a stream now: no TMMA runs (R507), and it does not stand aside of its group's handlers. -/
def mayDeliver (st : Stream) : Bool := decide (st.park ≠ some .tmma) && decide (st.park ≠ some .atTrap)

/-- The late faults of a stream delivered (R324): rollback to the region entry, or TPC at the next instruction; inside a handler a
double fault (R333). -/
def deliverLate (s : State) (sid : Nat) : State :=
  match ctxOf s sid with
  | none => s
  | some c =>
    let fs := lateAt s c.team sid
    if fs = [] ∨ !mayDeliver c.st ∨ sid ≥ 49152 then s
    else
      let s1 := modTeam s c.st.team (fun t => { t with late := t.late.filter (fun f => !fs.contains f) })
      if c.st.handler then doom s1 c.st.team 0x01 (fs.foldl (fun n f => Nat.min n f.code) 255)
      else
        let s2 := modStream (leaveMeets (discardPend s1 sid) sid) sid (fun st =>
          { st with park := none, tmma := none })
        let s3 := match c.st.region with | some r => modStream s2 sid (fun st => rollTo st r) | none => s2
        let causes := (lanesIn c.grp c.st.members).filterMap (fun e => (lateOf fs e.2).map (fun f => (e.1, f)))
        let info (pc : Word) : TrapInfo :=
          { faults := causes.map (fun e => { ln := e.1, code := e.2.code, addr := e.2.addr, detail := e.2.detail }), tpc := pc
            late := true, noroll := c.st.region.isNone, pcs := causes.map (fun e => (e.1, e.2.pc)) }
        runEffect s3 sid (fun t e => enterTrap t e (info e.st.pc))

/-! ### Engine routines (R481, R482) -/

/-- A routine's stream, at its entry. -/
def routineStream (s : State) (tk h : Nat) (t : Team) (pc : Word) : Stream :=
  { team := tk, group := hartPos h, members := 1, mask := 1, pc := pc, geode := t.geode, handler := false, stack := [], trapRec := none
    waits := [], csspill := 0, spilled := 0, k := [], wbase := 0, alanes := 0, adiv := 0, fcsr := 0, contpc := 0, contlive := 0
    tprog := 0, mstream := 0, fmts := [], region := none, observed := 0, pend := [], park := none, lowRun := 0, haltIn := none
    skid := 0, noJoin := false, paid := none, tmma := none, fetch := none, cyBase := s.cycle, hart := some h }

/-- A routine stands on its hart with x3 to x7 from the kick block. -/
def installRoutine (s : State) (h tk : Nat) (t : Team) (block : Nat) (pc : Word) : State :=
  let pos := hartPos h
  let la : Lane :=
    { team := tk, group := pos, stream := pos, ln := 0, order := 0, base := 0, alloc := 32, seed := 1, tcause := 0, tpc := 0, taddr := 0
      tinfo := 0, tvec := 0, tsave := 0, priv := 0 }
  let g : Group := { team := tk, gi := 0, lanes := [pos], ended := 0, mode := .single, trap := none, rejoinBy := none }
  { s with
    lanes := put s.lanes pos la
    groups := put s.groups pos g
    streams := put s.streams pos (routineStream s tk h t pc)
    regs := (List.range 5).foldl (fun m n => keep 0 m (pipeOf pos * 2048 + 3 + n) (word (scratchGet s t (block + 24 + 8 * n) 8)))
      (part (fun a => !(decide (a / 2048 = pipeOf pos))) s.regs) }

/-- The kick at the head of an idle hart's FIFO starts its routine (R481, R336): the kick block is read and checked. -/
def startRoutine (s : State) (h : Nat) : State :=
  let x := hartOf s h
  match x.run, x.fifo with
  | none, k :: rest =>
    let s1 := { s with harts := put s.harts h { x with fifo := rest } }
    match teamNamed s1 k.team.toNat with
    | none => pushWork s1 (.engineRoutineStart h)
    | some t =>
      let tk := t.ident.toNat % 65536
      if scratchBad s1 t k.block 64 then doom s1 tk 0x02 0
      else
        let word_ := scratchGet s1 t (k.block + 8) 8
        if word_ % 8 ≠ 0 ∨ !scratchIn t word_ 32 then doom s1 tk 0x06 0
        else
          let v := word (scratchGet s1 t (k.block + 16) 8)
          let s2 := { s1 with harts := put s1.harts h { fifo := rest, run := some k, word := word_, value := v } }
          let entry := scratchGet s2 t k.block 8
          match (if entry ≥ 256 then none else entryPc s2 t.geode entry) with
          | none => pushWork (routineFault s2 h t 0x0B 0 0 0) (.engineRoutineStart h)
          | some pc => installRoutine s2 h tk t k.block pc
  | _, _ => s

/-! ### The memory system's own events -/

/-- A walk that has completed installs its leaf; one that faults installs nothing, and the access that needed it faults (R256). -/
def walkDone (s : State) (tlb dom : Nat) (va : Word) : State :=
  if bitsW va 63 55 ≠ 0 then s
  else
    match walk s dom va.toNat with
    | .error _ => s
    | .ok e => if bitW e.pte 0 then tlbInstall s e (if tlb < 384 then tlbsOf tlb else [tlb]) else s

/-- The cached grant entry of a window dropped: it is read again from the table (R249). -/
def refreshGrant (s : State) (win : Nat) : State :=
  let v := spread 8 (rawRead s (s.ctl.grtbase.toNat + 8 * win) 8)
  { s with ctl := { s.ctl with grants := (v.zipIdx).foldl (fun m b => keep 0 m (8 * win + b.2) b.1) s.ctl.grants } }

/-- The sectors of a range that hold anything but zero. -/
def heldSectors (s : State) (lo hi : Nat) : List Nat :=
  let a := (s.mem.map (fun (c : Host.Cell) => c.1 / 256) ++ s.sealed.map Prod.fst).filter (fun q => decide (lo ≤ q * 256 + 255) && decide (q * 256 < hi))
  a.foldl (fun l q => if l.contains q then l else l ++ [q]) []

/-- Every cached grant entry dropped (R249). -/
def refreshGrants (s : State) : State :=
  let base := s.ctl.grtbase.toNat
  let hi := base + 8 * 0xC00000
  let bytes := (heldSectors s base hi).flatMap (fun q =>
    ((List.range 256).map (fun i => q * 256 + i)).filter (fun a => decide (base ≤ a) && decide (a < hi)))
  { s with ctl := { s.ctl with grants := bytes.foldl (fun m a => keep 0 m (a - base) (homeByte s .clear a)) [] } }

/-- What the scrubber finds in a sector (R273, R274): 1 an error it corrects, 2 one it cannot correct. -/
def scrub (s : State) (sector outcome : Nat) : State :=
  if !s.ctl.scrubEn ∨ sector * 256 ≥ localLimit then s
  else if outcome = 1 then { s with ctl := { s.ctl with memce := s.ctl.memce + 1 } }
  else if outcome = 2 then poisonSector s sector
  else s

/-- A stream parked on a role queue tries again (R198). -/
def retryQueue (s : State) (sid : Nat) : State :=
  match find? s.streams sid with
  | some st => if st.park = some .roleQueue then unpark s sid else s
  | none => s

/-! ### The instructions and the events -/

/-- TRAP (R448). -/
def execTrap (sw : Bool) (imm : BitVec 17) (s : State) : Host.Outcome State Fault Refusal :=
  issue s 0x78 0 sw {} (trapPlan imm)

/-- RETT (R332, R449). -/
def execRett (sw : Bool) (s : State) : Host.Outcome State Fault Refusal :=
  issue s 0x79 0 sw {} rettPlan

/-- SRD (R450). -/
def execSrd (sw : Bool) (d : RegName) (r : BitVec 12) (s : State) : Host.Outcome State Fault Refusal :=
  issue s 0x7A 0 sw { dst := some d } (srdPlan d r.toNat)

/-- SWR (R450). -/
def execSwr (sw : Bool) (d : RegName) (r : BitVec 12) (s : State) : Host.Outcome State Fault Refusal :=
  issue s 0x7B 0 sw { d := some d } (swrPlan r.toNat)

/-- TLBI.ADDR (R451). -/
def execTlbiAddr (sw : Bool) (a b : RegName) (s : State) : Host.Outcome State Fault Refusal :=
  issue s 0x7C 0 sw { a := some a, b := some b } (tlbiPlan sw (fun v => some (bitsW v.b 11 0)) (fun _ _ v e =>
    decide (e.dom = bitsW v.b 11 0) && decide (e.base = bitsW v.a 54 16 * 2 ^ 16 / 2 ^ pageBits e.level * 2 ^ pageBits e.level)))

/-- TLBI.DOM (R451). -/
def execTlbiDom (sw : Bool) (a : RegName) (s : State) : Host.Outcome State Fault Refusal :=
  issue s 0x7C 1 sw { a := some a } (tlbiPlan sw (fun v => some (bitsW v.a 11 0)) (fun _ _ v e => decide (e.dom = bitsW v.a 11 0)))

/-- TLBI.ALL (R451). -/
def execTlbiAll (sw : Bool) (s : State) : Host.Outcome State Fault Refusal :=
  issue s 0x7C 2 sw {} (tlbiPlan sw (fun _ => none) (fun t c _ e => match domainsOf t c.team.part with | some f => f e.dom | none => true))

/-- ILLEGAL_INSTRUCTION (R318): the issuing stream's word is none of the instruction set. -/
def execIllegalInstruction (w : BitVec 32) (s : State) : Host.Outcome State Fault Refusal :=
  match s.issuer with
  | none => .fault .noIssuer
  | some sid =>
    match ctxOf s sid with
    | none => .fault .noIssuer
    | some c => .next (raise s c (everyLane c 0x01 (w.setWidth 64) 0))

/-- INSTRUCTION_FETCH_FAULT (R246). -/
def execInstructionFetchFault (s : State) : Host.Outcome State Fault Refusal :=
  match s.issuer with
  | none => .fault .noIssuer
  | some sid =>
    match ctxOf s sid with
    | none => .fault .noIssuer
    | some c => .next (fetchFault s c)

/-- SHOOTDOWN_DONE (R258). -/
def execShootdownDone (id : Nat) (s : State) : Host.Outcome State Fault Refusal := .next (endShoot s id)

/-- LATE_FAULT_DELIVERY (R324). -/
def execLateFaultDelivery (stream : Nat) (s : State) : Host.Outcome State Fault Refusal := .next (deliverLate s stream)

/-- ENGINE_ROUTINE_START (R481). -/
def execEngineRoutineStart (hart : Nat) (s : State) : Host.Outcome State Fault Refusal := .next (startRoutine s hart)

/-- ROLE_QUEUE_RETRY (R198). -/
def execRoleQueueRetry (stream : Nat) (s : State) : Host.Outcome State Fault Refusal := .next (retryQueue s stream)

/-- PAGE_WALK_DONE (R256). -/
def execPageWalkDone (tlb dom : Nat) (va : Word) (s : State) : Host.Outcome State Fault Refusal := .next (walkDone s tlb dom va)

/-- GRANT_INVALIDATE_ONE (R249). -/
def execGrantInvalidateOne (win : Nat) (s : State) : Host.Outcome State Fault Refusal := .next (refreshGrant s win)

/-- GRANT_INVALIDATE_ALL (R249). -/
def execGrantInvalidateAll (s : State) : Host.Outcome State Fault Refusal := .next (refreshGrants s)

/-- BUSY of GRCMD clears, once its own work is done (R249, R521). -/
def endInvalidate (s : State) : State :=
  if s.work.any (fun e => match e with | .grantInvalidateOne _ => true | .grantInvalidateAll => true | _ => false) then
    pushWork s .grantInvalidateDone
  else { s with ctl := { s.ctl with grcmd := { s.ctl.grcmd with busy := false } } }

/-- GRANT_INVALIDATE_DONE (R249). -/
def execGrantInvalidateDone (s : State) : Host.Outcome State Fault Refusal :=
  .next (endInvalidate s)

/-- PATROL_SCRUB (R273). -/
def execPatrolScrub (sector outcome : Nat) (s : State) : Host.Outcome State Fault Refusal := .next (scrub s sector outcome)

end Sys2Proof.Machine
end

