-- ==== Sys2Proof/Machine/Link.lean ====
section
/-!
DEFINITION. Yelca Link: ports and training, flits and replay, egress, packets received and forwarded, the elements, tiles, lines
and appends that arrive from peers, acknowledgements and timeouts, and the coma's own events (R29, R35 to R76, R446, R476).
-/

namespace Sys2Proof.Machine

open Sys2Proof

/-! ### Packets as bytes (R53 to R55) -/

/-- The 16 header bytes of a packet. -/
def headerBytes (p : Packet) : List Byte :=
  spread 8 (p.ptype.toNat * 2 ^ 60 + p.dst.toNat * 2 ^ 48 + p.src.toNat * 2 ^ 36 + p.hops.toNat * 2 ^ 30 + p.nelem.toNat * 2 ^ 25
    + (if p.resv then 2 ^ 24 else 0) + p.tag.toNat)
  ++ spread 8 (p.win.toNat * 2 ^ 40 + p.dom.toNat * 2 ^ 28 + p.spec.toNat)

/-- A packet as bytes. -/
def packetBytes (p : Packet) : List Byte := headerBytes p ++ p.body

/-- A packet read from bytes. -/
def parsePacket (l : List Byte) : Packet :=
  let w0 := joinBytes (l.take 8)
  let w1 := joinBytes ((l.drop 8).take 8)
  { ptype := BitVec.ofNat 4 (bitsN w0 63 60), dst := BitVec.ofNat 12 (bitsN w0 59 48), src := BitVec.ofNat 12 (bitsN w0 47 36)
    hops := BitVec.ofNat 6 (bitsN w0 35 30), nelem := BitVec.ofNat 5 (bitsN w0 29 25), resv := bitN w0 24
    tag := BitVec.ofNat 24 (bitsN w0 23 0), win := BitVec.ofNat 24 (bitsN w1 63 40), dom := BitVec.ofNat 12 (bitsN w1 39 28)
    spec := BitVec.ofNat 28 (bitsN w1 27 0), body := l.drop 16 }

/-- Elements of a packet. -/
def pkCount (p : Packet) : Nat := p.nelem.toNat + 1

/-- Descriptor `i` of an aggregated packet. -/
def pkDesc (p : Packet) (i : Nat) : Nat := joinBytes ((p.body.drop (4 * i)).take 4)

/-- Bytes of the descriptors with their padding. -/
def descBytes (n : Nat) : Nat := 8 * ceilDiv (4 * n) 8

/-- The elements named by the descriptors, their data not read. -/
def pkShapes (p : Packet) : List Element :=
  (List.range (pkCount p)).map (fun i =>
    let d := pkDesc p i
    if p.ptype = 3 then
      { off := bitsN d 31 16, size := ramoSize (bitsN d 15 13), op := bitsN d 15 13, data := 0, comb := bitsN d 12 8 + 1 }
    else { off := bitsN d 31 16, size := if bitN d 15 then 8 else 4, op := 8, data := 0, comb := 1 })

/-- Data read for elements in order, each aligned to its size (R54). -/
def readData : Nat → List Byte → List Element → List Element
  | _, _, [] => []
  | at_, l, e :: r =>
    let o := at_ + (e.size - at_ % e.size) % e.size
    { e with data := word (joinBytes ((l.drop o).take e.size)) } :: readData (o + e.size) l r

/-- The elements of an aggregated packet. -/
def pkElements (p : Packet) : List Element := readData 0 (p.body.drop (descBytes (pkCount p))) (pkShapes p)

/-- The kind of an acknowledgement. -/
def pkKind (p : Packet) : Nat := bitsN p.spec.toNat 27 26

/-- Granules of a tile part. -/
def pkGranules (p : Packet) : Nat := bitsN p.spec.toNat 16 14 + 1

/-- The body a packet's fields ask for, in bytes; none for a reserved type. Where the fields stand in the body itself, what has
arrived of it counts. MARK: DESIGN CHOICE (log 32). KIND 3 has no meaning, and R55 does not list it; here it is malformed. -/
def pkBodyLength (p : Packet) : Option Nat :=
  match p.ptype.toNat with
  | 0 => some 0
  | 1 => some 8
  | 2 => some (elementBody false (pkShapes p)).length
  | 3 => some (elementBody true (pkShapes p)).length
  | 4 => some (32 * (pkGranules p))
  | 5 => some 256
  | 6 => some (8 + 8 * (bitsN p.spec.toNat 27 25 + 1))
  | 7 =>
    (match (pkKind p) with
    | 0 => some 16
    | 1 => some 8
    | 2 => some (8 + 8 * ceilDiv (2 * bitsN (joinBytes (p.body.take 8)) 63 52) 8)
    | _ => none)
  | _ => none

/-- Bytes that must have arrived before a packet's length is known. -/
def pkKnown (p : Packet) : Nat :=
  if p.ptype = 3 ∨ p.ptype = 2 then descBytes (pkCount p) else if p.ptype = 7 ∧ pkKind p = 2 then 8 else 0

/-- SPEC bits that are reserved for a packet's type (R54). -/
def pkSpecBad (p : Packet) : Bool :=
  let v := p.spec.toNat
  match p.ptype.toNat with
  | 0 => decide (bitsN v 27 17 ≠ 0)
  | 1 => decide (bitsN v 27 3 ≠ 0)
  | 2 => decide (v ≠ 0)
  | 3 => decide (v ≠ 0)
  | 4 => decide (bitsN v 2 0 ≠ 0)
  | 5 => decide (bitsN v 27 16 ≠ 0) || decide (bitsN v 7 0 ≠ 0)
  | 6 => decide (bitsN v 24 0 ≠ 0) || decide (p.win ≠ 0)
  | 7 => decide (bitsN v 25 0 ≠ 0)
  | _ => true

/-- An element's reserved bits and alignment are wrong (R54, R55). -/
def pkElementBad (p : Packet) (i : Nat) : Bool :=
  let d := pkDesc p i
  match (pkShapes p)[i]? with
  | some e => decide (e.off % e.size ≠ 0) || (if p.ptype = 3 then decide (bitsN d 7 0 ≠ 0) else decide (bitsN d 14 0 ≠ 0))
  | none => false

/-- A packet is malformed (R55). -/
def pkMalformed (p : Packet) : Bool :=
  p.resv || (pkSpecBad p)
    || (match (pkBodyLength p) with | some n => decide (p.body.length ≠ n) | none => true)
    || (decide (p.nelem ≠ 0) && decide (p.ptype = 0 ∨ p.ptype = 1 ∨ p.ptype = 4 ∨ p.ptype = 5 ∨ p.ptype = 6 ∨ (p.ptype = 7 ∧ pkKind p ≠ 0)))
    || (decide (p.ptype = 0) && decide (bitsN p.spec.toNat 15 0 % (if bitN p.spec.toNat 16 then 8 else 4) ≠ 0))
    || (decide (p.ptype = 2 ∨ p.ptype = 3) && (List.range (pkCount p)).any (pkElementBad p))

/-! ### Answers -/

/-- A response of this device to a packet's source. -/
def answer (s : State) (p : Packet) (ptype : BitVec 4) (nelem : BitVec 5) (spec : Nat) (body : List Byte) : Packet :=
  { ptype := ptype, dst := p.src, src := s.fab.id, hops := startHops s, nelem := nelem, resv := false, tag := p.tag, win := p.win
    dom := p.dom, spec := BitVec.ofNat 28 spec, body := body }

/-- A response leaves; one that cannot be routed is dropped (R49). -/
def respond (s : State) (p : Packet) : State := match sendPacket s p with | some t => t | none => s

/-- The two doublewords of an acknowledgement of KIND 0: one outcome for each element (R69). -/
def ackBody (l : List (Option Nat)) : List Byte :=
  let bits := ((List.range l.length).filter (fun i => nth none l i = none)).foldl (fun n i => n + 2 ^ i) 0
  let why := ((List.range l.length).zip l).foldl (fun n e => n + (match e.2 with | some r => r * 2 ^ (2 * e.1) | none => 0)) 0
  spread 8 bits ++ spread 8 why

/-- An acknowledgement of KIND 0 sent to a packet's source. -/
def ackElements (s : State) (p : Packet) (l : List (Option Nat)) : State := respond s (answer s p 7 p.nelem 0 (ackBody l))

/-- The negative answer to a request that is not delivered: reason 0b11 for each element, a failed reply, or status 3 (R38, R49). -/
def refuse (s : State) (p : Packet) : State :=
  match p.ptype.toNat with
  | 0 => respond s (answer s p 1 0 3 (spread 8 0))
  | 2 => ackElements s p (List.replicate (pkCount p) (some 3))
  | 3 => ackElements s p (List.replicate (pkCount p) (some 3))
  | 4 => ackElements s p [some 3]
  | 6 => respond s (answer s p 7 0 (2 ^ 26) (spread 8 3))
  | _ => s

/-! ### Elements that arrive (R56, R248, R476) -/

/-- A remote load at its destination: the data, or a reason. -/
def loadHere (s : State) (p : Packet) : Except Nat Nat :=
  let off := bitsN p.spec.toNat 15 0
  let n := if bitN p.spec.toNat 16 then 8 else 4
  match grantCheck s p.win.toNat p.dom.toNat grantLoad false off n with
  | .error r => .error r
  | .ok (_, _, true) => .ok 0
  | .ok (t, key, false) => .ok (homeRead t key (p.win.toNat * 65536 + off) n)

/-- A remote load is answered. -/
def arriveLoad (s : State) (p : Packet) : State :=
  match loadHere s p with
  | .error r => respond s (answer s p 1 0 r (spread 8 0))
  | .ok v => respond s (answer s p 1 0 4 (spread 8 v))

/-- One element applied or rejected on its own. -/
def applyElement (p : Packet) (a : State × List (Option Nat)) (e : Element) : State × List (Option Nat) :=
  let atomic := decide (p.ptype = 3)
  match grantCheck a.1 p.win.toNat p.dom.toNat (if atomic then grantAtomic else grantWrite) true e.off e.size with
  | .error r => (a.1, a.2 ++ [some r])
  | .ok (t, key, _) =>
    let old := homeRead t key (p.win.toNat * 65536 + e.off) e.size
    let v := if atomic then ramoNew e.op old e.data.toNat else e.data.toNat
    (grantPut t p.win.toNat key e.off (spread e.size v), a.2 ++ [none])

/-- An aggregated packet is applied in element order and acknowledged. -/
def arriveElements (s : State) (p : Packet) : State :=
  let (t, l) := (pkElements p).foldl (applyElement p) (s, [])
  ackElements t p l

/-- A packet is this device's to act on. -/
def forMe (s : State) (p : Packet) : Bool := !(pkMalformed p) && decide (p.dst = s.fab.id)

/-! ### Inbox appends that arrive (R445, R446) -/

/-- The status of an append from a peer: the handle, the grant of the window that holds the entry, then R445. -/
def appendHere (s : State) (p : Packet) : State × Nat :=
  let h := joinBytes (p.body.take 8)
  let n := bitsN h 31 16
  let v := viewInbox s n
  if !v.valid || decide (v.tag ≠ bitsN h 15 0) then (s, 2)
  else
    match inboxEntry s v v.tail ⟨false, true, false⟩ with
    | .error _ => (s, 3)
    | .ok (t, x) =>
      let win := x.local_ / 65536
      match grantCheck t win p.dom.toNat grantWrite true (x.local_ % 65536) 64 with
      | .error _ => (s, 3)
      | .ok (u, _, _) =>
        let count := bitsN p.spec.toNat 27 25 + 1
        let (w, k) := appendMessage u n ((List.range count).map (fun i => word (joinBytes ((p.body.drop (8 + 8 * i)).take 8))))
        if k = 0 then (orGrant w win 58, 0) else (t, k)

/-- An append is answered with its status. -/
def arriveAppend (s : State) (p : Packet) : State :=
  let (t, k) := appendHere s p
  respond t (answer t p 7 0 (2 ^ 26) (spread 8 k))

/-! ### Tiles that arrive (R57, R515, R516) -/

/-- The number of parts of a tile, and a part's own number. -/
def pkParts (p : Packet) : Nat := bitsN p.spec.toNat 7 3 + 1
def pkPart (p : Packet) : Nat := bitsN p.spec.toNat 12 8

/-- The offset of a part in its window. -/
def pkPlace (p : Packet) : Nat := 32 * bitsN p.spec.toNat 27 17

/-- The checks of one part: a store needs WR, an addition AT; a part that leaves its window is in none. -/
def checkPart (s : State) (p : Packet) : Except Nat (State × KeySel) :=
  if pkPlace p + 32 * (pkGranules p) > 65536 then .error 0
  else
    match grantCheck s p.win.toNat p.dom.toNat (if bitN p.tag.toNat 23 then grantWrite else grantAtomic) true (pkPlace p) (32 * (pkGranules p)) with
    | .error r => .error r
    | .ok (t, key, _) => .ok (t, key)

/-- One part written: a replacement of its granules, or an addition to what stands there. -/
def putPart (s : State) (key : KeySel) (p : Packet) : State :=
  let base := p.win.toNat * 65536 + (pkPlace p)
  if bitN p.tag.toNat 23 then grantPut s p.win.toNat key (pkPlace p) p.body
  else
    let kind := if bitN p.spec.toNat 13 then 4 else 3
    let cells := (List.range (pkGranules p)).flatMap (fun g =>
      let bs := (((p.body.drop (32 * g)).take 32).zipIdx).map (fun b => (b.2, b.1))
      (addCells kind (fun o => homeRead s key (base + 32 * g + o) 4) bs).map Prod.snd)
    grantPut s p.win.toNat key (pkPlace p) cells

/-- The checks of every part: the state after them and each part's key, or the first reason. -/
def checkParts : State → List Packet → Except Nat (State × List KeySel)
  | s, [] => .ok (s, [])
  | s, p :: r =>
    match checkPart s p with
    | .error e => .error e
    | .ok (t, k) => match checkParts t r with | .error e => .error e | .ok (u, l) => .ok (u, k :: l)

/-- A whole tile is applied as one update, or not at all; every part is acknowledged. -/
def applyTile (s : State) (ps : List Packet) : State :=
  match checkParts s ps with
  | .error r => ps.foldl (fun t p => ackElements t p [some r]) s
  | .ok (t, ks) => ps.foldl (fun u p => ackElements u p [none]) ((ps.zip ks).foldl (fun u e => putPart u e.2 e.1) t)

/-- The assembly of a source and tag on an IO die. -/
def assemblyOf (s : State) (io : Nat) (src : BitVec 12) (tag : BitVec 24) : Option Assembly :=
  s.fab.tiles.find? (fun a => decide (a.io = io ∧ a.src = src ∧ a.tag = tag))

/-- The reassembly slots without one. -/
def dropAssembly (s : State) (a : Assembly) : State := { s with fab := { s.fab with tiles := s.fab.tiles.filter (fun b => decide (b ≠ a)) } }

/-- The IO die of a port. -/
def portIo (port : Nat) : Nat := if port < 6 then 0 else 1

/-- Flits of a packet. -/
def flitCount (p : Packet) : Nat := ceilDiv (16 + p.body.length) 52

/-- A link-control flit of a port (R40, R43, R45): it carries the acknowledgement, perhaps as a NAK, and a payload. -/
def controlFlit (p : Port) (nak : Bool) (pay : List Byte) : Flit :=
  { fseq := 0, ackseq := p.rxnext - 1, ackv := true, nak := nak, kind := 3, vc := false, pay := pay }

/-- A port sends a link-control flit. -/
def sendControl (s : State) (n : Nat) (nak : Bool) (pay : List Byte) : State :=
  modPort s n (fun p => if p.state = 5 then { p with tx := p.tx ++ [controlFlit p nak pay] } else p)

/-- The credits of a packet go back to the partner (R43). -/
def returnCredits (s : State) (n : Nat) (p : Packet) : State :=
  sendControl s n false (Config.creditPayload (Config.creditsFor (flitCount p)) (decide (p.ptype = 1 ∨ p.ptype = 7)))

/-- A packet waits behind VC 0 credits at a port (R57). -/
def waitPart (s : State) (port : Nat) (p : Packet) : State := { s with fab := { s.fab with waiting := s.fab.waiting ++ [(port, p)] } }

/-- The port of a packet that waits and that a packet may not overtake (R51): of the same SRC and WIN. -/
def heldUp (s : State) (p : Packet) : Option Nat :=
  (s.fab.waiting.find? (fun e => decide (e.2.src = p.src ∧ e.2.win = p.win))).map Prod.fst

/-- A tile part joins its assembly, opens one, or waits while the slots of its IO die are full; what it takes of the port's buffer is
given back when it no longer waits. -/
def takePart (s : State) (port : Nat) (p : Packet) : State :=
  let io := portIo port
  let c := returnCredits s port p
  match assemblyOf s io p.src p.tag with
  | some a =>
    let n := { a with parts := put a.parts (pkPart p) p }
    if n.parts.length = (pkParts p) then applyTile (dropAssembly c a) (n.parts.map Prod.snd)
    else { c with fab := { c.fab with tiles := c.fab.tiles.map (fun b => if b = a then n else b) } }
  | none =>
    if (heldUp s p).isSome then waitPart s port p
    else if pkParts p = 1 then applyTile c [p]
    else if (s.fab.tiles.filter (fun a => decide (a.io = io))).length ≥ 64 then waitPart s port p
    else
      let a : Assembly := { io := io, src := p.src, tag := p.tag, parts := [((pkPart p), p)], since := s.cycle }
      pushTimer { c with fab := { c.fab with tiles := c.fab.tiles ++ [a] } } (ackCycles c) (.tileReassemblyTimeout io p.src.toNat p.tag.toNat)

/-- A request packet for this device takes effect. -/
def applyRequest (s : State) (p : Packet) : State :=
  match p.ptype.toNat with
  | 0 => arriveLoad s p
  | 2 => arriveElements s p
  | 3 => arriveElements s p
  | 6 => arriveAppend s p
  | _ => s

/-- A request other than a tile part arrives; it waits while one that it may not overtake does (R51). -/
def arriveRequest (s : State) (p : Packet) : State :=
  match heldUp s p with
  | some n => waitPart s n p
  | none => applyRequest s p

/-- A packet that waited tries again. -/
def retryPart (s : State) (e : Nat × Packet) : State := if e.2.ptype = 4 then takePart s e.1 e.2 else arriveRequest s e.2

/-- Packets that waited for a slot try again, in order, as long as one goes on; `fuel` bounds the rounds. -/
def retryParts : Nat → State → State
  | 0, s => s
  | fuel + 1, s =>
    let t := s.fab.waiting.foldl retryPart { s with fab := { s.fab with waiting := [] } }
    if t.fab.waiting.length < s.fab.waiting.length then retryParts fuel t else t

/-- The packets that wait try again after a slot has become free. -/
def slotFreed (s : State) : State := retryParts s.fab.waiting.length s

/-- A tile part arrives at a port. -/
def arrivePart (s : State) (port : Nat) (p : Packet) : State :=
  let t := takePart s port p
  if t.fab.tiles.length < s.fab.tiles.length then slotFreed t else t

/-- A tile whose parts are not all present in time is discarded, every part rejected; the time is COMAX.ACKTO as it stands (R57). -/
def timeoutTile (s : State) (io src tag : Nat) : State :=
  match assemblyOf s io (BitVec.ofNat 12 src) (BitVec.ofNat 24 tag) with
  | none => s
  | some a =>
    if s.cycle < a.since + ackCycles s then pushTimer s (a.since + ackCycles s - s.cycle) (.tileReassemblyTimeout io src tag)
    else slotFreed ((a.parts.map Prod.snd).foldl (fun t p => ackElements t p [some 3]) (dropAssembly s a))

/-! ### Multicast at a router (R74 to R76) -/

/-- A multicast line arrives: it is replicated; a device whose entry is not valid drops it. -/
def arriveLine (s : State) (p : Packet) : State := if (groupEntry s p.dst.toNat).valid then replicate s p false else s

/-- A child port's subtree counts as lost (R75). -/
def loseChild (s : State) (group tag port : Nat) : State :=
  match castOf s group tag with
  | none => s
  | some c =>
    if !c.wait.contains port then s
    else
      finishCast (modCast s group tag (fun x => { x with wait := removeN x.wait port, entries := x.entries ++ [castEntry 3 (0xFF0 + port)] })) group tag

/-- The wait on a child port is over: its copy was sent, and the time has passed. -/
def childLate (s : State) (c : Cast) (port : Nat) : Bool := match find? c.by_ port with | some t => decide (t ≤ s.cycle) | none => false

/-- A child port has not answered in time. -/
def timeoutChild (s : State) (group tag port : Nat) : State :=
  match castOf s group tag with
  | none => s
  | some c => if childLate s c port then loseChild s group tag port else s

/-- The wait on a child port starts as its copy is sent (R75). -/
def startWait (s : State) (port : Nat) (p : Packet) : State :=
  match castOf s p.dst.toNat p.tag.toNat with
  | none => s
  | some c =>
    if !c.wait.contains port then s
    else
      let n := (p.hops.toNat + 1) * ackCycles s / 64
      pushTimer (modCast s p.dst.toNat p.tag.toNat (fun x => { x with by_ := put x.by_ port (s.cycle + n) })) n
        (.multicastChildTimeout p.dst.toNat p.tag.toNat port)

/-- The entries of a combined acknowledgement, and whether more follow. -/
def castEntries (p : Packet) : List (BitVec 16) × Bool :=
  let w := joinBytes (p.body.take 8)
  ((List.range (bitsN w 63 52)).map (fun i => BitVec.ofNat 16 (joinBytes ((p.body.drop (8 + 2 * i)).take 2))), bitN w 0)

/-- A combined acknowledgement arrives from a child port it is awaited on; any other is discarded (R75). -/
def arriveCombined (s : State) (port : Nat) (p : Packet) : State :=
  match castOf s p.dst.toNat p.tag.toNat with
  | none => s
  | some c =>
    if !c.wait.contains port || childLate s c port then s
    else
      let (l, more) := castEntries p
      finishCast (modCast s p.dst.toNat p.tag.toNat (fun x =>
        { x with entries := x.entries ++ l, wait := if more then x.wait else removeN x.wait port })) p.dst.toNat p.tag.toNat

/-! ### Replies, acknowledgements and timeouts (R68 to R72, R476) -/

/-- The first packet in flight that satisfies a condition. -/
def flightOf (s : State) (p : InFlight → Bool) : Option InFlight := s.fab.flights.find? p

/-- A packet is no longer in flight. -/
def landed (s : State) (f : InFlight) : State := { s with fab := { s.fab with flights := s.fab.flights.erase f } }

/-- A load, elements or a tile part, an append. -/
def isLoad (f : InFlight) : Bool := match f.what with | .load _ _ => true | _ => false
def isElements (f : InFlight) : Bool := match f.what with | .elements _ _ => true | .tilePart _ _ _ => true | _ => false
def isAppend (f : InFlight) : Bool := match f.what with | .inbox _ _ _ => true | _ => false

/-- A waiting result of a stream that stands in a vault takes its value there (R186). -/
def vaultValue (s : State) (seq : Nat) (tag : Nat) (w : Word) : State :=
  let fix (p : Pending) : Pending :=
    if p.seq = seq ∧ p.await = .append tag then { p with await := .nothing, writes := p.writes.map (fun e => (e.1, w)) } else p
  let fixAll (x : Context) : Context := { x with streams := each (fun _ st => { st with pend := st.pend.map fix }) x.streams }
  { s with sched := { s.sched with vaults := each (fun _ => fixAll) s.sched.vaults } }

/-- The result of a remote load (R476): the value, or a late fault; only the latest issue of the load counts (R161). -/
def answerLoad (s : State) (f : InFlight) (value : Except Nat Nat) : State :=
  match f.what with
  | .load _ seq =>
    (match findPend s seq with
    | none => s
    | some (sid, p) =>
      match p.await with
      | .reply tag a n =>
        if tag ≠ f.tag then s
        else
          (match value with
          | .ok v => pushWork (setPend s sid seq (word (v % 2 ^ (8 * n)))) (.resultWriteback sid seq)
          | .error r => pushWork (failPend s sid seq 0x19 a r) (.resultWriteback sid seq))
      | _ => s)
  | _ => s

/-- The status of an append reaches the lane that waits for it. -/
def answerAppend (s : State) (seq tag k : Nat) : State :=
  match findPend s seq with
  | none => vaultValue s seq tag (word k)
  | some (sid, p) => if p.await = .append tag then pushWork (setPend s sid seq (word k)) (.resultWriteback sid seq) else s

/-- Its timeout has passed. -/
def overdue (s : State) (f : InFlight) : Bool := match f.due with | some t => decide (t ≤ s.cycle) | none => false

/-- A packet in flight that a response answers: by its TAG, since a router on the way may answer in the place of DST (R38, R49), and in
time (R70). -/
def answered (s : State) (p : Packet) (f : InFlight) : Bool := decide (f.tag = p.tag.toNat) && !overdue s f

/-- A load reply arrives. -/
def arriveReply (s : State) (p : Packet) : State :=
  match flightOf s (fun f => isLoad f && answered s p f) with
  | none => s
  | some f =>
    let v := p.spec.toNat
    answerLoad (landed s f) f (if bitN v 2 then .ok (joinBytes (p.body.take 8)) else .error (bitsN v 1 0))

/-- What an acknowledgement says of element `i`: none when it was applied. -/
def reasonOf (p : Packet) (i : Nat) : Option Nat :=
  if bitN (joinBytes (p.body.take 8)) i then none else some (joinBytes ((p.body.drop 8).take 8) / 2 ^ (2 * i) % 4)

/-- The failures of the elements of a packet, and the fall of the count (R68, R71). -/
def settleElements (s : State) (f : InFlight) (why : Nat → Option Nat) : State :=
  match f.what with
  | .elements atomic l =>
    ((List.range l.length).zip l).foldl (fun t e =>
      let u := match why e.1 with
        | some r => elementFail t f.track f.dev.toNat f.win.toNat atomic e.2 r
        | none => t
      trackDown u f.team f.track 1) s
  | .tilePart part off _ =>
    let u := match why 0 with
      | some r => partFail s f.track f.dev.toNat f.win.toNat off part r
      | none => s
    trackDown u f.team f.track 1
  | _ => s

/-- An acknowledgement of KIND 0 arrives. -/
def arriveAck (s : State) (p : Packet) : State :=
  match flightOf s (fun f => isElements f && answered s p f) with
  | none => s
  | some f => settleElements (landed s f) f (reasonOf p)

/-- The outcome of an append (R72): a status of 3 counts as a failure. -/
def settleAppend (s : State) (f : InFlight) (k : Nat) : State :=
  match f.what with
  | .inbox h _ seq =>
    let t := if k = 3 then inboxFail s f.track f.dev.toNat h else s
    answerAppend (trackDown t f.team f.track 1) seq f.tag k
  | _ => s

/-- An acknowledgement of KIND 1 arrives. -/
def arriveInboxAck (s : State) (p : Packet) : State :=
  match flightOf s (fun f => isAppend f && answered s p f) with
  | none => s
  | some f => settleAppend (landed s f) f (joinBytes (p.body.take 8) % 4)

/-- An element or an append has no acknowledgement in time (R70). -/
def timeoutAck (s : State) (tag : Nat) : State :=
  match flightOf s (fun f => (isElements f || isAppend f) && decide (f.tag = tag) && overdue s f) with
  | none => s
  | some f => if isAppend f then settleAppend (landed s f) f 3 else settleElements (landed s f) f (fun _ => some 3)

/-- A remote load has no reply in time (R476). -/
def timeoutLoad (s : State) (tag : Nat) : State :=
  match flightOf s (fun f => isLoad f && decide (f.tag = tag) && overdue s f) with
  | none => s
  | some f => answerLoad (landed s f) f (.error 3)

/-! ### The coma's own events (R62, R65) -/

/-- RAGE of the team that owns a buffer; a team that is gone has none. -/
def rageOf (s : State) (b : Buffer) : BitVec 12 :=
  match first? (fun _ (t : Team) => decide (t.ident = b.team)) s.teams with | some e => e.2.rage | none => 0

/-- A buffer whose oldest element has reached the age limit is flushed. -/
def ageBuffer (s : State) (n : Nat) : State :=
  match find? s.fab.buffers n with
  | none => s
  | some b => if s.cycle ≥ b.opened + ageCycles s (rageOf s b) then flushBuffer s n else s

/-! ### Training (R29, R35 to R37, R44, R45) -/

/-- Ten and a hundred milliseconds, and one microsecond: no throttle state stretches them (R18). -/
def tenMs : Nat := micros 10000
def hundredMs : Nat := micros 100000
def oneUs : Nat := micros 1

/-- The training bits S56, S112, W2 and W4 that the Z5 sends, and its capability word (R37). -/
def ownCaps : Nat := 0x1FF

/-- Copies that a port has not sent count as lost (R75): the port is not ACTIVE. -/
def loseCopies (s : State) (n : Nat) : State :=
  ((portOf s n).egress0.filter (fun p => decide (p.ptype = 5))).foldl (fun t p => loseChild t p.dst.toNat p.tag.toNat n) s

/-- A port goes to DOWN: what it held is lost (R35, R36). -/
def portDown (s : State) (n : Nat) : State :=
  modPort (loseCopies (modPort s n (fun p => { p with state := 0 })) n) n
    (fun p => { Port.reset with enable := p.enable, malf := p.malf, packets := p.packets, tx := p.tx })

/-- ENABLE written (R35). -/
def setEnable (s : State) (n : Nat) (en : Bool) : State :=
  if !en then modPort (portDown s n) n (fun p => { p with enable := false })
  else
    let s1 := modPort s n (fun p => { p with enable := true })
    if (portOf s1 n).state ≠ 0 then s1
    else
      pushAlarm (pushAlarm (modPort s1 n (fun p => { p with state := 1, since := s.time })) tenMs (.detectIdleExit n)) hundredMs (.trainingTimeout n)

/-- A port enters RETRAIN (R36), and from there EQUALISE with the partner it knows (R35). -/
def enterRetrain (s : State) (n : Nat) : State :=
  let p := portOf s n
  if p.state ≠ 5 then s
  else
    pushWork (pushAlarm (modPort s n (fun p => { p with state := 6, since := s.time })) hundredMs (.trainingTimeout n))
      (.partnerDetected n p.lanes p.bits)

/-- Lanes that a set of good lanes holds whole, from wide to narrow: 8, 4 or 2 of them (R34). -/
def laneSets : List (Nat × Nat) := [(8, 0xFF), (4, 0x0F), (4, 0xF0), (2, 0x03), (2, 0x0C), (2, 0x30), (2, 0xC0)]

/-- The widths that good lanes allow, under the training bits [W4, W2] of both partners. -/
def widthsOf (good : BitVec 8) (w4 w2 : Bool) : List Nat :=
  (laneSets.filter (fun e => decide (good.toNat &&& e.2 = e.2) && (decide (e.1 = 8) || (decide (e.1 = 4) && w4) || (decide (e.1 = 2) && w2)))).map Prod.fst

/-- The widest of them; 0 for none. -/
def widest (good : BitVec 8) (w4 w2 : Bool) : Nat := match widthsOf good w4 w2 with | w :: _ => w | [] => 0

/-- The partner's training bits: S56, S112, W2, W4 from bit 3 down. -/
def Port.s56 (p : Port) : Bool := bitN p.bits.toNat 3
def Port.s112 (p : Port) : Bool := bitN p.bits.toNat 2
def Port.w2 (p : Port) : Bool := bitN p.bits.toNat 1
def Port.w4 (p : Port) : Bool := bitN p.bits.toNat 0

/-- Width and rate choices: product of lanes and rate in units of 56 Gb/s, width, SPEED, good lanes. -/
def choices (p : Port) : List (Nat × Nat × Nat × BitVec 8) :=
  let at_ (rate speed : Nat) (ok : Bool) (g : BitVec 8) : List (Nat × Nat × Nat × BitVec 8) :=
    if ok ∧ widest g p.w4 p.w2 ≠ 0 then [(rate * widest g p.w4 p.w2, widest g p.w4 p.w2, speed, g)] else []
  at_ 4 0 true p.good224 ++ at_ 2 1 p.s112 p.good112 ++ at_ 1 2 p.s56 p.good56

/-- The choice with the highest product; at equal products the wider set wins (R35). -/
def bestChoice : List (Nat × Nat × Nat × BitVec 8) → Option (Nat × Nat × Nat × BitVec 8)
  | [] => none
  | e :: r =>
    match bestChoice r with
    | none => some e
    | some f => if f.1 > e.1 ∨ (f.1 = e.1 ∧ f.2.1 > e.2.1) then some f else some e

/-- The partner is seen: DETECT ends, or RETRAIN re-enters EQUALISE (R35). -/
def seePartner (s : State) (n : Nat) (lanes : BitVec 8) (bits : BitVec 4) : State :=
  if ((portOf s n).state = 1 ∨ (portOf s n).state = 6) ∧ popCount 8 lanes.toNat ≥ 2 then
    modPort s n (fun p => { p with state := 2, lanes := lanes, bits := bits })
  else s

/-- Equalisation ends (R35). -/
def endEqualise (s : State) (n : Nat) (g224 g112 g56 : BitVec 8) : State :=
  if (portOf s n).state = 2 then
    modPort s n (fun p => { p with state := 3, good224 := g224, good112 := g112, good56 := g56 })
  else s

/-- Deskew ends: width and rate are chosen (R35). -/
def endAlign (s : State) (n : Nat) : State :=
  if (portOf s n).state ≠ 3 then s
  else
    match bestChoice (choices (portOf s n)) with
    | none => s
    | some (_, w, sp, g) => modPort s n (fun p => { p with state := 4, width := BitVec.ofNat 4 w, speed := BitVec.ofNat 2 sp, laneok := g })

/-- The agreed version of a negotiation (R29): the lower of the maxima, if it is no lower than either minimum. -/
def agreedVersion (mine max_ minv maxv : Nat) : Option Nat :=
  let v := Nat.min max_ maxv
  if v ≥ mine ∧ v ≥ minv then some v else none

/-- The capability bits that a version defines (R37). -/
def definedCaps (v : Nat) : Nat := if v ≥ 2 then 0x1FF else 0x0FB

/-- The agreed bits permit the width and rate in use (R35). -/
def capsPermit (cap : Nat) (p : Port) : Bool :=
  (if p.width = 4 then bitN cap 4 else if p.width = 2 then bitN cap 5 else true)
    && (if p.speed = 1 then bitN cap 6 else if p.speed = 2 then bitN cap 7 else true)

/-! ### Flits (R39 to R43) -/

/-- One bit of a reflected CRC-32C. -/
def crcBit (c : Nat) : Nat := if c % 2 = 1 then (c / 2) ^^^ 0x82F63B78 else c / 2

/-- One byte of it. -/
def crcByte (c : Nat) (b : Byte) : Nat := crcBit (crcBit (crcBit (crcBit (crcBit (crcBit (crcBit (crcBit (c ^^^ b.toNat))))))))

/-- CRC-32C of a byte string (R39). -/
def crc32c (l : List Byte) : Nat := (l.foldl crcByte 0xFFFFFFFF) ^^^ 0xFFFFFFFF

/-- The bits of a flit's header (R39). -/
def flitHeader (f : Flit) : Nat :=
  f.fseq.toNat * 2 ^ 22 + f.ackseq.toNat * 2 ^ 12 + (if f.ackv then 2 ^ 11 else 0) + (if f.nak then 2 ^ 10 else 0)
    + f.kind.toNat * 2 ^ 8 + (if f.vc then 2 ^ 7 else 0)

/-- A flit's 64 bytes on the link (R39). -/
def flitBytes (f : Flit) : List Byte :=
  let l := spread 4 (flitHeader f) ++ (f.pay ++ List.replicate (52 - f.pay.length) 0).take 52
  let m := l ++ spread 4 (crc32c l)
  m ++ fecParity m

/-- A flit that passes its CRC once FEC has corrected up to two of its bytes (R40). -/
def readFlit (l : List Byte) : Option Flit :=
  let b := fecDecode l
  if crc32c (b.take 56) ≠ joinBytes ((b.drop 56).take 4) then none
  else
    let h := joinBytes (b.take 4)
    some { fseq := BitVec.ofNat 10 (bitsN h 31 22), ackseq := BitVec.ofNat 10 (bitsN h 21 12), ackv := bitN h 11, nak := bitN h 10
           kind := BitVec.ofNat 2 (bitsN h 9 8), vc := bitN h 7, pay := (b.drop 4).take 52 }

/-- An acknowledgement covers a sequence number. -/
def covers (a x : BitVec 10) : Bool := decide ((a - x).toNat < 512)

/-- The replay buffer after an acknowledgement: a flit stays until its packet is covered whole (R41). -/
def trimHeld (a : BitVec 10) (l : List Held) : List Held := l.filter (fun h => !(covers a h.flit.fseq && covers a h.last))

/-- Held flits that the last acknowledgement does not cover, oldest first. -/
def pendingFlits (p : Port) : List Held := p.held.filter (fun h => !covers p.acked h.flit.fseq)

/-- Some held flit is not covered. -/
def uncovered (p : Port) : Bool := p.held.any (fun h => !covers p.acked h.flit.fseq)

/-- Held flits are sent again, oldest first, with the acknowledgement of the moment (R41, R45). -/
def replay (s : State) (n : Nat) (l : List Held) : State :=
  if l = [] then s
  else
    pushAlarm (modPort s n (fun p =>
      { p with tx := p.tx ++ l.map (fun h => { h.flit with ackseq := p.rxnext - 1 }), moved := s.time })) oneUs (.replayTimeout n)

/-- Both egress queues of a port try to send. -/
def tryEgress (s : State) (n : Nat) : State := pushWork (pushWork s (.egressSend n false)) (.egressSend n true)

/-- The acknowledgement that a flit carries (R41). One that moves backward asks for every flit held from there on (R45). -/
def takeAck (s : State) (n : Nat) (f : Flit) : State :=
  let p := portOf s n
  if !f.ackv ∨ p.acked = f.ackseq then s
  else
    let t := modPort s n (fun q => { q with acked := f.ackseq, held := trimHeld f.ackseq q.held, resend := 0, moved := s.time })
    let u := if !covers f.ackseq p.acked then replay t n (pendingFlits (portOf t n))
      else if uncovered (portOf t n) then pushAlarm t oneUs (.replayTimeout n) else t
    tryEgress u n

/-- Every held flit that is not covered is sent again (R41); the eighth time in a row is a retrain (R36). -/
def resendHeld (s : State) (n : Nat) : State :=
  if !uncovered (portOf s n) then s
  else
    let t := replay (modPort s n (fun q => { q with resend := q.resend + 1 })) n (pendingFlits (portOf s n))
    if (portOf t n).resend ≥ 8 then enterRetrain t n else t

/-- A microsecond without an advancing acknowledgement (R41). -/
def timeoutReplay (s : State) (n : Nat) : State :=
  let p := portOf s n
  if p.state ≠ 5 ∨ !uncovered p ∨ s.time < p.moved + oneUs then s else resendHeld s n

/-- The event of a packet for this device. -/
def arrivalEvent (port : Nat) (p : Packet) : Option Instr :=
  match p.ptype.toNat with
  | 0 => some (.remoteLoadArrival p)
  | 1 => some (.loadReplyArrival p)
  | 2 => some (.aggregatedStoreArrival p)
  | 3 => some (.aggregatedAtomicArrival p)
  | 4 => some (.tileStoreAddArrival port p)
  | 5 => some (.multicastLineArrival port p)
  | 6 => some (.inboxAppendArrival p)
  | 7 => (match (pkKind p) with | 0 => some (.elementAckArrival p) | 1 => some (.inboxAckArrival p) | _ => some (.combinedAckArrival port p))
  | _ => none

/-- A multicast packet, which its group alone routes (R46). -/
def multicast (p : Packet) : Bool := decide (p.ptype = 5) || (decide (p.ptype = 7) && decide (pkKind p = 2))

/-- A packet is handed to the router (R42, R46, R49): acted on, forwarded with a hop less, or refused. -/
def routePacket (s : State) (port : Nat) (p : Packet) : State :=
  if multicast p || decide (p.dst = s.fab.id) then
    match arrivalEvent port p with | some e => pushWork s e | none => s
  else if p.hops = 0 then refuse s p
  else
    match sendPacket s { p with hops := p.hops - 1 } with
    | some t => t
    | none => refuse s p

/-- A malformed packet is discarded and counted (R55). -/
def countMalformed (s : State) (n : Nat) : State := modPort s n (fun p => { p with malf := if p.malf = 255 then 255 else p.malf + 1, rx := [] })

/-- An acknowledgement of KIND 0 whose NELEM is not that of the packet it answers (R55). -/
def ackMismatch (s : State) (p : Packet) : Bool :=
  decide (p.ptype = 7) && decide (pkKind p = 0) && decide (p.dst = s.fab.id)
    && match flightOf s (fun f => isElements f && decide (f.tag = p.tag.toNat)) with
       | some f => (match f.what with | .elements _ l => decide (p.nelem.toNat ≠ l.length - 1) | _ => decide (p.nelem ≠ 0))
       | none => false

/-- Every flit that a packet's fields ask for has arrived (R42). -/
def wholePacket (rx : List Byte) : Bool :=
  let p := parsePacket rx
  match pkBodyLength p with
  | some n => decide (pkKnown p ≤ p.body.length) && decide (n ≤ p.body.length)
  | none => true

/-- What has been received of a packet is handed to the router when it is whole and well formed, else discarded and counted (R42, R55);
the partner gets its credits back, for a tile part once it has a slot (R57). Its flits end where a flit that does not continue it
arrives. MARK: DEDUCED (log 33). Nothing else tells a packet whose length disagrees with its fields from one that is whole. -/
def closePacket (s : State) (n : Nat) : State :=
  let l := (portOf s n).rx
  if l = [] then s
  else
    let p := parsePacket l
    let len := match pkBodyLength p with | some k => k | none => 0
    let q := { p with body := p.body.take len }
    let t := modPort s n (fun r => { r with rx := [] })
    let u := if (portOf t n).wreq ≠ 0 then pushWork t (.widthChangeApply n) else t
    if !wholePacket l || decide (l.length ≠ 52 * flitCount q) || pkMalformed q || ackMismatch s q then returnCredits (countMalformed u n) n q
    else
      let v := routePacket u n q
      if q.ptype = 4 ∧ q.dst = s.fab.id then v else returnCredits v n q

/-- The packet being received is handed on if every flit of it has arrived. -/
def closeWhole (s : State) (n : Nat) : State := if wholePacket (portOf s n).rx then closePacket s n else s

/-- A flit of a packet in sequence (R42): a start ends the packet before it; continuations that follow no start count as one malformed
packet (R55). -/
def acceptFlit (s : State) (n : Nat) (f : Flit) : State :=
  let t := modPort s n (fun q => { q with rxnext := q.rxnext + 1, naking := false })
  if f.kind = 1 then modPort (closePacket t n) n (fun q => { q with rx := f.pay, stray := false })
  else if (portOf t n).rx ≠ [] then modPort t n (fun q => { q with rx := q.rx ++ f.pay })
  else if (portOf t n).stray then t
  else modPort (countMalformed t n) n (fun q => { q with stray := true })

/-- An idle flit: what came before it is a whole packet, unless flits of it are still missing. -/
def acceptIdle (s : State) (n : Nat) : State :=
  if (portOf s n).naking then s else modPort (closeWhole s n) n (fun q => { q with stray := false })

/-- The credits that a link-control flit returns (R43). -/
def takeCredits (s : State) (n : Nat) (f : Flit) : State :=
  tryEgress (modPort s n (fun q =>
    { q with credit0 := q.credit0 + Config.creditsOf f.pay false, credit1 := q.credit1 + Config.creditsOf f.pay true })) n

/-- A flit that fails its CRC is discarded, and a NAK names the last one received intact (R40). -/
def refuseFlit (s : State) (n : Nat) : State := sendControl (modPort s n (fun q => { q with naking := true })) n true []

/-- A flit arrives at a port (R40 to R43). -/
def arriveFlit (s : State) (n : Nat) (bytes : List Byte) : State :=
  if (portOf s n).state ≠ 5 then s
  else
    match readFlit bytes with
    | none => refuseFlit s n
    | some f =>
      let s1 := takeAck s n f
      let s2 := if f.nak then resendHeld s1 n else s1
      if f.kind = 3 then takeCredits s2 n f
      else if f.kind = 0 then acceptIdle s2 n
      else if f.fseq ≠ (portOf s2 n).rxnext then s2
      else acceptFlit s2 n f

/-- The flits of a packet. -/
def flitsOf (p : Port) (k : Packet) : List Held :=
  let bytes := packetBytes k
  let n := ceilDiv bytes.length 52
  let last := p.txseq + BitVec.ofNat 10 (n - 1)
  let vc := decide (k.ptype = 1 ∨ k.ptype = 7)
  (List.range n).map (fun i =>
    let f : Flit := { fseq := p.txseq + BitVec.ofNat 10 i, ackseq := p.rxnext - 1, ackv := true, nak := false, kind := if i = 0 then 1 else 2
                      vc := vc, pay := (bytes.drop (52 * i)).take 52 }
    { flit := f, last := last, pkt := p.packets })

/-- The head of an egress queue is sent when its VC has credits and the replay buffer has room (R41 to R43). -/
def sendEgress (s : State) (n : Nat) (vc : Bool) : State :=
  let p := portOf s n
  match (if vc then p.egress1 else p.egress0) with
  | [] => s
  | k :: rest =>
    let fs := flitsOf p k
    let cost := Config.creditsFor fs.length
    if p.state ≠ 5 ∨ (if vc then p.credit1 else p.credit0) < cost ∨ p.held.length + fs.length > 512 then s
    else
      let quiet_ := !uncovered p
      let t := modPort s n (fun q =>
        { q with
          egress0 := if vc then q.egress0 else rest,
          egress1 := if vc then rest else q.egress1,
          credit0 := if vc then q.credit0 else q.credit0 - cost, credit1 := if vc then q.credit1 - cost else q.credit1
          held := q.held ++ fs, tx := q.tx ++ fs.map Held.flit, txseq := q.txseq + BitVec.ofNat 10 fs.length, packets := q.packets + 1
          moved := if quiet_ then s.time else q.moved })
      let u := if quiet_ then pushAlarm t oneUs (.replayTimeout n) else t
      let v := if k.ptype = 5 then startWait u n k else u
      if rest = [] then v else pushWork v (.egressSend n vc)

/-! ### The link comes up, its width, and lanes lost (R29, R35, R36, R44, R45) -/

/-- The flits of the incomplete packet are expected again (R45). -/
def forgetPacket (p : Port) : Port := { p with rxnext := p.rxnext - BitVec.ofNat 10 (p.rx.length / 52), rx := [], naking := false }

/-- The receiver's part of a forced reduction (R45): a packet that is whole is handed on, an incomplete one is expected again, and
ACKSEQ announces that. -/
def restartPacket (s : State) (n : Nat) : State := sendControl (modPort (closeWhole s n) n forgetPacket) n false []

/-- The version and capability exchange ends (R29, R35). A port that comes back from RETRAIN sends again every packet that has not been
wholly acknowledged, oldest first (R36). -/
def endNegotiate (s : State) (n : Nat) (minv maxv : Nat) (cap : Word) : State :=
  let p := portOf s n
  if p.state ≠ 4 then s
  else
    match agreedVersion 1 2 minv maxv with
    | none => portDown s n
    | some v =>
      let c := (ownCaps &&& cap.toNat) &&& definedCaps v
      if !capsPermit c p then portDown s n
      else
        let t := restartPacket (modPort s n (fun q =>
          { q with
            state := 5, ver := BitVec.ofNat 4 v, cap := BitVec.ofNat 9 c, resend := 0
            credit0 := Config.creditsAtStart false, credit1 := Config.creditsAtStart true })) n
        let u := if (portOf t n).wreq ≠ 0 then pushWork t (.widthChangeApply n) else t
        tryEgress (replay u n (portOf u n).held) n

/-- A port that is not ACTIVE in time goes to DOWN (R35). -/
def timeoutTraining (s : State) (n : Nat) : State :=
  let p := portOf s n
  if p.state = 5 ∨ p.state = 0 ∨ s.time < p.since + hundredMs then s else portDown s n

/-- Lanes of a WREQ value. -/
def wreqWidth (w : BitVec 2) : Nat := match w.toNat with | 1 => 8 | 2 => 4 | 3 => 2 | _ => 0

/-- A port may run at a width: its good lanes and its capability bits allow it (R44). -/
def widthAllowed (p : Port) (w : Nat) : Bool := (widthsOf p.laneok (bitN p.cap.toNat 4) (bitN p.cap.toNat 5)).contains w

/-- A width request (R44): pending until a packet boundary in ACTIVE, or dropped. -/
def requestWidth (s : State) (n : Nat) (w : BitVec 2) : State :=
  let p := portOf s n
  if w ≠ 0 ∧ widthAllowed p (wreqWidth w) then pushWork (modPort s n (fun q => { q with wreq := w })) (.widthChangeApply n)
  else modPort s n (fun q => { q with wreq := 0 })

/-- A requested width takes effect at a packet boundary (R44), unless a training since has left fewer good lanes than it needs. -/
def applyWidth (s : State) (n : Nat) : State :=
  let p := portOf s n
  if p.wreq = 0 ∨ p.state ≠ 5 ∨ !(p.rx = [] || wholePacket p.rx) then s
  else
    let ok := widthAllowed p (wreqWidth p.wreq)
    modPort s n (fun q => { q with width := if ok then BitVec.ofNat 4 (wreqWidth q.wreq) else q.width, wreq := 0 })

/-- A lane is lost in ACTIVE (R36, R45): the widest width left, the interrupted packet discarded, a pending request dropped. MARK: DESIGN
CHOICE (log 34). Where two or more good lanes are left that form no permitted width, the manual names no action; the port retrains. -/
def loseLane (s : State) (n : Nat) (good : BitVec 8) : State :=
  let p := portOf s n
  if p.state ≠ 5 then s
  else
    let w := widest good (bitN p.cap.toNat 4) (bitN p.cap.toNat 5)
    let t := modPort (restartPacket s n) n (fun q => { q with laneok := good, wreq := 0, width := if w = 0 then q.width else BitVec.ofNat 4 w })
    if w = 0 ∨ popCount 8 good.toNat < 2 then enterRetrain t n else t

/-! ### Tables (R48, R73) -/

/-- A routing entry; MODE 3 stores 0. -/
def writeRoute (s : State) (v : Word) : State :=
  let mode := bitsW v 17 16
  let entry := BitVec.ofNat 18 ((if mode = 3 then 0 else mode) * 2 ^ 16 + bitsW v 11 0)
  { s with fab := { s.fab with routes := keep 0 s.fab.routes s.fab.rti.toNat entry } }

/-- A group table entry. -/
def writeGroup (s : State) (v : Word) : State :=
  let e : GroupEntry :=
    { midx := BitVec.ofNat 12 (bitsW v 47 36), parent := BitVec.ofNat 4 (bitsW v 35 32), valid := bitW v 15, local_ := bitW v 14
      child := BitVec.ofNat 12 (bitsW v 11 0) }
  { s with fab := { s.fab with groups := keep .reset s.fab.groups s.fab.mcgi.toNat e } }

/-! ### The events -/

/-- A port number that names no port changes nothing. -/
def onPort (n : Nat) (s t : State) : Host.Outcome State Fault Refusal := .next (if n < 12 then t else s)

/-- YLPORT_ENABLE (R35). -/
def execYlportEnable (port : Nat) (en : Bool) (s : State) : Host.Outcome State Fault Refusal := onPort port s (setEnable s port en)

/-- YLPORT_RETRAIN (R36). -/
def execYlportRetrain (port : Nat) (s : State) : Host.Outcome State Fault Refusal := onPort port s (enterRetrain s port)

/-- YLPORT_WIDTH_REQUEST (R44). -/
def execYlportWidthRequest (port : Nat) (w : BitVec 2) (s : State) : Host.Outcome State Fault Refusal := onPort port s (requestWidth s port w)

/-- DETECT_IDLE_EXIT (R35): the training sets go out again, and once more in 10 ms. -/
def execDetectIdleExit (port : Nat) (s : State) : Host.Outcome State Fault Refusal :=
  onPort port s (if (portOf s port).state = 1 then pushAlarm s tenMs (.detectIdleExit port) else s)

/-- PARTNER_DETECTED (R35). -/
def execPartnerDetected (port : Nat) (lanes : BitVec 8) (bits : BitVec 4) (s : State) : Host.Outcome State Fault Refusal :=
  onPort port s (seePartner s port lanes bits)

/-- EQUALISE_DONE (R35). -/
def execEqualiseDone (port : Nat) (good224 good112 good56 : BitVec 8) (s : State) : Host.Outcome State Fault Refusal :=
  onPort port s (endEqualise s port good224 good112 good56)

/-- ALIGN_DONE (R35). -/
def execAlignDone (port : Nat) (s : State) : Host.Outcome State Fault Refusal := onPort port s (endAlign s port)

/-- NEGOTIATION_DONE (R29). -/
def execNegotiationDone (port : Nat) (minv maxv : Nat) (cap : Word) (s : State) : Host.Outcome State Fault Refusal :=
  onPort port s (endNegotiate s port minv maxv cap)

/-- TRAINING_TIMEOUT (R35). -/
def execTrainingTimeout (port : Nat) (s : State) : Host.Outcome State Fault Refusal := onPort port s (timeoutTraining s port)

/-- FLIT_RECEIVE (R40). -/
def execFlitReceive (port : Nat) (bytes : List Byte) (s : State) : Host.Outcome State Fault Refusal := onPort port s (arriveFlit s port bytes)

/-- REPLAY_TIMEOUT (R41). -/
def execReplayTimeout (port : Nat) (s : State) : Host.Outcome State Fault Refusal := onPort port s (timeoutReplay s port)

/-- LANE_LOSS (R45). -/
def execLaneLoss (port : Nat) (good : BitVec 8) (s : State) : Host.Outcome State Fault Refusal := onPort port s (loseLane s port good)

/-- WIDTH_CHANGE_APPLY (R44). -/
def execWidthChangeApply (port : Nat) (s : State) : Host.Outcome State Fault Refusal := onPort port s (applyWidth s port)

/-- EGRESS_SEND (R43). -/
def execEgressSend (port : Nat) (vc : Bool) (s : State) : Host.Outcome State Fault Refusal := onPort port s (sendEgress s port vc)

/-- REMOTE_LOAD_ARRIVAL (R56). -/
def execRemoteLoadArrival (p : Packet) (s : State) : Host.Outcome State Fault Refusal :=
  .next (if forMe s p && decide (p.ptype = 0) then arriveRequest s p else s)

/-- AGGREGATED_STORE_ARRIVAL (R56). -/
def execAggregatedStoreArrival (p : Packet) (s : State) : Host.Outcome State Fault Refusal :=
  .next (if forMe s p && decide (p.ptype = 2) then arriveRequest s p else s)

/-- AGGREGATED_ATOMIC_ARRIVAL (R56). -/
def execAggregatedAtomicArrival (p : Packet) (s : State) : Host.Outcome State Fault Refusal :=
  .next (if forMe s p && decide (p.ptype = 3) then arriveRequest s p else s)

/-- TILE_STORE_ADD_ARRIVAL (R57). -/
def execTileStoreAddArrival (port : Nat) (p : Packet) (s : State) : Host.Outcome State Fault Refusal :=
  .next (if forMe s p && decide (p.ptype = 4) then arrivePart s port p else s)

/-- TILE_REASSEMBLY_TIMEOUT (R57). -/
def execTileReassemblyTimeout (io src tag : Nat) (s : State) : Host.Outcome State Fault Refusal := .next (timeoutTile s io src tag)

/-- MULTICAST_LINE_ARRIVAL (R74). -/
def execMulticastLineArrival (_port : Nat) (p : Packet) (s : State) : Host.Outcome State Fault Refusal :=
  .next (if !(pkMalformed p) && decide (p.ptype = 5) then arriveLine s p else s)

/-- MULTICAST_CHILD_TIMEOUT (R75). -/
def execMulticastChildTimeout (group tag port : Nat) (s : State) : Host.Outcome State Fault Refusal := .next (timeoutChild s group tag port)

/-- COMBINED_ACK_ARRIVAL (R75). -/
def execCombinedAckArrival (port : Nat) (p : Packet) (s : State) : Host.Outcome State Fault Refusal :=
  .next (if !(pkMalformed p) && decide (p.ptype = 7) && decide (pkKind p = 2) then arriveCombined s port p else s)

/-- INBOX_APPEND_ARRIVAL (R446). -/
def execInboxAppendArrival (p : Packet) (s : State) : Host.Outcome State Fault Refusal :=
  .next (if forMe s p && decide (p.ptype = 6) then arriveRequest s p else s)

/-- LOAD_REPLY_ARRIVAL (R476). -/
def execLoadReplyArrival (p : Packet) (s : State) : Host.Outcome State Fault Refusal :=
  .next (if forMe s p && decide (p.ptype = 1) then arriveReply s p else s)

/-- ELEMENT_ACK_ARRIVAL (R69). -/
def execElementAckArrival (p : Packet) (s : State) : Host.Outcome State Fault Refusal :=
  .next (if forMe s p && decide (p.ptype = 7) && decide (pkKind p = 0) then arriveAck s p else s)

/-- INBOX_ACK_ARRIVAL (R72). -/
def execInboxAckArrival (p : Packet) (s : State) : Host.Outcome State Fault Refusal :=
  .next (if forMe s p && decide (p.ptype = 7) && decide (pkKind p = 1) then arriveInboxAck s p else s)

/-- ACK_TIMEOUT (R70). -/
def execAckTimeout (tag : Nat) (s : State) : Host.Outcome State Fault Refusal := .next (timeoutAck s tag)

/-- RLD_TIMEOUT (R476). -/
def execRldTimeout (tag : Nat) (s : State) : Host.Outcome State Fault Refusal := .next (timeoutLoad s tag)

/-- COMA_AGE_LIMIT (R62). -/
def execComaAgeLimit (buffer : Nat) (s : State) : Host.Outcome State Fault Refusal := .next (ageBuffer s buffer)

/-- COMA_DRAIN (R65). -/
def execComaDrain (s : State) : Host.Outcome State Fault Refusal := .next (flushWhere s (fun _ => true))

/-- ROUTING_ENTRY_WRITE (R48). -/
def execRoutingEntryWrite (v : Word) (s : State) : Host.Outcome State Fault Refusal := .next (writeRoute s v)

/-- GROUP_TABLE_ENTRY_WRITE (R73). -/
def execGroupTableEntryWrite (v : Word) (s : State) : Host.Outcome State Fault Refusal := .next (writeGroup s v)

end Sys2Proof.Machine
end

