-- ==== Sys2Proof/Machine/Package.lean ====
section
/-!
DEFINITION. The package: supply and rails (R17), resets and bring-up (R26 to R28), secure boot, measurements and recovery (R30 to
R33, R82), and the thermal limits with their throttle states (R19 to R25).
-/

namespace Sys2Proof.Machine

open Sys2Proof

/-- The package changed. -/
def modPkg (s : State) (f : Package → Package) : State := { s with pkg := f s.pkg }

/-! ### Throttle states (R20 to R25) -/

/-- The deeper of two requests. -/
def deeper (a b : BitVec 2) : BitVec 2 := if a.toNat < b.toNat then b else a

/-- The deepest of the requests, which the next sample brings into force (R21). -/
def throttle (p : Package) : BitVec 2 := deeper (deeper p.tReq p.pReq) p.floor

/-- The entry temperature of a state. -/
def entryTemp (p : Package) (k : Nat) : Nat := if k = 1 then p.ent1.toNat else if k = 2 then p.ent2.toNat else p.ent3.toNat

/-- The deepest state whose entry temperature a junction exceeds (R21). -/
def hotRequest (p : Package) (t : Nat) : Nat :=
  if t > p.ent3.toNat then 3 else if t > p.ent2.toNat then 2 else if t > p.ent1.toNat then 1 else 0

/-- Since when a junction has stayed 3 °C below an entry temperature, at a sample. -/
def coolFrom (now t entry : Nat) (since : Option Nat) : Option Nat :=
  if t + 3 ≤ entry then (match since with | some c => some c | none => some now) else none

/-- A state's request has been below its entry temperature for 10 ms (R21). -/
def cooled (now : Nat) (since : Option Nat) : Bool := match since with | some c => decide (c + tenMs ≤ now) | none => false

/-- The cooling time of a state. -/
def coolOf (p : Package) (k : Nat) : Option Nat := if k = 1 then p.cool1 else if k = 2 then p.cool2 else p.cool3

/-- The deepest state up to `k` whose request stands. -/
def standing (p : Package) (now : Nat) : Nat → Nat
  | 0 => 0
  | k + 1 => if cooled now (coolOf p (k + 1)) then standing p now k else k + 1

/-- A thermal request that may ease does (R21). -/
def easeThermal (s : State) : State := modPkg s (fun p => { p with tReq := BitVec.ofNat 2 (standing p s.time p.tReq.toNat) })

/-- THRCTL as read (R24). -/
def readThrctl (p : Package) : Word :=
  let st := p.inForce
  word ((if p.trip then 2 ^ 32 else 0) + p.tjmax.toNat * 2 ^ 24 + p.pwr.toNat * 2 ^ 12
    + (if st ≠ 0 ∧ p.floor = st then 2 ^ 10 else 0) + (if st ≠ 0 ∧ p.pReq = st then 2 ^ 9 else 0)
    + (if st ≠ 0 ∧ p.tReq = st then 2 ^ 8 else 0) + p.floor.toNat * 2 ^ 4 + st.toNat)

/-- THRLIM as read (R25). -/
def readThrlim (p : Package) : Word := word (p.ent3.toNat * 2 ^ 16 + p.ent2.toNat * 2 ^ 8 + p.ent1.toNat)

/-- A write to THRCTL (R24). -/
def writeThrctl (s : State) (v : Word) : State :=
  modPkg s (fun p => { p with floor := BitVec.ofNat 2 (bitsW v 5 4), trip := p.trip && !bitW v 32 })

/-- A write to THRLIM (R25): no field above its reset value, and a field below another takes the lower value. MARK: DESIGN CHOICE (log 39).
The 10 ms of cooling that R21 counts against an entry temperature go on when the write changes it; the spec does not say. -/
def writeThrlim (s : State) (v : Word) : State :=
  let e3 := Nat.min (bitsW v 23 16) 103
  let e2 := Nat.min (Nat.min (bitsW v 15 8) 100) e3
  let e1 := Nat.min (Nat.min (bitsW v 7 0) 95) e2
  modPkg s (fun p => { p with ent1 := BitVec.ofNat 8 e1, ent2 := BitVec.ofNat 8 e2, ent3 := BitVec.ofNat 8 e3 })

/-- The end of a 1 ms power window (R21, R24). -/
def endWindow (s : State) (watts : Nat) : State :=
  modPkg s (fun p =>
    { p with
      pwr := BitVec.ofNat 12 (Nat.min watts 4095)
      pReq := if watts > 3600 ∧ p.pReq ≠ 3 then p.pReq + 1 else p.pReq
      lowPower := p.lowPower && decide (watts ≤ 3400) })

/-- The end of a 10 ms interval (R21). -/
def endLowInterval (s : State) : State :=
  modPkg s (fun p => { p with pReq := if p.lowPower ∧ p.pReq ≠ 0 then p.pReq - 1 else p.pReq, lowPower := true })

/-! ### Power (R17, R23) -/

/-- The machine without power, and at the moment its rails are good again: what a shutdown keeps is in `p`, and time, the choices
of the surroundings and the messages already sent go on. -/
def coldState (s : State) (p : Package) : State :=
  { State.reset with
    cycle := s.cycle, time := s.time, schedule := s.schedule, free := s.free, seq := s.seq, pkg := p
    host := { HostIf.reset with out := s.host.out } }

/-- The package with its rails down: the fuses and the level of PERST_N stay. -/
def darkPackage (p : Package) (inputOk tripped railFault trip : Bool) : Package :=
  { Package.reset with
    inputOk := inputOk, powered := false, tripped := tripped, railFault := railFault, trip := trip, resets := p.resets, perst := p.perst
    raised := p.raised }

/-- The rails rise and a cold reset follows (R17, R26); after a trip the input must have been removed (R23). -/
def raiseRails (s : State) : State :=
  if s.pkg.powered ∨ s.pkg.tripped then s
  else
    coldState s
      { Package.reset with
        railFault := s.pkg.railFault, trip := s.pkg.trip, fail := if s.pkg.railFault then 0x08 else 0, resets := s.pkg.resets + 1,
        perst := s.pkg.perst, raised := s.pkg.raised }

/-- The input is removed (R17, R23): a shutdown with no rail fault ends the record of an earlier one. -/
def removeInput (s : State) : State :=
  coldState s (darkPackage s.pkg false false (if s.pkg.powered then false else s.pkg.railFault) s.pkg.trip)

/-- A rail fault (R17). MARK: DESIGN CHOICE (log 38). TRIP stays 1 over a shutdown that is no thermal trip until software clears it: R24
gives it as retained and calls it the cause of the last shutdown. -/
def dropRails (s : State) : State := if s.pkg.powered then coldState s (darkPackage s.pkg s.pkg.inputOk false true s.pkg.trip) else s

/-- A thermal trip (R23). -/
def tripRails (s : State) : State := coldState s (darkPackage s.pkg s.pkg.inputOk true s.pkg.railFault true)

/-- A sample of every die's hottest junction (R19, R21, R23). With it the deepest request comes into force, so that requests which change
in one 100 µs interval enter no intermediate state. -/
def sampleJunctions (s : State) (temps : List Nat) : State :=
  let t := temps.foldl Nat.max 0
  if !s.pkg.powered then s
  else if t ≥ 108 then tripRails s
  else
    let p := s.pkg
    let q : Package :=
      { p with
        tjmax := BitVec.ofNat 8 t
        cool1 := coolFrom s.time t p.ent1.toNat p.cool1, cool2 := coolFrom s.time t p.ent2.toNat p.cool2
        cool3 := coolFrom s.time t p.ent3.toNat p.cool3 }
    let s1 := easeThermal { s with pkg := { q with tReq := deeper q.tReq (BitVec.ofNat 2 (hotRequest q t)) } }
    let s2 := modPkg s1 (fun x => { x with inForce := throttle x })
    if s2.pkg.tReq ≠ 0 ∧ coolOf s2.pkg s2.pkg.tReq.toNat = some s.time then pushAlarm s2 tenMs .thermalEaseExpiry else s2

/-! ### Resets and bring-up (R26, R27) -/

/-- A measurement extended (R82). -/
def extendMeas (m d : BitVec 384) : BitVec 384 :=
  let bytes (x : BitVec 384) : List Byte := (spread 48 x.toNat).reverse
  sha384 (bytes m ++ bytes d)

/-- A bring-up step is done. -/
def stepDone (s : State) (n : Nat) : State := modPkg s (fun p => { p with steps := p.steps ++ [n] })

/-- A FAIL code is recorded, and the stage that found it enters recovery (R28, R31). -/
def enterRecovery (s : State) (by_ code : Nat) : State :=
  modPkg s (fun p =>
    { p with
      stage := 0xFF, fail := BitVec.ofNat 8 code, railFault := false, recoverBy := by_, recStatus := 0, recBusy := false
      pcieUp := p.pcieUp &&& 1, links := del p.links 1 })

/-- A public key hashes to an unrevoked fused hash of its algorithm (R30): 0 Ed25519, 1 ML-DSA-65. -/
def keyOk (algorithm : Nat) (key : List Byte) : Bool :=
  (List.range 2).any (fun k => decide (sha384 key = Config.fusedHash algorithm k) && !Config.keyRevoked algorithm k)

/-- The minimum security version (R30): as fused at manufacture, or as firmware has raised it. -/
def fusedMin (p : Package) : Nat := Nat.max Config.fusedMinimum.toNat p.raised.toNat

/-- The code of the first check of R30 that an image fails, in the order of R33; none when it passes. -/
def imageFail (p : Package) (i : BootImage) : Option Nat :=
  let ed := Config.verifies 0 i.edKey i.signed i.edSig
  let ml := Config.verifies 1 i.mlKey i.signed i.mlSig
  if !keyOk 0 i.edKey || !keyOk 1 i.mlKey then some 0x09
  else if sha384 i.body ≠ i.digest then some 0x0A
  else if !ed && !ml then some 0x04
  else if !ed then some 0x02
  else if !ml then some 0x03
  else if i.svn.toNat < fusedMin p then some 0x05
  else none

/-- An image that a stage is to run: taken apart, or the code of its failure. -/
def checkImage (p : Package) (bytes : List Byte) : Except Nat BootImage :=
  match Config.bootImage bytes with
  | none => .error 0x01
  | some i => match imageFail p i with | some k => .error k | none => .ok i

/-- The loader has passed its checks: it is measured and runs. -/
def runLoader (s : State) (i : BootImage) : State := modPkg s (fun p => { p with meas1 := extendMeas p.meas1 i.digest, stage := 1 })

/-- The firmware has passed its checks: it is measured and runs. -/
def runFirmware (s : State) (i : BootImage) : State :=
  modPkg s (fun p => { p with meas2 := extendMeas p.meas2 i.digest, stage := 2, svn := i.svn })

/-- Bring-up steps 5 and 6 are done, so that step 7 may start. -/
def linksMayStart (p : Package) : Bool := p.steps.contains 5 && p.steps.contains 60 && p.steps.contains 61 && !p.steps.contains 7

/-- Step 7 starts: every port that software has not disabled leaves DOWN (R35). -/
def startLinks (s : State) : State :=
  if linksMayStart s.pkg then (List.range 12).foldl (fun t n => setEnable t n (portOf t n).enable) s else s

/-- HBM4 holds zero (R26, R27). -/
def zeroHbm (s : State) : State := { s with mem := [], poison := [], sealed := [] }

/-- Every port has ended its training (R35). -/
def linksTrained (s : State) : Bool := (List.range 12).all (fun n => decide ((portOf s n).state = 0 ∨ (portOf s n).state = 5))

/-- The clusters are released to the queue engines (R27, R114). -/
def releaseClusters (s : State) : State :=
  let all : SMap Cluster := (List.range 384).map (fun c => (c, { look .reset s.clusters c with released := true, pushes := 0 }))
  { s with clusters := all }

/-- The step of R27 that runs next, apart from step 6. -/
def nextStep (p : Package) : Option Nat := [1, 2, 3, 4, 5, 7, 8, 9].find? (fun n => !p.steps.contains n)

/-- A UCIe edge fails: more modules beyond repair than R15 allows, or no version that its two dies agree on (R29). -/
def edgeFails (e : EdgeReport) : Bool := decide (e.bad > 2) || (agreedVersion e.minA e.maxA e.minB e.maxB).isNone

/-- Firmware raises the fused minimum, and never lowers it (R30). -/
def raiseMinimum (s : State) (v : BitVec 16) : State := modPkg s (fun p => { p with raised := if p.raised.toNat < v.toNat then v else p.raised })

/-- A bring-up step ends (R27 to R31, R82): `edges` is what the UCIe edges report, `phyOk` tells whether every HBM4 PHY trained, `image`
is the image that the step verifies, and `raise` the minimum version that running firmware sets. -/
def endStep (s : State) (edges : List EdgeReport) (phyOk : Bool) (image : List Byte) (raise : BitVec 16) : State :=
  if !s.pkg.powered ∨ s.pkg.stage = 0xFF then s
  else
    match nextStep s.pkg with
    | some 1 => modPkg (stepDone s 1) (fun p => { p with meas0 := extendMeas p.meas0 Config.romDigest })
    | some 2 => (match checkImage s.pkg image with | .ok i => runLoader (stepDone s 2) i | .error k => enterRecovery s 0 k)
    | some 3 =>
      let t := modPkg s (fun p => { p with ucideg := BitVec.ofNat 8 (Nat.min 255 (edges.map EdgeReport.bad).sum) })
      if edges.any edgeFails then enterRecovery t 1 0x06 else stepDone t 3
    | some 4 => (match checkImage s.pkg image with | .ok i => runFirmware (stepDone s 4) i | .error k => enterRecovery s 1 k)
    | some 5 => if phyOk then startLinks (stepDone (zeroHbm (raiseMinimum s raise)) 5) else enterRecovery s 2 0x07
    | some 7 => if linksMayStart s.pkg && linksTrained s then stepDone (raiseMinimum s raise) 7 else s
    | some 8 =>
      modPkg (stepDone { raiseMinimum s raise with fab := { s.fab with routes := [] } } 8) (fun p => { p with stage := 3 })
    | some 9 => releaseClusters (stepDone (raiseMinimum s raise) 9)
    | _ => s

/-- A warm reset (R26, R82): what it does not keep is as after a cold reset, and steps 4 to 9 run again. MARK: DESIGN CHOICE (logs 36 and
37). FAIL keeps whatever code it holds, which R26 does not list; and where steps 2 or 3 have not been done yet, they run again before
step 4, as R27 orders them and R26 does not provide for. -/
def resetWarm (s : State) : State :=
  if !s.pkg.powered then s
  else
    let p := s.pkg
    let t := coldState s
      { Package.reset with
        inputOk := p.inputOk, railFault := p.railFault, trip := p.trip, resets := p.resets + 1, fail := p.fail
        steps := p.steps.filter (fun n => decide (n < 4)), stage := if p.steps.contains 2 then 1 else 0
        wrst := if p.wrst = 255 then 255 else p.wrst + 1, ucideg := p.ucideg, perst := p.perst, raised := p.raised, meas0 := p.meas0, meas1 := p.meas1 }
    { t with ctl := { t.ctl with ueCount := s.ctl.ueCount } }

/-- PERST_N of port 0 is deasserted (R26): PCIe training may begin, and with the rails good a warm reset follows. -/
def deassertPerst (s : State) : State := modPkg (resetWarm s) (fun p => { p with perst := true })

/-- The Terwell capability word of the Z5 (R78): CKPT, ATTEST, HOSTQ and VFQ. -/
def ownTerwell : Word := 0xF

/-- A width, rate and mode that a PCIe port trains at (R77). -/
def linkPossible (l : PcieLink) : Bool :=
  [1, 4, 8, 16].contains l.lanes && decide (l.rate ≤ 5) && (l.flit || decide (l.rate < 5))

/-- A trained link with the version and capabilities agreed (R29, R78); none when no version qualifies, and the link stays down. -/
def terwellLink (l : PcieLink) : Option PcieLink :=
  (agreedVersion 1 1 l.minv l.maxv).map (fun v => { l with minv := v, maxv := v, caps := ownTerwell &&& l.caps })

/-- PCIe training may run on a port: both references of step 6 are there, and steps 1 and 2 are done or the port serves recovery. -/
def mayTrain (p : Package) (port : Nat) : Bool :=
  p.powered && p.perst
    && (if p.stage = 0xFF then decide (port = 0) else decide (port < 2) && p.steps.contains 1 && p.steps.contains 2)

/-- PCIe training of a port ends (R27 to R29, R77). -/
def trainPcie (s : State) (port : Nat) (link : Option PcieLink) : State :=
  if !mayTrain s.pkg port then s
  else
    let bit := BitVec.ofNat 2 (port + 1)
    let up := match link with | some l => if linkPossible l then terwellLink l else none | none => none
    startLinks (modPkg s (fun q =>
      { q with
        pcieUp := if up.isSome then q.pcieUp ||| bit else q.pcieUp &&& ~~~bit
        links := match up with | some l => put q.links port l | none => del q.links port
        steps := if q.steps.contains (60 + port) then q.steps else q.steps ++ [60 + port] }))

/-- A message to the host. -/
def tellHost (s : State) (m : HostMsg) : State := { s with host := { s.host with out := s.host.out ++ [m] } }

/-- A port is up. -/
def pcieOn (s : State) (port : Nat) : Bool := s.pkg.powered && decide (port < 2) && bitN s.pkg.pcieUp.toNat port

/-- The size of a PF's BAR4, as a power of two (R77). -/
def bar4Size (s : State) (port : Nat) : Nat := look 40 s.host.bar4 port

/-- What a completed configuration request returns (R77, R78). MARK: PRESUMED (log 42). The manual names the fields and not their places:
the DVSEC gives its lowest and highest version, its capability word, and the version and capabilities agreed; the link its width, rate
and mode; the size of BAR4 stands as a power of two. -/
def configWords (s : State) (port : Nat) (ask : ConfigAsk) : List Word :=
  let l : PcieLink := look { lanes := 0, rate := 0, flit := false, minv := 0, maxv := 0, caps := 0 } s.pkg.links port
  match ask with
  | .dvsec => [1, 1, ownTerwell, word l.maxv, l.caps]
  | .link => [word l.lanes, word l.rate, wordB l.flit]
  | .barSize => [word (bar4Size s port)]
  | .setBarSize _ => []

/-- The host chooses the size of a PF's BAR4, 64 GiB to 1 TiB (R77). -/
def chooseSize (s : State) (port : Nat) : ConfigAsk → State
  | .setBarSize n => if 36 ≤ n ∧ n ≤ 40 then { s with host := { s.host with bar4 := put s.host.bar4 port n } } else s
  | _ => s

/-- A configuration request (R28): answered once the firmware runs and, by port 0, in recovery; until then a port asks for a retry. -/
def configRequest (s : State) (port : Nat) (ask : ConfigAsk) : State :=
  if !pcieOn s port then s
  else if s.pkg.stage = 3 ∨ s.pkg.stage = 0xFF then tellHost (chooseSize s port ask) (.config port (configWords s port ask))
  else tellHost s (.retry port)

/-! ### Recovery (R31, R32) -/

/-- RECCTL OP 1 (R32). MARK: DESIGN CHOICE (log 35). A LEN above 67,108,864, for which the spec gives no outcome, is met as LEN 0 is:
STATUS 3 with FAIL 0x01 at once. -/
def startRecovery (s : State) (len : BitVec 27) : State :=
  if !s.pkg.powered ∨ s.pkg.stage ≠ 0xFF ∨ s.pkg.recBusy then s
  else if len = 0 ∨ len.toNat > 67108864 then
    modPkg s (fun p => { p with recLen := len, recStatus := 3, fail := 0x01 })
  else modPkg s (fun p => { p with recLen := len, recBusy := true })

/-- The image in the recovery window (R32): the first LEN bytes. -/
def windowImage (p : Package) : List Byte := (List.range p.recLen.toNat).map (look 0 p.window)

/-- The check of a recovery image ends (R32): it runs in the place of the image that failed, or its code is recorded. MARK: DESIGN CHOICE
(log 40). In a recovery that firmware entered (an HBM4 PHY failed), which R32 does not name, the image is taken as firmware, and MEAS2 is
extended once more. -/
def endRecovery (s : State) (raise : BitVec 16) : State :=
  if !s.pkg.recBusy then s
  else
    let t := modPkg s (fun p => { p with recBusy := false })
    match checkImage t.pkg (windowImage t.pkg) with
    | .error k => modPkg t (fun p => { p with recStatus := 3, fail := BitVec.ofNat 8 k })
    | .ok img =>
      let ran := if t.pkg.recoverBy = 0 then runLoader t img else raiseMinimum (runFirmware t img) raise
      let first := if t.pkg.recoverBy = 0 then [1, 2] else [1, 2, 3, 4]
      modPkg ran (fun p => { p with recStatus := 2, steps := first ++ p.steps.filter (fun n => decide (n = 60)) })

/-- BOOTST as read (R33). MARK: DESIGN CHOICE (log 41). YLUP is 1 for a port in ACTIVE alone: one that trains again after a loss of its
link reads 0. -/
def readBootst (s : State) : Word :=
  let up := ((List.range 12).filter (fun n => decide ((portOf s n).state = 5))).foldl (fun a n => a + 2 ^ n) 0
  let p := s.pkg
  word (p.wrst.toNat * 2 ^ 56 + p.svn.toNat * 2 ^ 40 + p.ucideg.toNat * 2 ^ 32 + p.stage.toNat * 2 ^ 24 + p.fail.toNat * 2 ^ 16
    + p.pcieUp.toNat * 2 ^ 12 + up)

/-- RECCTL as read (R32): zero outside recovery. -/
def readRecctl (p : Package) : Word :=
  if p.stage ≠ 0xFF then 0
  else word ((if p.recBusy then 2 ^ 63 else 0) + p.recStatus.toNat * 2 ^ 60 + p.recLen.toNat)

/-! ### The events -/

/-- POWER_UP (R17). -/
def execPowerUp (s : State) : Host.Outcome State Fault Refusal := .next (raiseRails s)

/-- INPUT_REMOVAL (R17). -/
def execInputRemoval (s : State) : Host.Outcome State Fault Refusal := .next (removeInput s)

/-- RAIL_FAULT (R17). -/
def execRailFault (s : State) : Host.Outcome State Fault Refusal := .next (dropRails s)

/-- WARM_RESET (R26, R81). -/
def execWarmReset (s : State) : Host.Outcome State Fault Refusal := .next (resetWarm s)

/-- PERST_N_DEASSERT (R26). -/
def execPerstNDeassert (s : State) : Host.Outcome State Fault Refusal := .next (deassertPerst s)

/-- BRINGUP_STEP_DONE (R27). -/
def execBringupStepDone (edges : List EdgeReport) (phyOk : Bool) (boot : BootReport) (s : State) : Host.Outcome State Fault Refusal :=
  .next (endStep s edges phyOk boot.image boot.raise)

/-- PCIE_TRAINING_DONE (R28). -/
def execPcieTrainingDone (port : Nat) (link : Option PcieLink) (s : State) : Host.Outcome State Fault Refusal :=
  .next (trainPcie s port link)

/-- PCIE_CONFIG_REQUEST (R28). -/
def execPcieConfigRequest (r : ConfigRequest) (s : State) : Host.Outcome State Fault Refusal := .next (configRequest s r.port r.ask)

/-- RECOVERY_RUN (R32). -/
def execRecoveryRun (len : BitVec 27) (s : State) : Host.Outcome State Fault Refusal := .next (startRecovery s len)

/-- RECOVERY_CHECK_DONE (R32). -/
def execRecoveryCheckDone (raise : BitVec 16) (s : State) : Host.Outcome State Fault Refusal := .next (endRecovery s raise)

/-- THERMAL_SAMPLE (R19). -/
def execThermalSample (temps : List Nat) (s : State) : Host.Outcome State Fault Refusal := .next (sampleJunctions s temps)

/-- POWER_WINDOW_END (R21). -/
def execPowerWindowEnd (watts : Nat) (s : State) : Host.Outcome State Fault Refusal := .next (endWindow s watts)

/-- POWER_LOW_INTERVAL_END (R21). -/
def execPowerLowIntervalEnd (s : State) : Host.Outcome State Fault Refusal := .next (endLowInterval s)

/-- THERMAL_EASE_EXPIRY (R21). -/
def execThermalEaseExpiry (s : State) : Host.Outcome State Fault Refusal := .next (easeThermal s)

/-- THRCTL_WRITE (R24). -/
def execThrctlWrite (v : Word) (s : State) : Host.Outcome State Fault Refusal := .next (writeThrctl s v)

/-- THRLIM_WRITE (R25). -/
def execThrlimWrite (v : Word) (s : State) : Host.Outcome State Fault Refusal := .next (writeThrlim s v)

end Sys2Proof.Machine
end

