-- ==== Sys2Proof/Machine/Host.lean ====
section
/-!
DEFINITION. The host's side: requests through the BARs (R79, R80), the management registers and function pages (R9, R521 and the
rules named at each register), queue and partition commands (R85, R96), notifies (R86 to R89), keys and attestation (R98 to R102),
the checkpoint engine (R103 to R105), and the sealing of handles (R363 to R365).
-/

namespace Sys2Proof.Machine

open Sys2Proof

/-! ### Callers -/

/-- How a request of a function is met: its port is down, the full layout of a PF, a VF's under its partition, the reduced layout
of recovery (R32), or refused (R80). -/
inductive HostMode where
  | noLink | pf | vf (part : Nat) | recovery | refused
  deriving DecidableEq, Repr

/-- What a function may reach now (R28, R32, R80, R97). -/
def hostMode (s : State) (c : Caller) : HostMode :=
  if !pcieOn s c.port then .noLink
  else if s.pkg.stage = 0xFF then (if c.port = 0 ∧ c.vf = 0 then .recovery else .refused)
  else if s.pkg.stage ≠ 3 then .refused
  else if c.vf = 0 then .pf
  else if c.vf < 64 ∧ bitN (vfMap s c.port c.vf).toNat 4 then .vf (bitsN (vfMap s c.port c.vf).toNat 3 0)
  else .refused

/-- The number of a function's own registers: 0 for the PF, 1 + 64 p + v − 1 for VF v of port p. -/
def callerKey (c : Caller) : Nat := if c.vf = 0 then 0 else 64 * c.port + c.vf

/-- The entry of an active partition. -/
def partEntry (s : State) (p : Nat) : Option (List Word) := (find? s.host.parts p).map Prod.fst

/-- The entry of a VF's partition; none for a VF without one. -/
def vfEntry (s : State) (c : Caller) : Option (List Word) :=
  if bitN (vfMap s c.port c.vf).toNat 4 then partEntry s (bitsN (vfMap s c.port c.vf).toNat 3 0) else none

/-- A function may name something of a partition: the PF of any, a VF of its own. -/
def mayName (s : State) (c : Caller) (p : List Word → Bool) : Bool :=
  if c.vf = 0 then true else match vfEntry s c with | some e => p e | none => false

/-- A request ends with Unsupported Request (R80). -/
def unsupported (s : State) (c : Caller) : State := tellHost s (.unsupported c)

/-! ### Command registers (R521) -/

/-- A command register as read. -/
def readCommand (c : Command) : Word := word ((if c.busy then 2 ^ 63 else 0) + c.status.toNat * 2 ^ 60 + c.arg.toNat)

/-- A command register of a function. -/
def commandAt (m : SMap Command) (c : Caller) : Command := look .reset m (callerKey c)

/-- What a write makes of a command register that is not busy: its RW fields and, for a defined OP, BUSY. -/
def written (c : Command) (mask : Nat) (v : Word) (starts : Bool) : Command :=
  { c with arg := v &&& word mask, busy := starts }

/-- A command's events: its work, then its completion. -/
def startCommand (s : State) (c : Caller) (off : Nat) (e : Instr) : State := pushWork (pushWork s e) (.commandCompletion c off)

/-- The status of a queue command. -/
def qcmdStatus (s : State) (c : Caller) (n : Nat) : State :=
  { s with host := { s.host with qcmd := put s.host.qcmd (callerKey c) { commandAt s.host.qcmd c with status := BitVec.ofNat 3 n } } }

/-- The status of a partition command. -/
def pcmdStatus (s : State) (n : Nat) : State := { s with host := { s.host with pcmd := { s.host.pcmd with status := BitVec.ofNat 3 n } } }

/-- The status of a key command. -/
def keyStatus (s : State) (c : Caller) (n : Nat) : State :=
  { s with host := { s.host with keycmd := put s.host.keycmd (callerKey c) { commandAt s.host.keycmd c with status := BitVec.ofNat 3 n } } }

/-- The status of an attestation command. -/
def attStatus (s : State) (c : Caller) (n : Nat) : State :=
  { s with host := { s.host with attcmd := put s.host.attcmd (callerKey c) { commandAt s.host.attcmd c with status := BitVec.ofNat 3 n } } }

/-- The status of a handle command. -/
def ghStatus (s : State) (n : Nat) : State := { s with ctl := { s.ctl with ghcmd := { s.ctl.ghcmd with status := BitVec.ofNat 3 n } } }

/-- A vault command still waits for a hart. -/
def vaultWaits (s : State) : Bool := s.timers.any (fun t => match t.2 with | .vaultRestore _ => true | .vaultSwap _ _ => true | _ => false)

/-- The event is the work of a command of a register, which stands at an offset, of a caller. -/
def worksFor (c : Caller) (off : Nat) : Instr → Bool
  | .queueEnable d _ | .queueDisable d _ | .queueUnmap d _ | .queueClearerr d _ => decide (d = c ∧ (off = 0x2000 ∨ off = 0x000))
  | .keyLoad d _ | .keyErase d _ => decide (d = c ∧ (off = 0x2030 ∨ off = 0x010))
  | .attestationReport d _ => decide (d = c ∧ (off = 0x2040 ∨ off = 0x020))
  | .partitionActivate _ | .partitionDeactivate _ => decide (off = 0x2028)
  | .domainSetQuota _ | .domainPushPage _ | .domainPushSaveBlock _ | .domainSubtractUsed _ => decide (off = 0x4038)
  | .vaultStow _ | .vaultSwap _ _ | .vaultRestore _ => decide (off = 0x4048)
  | .handleSeal _ _ | .handleRevoke _ _ => decide (off = 0x7110)
  | _ => false

/-- BUSY of a per-function register cleared. -/
def idle (m : SMap Command) (c : Caller) : SMap Command := put m (callerKey c) { commandAt m c with busy := false }

/-- A command has done its work (R521): BUSY of its register clears. One whose work is still to come stays busy. -/
def finishCommand (s : State) (c : Caller) (off : Nat) : State :=
  if s.work.any (worksFor c off) then pushWork s (.commandCompletion c off)
  else if off = 0x2000 ∨ off = 0x000 then { s with host := { s.host with qcmd := idle s.host.qcmd c } }
  else if off = 0x2030 ∨ off = 0x010 then { s with host := { s.host with keycmd := idle s.host.keycmd c } }
  else if off = 0x2040 ∨ off = 0x020 then { s with host := { s.host with attcmd := idle s.host.attcmd c } }
  else if off = 0x2028 then { s with host := { s.host with pcmd := { s.host.pcmd with busy := false } } }
  else if off = 0x4038 then { s with sched := { s.sched with dcmd := { s.sched.dcmd with busy := false } } }
  else if off = 0x4048 then
    if vaultWaits s then pushTimer s 1 (.commandCompletion c off)
    else { s with sched := { s.sched with vcmd := { s.sched.vcmd with busy := false } } }
  else if off = 0x7110 then { s with ctl := { s.ctl with ghcmd := { s.ctl.ghcmd with busy := false } } }
  else s

/-! ### Queue commands (R85) -/

/-- A function may name a queue. -/
def mayQueue (s : State) (c : Caller) (q : Nat) : Bool := decide (q < 65536) && mayName s c (fun e => partHasQueue e q)

/-- A field of a word is not zero. -/
def anyBits (w : Word) (hi lo : Nat) : Bool := decide (bitsW w hi lo ≠ 0)

/-- A reserved bit of a descriptor is not zero (R83). -/
def qReserved (s : State) (q : Nat) : Bool :=
  anyBits (qWord s q 0) 58 55 || anyBits (qWord s q 2) 57 55 || anyBits (qWord s q 3) 51 48 || anyBits (qWord s q 3) 44 40
    || anyBits (qWord s q 3) 21 16 || bitW (qWord s q 4) 56 || anyBits (qWord s q 4) 44 43 || anyBits (qWord s q 4) 31 0
    || anyBits (qWord s q 6) 58 55

/-- A descriptor that ENABLE refuses (R85). -/
def qInvalid (s : State) (q : Nat) : Bool :=
  let v := viewQ s q
  qReserved s q || decide (v.logsize < 5) || decide (v.logsize > 24) || decide (v.rbase % 64 ≠ 0) || decide (v.spill % 2048 ≠ 0)
    || decide (v.cwaddr.toNat % 8 ≠ 0) || decide (v.rsbase % 64 ≠ 0)
    || !((List.range 48).any (fun k => (look .reset s.clusters (48 * v.die + k)).released))
    || (v.hostq && v.hfed) || (v.hfed && (decide (v.rlog < 5) || decide (v.rlog > 16)))
    || (!v.hfed && (decide (qWord s q 6 ≠ 0) || decide (qWord s q 7 ≠ 0)))

/-- ENABLE (R85, R93, R114). -/
def enableQueue (s : State) (c : Caller) (q : Nat) : State :=
  if !mayQueue s c q then qcmdStatus s c 1
  else if (viewQ s q).enable then qcmdStatus s c 3
  else if qInvalid s q then qcmdStatus s c 2
  else enlist (qcmdStatus (modKeep (setQ (trimMarks s q) q 4 63 63 1) q (fun k => { k with seq := 0, written := 0 })) c 0) q

/-- DISABLE (R85). -/
def disableQueue (s : State) (c : Caller) (q : Nat) : State :=
  if !mayQueue s c q then qcmdStatus s c 1
  else
    let v := viewQ s q
    if !v.enable then qcmdStatus s c 3
    else
      let t := setQ (if v.mapped then unmapQueue s v.die v.slot else s) q 4 63 63 0
      qcmdStatus { t with host := { t.host with waits := each (fun _ l => removeN l q) t.host.waits } } c 0

/-- UNMAP (R85, R88). -/
def unmapCommand (s : State) (c : Caller) (q : Nat) : State :=
  if !mayQueue s c q then qcmdStatus s c 1
  else
    let v := viewQ s q
    if !v.mapped then qcmdStatus s c 3 else qcmdStatus (unmapQueue s v.die v.slot) c 0

/-- CLEARERR (R85): the queue may be eligible, or its slot may dispatch, again. -/
def clearErr (s : State) (c : Caller) (q : Nat) : State :=
  if !mayQueue s c q then qcmdStatus s c 1
  else
    let v := viewQ s q
    if !v.err then qcmdStatus s c 3
    else
      let t := qcmdStatus (setQ s q 4 60 60 0) c 0
      if v.mapped then pushWork (wantRefill t v.die v.slot) (.dispatchDecision v.die) else enlist t q

/-! ### Notifies (R86 to R89) -/

/-- A notify of a value (R86). -/
def notifyQueue (s : State) (q x : Nat) : State :=
  let v := viewQ s q
  let n := between v.head x
  let c := between v.head v.tail
  if !v.enable then s
  else if v.hostq then (if n ≤ c then pushWork (setHead s q x) (.continuationRetry q) else setErr s q)
  else if !v.hfed then setErr s q
  else if c ≤ n ∧ n ≤ 2 ^ v.logsize then
    if v.mapped then wantRefill (setTail s q x) v.die v.slot
    else enlist (if n > 0 then setQ (setTail s q x) q 4 61 61 1 else setTail s q x) q
  else setErr s q

/-- The queue of a notify page of a function's BAR2 (R79). -/
def pageQueue (s : State) (m : HostMode) (page : Nat) : Option Nat :=
  match m with
  | .pf => if page < 65536 then some page else none
  | .vf p =>
    (match partEntry s p with
    | some e => if page < bitsW (partWord e 0) 47 32 then some (bitsW (partWord e 0) 15 0 + page) else none
    | none => none)
  | _ => none

/-- A write to a notify page. -/
def notifyPage (s : State) (c : Caller) (page off : Nat) (v : Word) : State :=
  match hostMode s c with
  | .noLink => s
  | m =>
    match pageQueue s m page with
    | none => unsupported s c
    | some q => if off ≥ 4096 then unsupported s c else if off = 0 then notifyQueue s q (bitsW v 31 0) else s

/-! ### Partitions (R96) -/

/-- The words of a partition's table entry. -/
def tableEntry (s : State) (p : Nat) : List Word := (List.range 16).map (fun i => word (rawRead s (s.host.ptbase.toNat + 128 * p + 8 * i) 8))

/-- Two ranges, by start and length, have a number in common. -/
def rangesMeet (a n b m : Nat) : Bool := decide (0 < n) && decide (0 < m) && decide (a < b + m) && decide (b < a + n)

/-- An entry overlaps another's queues, domains or key slots. -/
def rangesOverlap (e f : List Word) : Bool :=
  rangesMeet (bitsW (partWord e 0) 15 0) (bitsW (partWord e 0) 47 32) (bitsW (partWord f 0) 15 0) (bitsW (partWord f 0) 47 32)
    || rangesMeet (bitsW (partWord e 1) 11 0) (bitsW (partWord e 1) 28 16) (bitsW (partWord f 1) 11 0) (bitsW (partWord f 1) 28 16)
    || rangesMeet (bitsW (partWord e 2) 9 0) (bitsW (partWord e 2) 26 16) (bitsW (partWord f 2) 9 0) (bitsW (partWord f 2) 26 16)

/-- An entry that ACTIVATE refuses by itself (R95, R96). -/
def entryBad (e : List Word) : Bool :=
  let w (i : Nat) : Word := partWord e i
  let lo := (w 3).toNat
  let hi := (w 4).toNat
  !bitW (w 0) 63 || anyBits (w 0) 62 48 || anyBits (w 0) 31 16 || anyBits (w 1) 63 29 || anyBits (w 1) 15 12
    || anyBits (w 2) 63 27 || anyBits (w 2) 15 10 || anyBits (w 3) 63 40 || anyBits (w 4) 63 40
    || (List.range 5).any (fun i => decide (w (11 + i) ≠ 0))
    || decide (bitsW (w 0) 15 0 + bitsW (w 0) 47 32 > 65536)
    || decide (bitsW (w 1) 28 16 < 1) || decide (bitsW (w 1) 28 16 > 4096) || decide (bitsW (w 1) 11 0 + bitsW (w 1) 28 16 > 4096)
    || decide (bitsW (w 2) 26 16 > 1024) || decide (bitsW (w 2) 9 0 + bitsW (w 2) 26 16 > 1024)
    || decide (lo % 65536 ≠ 0) || decide (hi % 65536 ≠ 0) || decide (hi ≤ lo) || decide (hi > localLimit)
    || (List.range 6).all (fun i => decide (w (5 + i) = 0))

/-- An entry overlaps an active partition: a vault-resident one's clusters do not count (R184). -/
def entryMeets (s : State) (e : List Word) : Bool :=
  s.host.parts.any (fun f => rangesOverlap e f.2.1 || (!f.2.2 && meetClusters e f.2.1))

/-- ACTIVATE (R96). -/
def activate (s : State) (p : Nat) : State :=
  if p ≥ 16 ∨ (partEntry s p).isSome then pcmdStatus s 3
  else
    let e := tableEntry s p
    if entryBad e || entryMeets s e then pcmdStatus s 2
    else (entryClusters e).foldl freed (pcmdStatus { s with host := { s.host with parts := put s.host.parts p (e, false) } } 0)

/-- DEACTIVATE (R96): the context of a partition in the vaults goes with it. -/
def deactivate (s : State) (p : Nat) : State :=
  match partEntry s p with
  | none => pcmdStatus s 3
  | some e =>
    if (List.range (bitsW (partWord e 0) 47 32)).any (fun i => (viewQ s (bitsW (partWord e 0) 15 0 + i)).enable) then pcmdStatus s 4
    else
      (entryClusters e).foldl freed (pcmdStatus
        { s with
          host := { s.host with parts := del s.host.parts p }
          sched := { s.sched with vaults := del s.sched.vaults p } } 0)

/-! ### Keys (R98) -/

/-- A function may name a key slot. -/
def mayKey (s : State) (c : Caller) (k : Nat) : Bool := decide (k < 1024) && mayName s c (fun e => partHasKey e k)

/-- The doublewords of memory that hold anything, by address / 8. -/
def listedWords (s : State) : List Nat := s.mem.foldl (fun l c => if l.contains (c.1 / 8) then l else c.1 / 8 :: l) []

/-- The leaves that map a key slot (R276): those that name it, and those that name none, in a domain whose root entry does. -/
def leavesOf (s : State) (k : Nat) : List StaleLeaf :=
  let doms := (List.range 4096).filter (fun d => bitW (rootEntry s d) 63 && bitW (rootEntry s d) 62 && decide (bitsW (rootEntry s d) 61 52 = k))
  (listedWords s).flatMap (fun a =>
    let w := word (rawRead s (8 * a) 8)
    let r (d : Option Nat) : StaleLeaf := { slot := k, dom := d, at_ := 8 * a, pte := w &&& ~~~0x40 }
    if !bitW w 0 || decide (bitsW w 3 1 = 0) then []
    else if bitW w 7 then (if bitsW w 63 54 = k then [r none] else [])
    else doms.map (fun d => r (some d)))

/-- A slot is erased or loaded anew: the pages that map it read as poison until they are mapped again (R99). -/
def staleSlot (s : State) (k : Nat) : State :=
  match find? s.host.keys k with
  | none => s
  | some _ => { s with host := { s.host with stale := s.host.stale ++ (leavesOf s k).filter (fun r => !s.host.stale.contains r) } }

/-- LOAD: what stands at an address without memory is not stated. -/
def loadKey (r : State) (c : Caller) (k : Nat) : State :=
  if !mayKey r c k then keyStatus r c 1
  else
    let s := staleSlot r k
    let pa := (look 0 s.host.keybuf (callerKey c)).toNat
    if pa + 64 > localLimit then
      let key := (List.range 8).foldl (fun a i => a + (Config.freeWord (s.free + i)).toNat * 2 ^ (64 * i)) 0
      keyStatus { s with free := s.free + 8, host := { s.host with keys := put s.host.keys k (BitVec.ofNat 512 key) } } c 0
    else
      let key := rawRead s pa 64
      keyStatus { rawWrite s pa 64 0 with host := { s.host with keys := put s.host.keys k (BitVec.ofNat 512 key) } } c 0

/-- ERASE: a slot without a key does not change. -/
def eraseKey (s : State) (c : Caller) (k : Nat) : State :=
  if !mayKey s c k then keyStatus s c 1
  else
    match find? s.host.keys k with
    | none => keyStatus s c 3
    | some _ =>
      let t := staleSlot s k
      keyStatus { t with host := { t.host with keys := del t.host.keys k } } c 0

/-! ### Attestation (R100 to R102) -/

/-- A measurement as its 48 bytes. -/
def measBytes (m : BitVec 384) : List Byte := (spread 48 m.toNat).reverse

/-- The digest of a partition's entry in a report; zero for the whole device. -/
def entryDigest (s : State) (p : Nat) : BitVec 384 :=
  match partEntry s p with
  | some e => if p = 0xFF then 0 else sha384 (e.flatMap (fun w => spread 8 w.toNat))
  | none => 0

/-- Bytes 0 to 255 of a report, the nonce as supplied. -/
def reportBody (s : State) (p : Nat) (nonce : List Byte) : List Byte :=
  spread 8 (1 + 3629 * 2 ^ 32) ++ spread 8 Config.serial.toNat ++ spread 8 (readBootst s).toNat ++ spread 8 p ++ nonce
    ++ measBytes s.pkg.meas0 ++ measBytes s.pkg.meas1 ++ measBytes s.pkg.meas2 ++ measBytes (entryDigest s p)

/-- A partition that a function may have a report of. -/
def mayReport (s : State) (c : Caller) (p : Nat) : Bool :=
  if p = 0xFF then decide (c.vf = 0)
  else (partEntry s p).isSome && (decide (c.vf = 0) || decide ((vfMap s c.port c.vf).toNat = 16 + p))

/-- REPORT (R100). -/
def report (s : State) (c : Caller) (p : Nat) : State :=
  if !mayReport s c p then attStatus s c 1
  else
    let pa := (look 0 s.host.attbuf (callerKey c)).toNat
    if pa + 3629 > localLimit then attStatus s c 0
    else
      let body := reportBody s p (listBytes (homeByte s .clear) 32 (pa + 32))
      attStatus (homeWrite s .clear pa
        (body ++ spread 64 (Config.edSignature body).toNat ++ spread 3309 (Config.mlSignature body).toNat)) c 0

/-- A byte of the identity certificate's window (R102). -/
def certByte (i : Nat) : Byte :=
  if i < 8 then nth 0 (spread 8 (1 + 5373 * 2 ^ 32)) i
  else if i < 16 then nth 0 (spread 8 Config.serial.toNat) (i - 8)
  else if i < 5373 then Config.certificate i
  else 0

/-! ### The checkpoint engine (R103 to R105) -/

/-- A doubleword of a descriptor. -/
def ckWord (s : State) (i : Nat) : Word := word (rawRead s (s.host.check.desc.toNat + 8 * i) 8)

/-- A descriptor that stops the engine. -/
def ckInvalid (s : State) : Bool :=
  decide (s.host.check.desc.toNat + 64 > localLimit) || rangeBad s .clear s.host.check.desc.toNat 64
    || anyBits (ckWord s 0) 63 12 || decide ((ckWord s 1).toNat % 65536 ≠ 0) || decide ((ckWord s 2).toNat % 65536 ≠ 0)
    || anyBits (ckWord s 5) 63 2 || decide (ckWord s 7 ≠ 0)

/-- The port of a page or of the status word: by its parity while both ports are up, else the one that is. -/
def ckPort (s : State) (i : Nat) : Nat :=
  if pcieOn s 0 && pcieOn s 1 then i % 2 else if pcieOn s 0 then 0 else 1

/-- Page `i` of the range: its leaf, when it is valid, local, and dirty or asked for. -/
def ckLeaf (s : State) (dom va : Nat) (all : Bool) (i : Nat) : Option (Nat × TlbEntry) :=
  let a := va + 65536 * i
  if a ≥ 2 ^ 55 then none
  else
    match walk s dom a with
    | .error _ => none
    | .ok e => if bitW e.pte 0 && localLeaf s e.pte && (all || bitW e.pte 6) then some (i, e) else none

/-- A leaf's D bit cleared, with a shootdown of its page in the domain. -/
def cleanLeaf (a : State × List Nat) (e : TlbEntry) : State × List Nat :=
  let s := rawWrite a.1 e.at_ 8 (e.pte &&& ~~~(0x40 : Word)).toNat
  let (t, id) := startShoot s (fun x => decide (x.dom = e.dom) && decide (x.base = e.base) && decide (x.level = e.level))
  (t, a.2 ++ [id])

/-- Leaves each once. -/
def distinct : List TlbEntry → List TlbEntry
  | [] => []
  | e :: r => if r.any (fun f => decide (f.at_ = e.at_)) then distinct r else e :: distinct r

/-- The checkpoint engine changed. -/
def modCheck (s : State) (f : Checkpoint → Checkpoint) : State := { s with host := { s.host with check := f s.host.check } }

/-- START (R103, R104): the pages to copy are found and, with CLEAN, their D bits cleared before any of them is copied. -/
def startCheck (s : State) : State :=
  let t := pushTimer s 1 (.checkpointDone none)
  if ckInvalid s then
    modCheck t (fun k => { k with busy := true, err := 2, copied := 0, pages := [], shoots := [], status_at := ckWord s 6 })
  else
    let dom := bitsW (ckWord s 0) 11 0
    let va := (ckWord s 1).toNat
    let l := (List.range ((ckWord s 2).toNat / 65536)).filterMap (ckLeaf s dom va (bitW (ckWord s 5) 1))
    let pages := l.map (fun e => (e.1, (applyLeaf s e.2 (va + 65536 * e.1)).local_, (applyLeaf s e.2 (va + 65536 * e.1)).key))
    let (u, ids) := if bitW (ckWord s 5) 0 then (distinct ((l.map Prod.snd).filter (fun e => bitW e.pte 6))).foldl cleanLeaf (t, []) else (t, [])
    modCheck u (fun k =>
      { k with
        busy := true, err := 0, copied := 0, status_at := ckWord s 6, image := ckWord s 3, bitmap := ckWord s 4, pages := pages
        shoots := ids })

/-- A page's image: zero for its poisoned sectors (R272). -/
def pageImage (s : State) (key : KeySel) (pa : Nat) : List Byte :=
  listBytes (fun a => if homeBad s key a then 0 else homeByte s key a) 65536 pa

/-- One page copied, then its bitmap bit set; poison in it, or else the failure of its write, is the error unless one was met before. -/
def copyPage (failed : Option Nat) (s : State) (e : Nat × Nat × KeySel) : State :=
  let port := ckPort s e.1
  let t := tellHost s (.write port (s.host.check.image + word (65536 * e.1)) (pageImage s e.2.2 e.2.1))
  let u := tellHost t (.bit port s.host.check.bitmap e.1)
  let bad := rangeBad s e.2.2 e.2.1 65536
  modCheck u (fun k =>
    { k with copied := k.copied + 1, err := if k.err ≠ 0 then k.err else if bad then 3 else if failed = some k.copied then 1 else 0 })

/-- The range is complete (R105); `failed` tells which page's write failed first, counted among the pages copied, or beyond them that of
another host write. -/
def endCheck (s : State) (failed : Option Nat) : State :=
  let k := s.host.check
  if !k.busy then s
  else if k.shoots.any (fun i => (find? s.ctl.shoots i).isSome) then pushTimer s 1 (.checkpointDone failed)
  else
    let t := k.pages.foldl (copyPage failed) s
    let err : BitVec 3 := if t.host.check.err = 0 ∧ failed.isSome then 1 else t.host.check.err
    let w := 2 ^ 63 + err.toNat * 2 ^ 60 + t.host.check.copied
    modCheck (tellHost t (.write (ckPort t 0) k.status_at (spread 8 w)))
      (fun x => { x with busy := false, status := err, err := err, pages := [], shoots := [] })

/-! ### Handles (R363 to R365) -/

/-- A domain's root entry of the handle tables. -/
def handleRoot (s : State) (dom : Nat) : Word := word (rawRead s (s.ctl.ghtroot.toNat + 8 * dom) 8)

/-- The local PA of a handle entry; none when its root entry does not reach it. -/
def handleAddr (s : State) (dom idx : Nat) : Option Nat :=
  let r := handleRoot s dom
  if !bitW r 63 || decide (idx > bitsW r 55 40) then none else some (bitsW r 39 6 * 64 + 64 * idx)

/-- A doubleword of the seal request. -/
def sealWordAt (s : State) (i : Nat) : Word := word (rawRead s (s.ctl.gharg.toNat + 8 * i) 8)

/-- Check 1 of SEAL (R364). -/
def requestBad (s : State) (dom : Nat) : Bool :=
  let w (i : Nat) : Word := sealWordAt s i
  !bitW (w 0) 63 || anyBits (w 0) 62 55 || anyBits (w 1) 47 32 || anyBits (w 2) 63 40 || anyBits (w 3) 63 36
    || anyBits (w 4) 62 40 || anyBits (w 4) 31 24 || anyBits (w 4) 15 10 || (List.range 3).any (fun i => decide (w (5 + i) ≠ 0))
    || decide (bitsW (w 1) 63 60 ≠ 1) || decide (bitsW (w 1) 59 48 ≠ dom) || decide (bitsW (w 0) 54 0 % 65536 ≠ 0)
    || decide (bitsW (w 1) 31 0 % 64 ≠ 0) || decide (bitsW (w 1) 31 0 < 64) || decide (bitsW (w 2) 39 32 = 0)
    || decide (bitsW (w 3) 31 0 % 16 ≠ 0) || decide (bitsW (w 4) 39 32 = 0) || decide (bitsW (w 4) 39 32 > 128)
    || decide (bitsW (w 4) 23 16 > 128) || decide (bitsW (w 4) 9 0 % 32 ≠ 0) || decide (bitsW (w 4) 9 0 < 32)
    || decide (bitsW (w 4) 9 0 > 512)

/-- A page of the image whose leaf check 2 accepts: local, executable, readable and not writable. -/
def pageSealed (s : State) (dom va : Nat) : Bool :=
  match walk s dom va with
  | .error _ => false
  | .ok e => bitW e.pte 0 && localLeaf s e.pte && bitW e.pte 1 && bitW e.pte 3 && !bitW e.pte 2

/-- A word of the image through its leaf; none when it is poisoned. -/
def imageWord (s : State) (dom va : Nat) : Option Nat :=
  match walk s dom va with
  | .error _ => none
  | .ok e =>
    let x := applyLeaf s e va
    if rangeBad s x.key x.local_ 4 then none else some (homeRead s x.key x.local_ 4)

/-- A role's word of a layout is in range: the reserved bits zero and, for a present role, its register count (R362). -/
def roleOk (w : Nat) : Bool :=
  decide (bitsN w 31 26 = 0) && decide (bitsN w 15 8 = 0)
    && (decide (bitsN w 7 0 = 0) || (decide (bitsN w 25 16 % 32 = 0) && decide (bitsN w 25 16 ≥ 32) && decide (bitsN w 25 16 ≤ 512)))

/-- The groups that the words of a layout ask for. -/
def layoutGroups (l : List Nat) : Nat := (l.map (fun w => bitsN w 7 0)).sum

/-- Check 3 of SEAL (R364): 0, or the status. -/
def imageStatus (s : State) (dom : Nat) : Nat :=
  let base := bitsW (sealWordAt s 0) 54 0
  let len := bitsW (sealWordAt s 1) 31 0
  let cnt := bitsW (sealWordAt s 2) 39 32
  let off := bitsW (sealWordAt s 2) 31 0
  let nlay := bitsW (sealWordAt s 3) 35 32
  let role := bitsW (sealWordAt s 3) 31 0
  if off + 4 * cnt > len ∨ role + 16 * nlay > len then 2
  else
    let entries := (List.range cnt).map (fun i => imageWord s dom (base + off + 4 * i))
    let layouts := (List.range nlay).map (fun n => (List.range 4).map (fun r => imageWord s dom (base + role + 16 * n + 4 * r)))
    if entries.contains none || layouts.any (fun l => l.contains none) then 4
    else if (entries.filterMap id).any (fun e => decide (e % 4 ≠ 0) || decide (e ≥ len)) then 2
    else if layouts.any (fun l => !(l.filterMap id).all roleOk || decide (layoutGroups (l.filterMap id) > 128)) then 2
    else 0

/-- SEAL (R363, R364). -/
def sealHandle (s : State) (dom idx : Nat) : State :=
  match handleAddr s dom idx with
  | none => ghStatus s 1
  | some a =>
    if bitW (word (rawRead s a 8)) 63 then ghStatus s 3
    else if requestBad s dom then ghStatus s 2
    else
      let base := bitsW (sealWordAt s 0) 54 0
      let len := bitsW (sealWordAt s 1) 31 0
      if !((List.range (ceilDiv len 65536)).all (fun i => pageSealed s dom (base + 65536 * i))) then ghStatus s 4
      else
        let k := imageStatus s dom
        if k ≠ 0 then ghStatus s k
        else ghStatus (rawWrite s a 64 (rawRead s s.ctl.gharg.toNat 64)) 0

/-- REVOKE (R363, R365). -/
def revokeHandle (s : State) (dom idx : Nat) : State :=
  match handleAddr s dom idx with
  | none => ghStatus s 1
  | some a =>
    let w := rawRead s a 8
    if !bitN w 63 then ghStatus s 3 else ghStatus (rawWrite s a 8 (w % 2 ^ 63)) 0

/-! ### Device memory through BAR4 (R79, R276, R315) -/

/-- Bytes written through BAR4, window by window under each one's key; `fuel` bounds the windows. -/
def barPut : Nat → State → Nat → List Byte → State
  | 0, s, _, _ => s
  | fuel + 1, s, pa, bs =>
    match bs with
    | [] => s
    | _ =>
      let n := 65536 - pa % 65536
      barPut fuel (homeWrite s (grantKey s (pa / 65536)) pa (bs.take n)) (pa + n) (bs.drop n)

/-- The local PA behind an offset of a function's BAR4; none beyond its window. -/
def barAddr (s : State) (port : Nat) (m : HostMode) (off len : Nat) : Option Nat :=
  match m with
  | .pf => if off + len ≤ Nat.min localLimit (2 ^ bar4Size s port) then some off else none
  | .vf p =>
    (match partEntry s p with
    | some e => if off + len ≤ (partWord e 4).toNat - (partWord e 3).toNat then some ((partWord e 3).toNat + off) else none
    | none => none)
  | _ => none

/-- Bytes of the recovery window (R32). -/
def windowPut : SMap Byte → Nat → List Byte → SMap Byte
  | m, _, [] => m
  | m, o, b :: r => windowPut (keep 0 m o b) (o + 1) r

/-- A write through BAR4. -/
def barWrite (s : State) (c : Caller) (off : Nat) (bs : List Byte) : State :=
  match hostMode s c with
  | .noLink => s
  | .recovery =>
    if off + bs.length > 0x4000000 then unsupported s c
    else if s.pkg.recBusy then s
    else modPkg s (fun p => { p with window := windowPut p.window off bs })
  | m =>
    match barAddr s c.port m off bs.length with
    | none => unsupported s c
    | some pa => barPut (bs.length / 65536 + 2) s pa bs

/-- A granted window that has not been charged: it reads as zero (R283). -/
def uncharged (s : State) (win : Nat) : Bool := bitW (grantOf s win) 63 && bitW (grantOf s win) 46

/-- A byte behind a local PA as BAR4 reads it, and whether it is poisoned. -/
def barByte (s : State) (pa : Nat) : Byte := if uncharged s (pa / 65536) then 0 else homeByte s (grantKey s (pa / 65536)) pa
def barBad (s : State) (pa : Nat) : Bool := !uncharged s (pa / 65536) && homeBad s (grantKey s (pa / 65536)) pa

/-- A read through BAR4 (R79, R272): a completion with EP set carries no data. -/
def barRead (s : State) (c : Caller) (off len : Nat) : State :=
  match hostMode s c with
  | .noLink => s
  | .recovery =>
    if off + len > 0x4000000 then unsupported s c
    else tellHost s (.data c ((List.range len).map (fun i => look 0 s.pkg.window (off + i))) false)
  | m =>
    match barAddr s c.port m off len with
    | none => unsupported s c
    | some pa =>
      if (List.range len).any (fun i => barBad s (pa + i)) then tellHost s (.data c [] true)
      else tellHost s (.data c (listBytes (barByte s) len pa) false)

/-! ### MSI-X tables (R77, R94) -/

/-- A doubleword of a function's MSI-X table written: of a vector's control only the mask, and a vector no longer masked sends
what pends. -/
def writeMsix (s : State) (c : Caller) (n : Nat) (v : Nat) : State :=
  let fn := 64 * c.port + c.vf
  let w := word (if n % 4 = 3 then v % 2 else v % 2 ^ 32)
  let t := { s with host := { s.host with msixCtl := keep (if n % 4 = 3 then 1 else 0) s.host.msixCtl (fn * 2 ^ 20 + n) w } }
  if n % 4 = 3 ∧ w = 0 ∧ s.host.pba.contains (fn, n / 4) then
    sendMsix { t with host := { t.host with pba := t.host.pba.filter (fun e => decide (e ≠ (fn, n / 4))) } } c.port c.vf (n / 4)
  else t

/-- An 8-byte write to an MSI-X table at an offset of it. -/
def writeMsix8 (s : State) (c : Caller) (o : Nat) (v : Word) : State :=
  writeMsix (writeMsix s c (o / 4) (bitsW v 31 0)) c (o / 4 + 1) (bitsW v 63 32)

/-! ### Registers of both layouts -/

/-- QCMD (R85). -/
def writeQcmd (s : State) (c : Caller) (off : Nat) (v : Word) : State :=
  let k := commandAt s.host.qcmd c
  if k.busy then s
  else
    let op := bitsW v 59 56
    let q := bitsW v 15 0
    let t := { s with host := { s.host with qcmd := put s.host.qcmd (callerKey c) (written k 0xFFFF v (decide (1 ≤ op ∧ op ≤ 4))) } }
    match op with
    | 1 => startCommand t c off (.queueEnable c q)
    | 2 => startCommand t c off (.queueDisable c q)
    | 3 => startCommand t c off (.queueUnmap c q)
    | 4 => startCommand t c off (.queueClearerr c q)
    | _ => t

/-- KEYCMD (R98). -/
def writeKeycmd (s : State) (c : Caller) (off : Nat) (v : Word) : State :=
  let k := commandAt s.host.keycmd c
  if k.busy then s
  else
    let op := bitsW v 59 56
    let t := { s with host := { s.host with keycmd := put s.host.keycmd (callerKey c) (written k 0x3FF v (decide (op = 1 ∨ op = 2))) } }
    match op with
    | 1 => startCommand t c off (.keyLoad c (bitsW v 9 0))
    | 2 => startCommand t c off (.keyErase c (bitsW v 9 0))
    | _ => t

/-- ATTCMD (R100). -/
def writeAttcmd (s : State) (c : Caller) (off : Nat) (v : Word) : State :=
  let k := commandAt s.host.attcmd c
  if k.busy then s
  else
    let op := bitsW v 59 56
    let t := { s with host := { s.host with attcmd := put s.host.attcmd (callerKey c) (written k 0xFF00 v (decide (op = 1))) } }
    if op = 1 then startCommand t c off (.attestationReport c (bitsW v 15 8)) else t

/-- KEYBUF and ATTBUF (R98, R100). -/
def writeKeybuf (s : State) (c : Caller) (v : Word) : State :=
  { s with host := { s.host with keybuf := put s.host.keybuf (callerKey c) (v &&& 0xFFFFFFFFC0) } }
def writeAttbuf (s : State) (c : Caller) (v : Word) : State :=
  { s with host := { s.host with attbuf := put s.host.attbuf (callerKey c) (v &&& 0xFFFFFFF000) } }

/-- A write to a VF's function page (R79); none at an undefined offset. -/
def writeVf (s : State) (c : Caller) (off : Nat) (v : Word) : Option State :=
  if off = 0x000 then some (writeQcmd s c off v)
  else if off = 0x010 then some (writeKeycmd s c off v)
  else if off = 0x018 then some (writeKeybuf s c v)
  else if off = 0x020 then some (writeAttcmd s c off v)
  else if off = 0x028 then some (writeAttbuf s c v)
  else if 0x800 ≤ off ∧ off < 0xC00 then some (writeMsix8 s c (off - 0x800) v)
  else if off = 0xC00 then some s
  else none

/-! ### The management register block -/

/-- Some team is placed, in its cluster or in a vault. -/
def teamPlaced (s : State) : Bool := !s.teams.isEmpty || s.sched.vaults.any (fun x => !x.2.teams.isEmpty)

/-- A team of a partition, or of none, is placed. -/
def teamOfPart (s : State) (p : Nat) : Bool :=
  s.teams.any (fun t => decide (partIndex t.2.part = p)) || s.sched.vaults.any (fun x => x.2.teams.any (fun t => decide (partIndex t.2.part = p)))

/-- Some Yelca port is ACTIVE. -/
def linkActive (s : State) : Bool := s.fab.ports.any (fun p => decide (p.2.state = 5))

/-- Some queue is enabled. -/
def queueEnabled (s : State) : Bool := (List.range 65536).any (fun q => bitW (qWord s q 4) 63)

/-- YLPORTn (R52): MALF bits clear, then ENABLE, RETRAIN and WREQ act. -/
def writePort (s : State) (n : Nat) (v : Word) : State :=
  let t := setEnable (modPort s n (fun p => { p with malf := p.malf &&& ~~~(BitVec.ofNat 8 (bitsW v 63 56)) })) n (bitW v 2)
  let u := if bitW v 1 then enterRetrain t n else t
  requestWidth u n (BitVec.ofNat 2 (bitsW v 4 3))

/-- COMACTL (R65): AGE counts for the buffers that are open too. -/
def writeComactl (s : State) (v : Word) : State :=
  let t := { s with fab := { s.fab with age := BitVec.ofNat 12 (bitsW v 11 0) } }
  let u := t.fab.buffers.foldl (fun x e => pushTimer x (Nat.max 1 (e.2.opened + ageCycles x (rageOf x e.2) - x.cycle)) (.comaAgeLimit e.1)) t
  if bitW v 16 then flushWhere u (fun _ => true) else u

/-- COMAX (R66): ACKTO counts for the tiles that are being assembled too (R57). -/
def writeComax (s : State) (v : Word) : State :=
  let ev := bitsW v 1 0
  let t :=
    { s with
      fab := { s.fab with
        ackto := BitVec.ofNat 12 (bitsW v 27 16), teamcap := BitVec.ofNat 8 (bitsW v 15 8)
        evict := BitVec.ofNat 2 (if ev = 3 then 0 else ev) } }
  t.fab.tiles.foldl (fun u a =>
    pushTimer u (Nat.max 1 (a.since + ackCycles u - u.cycle)) (.tileReassemblyTimeout a.io a.src.toNat a.tag.toNat)) t

/-- The eight bytes of a word. -/
def byteSum (v : Word) : Nat := ((spread 8 v.toNat).map BitVec.toNat).sum

/-- PCMD (R96). -/
def writePcmd (s : State) (c : Caller) (v : Word) : State :=
  if s.host.pcmd.busy then s
  else
    let op := bitsW v 59 56
    let t := { s with host := { s.host with pcmd := written s.host.pcmd 0xF v (decide (op = 1 ∨ op = 2)) } }
    match op with
    | 1 => startCommand t c 0x2028 (.partitionActivate (bitsW v 3 0))
    | 2 => startCommand t c 0x2028 (.partitionDeactivate (bitsW v 3 0))
    | _ => t

/-- CKCMD (R103). -/
def writeCkcmd (s : State) (v : Word) : State :=
  if s.host.check.busy ∨ bitsW v 59 56 ≠ 1 then s else pushWork (modCheck s (fun k => { k with busy := true })) .checkpointStart

/-- SCHCTL (R138) and SCHX (R139), whose DAGE arms the promotion of every head. -/
def writeSchctl (s : State) (v : Word) : State := { s with sched := { s.sched with steal := bitW v 1, evict := bitW v 0 } }
def writeSchx (s : State) (v : Word) : State :=
  let pl := bitsW v 3 2
  let t := { s with
    sched := { s.sched with
      dage := BitVec.ofNat 12 (bitsW v 31 20), claim := BitVec.ofNat 8 (bitsW v 19 12), xsteal := bitW v 4
      place := BitVec.ofNat 2 (if pl = 3 then 0 else pl) } }
  let age (u : State) (e : Nat × QSlot) : State :=
    if u.sched.dage = 0 ∨ e.2.recs = [] then u
    else pushTimer u (Nat.max 1 (e.2.head + 1250 * u.sched.dage.toNat - u.cycle)) (.recordPromotion (e.1 / 256) (e.1 % 256))
  t.host.slots.foldl age t

/-- The pool that BPIDX selects (R169). -/
def selectedPool (s : State) : Pool := poolOf s s.sched.bpidx.toNat
def setSelected (s : State) (p : Pool) : State := nudge (setPool s s.sched.bpidx.toNat p)

/-- DCMD (R180). -/
def writeDcmd (s : State) (c : Caller) (v : Word) : State :=
  if s.sched.dcmd.busy then s
  else
    let op := bitsW v 59 56
    let d := bitsW v 11 0
    let t := { s with sched := { s.sched with dcmd := written s.sched.dcmd 0xFFF v (decide (1 ≤ op ∧ op ≤ 4)) } }
    match op with
    | 1 => startCommand t c 0x4038 (.domainSetQuota d)
    | 2 => startCommand t c 0x4038 (.domainPushPage d)
    | 3 => startCommand t c 0x4038 (.domainPushSaveBlock d)
    | 4 => startCommand t c 0x4038 (.domainSubtractUsed d)
    | _ => t

/-- VCMD (R184). -/
def writeVcmd (s : State) (c : Caller) (v : Word) : State :=
  if s.sched.vcmd.busy then s
  else
    let op := bitsW v 59 56
    let t := { s with sched := { s.sched with vcmd := written s.sched.vcmd 0xFF v (decide (1 ≤ op ∧ op ≤ 3)) } }
    match op with
    | 1 => startCommand t c 0x4048 (.vaultStow (bitsW v 3 0))
    | 2 => startCommand t c 0x4048 (.vaultSwap (bitsW v 3 0) (bitsW v 7 4))
    | 3 => startCommand t c 0x4048 (.vaultRestore (bitsW v 7 4))
    | _ => t

/-- BUDX (R187): above the reset value it stores the reset value, and 0 stores 1. -/
def writeBudx (s : State) (v : Word) : State :=
  let cap (x top : Nat) : Nat := if x = 0 then 1 else Nat.min x top
  { s with
    sched := { s.sched with
      gunits := BitVec.ofNat 12 (cap (bitsW v 27 16) 2048), gtime := BitVec.ofNat 7 (cap (bitsW v 6 0) 125) } }

/-- GRCMD (R249). -/
def writeGrcmd (s : State) (v : Word) : State :=
  if s.ctl.grcmd.busy then s
  else
    let op := bitsW v 59 56
    let t := { s with ctl := { s.ctl with grcmd := written s.ctl.grcmd 0xFFFFFF0000 v (decide (op = 1 ∨ op = 2)) } }
    match op with
    | 1 => pushWork (pushWork t (.grantInvalidateOne (bitsW v 39 16))) .grantInvalidateDone
    | 2 => pushWork (pushWork t .grantInvalidateAll) .grantInvalidateDone
    | _ => t

/-- GHCMD (R363). -/
def writeGhcmd (s : State) (c : Caller) (v : Word) : State :=
  if s.ctl.ghcmd.busy then s
  else
    let op := bitsW v 59 56
    let t := { s with ctl := { s.ctl with ghcmd := written s.ctl.ghcmd 0xFFFFFFF v (decide (op = 1 ∨ op = 2)) } }
    match op with
    | 1 => startCommand t c 0x7110 (.handleSeal (bitsW v 27 16) (bitsW v 15 0))
    | 2 => startCommand t c 0x7110 (.handleRevoke (bitsW v 27 16) (bitsW v 15 0))
    | _ => t

/-- RECCTL (R32): outside recovery a write is ignored. -/
def writeRecctl (s : State) (v : Word) : State :=
  if s.pkg.stage ≠ 0xFF ∨ s.pkg.recBusy then s
  else
    let len := BitVec.ofNat 27 (bitsW v 26 0)
    if bitsW v 59 56 = 1 then startRecovery s len else modPkg s (fun p => { p with recLen := len })

/-- Registers of chapters 01 and 02. -/
def writeLow (s : State) (off : Nat) (v : Word) : Option State :=
  if off = 0x0000 then some s
  else if off = 0x0008 then some (if bitW v 0 then resetWarm s else s)
  else if off = 0x0010 then some (writeRecctl s v)
  else if off = 0x0100 then some (writeThrctl s v)
  else if off = 0x0108 then some (writeThrlim s v)
  else if 0x0200 ≤ off ∧ off < 0x0290 then some s
  else if off = 0x1000 then
    some { s with fab := { s.fab with hopmax := BitVec.ofNat 6 (bitsW v 21 16), id := BitVec.ofNat 12 (bitsW v 11 0) } }
  else if 0x1010 ≤ off ∧ off < 0x1070 then some (writePort s ((off - 0x1010) / 8) v)
  else if off = 0x1080 then some { s with fab := { s.fab with rti := BitVec.ofNat 12 (bitsW v 11 0) } }
  else if off = 0x1088 then some (writeRoute s v)
  else if off = 0x1090 then some { s with fab := { s.fab with mcgi := BitVec.ofNat 12 (bitsW v 11 0) } }
  else if off = 0x1098 then some (writeGroup s v)
  else if off = 0x10A0 then some (writeComactl s v)
  else if off = 0x10A8 then some (writeComax s v)
  else none

/-- Registers of chapter 03. -/
def writeHost (s : State) (c : Caller) (off : Nat) (v : Word) : Option State :=
  if off = 0x2000 then some (writeQcmd s c off v)
  else if off = 0x2008 then some (if queueEnabled s then s else { s with host := { s.host with qtbase := v &&& 0xFFFFC00000 } })
  else if off = 0x2010 then some (if byteSum v > 256 then s else { s with host := { s.host with qshare := v } })
  else if off = 0x2018 then some { s with host := { s.host with ithr := BitVec.ofNat 16 (bitsW v 15 0) } }
  else if off = 0x2020 then some { s with host := { s.host with ptbase := v &&& 0xFFFFFFF800 } }
  else if off = 0x2028 then some (writePcmd s c v)
  else if off = 0x2030 then some (writeKeycmd s c off v)
  else if off = 0x2038 then some (writeKeybuf s c v)
  else if off = 0x2040 then some (writeAttcmd s c off v)
  else if off = 0x2048 then some (writeAttbuf s c v)
  else if off = 0x2050 then some (writeCkcmd s v)
  else if off = 0x2058 then some (modCheck s (fun k => { k with desc := v &&& 0xFFFFFFFFC0 }))
  else if 0x2400 ≤ off ∧ off < 0x27F8 ∧ (off - 0x2400) / 8 % 64 ≠ 63 then
    some { s with host := { s.host with vfmap := keep 0 s.host.vfmap ((off - 0x2400) / 8) (BitVec.ofNat 5 (bitsW v 4 0)) } }
  else none

/-- Registers of chapters 04 to 06. -/
def writeSched (s : State) (c : Caller) (off : Nat) (v : Word) : Option State :=
  if off = 0x3000 then some (writeSchctl s v)
  else if off = 0x3008 then some (writeSchx s v)
  else if 0x3010 ≤ off ∧ off < 0x3050 then
    some (if bitW v 63 then
      { s with sched := { s.sched with faults := upd s.sched.faults ((off - 0x3010) / 8) (fun f => { f with valid := false, ovf := false }) } }
      else s)
  else if off = 0x4000 then some { s with sched := { s.sched with bpidx := BitVec.ofNat 10 (bitsW v 9 0) } }
  else if off = 0x4008 then some (setSelected s { selectedPool s with ib := v })
  else if off = 0x4010 then some (setSelected s { selectedPool s with tb := v })
  else if off = 0x4018 then some (addPool s v)
  else if off = 0x4020 then some (setSelected s { selectedPool s with unm := bitW v 0 })
  else if off = 0x4028 then some (pushWork s (.teamRevoke v))
  else if off = 0x4030 then some { s with sched := { s.sched with dtbase := v &&& 0xFFFFFC0000 } }
  else if off = 0x4038 then some (writeDcmd s c v)
  else if off = 0x4040 then some { s with sched := { s.sched with dcarg := v } }
  else if off = 0x4048 then some (writeVcmd s c v)
  else if off = 0x4050 then some (writeBudx s v)
  else if 0x5000 ≤ off ∧ off < 0x6800 then some s
  else none

/-- Registers of chapters 07, 09, 10 and 13, and the certificate. -/
def writeMem (s : State) (c : Caller) (off : Nat) (v : Word) : Option State :=
  let frozen := teamPlaced s || linkActive s
  if off = 0x7000 then some (if frozen then s else { s with ctl := { s.ctl with trtbase := v &&& 0xFFFFFF8000 } })
  else if off = 0x7008 then some (if frozen then s else { s with ctl := { s.ctl with grtbase := v &&& 0xFFF8000000 } })
  else if off = 0x7010 then some (writeGrcmd s v)
  else if off = 0x7018 then some s
  else if off = 0x7020 then some (if bitW v 63 then { s with ctl := { s.ctl with ueValid := false } } else s)
  else if off = 0x7028 then some { s with ctl := { s.ctl with scrubEn := bitW v 16, scrubHr := BitVec.ofNat 16 (bitsW v 15 0) } }
  else if off = 0x7100 then some (if teamPlaced s then s else { s with ctl := { s.ctl with ghtroot := v &&& 0xFFFFFF8000 } })
  else if off = 0x7110 then some (writeGhcmd s c v)
  else if off = 0x7118 then some { s with ctl := { s.ctl with gharg := v &&& 0xFFFFFFFFC0 } }
  else if off = 0x7200 then some (if frozen then s else { s with ctl := { s.ctl with inbbase := v &&& 0xFFFFE00000 } })
  else if 0x7800 ≤ off ∧ off ≤ 0x7880 then
    some { s with sched := { s.sched with trpvec := put s.sched.trpvec ((off - 0x7800) / 8) (v &&& 0xFFFFFF0000000002) } }
  else if 0x7900 ≤ off ∧ off ≤ 0x7980 then
    some (if teamOfPart s ((off - 0x7900) / 8) then s
      else { s with sched := { s.sched with trpsav := put s.sched.trpsav ((off - 0x7900) / 8) (v &&& 0xFFFFC00000) } })
  else if 0x7A00 ≤ off ∧ off < 0x7A40 then
    some (if bitW v 63 then
      { s with sched := { s.sched with kills := upd s.sched.kills ((off - 0x7A00) / 8) (fun f => { f with valid := false, ovf := false }) } }
      else s)
  else if off = 0x7A40 then some (pushWork s (.killtWrite v))
  else if 0x8000 ≤ off ∧ off < 0xC000 then some s
  else none

/-- A write to the PF's BAR0 (R79); none at an undefined offset. -/
def writePf (s : State) (c : Caller) (off : Nat) (v : Word) : Option State :=
  if 0x100000 ≤ off ∧ off < 0x108000 then some (writeMsix8 s c (off - 0x100000) v)
  else if 0x108000 ≤ off ∧ off < 0x108100 then some s
  else
    match writeLow s off v with
    | some t => some t
    | none =>
      match writeHost s c off v with
      | some t => some t
      | none => match writeSched s c off v with | some t => some t | none => writeMem s c off v

/-- Offsets that answer in recovery (R32). -/
def recoveryOffset (off : Nat) : Bool :=
  [0x0000, 0x0008, 0x0010, 0x0100, 0x0108].contains off || (decide (0x0200 ≤ off) && decide (off < 0x0290))

/-- An 8-byte write to a BAR0 (R79, R80). -/
def writeRegister (s : State) (c : Caller) (off : Nat) (v : Word) : State :=
  let r : Option State :=
    if off % 8 ≠ 0 then none
    else
      match hostMode s c with
      | .pf => writePf s c off v
      | .vf _ => writeVf s c off v
      | .recovery => if recoveryOffset off then writeLow s off v else none
      | _ => none
  if hostMode s c = .noLink then s else match r with | some t => t | none => unsupported s c

/-! ### Registers as read (R9) -/

/-- YLPORTn. -/
def readPort (p : Port) : Word :=
  word (p.malf.toNat * 2 ^ 56 + p.laneok.toNat * 2 ^ 48 + p.cap.toNat * 2 ^ 32 + p.ver.toNat * 2 ^ 28 + p.state.toNat * 2 ^ 24
    + (if p.state = 5 then p.width.toNat else 0) * 2 ^ 16 + p.speed.toNat * 2 ^ 14 + p.wreq.toNat * 2 ^ 3 + (if p.enable then 4 else 0))

/-- A group table entry. -/
def readGroupEntry (e : GroupEntry) : Word :=
  word (e.midx.toNat * 2 ^ 36 + e.parent.toNat * 2 ^ 32 + (if e.valid then 2 ^ 15 else 0) + (if e.local_ then 2 ^ 14 else 0) + e.child.toNat)

/-- CKCMD. -/
def readCkcmd (k : Checkpoint) : Word := word ((if k.busy then 2 ^ 63 else 0) + k.status.toNat * 2 ^ 60)

/-- SCHFLT. -/
def readSchflt (f : SchFault) : Word :=
  word ((if f.valid then 2 ^ 63 else 0) + (if f.ovf then 2 ^ 62 else 0) + f.code.toNat * 2 ^ 48 + f.queue.toNat * 2 ^ 32 + f.seq.toNat)

/-- TKILL. -/
def readTkill (k : KillLog) : Word :=
  word ((if k.valid then 2 ^ 63 else 0) + (if k.ovf then 2 ^ 62 else 0) + k.kcode.toNat * 2 ^ 48 + k.fcode.toNat * 2 ^ 40 + k.team.toNat)

/-- A doubleword of a measurement register. -/
def readMeas (m : BitVec 384) (i : Nat) : Word := word (joinBytes (((measBytes m).drop (8 * i)).take 8))

/-- Registers of chapters 01 and 02 as read. -/
def readLow (s : State) (off : Nat) : Option Word :=
  if off = 0x0000 then some (readBootst s)
  else if off = 0x0008 then some 0
  else if off = 0x0010 then some (readRecctl s.pkg)
  else if off = 0x0100 then some (readThrctl s.pkg)
  else if off = 0x0108 then some (readThrlim s.pkg)
  else if 0x0200 ≤ off ∧ off < 0x0230 then some (readMeas s.pkg.meas0 ((off - 0x0200) / 8))
  else if 0x0230 ≤ off ∧ off < 0x0260 then some (readMeas s.pkg.meas1 ((off - 0x0230) / 8))
  else if 0x0260 ≤ off ∧ off < 0x0290 then some (readMeas s.pkg.meas2 ((off - 0x0260) / 8))
  else if off = 0x1000 then some (word (s.fab.hopmax.toNat * 2 ^ 16 + s.fab.id.toNat))
  else if 0x1010 ≤ off ∧ off < 0x1070 then some (readPort (portOf s ((off - 0x1010) / 8)))
  else if off = 0x1080 then some (s.fab.rti.setWidth 64)
  else if off = 0x1088 then some ((look 0 s.fab.routes s.fab.rti.toNat).setWidth 64)
  else if off = 0x1090 then some (s.fab.mcgi.setWidth 64)
  else if off = 0x1098 then some (readGroupEntry (look .reset s.fab.groups s.fab.mcgi.toNat))
  else if off = 0x10A0 then some (s.fab.age.setWidth 64)
  else if off = 0x10A8 then some (word (s.fab.ackto.toNat * 2 ^ 16 + s.fab.teamcap.toNat * 2 ^ 8 + s.fab.evict.toNat))
  else none

/-- Registers of chapters 03 to 06 as read. -/
def readMiddle (s : State) (c : Caller) (off : Nat) : Option Word :=
  if off = 0x2000 then some (readCommand (commandAt s.host.qcmd c))
  else if off = 0x2008 then some s.host.qtbase
  else if off = 0x2010 then some s.host.qshare
  else if off = 0x2018 then some (s.host.ithr.setWidth 64)
  else if off = 0x2020 then some s.host.ptbase
  else if off = 0x2028 then some (readCommand s.host.pcmd)
  else if off = 0x2030 then some (readCommand (commandAt s.host.keycmd c))
  else if off = 0x2038 then some (look 0 s.host.keybuf (callerKey c))
  else if off = 0x2040 then some (readCommand (commandAt s.host.attcmd c))
  else if off = 0x2048 then some (look 0 s.host.attbuf (callerKey c))
  else if off = 0x2050 then some (readCkcmd s.host.check)
  else if off = 0x2058 then some s.host.check.desc
  else if 0x2400 ≤ off ∧ off < 0x27F8 ∧ (off - 0x2400) / 8 % 64 ≠ 63 then some ((look 0 s.host.vfmap ((off - 0x2400) / 8)).setWidth 64)
  else if off = 0x3000 then some (word ((if s.sched.steal then 2 else 0) + (if s.sched.evict then 1 else 0)))
  else if off = 0x3008 then
    some (word (s.sched.dage.toNat * 2 ^ 20 + s.sched.claim.toNat * 2 ^ 12 + (if s.sched.xsteal then 2 ^ 4 else 0) + s.sched.place.toNat * 2 ^ 2))
  else if 0x3010 ≤ off ∧ off < 0x3050 then some (readSchflt (look .reset s.sched.faults ((off - 0x3010) / 8)))
  else if off = 0x4000 then some (s.sched.bpidx.setWidth 64)
  else if off = 0x4008 then some (selectedPool s).ib
  else if off = 0x4010 then some (selectedPool s).tb
  else if off = 0x4018 ∨ off = 0x4028 then some 0
  else if off = 0x4020 then some (wordB (selectedPool s).unm)
  else if off = 0x4030 then some s.sched.dtbase
  else if off = 0x4038 then some (readCommand s.sched.dcmd)
  else if off = 0x4040 then some s.sched.dcarg
  else if off = 0x4048 then some (readCommand s.sched.vcmd)
  else if off = 0x4050 then some (word (s.sched.gunits.toNat * 2 ^ 16 + s.sched.gtime.toNat))
  else if 0x5000 ≤ off ∧ off < 0x6800 then
    let k := look .reset s.clusters ((off - 0x5000) / 16)
    some (if off % 16 = 0 then word (k.toshr.toNat * 2 ^ 32 + k.toprv.toNat) else word (k.wbsec.toNat * 2 ^ 24 + k.invln.toNat))
  else none

/-- Registers of chapters 07, 09, 10 and 13 and the certificate as read. -/
def readHigh (s : State) (off : Nat) : Option Word :=
  if off = 0x7000 then some s.ctl.trtbase
  else if off = 0x7008 then some s.ctl.grtbase
  else if off = 0x7010 then some (readCommand s.ctl.grcmd)
  else if off = 0x7018 then some (s.ctl.memce.setWidth 64)
  else if off = 0x7020 then
    some (word ((if s.ctl.ueValid then 2 ^ 63 else 0) + s.ctl.ueCount.toNat * 2 ^ 48 + s.ctl.ueSector.toNat * 2 ^ 8))
  else if off = 0x7028 then some (word ((if s.ctl.scrubEn then 2 ^ 16 else 0) + s.ctl.scrubHr.toNat))
  else if off = 0x7100 then some s.ctl.ghtroot
  else if off = 0x7110 then some (readCommand s.ctl.ghcmd)
  else if off = 0x7118 then some s.ctl.gharg
  else if off = 0x7200 then some s.ctl.inbbase
  else if 0x7800 ≤ off ∧ off ≤ 0x7880 then some (look 0 s.sched.trpvec ((off - 0x7800) / 8))
  else if 0x7900 ≤ off ∧ off ≤ 0x7980 then some (look 0 s.sched.trpsav ((off - 0x7900) / 8))
  else if 0x7A00 ≤ off ∧ off < 0x7A40 then some (readTkill (look .reset s.sched.kills ((off - 0x7A00) / 8)))
  else if off = 0x7A40 then some 0
  else if 0x8000 ≤ off ∧ off < 0xC000 then some (word (gather certByte 8 (off - 0x8000)))
  else none

/-- A doubleword of a function's MSI-X table at an offset of it, and of its pending bits. -/
def readMsix8 (s : State) (c : Caller) (o : Nat) : Word :=
  word ((msixWord s (64 * c.port + c.vf) (o / 4)).toNat + (msixWord s (64 * c.port + c.vf) (o / 4 + 1)).toNat * 2 ^ 32)
def readPba (s : State) (c : Caller) (o : Nat) : Word :=
  word (((List.range 64).filter (fun i => s.host.pba.contains (64 * c.port + c.vf, 8 * o + i))).foldl (fun a i => a + 2 ^ i) 0)

/-- An aligned doubleword of the PF's BAR0 as read (R79); none at an undefined offset. -/
def readPf (s : State) (c : Caller) (off : Nat) : Option Word :=
  if 0x100000 ≤ off ∧ off < 0x108000 then some (readMsix8 s c (off - 0x100000))
  else if 0x108000 ≤ off ∧ off < 0x108100 then some (readPba s c (off - 0x108000))
  else
    match readLow s off with
    | some w => some w
    | none => match readMiddle s c off with | some w => some w | none => readHigh s off

/-- An aligned doubleword of a VF's function page as read (R79, R85, R98, R100); none at an undefined offset. -/
def readVf (s : State) (c : Caller) (off : Nat) : Option Word :=
  if off = 0x000 then some (readCommand (commandAt s.host.qcmd c))
  else if off = 0x010 then some (readCommand (commandAt s.host.keycmd c))
  else if off = 0x018 then some (look 0 s.host.keybuf (callerKey c))
  else if off = 0x020 then some (readCommand (commandAt s.host.attcmd c))
  else if off = 0x028 then some (look 0 s.host.attbuf (callerKey c))
  else if 0x800 ≤ off ∧ off < 0xC00 then some (readMsix8 s c (off - 0x800))
  else if off = 0xC00 then some (readPba s c 0)
  else none

/-- An aligned doubleword of a function's BAR0 as read (R32, R79); none where the request is refused (R80). -/
def readRegister (s : State) (c : Caller) (off : Nat) : Option Word :=
  match hostMode s c with
  | .pf => readPf s c off
  | .vf _ => readVf s c off
  | .recovery => if recoveryOffset off then readLow s off else none
  | _ => none

/-! ### Requests by BAR (R79, R80) -/

/-- The place of an access in a function's MSI-X table, which takes aligned accesses of 4 bytes too, and in its pending bits. -/
def msixPlace (s : State) (c : Caller) (off : Nat) : Option Nat :=
  match hostMode s c with
  | .pf => if 0x100000 ≤ off ∧ off < 0x108100 then some (off - 0x100000) else none
  | .vf _ => if 0x800 ≤ off ∧ off < 0xC08 then some (off - 0x800) else none
  | _ => none

/-- A read of BAR0: an aligned doubleword, or a half of one of the MSI-X table and pending bits. -/
def readBar0 (s : State) (c : Caller) (off len : Nat) : State :=
  match readRegister s c (off / 8 * 8) with
  | none => unsupported s c
  | some w =>
    if len = 8 ∧ off % 8 = 0 then tellHost s (.data c (spread 8 w.toNat) false)
    else if len = 4 ∧ off % 4 = 0 ∧ (msixPlace s c off).isSome then
      tellHost s (.data c (spread 4 (w.toNat / 2 ^ (8 * (off % 8)) % 2 ^ 32)) false)
    else unsupported s c

/-- A write to BAR0. -/
def writeBar0 (s : State) (c : Caller) (off : Nat) (bs : List Byte) : State :=
  if bs.length = 8 then writeRegister s c off (word (joinBytes bs))
  else
    match msixPlace s c off with
    | some o =>
      if bs.length = 4 ∧ off % 4 = 0 then
        if o < (if c.vf = 0 then 0x8000 else 0x400) then writeMsix s c (o / 4) (joinBytes bs) else s
      else unsupported s c
    | none => unsupported s c

/-- An access to a notify page: what is no 8-byte write to its offset 0 reads zero, or is ignored (R86). -/
def pageAccess (s : State) (c : Caller) (off : Nat) (answer : State) : State :=
  if (pageQueue s (hostMode s c) (off / 4096)).isSome then answer else unsupported s c

/-- A read by the host (R79, R80). -/
def hostRead (s : State) (c : Caller) (bar off len : Nat) : State :=
  if hostMode s c = .noLink then s
  else if bar = 0 then readBar0 s c off len
  else if bar = 2 then pageAccess s c off (tellHost s (.data c (List.replicate len 0) false))
  else if bar = 4 then barRead s c off len
  else unsupported s c

/-- A write by the host (R79, R80). -/
def hostWrite (s : State) (c : Caller) (bar off : Nat) (bs : List Byte) : State :=
  if hostMode s c = .noLink then s
  else if bar = 0 then writeBar0 s c off bs
  else if bar = 2 then
    if bs.length = 8 ∧ off % 4096 = 0 then notifyPage s c (off / 4096) 0 (word (joinBytes bs)) else pageAccess s c off s
  else if bar = 4 then barWrite s c off bs
  else unsupported s c

/-! ### The events -/

/-- REGISTER_WRITE (R9, R80, R521). -/
def execRegisterWrite (caller : Caller) (off : Nat) (v : Word) (s : State) : Host.Outcome State Fault Refusal :=
  .next (writeRegister s caller off v)

/-- NOTIFY_WRITE (R86). -/
def execNotifyWrite (caller : Caller) (page off : Nat) (v : Word) (s : State) : Host.Outcome State Fault Refusal :=
  .next (notifyPage s caller page off v)

/-- BAR4_WRITE (R315). -/
def execBar4Write (caller : Caller) (off : Nat) (bytes : List Byte) (s : State) : Host.Outcome State Fault Refusal :=
  .next (barWrite s caller off bytes)

/-- BAR4_READ (R79). -/
def execBar4Read (caller : Caller) (off len : Nat) (s : State) : Host.Outcome State Fault Refusal := .next (barRead s caller off len)

/-- QUEUE_ENABLE (R85). -/
def execQueueEnable (caller : Caller) (q : Nat) (s : State) : Host.Outcome State Fault Refusal := .next (enableQueue s caller q)

/-- QUEUE_DISABLE (R85). -/
def execQueueDisable (caller : Caller) (q : Nat) (s : State) : Host.Outcome State Fault Refusal := .next (disableQueue s caller q)

/-- QUEUE_UNMAP (R85). -/
def execQueueUnmap (caller : Caller) (q : Nat) (s : State) : Host.Outcome State Fault Refusal := .next (unmapCommand s caller q)

/-- QUEUE_CLEARERR (R85). -/
def execQueueClearerr (caller : Caller) (q : Nat) (s : State) : Host.Outcome State Fault Refusal := .next (clearErr s caller q)

/-- PARTITION_ACTIVATE (R96). -/
def execPartitionActivate (part : Nat) (s : State) : Host.Outcome State Fault Refusal := .next (activate s part)

/-- PARTITION_DEACTIVATE (R96). -/
def execPartitionDeactivate (part : Nat) (s : State) : Host.Outcome State Fault Refusal := .next (deactivate s part)

/-- KEY_LOAD (R98). -/
def execKeyLoad (caller : Caller) (slot : Nat) (s : State) : Host.Outcome State Fault Refusal := .next (loadKey s caller slot)

/-- KEY_ERASE (R98). -/
def execKeyErase (caller : Caller) (slot : Nat) (s : State) : Host.Outcome State Fault Refusal := .next (eraseKey s caller slot)

/-- ATTESTATION_REPORT (R100). -/
def execAttestationReport (caller : Caller) (part : Nat) (s : State) : Host.Outcome State Fault Refusal := .next (report s caller part)

/-- CHECKPOINT_START (R103). -/
def execCheckpointStart (s : State) : Host.Outcome State Fault Refusal := .next (startCheck s)

/-- CHECKPOINT_DONE (R105). -/
def execCheckpointDone (failed : Option Nat) (s : State) : Host.Outcome State Fault Refusal := .next (endCheck s failed)

/-- HANDLE_SEAL (R364). -/
def execHandleSeal (dom idx : Nat) (s : State) : Host.Outcome State Fault Refusal := .next (sealHandle s dom idx)

/-- HANDLE_REVOKE (R365). -/
def execHandleRevoke (dom idx : Nat) (s : State) : Host.Outcome State Fault Refusal := .next (revokeHandle s dom idx)

/-- COMMAND_COMPLETION (R521). -/
def execCommandCompletion (caller : Caller) (off : Nat) (s : State) : Host.Outcome State Fault Refusal := .next (finishCommand s caller off)

end Sys2Proof.Machine
end

