-- ==== Sys2Proof/Machine/Lanes.lean ====
section
/-!
DEFINITION. Lane operations and group reductions (R433 to R436, R393).
-/

namespace Sys2Proof.Machine

open Sys2Proof

/-- Operand A of an active lane; none when the lane is inactive or outside the group. -/
def laneA (vs : List Vals) (l : Int) : Option Word :=
  (vs.find? (fun v => decide ((v.ln : Int) = l))).map Vals.a

/-- A shuffle: each active lane takes A of the lane it selects, or keeps its own A (R433). -/
def shuffle (pick : Vals → Int) (vs : List Vals) : List (Nat × Nat × Word) :=
  vs.map (fun v => (v.ln, v.pos, match laneA vs (pick v) with | some w => w | none => v.a))

/-- BCAST: A of the lane that B of the lowest active lane names, or A of the lowest active lane (R433). -/
def broadcast (vs : List Vals) : List (Nat × Nat × Word) :=
  match vs with
  | [] => []
  | v0 :: _ =>
    let w := match laneA vs v0.b.toNat with | some x => x | none => v0.a
    vs.map (fun v => (v.ln, v.pos, w))

/-- One value for every active lane. -/
def everyone (w : Word) (vs : List Vals) : List (Nat × Nat × Word) := vs.map (fun v => (v.ln, v.pos, w))

/-- The lanes that vote yes, as bits (R434). -/
def ballot (vs : List Vals) : Nat := (vs.filter (fun v => decide (v.a ≠ 0))).foldl (fun n v => n + 2 ^ v.ln) 0

/-- A over the active lanes combined by an operation, from the lowest lane (R435). -/
def combine (f : Word → Word → Word) (vs : List Vals) : Word :=
  match vs with
  | [] => 0
  | v :: r => r.foldl (fun x y => f x y.a) v.a

/-- One level of the fixed tree of R393: neighbours at distance 2^j add, a lone value passes on. Carries the flags. -/
def treeLevel (mode : Rounding) (a : List (Option Nat) × Nat) : List (Option Nat) × Nat :=
  let n := a.1.length / 2
  (List.range n).foldl (fun r i =>
    match nth none a.1 (2 * i), nth none a.1 (2 * i + 1) with
    | some x, some y =>
      let z := addV fp32 mode (decodeF fp32 x) (decodeF fp32 y)
      (r.1 ++ [some z.1], flagsOr r.2 z.2)
    | some x, none => (r.1 ++ [some x], r.2)
    | none, y => (r.1 ++ [y], r.2)) ([], a.2)

/-- The sum of GRED.FADD.S over lanes 0 to 15 and its flags (R393). -/
def treeSum (mode : Rounding) (vs : List Vals) : Nat × Nat :=
  let start := (List.range 16).map (fun (l : Nat) => (laneA vs (l : Int)).map lo32)
  let r := treeLevel mode (treeLevel mode (treeLevel mode (treeLevel mode (start, 0))))
  match nth none r.1 0 with
  | some x => (x, r.2)
  | none => (0, r.2)

/-- Long-latency results of a lane operation. -/
def issueLanes (s : State) (major f : Nat) (sw : Bool) (o : Operands) (d : RegName)
    (fn : List Vals → List (Nat × Nat × Word)) : Host.Outcome State Fault Refusal :=
  issue s major f sw o (fun _ _ vs => .go (fun t c => writeLaters t c d (fn vs)))

/-- SHFL_IDX (R433). -/
def execShflIdx (sw : Bool) (d a b : RegName) (s : State) :
    Host.Outcome State Fault Refusal :=
  issueLanes s 0x3E 0 sw { dst := some d, a := some a, b := some b } d (shuffle (fun v => v.b.toNat))

/-- SHFL_XOR (R433). -/
def execShflXor (sw : Bool) (d a b : RegName) (s : State) :
    Host.Outcome State Fault Refusal :=
  issueLanes s 0x3E 1 sw { dst := some d, a := some a, b := some b } d (shuffle (fun v => (word v.ln ^^^ v.b).toNat))

/-- SHFL_UP (R433). -/
def execShflUp (sw : Bool) (d a b : RegName) (s : State) :
    Host.Outcome State Fault Refusal :=
  issueLanes s 0x3E 2 sw { dst := some d, a := some a, b := some b } d (shuffle (fun v => (v.ln : Int) - v.b.toNat))

/-- SHFL_DN (R433). -/
def execShflDn (sw : Bool) (d a b : RegName) (s : State) :
    Host.Outcome State Fault Refusal :=
  issueLanes s 0x3E 3 sw { dst := some d, a := some a, b := some b } d (shuffle (fun v => (v.ln : Int) + v.b.toNat))

/-- VOTE_ANY (R434). -/
def execVoteAny (sw : Bool) (d a : RegName) (s : State) :
    Host.Outcome State Fault Refusal :=
  issueLanes s 0x3E 4 sw { dst := some d, a := some a } d (fun vs => everyone (wordB (vs.any (fun v => decide (v.a ≠ 0)))) vs)

/-- VOTE_ALL (R434). -/
def execVoteAll (sw : Bool) (d a : RegName) (s : State) :
    Host.Outcome State Fault Refusal :=
  issueLanes s 0x3E 5 sw { dst := some d, a := some a } d (fun vs => everyone (wordB (vs.all (fun v => decide (v.a ≠ 0)))) vs)

/-- VOTE_BAL (R434). -/
def execVoteBal (sw : Bool) (d a : RegName) (s : State) :
    Host.Outcome State Fault Refusal :=
  issueLanes s 0x3E 6 sw { dst := some d, a := some a } d (fun vs => everyone (word (ballot vs)) vs)

/-- BCAST (R433). -/
def execBcast (sw : Bool) (d a b : RegName) (s : State) :
    Host.Outcome State Fault Refusal :=
  issueLanes s 0x3E 7 sw { dst := some d, a := some a, b := some b } d broadcast

/-- GRED_ADD (R435). -/
def execGredAdd (sw : Bool) (d a : RegName) (s : State) :
    Host.Outcome State Fault Refusal :=
  issueLanes s 0x3F 0 sw { dst := some d, a := some a } d (fun vs => everyone (combine (· + ·) vs) vs)

/-- GRED_MIN_S (R435). -/
def execGredMinS (sw : Bool) (d a : RegName) (s : State) :
    Host.Outcome State Fault Refusal :=
  issueLanes s 0x3F 1 sw { dst := some d, a := some a } d (fun vs => everyone (combine (fun x y => if y.slt x then y else x) vs) vs)

/-- GRED_MAX_S (R435). -/
def execGredMaxS (sw : Bool) (d a : RegName) (s : State) :
    Host.Outcome State Fault Refusal :=
  issueLanes s 0x3F 2 sw { dst := some d, a := some a } d (fun vs => everyone (combine (fun x y => if x.slt y then y else x) vs) vs)

/-- GRED_FADD_S (R393). -/
def execGredFaddS (sw : Bool) (d a : RegName) (s : State) :
    Host.Outcome State Fault Refusal :=
  issue s 0x3F 3 sw { dst := some d, a := some a } (fun _ _ vs => .go (fun t c =>
    let r := treeSum (roundingIn c.st) vs
    raiseFlags (writeLaters t c d (everyone (word r.1) vs)) c.sid r.2))

/-- GRED_AND (R435). -/
def execGredAnd (sw : Bool) (d a : RegName) (s : State) :
    Host.Outcome State Fault Refusal :=
  issueLanes s 0x3F 4 sw { dst := some d, a := some a } d (fun vs => everyone (combine (· &&& ·) vs) vs)

/-- GRED_OR (R435). -/
def execGredOr (sw : Bool) (d a : RegName) (s : State) :
    Host.Outcome State Fault Refusal :=
  issueLanes s 0x3F 5 sw { dst := some d, a := some a } d (fun vs => everyone (combine (· ||| ·) vs) vs)

/-- GRED_XOR (R435). -/
def execGredXor (sw : Bool) (d a : RegName) (s : State) :
    Host.Outcome State Fault Refusal :=
  issueLanes s 0x3F 6 sw { dst := some d, a := some a } d (fun vs => everyone (combine (· ^^^ ·) vs) vs)

/-- GSCAN_ADD (R435). -/
def execGscanAdd (sw : Bool) (d a : RegName) (s : State) :
    Host.Outcome State Fault Refusal :=
  issueLanes s 0x3F 7 sw { dst := some d, a := some a } d (fun vs => vs.map (fun v =>
    (v.ln, v.pos, combine (· + ·) (vs.filter (fun u => decide (u.ln ≤ v.ln))))))

end Sys2Proof.Machine
end

