-- ==== Sys2Proof/Machine/Dispatch.lean ====
section
/-! DEFINITION. Dispatch: one arm per row of the opcode table, each a direct call of its meaning. -/

namespace Sys2Proof.Machine

open Sys2Proof

/-- The meaning of an instruction or event. -/
def exec (i : Instr) (s : State) : Host.Outcome State Fault Refusal :=
  match i with
  | .powerUp => Sys2Proof.Machine.execPowerUp s
  | .inputRemoval => Sys2Proof.Machine.execInputRemoval s
  | .railFault => Sys2Proof.Machine.execRailFault s
  | .warmReset => Sys2Proof.Machine.execWarmReset s
  | .perstNDeassert => Sys2Proof.Machine.execPerstNDeassert s
  | .bringupStepDone edges phyOk boot => Sys2Proof.Machine.execBringupStepDone edges phyOk boot s
  | .pcieTrainingDone port link => Sys2Proof.Machine.execPcieTrainingDone port link s
  | .pcieConfigRequest r => Sys2Proof.Machine.execPcieConfigRequest r s
  | .recoveryRun len => Sys2Proof.Machine.execRecoveryRun len s
  | .recoveryCheckDone raise => Sys2Proof.Machine.execRecoveryCheckDone raise s
  | .thermalSample temps => Sys2Proof.Machine.execThermalSample temps s
  | .powerWindowEnd watts => Sys2Proof.Machine.execPowerWindowEnd watts s
  | .powerLowIntervalEnd => Sys2Proof.Machine.execPowerLowIntervalEnd s
  | .thermalEaseExpiry => Sys2Proof.Machine.execThermalEaseExpiry s
  | .thrctlWrite v => Sys2Proof.Machine.execThrctlWrite v s
  | .thrlimWrite v => Sys2Proof.Machine.execThrlimWrite v s
  | .registerWrite caller off v => Sys2Proof.Machine.execRegisterWrite caller off v s
  | .ylportEnable port en => Sys2Proof.Machine.execYlportEnable port en s
  | .ylportRetrain port => Sys2Proof.Machine.execYlportRetrain port s
  | .ylportWidthRequest port w => Sys2Proof.Machine.execYlportWidthRequest port w s
  | .detectIdleExit port => Sys2Proof.Machine.execDetectIdleExit port s
  | .partnerDetected port lanes bits => Sys2Proof.Machine.execPartnerDetected port lanes bits s
  | .equaliseDone port good224 good112 good56 => Sys2Proof.Machine.execEqualiseDone port good224 good112 good56 s
  | .alignDone port => Sys2Proof.Machine.execAlignDone port s
  | .negotiationDone port minv maxv cap => Sys2Proof.Machine.execNegotiationDone port minv maxv cap s
  | .trainingTimeout port => Sys2Proof.Machine.execTrainingTimeout port s
  | .flitReceive port bytes => Sys2Proof.Machine.execFlitReceive port bytes s
  | .replayTimeout port => Sys2Proof.Machine.execReplayTimeout port s
  | .laneLoss port good => Sys2Proof.Machine.execLaneLoss port good s
  | .widthChangeApply port => Sys2Proof.Machine.execWidthChangeApply port s
  | .egressSend port vc => Sys2Proof.Machine.execEgressSend port vc s
  | .remoteLoadArrival p => Sys2Proof.Machine.execRemoteLoadArrival p s
  | .aggregatedStoreArrival p => Sys2Proof.Machine.execAggregatedStoreArrival p s
  | .aggregatedAtomicArrival p => Sys2Proof.Machine.execAggregatedAtomicArrival p s
  | .tileStoreAddArrival port p => Sys2Proof.Machine.execTileStoreAddArrival port p s
  | .tileReassemblyTimeout io src tag => Sys2Proof.Machine.execTileReassemblyTimeout io src tag s
  | .multicastLineArrival port p => Sys2Proof.Machine.execMulticastLineArrival port p s
  | .multicastChildTimeout group tag port => Sys2Proof.Machine.execMulticastChildTimeout group tag port s
  | .combinedAckArrival port p => Sys2Proof.Machine.execCombinedAckArrival port p s
  | .inboxAppendArrival p => Sys2Proof.Machine.execInboxAppendArrival p s
  | .loadReplyArrival p => Sys2Proof.Machine.execLoadReplyArrival p s
  | .elementAckArrival p => Sys2Proof.Machine.execElementAckArrival p s
  | .inboxAckArrival p => Sys2Proof.Machine.execInboxAckArrival p s
  | .ackTimeout tag => Sys2Proof.Machine.execAckTimeout tag s
  | .rldTimeout tag => Sys2Proof.Machine.execRldTimeout tag s
  | .comaAgeLimit buffer => Sys2Proof.Machine.execComaAgeLimit buffer s
  | .comaDrain => Sys2Proof.Machine.execComaDrain s
  | .routingEntryWrite v => Sys2Proof.Machine.execRoutingEntryWrite v s
  | .groupTableEntryWrite v => Sys2Proof.Machine.execGroupTableEntryWrite v s
  | .notifyWrite caller page off v => Sys2Proof.Machine.execNotifyWrite caller page off v s
  | .bar4Write caller off bytes => Sys2Proof.Machine.execBar4Write caller off bytes s
  | .bar4Read caller off len => Sys2Proof.Machine.execBar4Read caller off len s
  | .queueEnable caller q => Sys2Proof.Machine.execQueueEnable caller q s
  | .queueDisable caller q => Sys2Proof.Machine.execQueueDisable caller q s
  | .queueUnmap caller q => Sys2Proof.Machine.execQueueUnmap caller q s
  | .queueClearerr caller q => Sys2Proof.Machine.execQueueClearerr caller q s
  | .queueMap die => Sys2Proof.Machine.execQueueMap die s
  | .idleUnmap die slot => Sys2Proof.Machine.execIdleUnmap die slot s
  | .quantumEnd die slot => Sys2Proof.Machine.execQuantumEnd die slot s
  | .msixIntervalEnd caller vector => Sys2Proof.Machine.execMsixIntervalEnd caller vector s
  | .partitionActivate part => Sys2Proof.Machine.execPartitionActivate part s
  | .partitionDeactivate part => Sys2Proof.Machine.execPartitionDeactivate part s
  | .keyLoad caller slot => Sys2Proof.Machine.execKeyLoad caller slot s
  | .keyErase caller slot => Sys2Proof.Machine.execKeyErase caller slot s
  | .attestationReport caller part => Sys2Proof.Machine.execAttestationReport caller part s
  | .checkpointStart => Sys2Proof.Machine.execCheckpointStart s
  | .checkpointDone failed => Sys2Proof.Machine.execCheckpointDone failed s
  | .recordArrival r => Sys2Proof.Machine.execRecordArrival r s
  | .refillStart die slot => Sys2Proof.Machine.execRefillStart die slot s
  | .refillLand die slot => Sys2Proof.Machine.execRefillLand die slot s
  | .continuationRetry q => Sys2Proof.Machine.execContinuationRetry q s
  | .dispatchDecision die => Sys2Proof.Machine.execDispatchDecision die s
  | .teamStart team => Sys2Proof.Machine.execTeamStart team s
  | .recordPromotion die slot => Sys2Proof.Machine.execRecordPromotion die slot s
  | .clusterClaim die slot => Sys2Proof.Machine.execClusterClaim die slot s
  | .dequePop cluster => Sys2Proof.Machine.execDequePop cluster s
  | .dequeSteal cluster => Sys2Proof.Machine.execDequeSteal cluster s
  | .gridNodeReport grid cluster => Sys2Proof.Machine.execGridNodeReport grid cluster s
  | .graceExpiry team => Sys2Proof.Machine.execGraceExpiry team s
  | .teamYield team => Sys2Proof.Machine.execTeamYield team s
  | .teamRevoke v => Sys2Proof.Machine.execTeamRevoke v s
  | .poolAdd v => Sys2Proof.Machine.execPoolAdd v s
  | .domainSetQuota dom => Sys2Proof.Machine.execDomainSetQuota dom s
  | .domainPushPage dom => Sys2Proof.Machine.execDomainPushPage dom s
  | .domainPushSaveBlock dom => Sys2Proof.Machine.execDomainPushSaveBlock dom s
  | .domainSubtractUsed dom => Sys2Proof.Machine.execDomainSubtractUsed dom s
  | .vaultStow out => Sys2Proof.Machine.execVaultStow out s
  | .vaultSwap out inn => Sys2Proof.Machine.execVaultSwap out inn s
  | .vaultRestore inn => Sys2Proof.Machine.execVaultRestore inn s
  | .fuseTimeout id => Sys2Proof.Machine.execFuseTimeout id s
  | .fuseRendezvousComplete id => Sys2Proof.Machine.execFuseRendezvousComplete id s
  | .automaticSplit stream => Sys2Proof.Machine.execAutomaticSplit stream s
  | .implicitRejoin group => Sys2Proof.Machine.execImplicitRejoin group s
  | .rejoinTimeout group => Sys2Proof.Machine.execRejoinTimeout group s
  | .roleQueueRetry stream => Sys2Proof.Machine.execRoleQueueRetry stream s
  | .resultWriteback stream seq => Sys2Proof.Machine.execResultWriteback stream seq s
  | .pageWalkDone tlb dom va => Sys2Proof.Machine.execPageWalkDone tlb dom va s
  | .grantInvalidateOne win => Sys2Proof.Machine.execGrantInvalidateOne win s
  | .grantInvalidateAll => Sys2Proof.Machine.execGrantInvalidateAll s
  | .grantInvalidateDone => Sys2Proof.Machine.execGrantInvalidateDone s
  | .shootdownDone id => Sys2Proof.Machine.execShootdownDone id s
  | .patrolScrub sector outcome => Sys2Proof.Machine.execPatrolScrub sector outcome s
  | .reservationGrant line => Sys2Proof.Machine.execReservationGrant line s
  | .reservationTimeout line owner => Sys2Proof.Machine.execReservationTimeout line owner s
  | .waitaWake stream seq => Sys2Proof.Machine.execWaitaWake stream seq s
  | .waitaTimeout stream seq => Sys2Proof.Machine.execWaitaTimeout stream seq s
  | .ldsLanded id => Sys2Proof.Machine.execLdsLanded id s
  | .tileTransferDone id => Sys2Proof.Machine.execTileTransferDone id s
  | .engineRoutineStart hart => Sys2Proof.Machine.execEngineRoutineStart hart s
  | .tmmaEngineStep stream => Sys2Proof.Machine.execTmmaEngineStep stream s
  | .tileClaimRetry stream => Sys2Proof.Machine.execTileClaimRetry stream s
  | .lateFaultDelivery stream => Sys2Proof.Machine.execLateFaultDelivery stream s
  | .killtWrite v => Sys2Proof.Machine.execKilltWrite v s
  | .handleSeal dom idx => Sys2Proof.Machine.execHandleSeal dom idx s
  | .handleRevoke dom idx => Sys2Proof.Machine.execHandleRevoke dom idx s
  | .msgrecvTimeout stream seq => Sys2Proof.Machine.execMsgrecvTimeout stream seq s
  | .commandCompletion caller off => Sys2Proof.Machine.execCommandCompletion caller off s
  | .add sw d a b => Sys2Proof.Machine.execAdd sw d a b s
  | .sub sw d a b => Sys2Proof.Machine.execSub sw d a b s
  | .minS sw d a b => Sys2Proof.Machine.execMinS sw d a b s
  | .maxS sw d a b => Sys2Proof.Machine.execMaxS sw d a b s
  | .minN sw d a b => Sys2Proof.Machine.execMinN sw d a b s
  | .maxN sw d a b => Sys2Proof.Machine.execMaxN sw d a b s
  | .addsS sw d a b => Sys2Proof.Machine.execAddsS sw d a b s
  | .subsS sw d a b => Sys2Proof.Machine.execSubsS sw d a b s
  | .mul sw d a b => Sys2Proof.Machine.execMul sw d a b s
  | .mulhS sw d a b => Sys2Proof.Machine.execMulhS sw d a b s
  | .mulhN sw d a b => Sys2Proof.Machine.execMulhN sw d a b s
  | .mac sw d a b => Sys2Proof.Machine.execMac sw d a b s
  | .divS sw d a b => Sys2Proof.Machine.execDivS sw d a b s
  | .divN sw d a b => Sys2Proof.Machine.execDivN sw d a b s
  | .remS sw d a b => Sys2Proof.Machine.execRemS sw d a b s
  | .remN sw d a b => Sys2Proof.Machine.execRemN sw d a b s
  | .and sw d a b => Sys2Proof.Machine.execAnd sw d a b s
  | .or sw d a b => Sys2Proof.Machine.execOr sw d a b s
  | .xor sw d a b => Sys2Proof.Machine.execXor sw d a b s
  | .andn sw d a b => Sys2Proof.Machine.execAndn sw d a b s
  | .orn sw d a b => Sys2Proof.Machine.execOrn sw d a b s
  | .xnor sw d a b => Sys2Proof.Machine.execXnor sw d a b s
  | .bsel sw d a b => Sys2Proof.Machine.execBsel sw d a b s
  | .shl sw d a b => Sys2Proof.Machine.execShl sw d a b s
  | .shr sw d a b => Sys2Proof.Machine.execShr sw d a b s
  | .sar sw d a b => Sys2Proof.Machine.execSar sw d a b s
  | .rol sw d a b => Sys2Proof.Machine.execRol sw d a b s
  | .ror sw d a b => Sys2Proof.Machine.execRor sw d a b s
  | .clz sw d a => Sys2Proof.Machine.execClz sw d a s
  | .ctz sw d a => Sys2Proof.Machine.execCtz sw d a s
  | .popc sw d a => Sys2Proof.Machine.execPopc sw d a s
  | .brev sw d a => Sys2Proof.Machine.execBrev sw d a s
  | .bswap sw d a => Sys2Proof.Machine.execBswap sw d a s
  | .sext sw d a b => Sys2Proof.Machine.execSext sw d a b s
  | .zext sw d a b => Sys2Proof.Machine.execZext sw d a b s
  | .cmpEq sw d a b => Sys2Proof.Machine.execCmpEq sw d a b s
  | .cmpNe sw d a b => Sys2Proof.Machine.execCmpNe sw d a b s
  | .cmpLtS sw d a b => Sys2Proof.Machine.execCmpLtS sw d a b s
  | .cmpLeS sw d a b => Sys2Proof.Machine.execCmpLeS sw d a b s
  | .cmpLtN sw d a b => Sys2Proof.Machine.execCmpLtN sw d a b s
  | .cmpLeN sw d a b => Sys2Proof.Machine.execCmpLeN sw d a b s
  | .cmpTst sw d a b => Sys2Proof.Machine.execCmpTst sw d a b s
  | .csel sw d a b => Sys2Proof.Machine.execCsel sw d a b s
  | .addw sw d a b => Sys2Proof.Machine.execAddw sw d a b s
  | .subw sw d a b => Sys2Proof.Machine.execSubw sw d a b s
  | .mulw sw d a b => Sys2Proof.Machine.execMulw sw d a b s
  | .shlw sw d a b => Sys2Proof.Machine.execShlw sw d a b s
  | .shrw sw d a b => Sys2Proof.Machine.execShrw sw d a b s
  | .sarw sw d a b => Sys2Proof.Machine.execSarw sw d a b s
  | .addi sw d a imm => Sys2Proof.Machine.execAddi sw d a imm s
  | .andi sw d a imm => Sys2Proof.Machine.execAndi sw d a imm s
  | .ori sw d a imm => Sys2Proof.Machine.execOri sw d a imm s
  | .xori sw d a imm => Sys2Proof.Machine.execXori sw d a imm s
  | .shli sw d a n => Sys2Proof.Machine.execShli sw d a n s
  | .shri sw d a n => Sys2Proof.Machine.execShri sw d a n s
  | .sari sw d a n => Sys2Proof.Machine.execSari sw d a n s
  | .roli sw d a n => Sys2Proof.Machine.execRoli sw d a n s
  | .rori sw d a n => Sys2Proof.Machine.execRori sw d a n s
  | .cmpiEq sw d a imm => Sys2Proof.Machine.execCmpiEq sw d a imm s
  | .cmpiNe sw d a imm => Sys2Proof.Machine.execCmpiNe sw d a imm s
  | .cmpiLtS sw d a imm => Sys2Proof.Machine.execCmpiLtS sw d a imm s
  | .cmpiLeS sw d a imm => Sys2Proof.Machine.execCmpiLeS sw d a imm s
  | .cmpiLtN sw d a imm => Sys2Proof.Machine.execCmpiLtN sw d a imm s
  | .cmpiLeN sw d a imm => Sys2Proof.Machine.execCmpiLeN sw d a imm s
  | .cmpiTst sw d a imm => Sys2Proof.Machine.execCmpiTst sw d a imm s
  | .li sw d imm => Sys2Proof.Machine.execLi sw d imm s
  | .lix sw d imm => Sys2Proof.Machine.execLix sw d imm s
  | .addpc sw d imm => Sys2Proof.Machine.execAddpc sw d imm s
  | .lea1 sw d a b => Sys2Proof.Machine.execLea1 sw d a b s
  | .lea2 sw d a b => Sys2Proof.Machine.execLea2 sw d a b s
  | .lea4 sw d a b => Sys2Proof.Machine.execLea4 sw d a b s
  | .lea8 sw d a b => Sys2Proof.Machine.execLea8 sw d a b s
  | .lea16 sw d a b => Sys2Proof.Machine.execLea16 sw d a b s
  | .paddB sw d a b => Sys2Proof.Machine.execPaddB sw d a b s
  | .paddH sw d a b => Sys2Proof.Machine.execPaddH sw d a b s
  | .paddW sw d a b => Sys2Proof.Machine.execPaddW sw d a b s
  | .psubB sw d a b => Sys2Proof.Machine.execPsubB sw d a b s
  | .psubH sw d a b => Sys2Proof.Machine.execPsubH sw d a b s
  | .psubW sw d a b => Sys2Proof.Machine.execPsubW sw d a b s
  | .paddsB sw d a b => Sys2Proof.Machine.execPaddsB sw d a b s
  | .paddsH sw d a b => Sys2Proof.Machine.execPaddsH sw d a b s
  | .pmulH sw d a b => Sys2Proof.Machine.execPmulH sw d a b s
  | .pmulW sw d a b => Sys2Proof.Machine.execPmulW sw d a b s
  | .pdotBS sw d a b => Sys2Proof.Machine.execPdotBS sw d a b s
  | .pdotBN sw d a b => Sys2Proof.Machine.execPdotBN sw d a b s
  | .pdotHS sw d a b => Sys2Proof.Machine.execPdotHS sw d a b s
  | .pmaxHS sw d a b => Sys2Proof.Machine.execPmaxHS sw d a b s
  | .pminHS sw d a b => Sys2Proof.Machine.execPminHS sw d a b s
  | .packlo sw d a b => Sys2Proof.Machine.execPacklo sw d a b s
  | .packhi sw d a b => Sys2Proof.Machine.execPackhi sw d a b s
  | .shufb sw d a b => Sys2Proof.Machine.execShufb sw d a b s
  | .faddS sw d a b => Sys2Proof.Machine.execFaddS sw d a b s
  | .fsubS sw d a b => Sys2Proof.Machine.execFsubS sw d a b s
  | .fmulS sw d a b => Sys2Proof.Machine.execFmulS sw d a b s
  | .fdivS sw d a b => Sys2Proof.Machine.execFdivS sw d a b s
  | .fminS sw d a b => Sys2Proof.Machine.execFminS sw d a b s
  | .fmaxS sw d a b => Sys2Proof.Machine.execFmaxS sw d a b s
  | .fabsS sw d a => Sys2Proof.Machine.execFabsS sw d a s
  | .fnegS sw d a => Sys2Proof.Machine.execFnegS sw d a s
  | .fmaS sw d a b => Sys2Proof.Machine.execFmaS sw d a b s
  | .fmsS sw d a b => Sys2Proof.Machine.execFmsS sw d a b s
  | .fnmaS sw d a b => Sys2Proof.Machine.execFnmaS sw d a b s
  | .fmaD sw d a b => Sys2Proof.Machine.execFmaD sw d a b s
  | .fmsD sw d a b => Sys2Proof.Machine.execFmsD sw d a b s
  | .fnmaD sw d a b => Sys2Proof.Machine.execFnmaD sw d a b s
  | .faddD sw d a b => Sys2Proof.Machine.execFaddD sw d a b s
  | .fsubD sw d a b => Sys2Proof.Machine.execFsubD sw d a b s
  | .fmulD sw d a b => Sys2Proof.Machine.execFmulD sw d a b s
  | .fdivD sw d a b => Sys2Proof.Machine.execFdivD sw d a b s
  | .fminD sw d a b => Sys2Proof.Machine.execFminD sw d a b s
  | .fmaxD sw d a b => Sys2Proof.Machine.execFmaxD sw d a b s
  | .fabsD sw d a => Sys2Proof.Machine.execFabsD sw d a s
  | .fnegD sw d a => Sys2Proof.Machine.execFnegD sw d a s
  | .fadd2s sw d a b => Sys2Proof.Machine.execFadd2s sw d a b s
  | .fsub2s sw d a b => Sys2Proof.Machine.execFsub2s sw d a b s
  | .fmul2s sw d a b => Sys2Proof.Machine.execFmul2s sw d a b s
  | .fma2s sw d a b => Sys2Proof.Machine.execFma2s sw d a b s
  | .fadd4h sw d a b => Sys2Proof.Machine.execFadd4h sw d a b s
  | .fmul4h sw d a b => Sys2Proof.Machine.execFmul4h sw d a b s
  | .fma4h sw d a b => Sys2Proof.Machine.execFma4h sw d a b s
  | .fma4b sw d a b => Sys2Proof.Machine.execFma4b sw d a b s
  | .feqS sw d a b => Sys2Proof.Machine.execFeqS sw d a b s
  | .fltS sw d a b => Sys2Proof.Machine.execFltS sw d a b s
  | .fleS sw d a b => Sys2Proof.Machine.execFleS sw d a b s
  | .funS sw d a b => Sys2Proof.Machine.execFunS sw d a b s
  | .feqD sw d a b => Sys2Proof.Machine.execFeqD sw d a b s
  | .fltD sw d a b => Sys2Proof.Machine.execFltD sw d a b s
  | .fleD sw d a b => Sys2Proof.Machine.execFleD sw d a b s
  | .fclass sw d a => Sys2Proof.Machine.execFclass sw d a s
  | .frcpS sw d a => Sys2Proof.Machine.execFrcpS sw d a s
  | .frsqS sw d a => Sys2Proof.Machine.execFrsqS sw d a s
  | .fsqrtS sw d a => Sys2Proof.Machine.execFsqrtS sw d a s
  | .fexp2S sw d a => Sys2Proof.Machine.execFexp2S sw d a s
  | .flog2S sw d a => Sys2Proof.Machine.execFlog2S sw d a s
  | .fsinpiS sw d a => Sys2Proof.Machine.execFsinpiS sw d a s
  | .fcospiS sw d a => Sys2Proof.Machine.execFcospiS sw d a s
  | .ftanhS sw d a => Sys2Proof.Machine.execFtanhS sw d a s
  | .fcvt sw d a conv rm => Sys2Proof.Machine.execFcvt sw d a conv rm s
  | .fsgnjS sw d a b => Sys2Proof.Machine.execFsgnjS sw d a b s
  | .fsgnjnS sw d a b => Sys2Proof.Machine.execFsgnjnS sw d a b s
  | .fsgnjxS sw d a b => Sys2Proof.Machine.execFsgnjxS sw d a b s
  | .frintS sw d a => Sys2Proof.Machine.execFrintS sw d a s
  | .frintD sw d a => Sys2Proof.Machine.execFrintD sw d a s
  | .fsqrtD sw d a => Sys2Proof.Machine.execFsqrtD sw d a s
  | .fscaleS sw d a b => Sys2Proof.Machine.execFscaleS sw d a b s
  | .bnz sw a off => Sys2Proof.Machine.execBnz sw a off s
  | .bz sw a off => Sys2Proof.Machine.execBz sw a off s
  | .jmp sw off => Sys2Proof.Machine.execJmp sw off s
  | .call sw off => Sys2Proof.Machine.execCall sw off s
  | .jr sw a => Sys2Proof.Machine.execJr sw a s
  | .jalr sw d a => Sys2Proof.Machine.execJalr sw d a s
  | .ifOp sw a off => Sys2Proof.Machine.execIfOp sw a off s
  | .elseOp sw off => Sys2Proof.Machine.execElseOp sw off s
  | .endif sw => Sys2Proof.Machine.execEndif sw s
  | .loop sw a off => Sys2Proof.Machine.execLoop sw a off s
  | .endloop sw => Sys2Proof.Machine.execEndloop sw s
  | .brk sw => Sys2Proof.Machine.execBrk sw s
  | .cont sw => Sys2Proof.Machine.execCont sw s
  | .idem sw => Sys2Proof.Machine.execIdem sw s
  | .fuse sw d a imm => Sys2Proof.Machine.execFuse sw d a imm s
  | .split sw d => Sys2Proof.Machine.execSplit sw d s
  | .rejoin sw d a => Sys2Proof.Machine.execRejoin sw d a s
  | .wbase sw n => Sys2Proof.Machine.execWbase sw n s
  | .shflIdx sw d a b => Sys2Proof.Machine.execShflIdx sw d a b s
  | .shflXor sw d a b => Sys2Proof.Machine.execShflXor sw d a b s
  | .shflUp sw d a b => Sys2Proof.Machine.execShflUp sw d a b s
  | .shflDn sw d a b => Sys2Proof.Machine.execShflDn sw d a b s
  | .voteAny sw d a => Sys2Proof.Machine.execVoteAny sw d a s
  | .voteAll sw d a => Sys2Proof.Machine.execVoteAll sw d a s
  | .voteBal sw d a => Sys2Proof.Machine.execVoteBal sw d a s
  | .bcast sw d a b => Sys2Proof.Machine.execBcast sw d a b s
  | .gredAdd sw d a => Sys2Proof.Machine.execGredAdd sw d a s
  | .gredMinS sw d a => Sys2Proof.Machine.execGredMinS sw d a s
  | .gredMaxS sw d a => Sys2Proof.Machine.execGredMaxS sw d a s
  | .gredFaddS sw d a => Sys2Proof.Machine.execGredFaddS sw d a s
  | .gredAnd sw d a => Sys2Proof.Machine.execGredAnd sw d a s
  | .gredOr sw d a => Sys2Proof.Machine.execGredOr sw d a s
  | .gredXor sw d a => Sys2Proof.Machine.execGredXor sw d a s
  | .gscanAdd sw d a => Sys2Proof.Machine.execGscanAdd sw d a s
  | .ldBS sw d base off => Sys2Proof.Machine.execLdBS sw d base off s
  | .ldBN sw d base off => Sys2Proof.Machine.execLdBN sw d base off s
  | .ldHS sw d base off => Sys2Proof.Machine.execLdHS sw d base off s
  | .ldHN sw d base off => Sys2Proof.Machine.execLdHN sw d base off s
  | .ldWS sw d base off => Sys2Proof.Machine.execLdWS sw d base off s
  | .ldWN sw d base off => Sys2Proof.Machine.execLdWN sw d base off s
  | .ldD sw d base off => Sys2Proof.Machine.execLdD sw d base off s
  | .stB sw d base off => Sys2Proof.Machine.execStB sw d base off s
  | .stH sw d base off => Sys2Proof.Machine.execStH sw d base off s
  | .stW sw d base off => Sys2Proof.Machine.execStW sw d base off s
  | .stD sw d base off => Sys2Proof.Machine.execStD sw d base off s
  | .ldDX sw d a b => Sys2Proof.Machine.execLdDX sw d a b s
  | .ldWX sw d a b => Sys2Proof.Machine.execLdWX sw d a b s
  | .stDX sw d a b => Sys2Proof.Machine.execStDX sw d a b s
  | .stWX sw d a b => Sys2Proof.Machine.execStWX sw d a b s
  | .ldDAcq sw d a sc => Sys2Proof.Machine.execLdDAcq sw d a sc s
  | .stDRel sw d a sc => Sys2Proof.Machine.execStDRel sw d a sc s
  | .ldWAcq sw d a sc => Sys2Proof.Machine.execLdWAcq sw d a sc s
  | .stWRel sw d a sc => Sys2Proof.Machine.execStWRel sw d a sc s
  | .sldW sw d base off => Sys2Proof.Machine.execSldW sw d base off s
  | .sldD sw d base off => Sys2Proof.Machine.execSldD sw d base off s
  | .sstW sw d base off => Sys2Proof.Machine.execSstW sw d base off s
  | .sstD sw d base off => Sys2Proof.Machine.execSstD sw d base off s
  | .lds256 sw d a bar => Sys2Proof.Machine.execLds256 sw d a bar s
  | .lds1k sw d a bar => Sys2Proof.Machine.execLds1k sw d a bar s
  | .lds4k sw d a bar => Sys2Proof.Machine.execLds4k sw d a bar s
  | .lds16k sw d a bar => Sys2Proof.Machine.execLds16k sw d a bar s
  | .amoAddD sw d a b => Sys2Proof.Machine.execAmoAddD sw d a b s
  | .amoAndD sw d a b => Sys2Proof.Machine.execAmoAndD sw d a b s
  | .amoOrD sw d a b => Sys2Proof.Machine.execAmoOrD sw d a b s
  | .amoXorD sw d a b => Sys2Proof.Machine.execAmoXorD sw d a b s
  | .amoMinSD sw d a b => Sys2Proof.Machine.execAmoMinSD sw d a b s
  | .amoMaxSD sw d a b => Sys2Proof.Machine.execAmoMaxSD sw d a b s
  | .amoFaddD sw d a b => Sys2Proof.Machine.execAmoFaddD sw d a b s
  | .amoSwapD sw d a b => Sys2Proof.Machine.execAmoSwapD sw d a b s
  | .amoAddW sw d a b => Sys2Proof.Machine.execAmoAddW sw d a b s
  | .amoAndW sw d a b => Sys2Proof.Machine.execAmoAndW sw d a b s
  | .amoOrW sw d a b => Sys2Proof.Machine.execAmoOrW sw d a b s
  | .amoXorW sw d a b => Sys2Proof.Machine.execAmoXorW sw d a b s
  | .amoMinSW sw d a b => Sys2Proof.Machine.execAmoMinSW sw d a b s
  | .amoMaxSW sw d a b => Sys2Proof.Machine.execAmoMaxSW sw d a b s
  | .amoFaddS sw d a b => Sys2Proof.Machine.execAmoFaddS sw d a b s
  | .amoSwapW sw d a b => Sys2Proof.Machine.execAmoSwapW sw d a b s
  | .casD sw d a b => Sys2Proof.Machine.execCasD sw d a b s
  | .casW sw d a b => Sys2Proof.Machine.execCasW sw d a b s
  | .lrw sw d a => Sys2Proof.Machine.execLrw sw d a s
  | .sch sw d a b => Sys2Proof.Machine.execSch sw d a b s
  | .relr sw a => Sys2Proof.Machine.execRelr sw a s
  | .waita sw d a b c => Sys2Proof.Machine.execWaita sw d a b c s
  | .fenceAcq sw sc => Sys2Proof.Machine.execFenceAcq sw sc s
  | .fenceRel sw sc => Sys2Proof.Machine.execFenceRel sw sc s
  | .fenceAr sw sc => Sys2Proof.Machine.execFenceAr sw sc s
  | .fenceSc sw sc => Sys2Proof.Machine.execFenceSc sw sc s
  | .barinit sw bar b => Sys2Proof.Machine.execBarinit sw bar b s
  | .bararv sw bar => Sys2Proof.Machine.execBararv sw bar s
  | .barwait sw bar => Sys2Proof.Machine.execBarwait sw bar s
  | .bartry sw d bar => Sys2Proof.Machine.execBartry sw d bar s
  | .tbar sw bar => Sys2Proof.Machine.execTbar sw bar s
  | .pref sw a => Sys2Proof.Machine.execPref sw a s
  | .cwb sw a => Sys2Proof.Machine.execCwb sw a s
  | .cinv sw a => Sys2Proof.Machine.execCinv sw a s
  | .cwbi sw a => Sys2Proof.Machine.execCwbi sw a s
  | .isync sw => Sys2Proof.Machine.execIsync sw s
  | .rstW sw a b => Sys2Proof.Machine.execRstW sw a b s
  | .rstD sw a b => Sys2Proof.Machine.execRstD sw a b s
  | .ramoAddW sw a b => Sys2Proof.Machine.execRamoAddW sw a b s
  | .ramoAddD sw a b => Sys2Proof.Machine.execRamoAddD sw a b s
  | .ramoFaddS sw a b => Sys2Proof.Machine.execRamoFaddS sw a b s
  | .ramoMinS sw a b => Sys2Proof.Machine.execRamoMinS sw a b s
  | .ramoMaxS sw a b => Sys2Proof.Machine.execRamoMaxS sw a b s
  | .ramoOrD sw a b => Sys2Proof.Machine.execRamoOrD sw a b s
  | .ramoAndD sw a b => Sys2Proof.Machine.execRamoAndD sw a b s
  | .ramoXorD sw a b => Sys2Proof.Machine.execRamoXorD sw a b s
  | .rldW sw d a => Sys2Proof.Machine.execRldW sw d a s
  | .rldD sw d a => Sys2Proof.Machine.execRldD sw d a s
  | .rflushOne sw a => Sys2Proof.Machine.execRflushOne sw a s
  | .rflushAll sw => Sys2Proof.Machine.execRflushAll sw s
  | .mcst sw a b => Sys2Proof.Machine.execMcst sw a b s
  | .cpyGg sw d a b => Sys2Proof.Machine.execCpyGg sw d a b s
  | .cpyGs sw d a b => Sys2Proof.Machine.execCpyGs sw d a b s
  | .cpySg sw d a b => Sys2Proof.Machine.execCpySg sw d a b s
  | .cpySs sw d a b => Sys2Proof.Machine.execCpySs sw d a b s
  | .gth32 sw d a b => Sys2Proof.Machine.execGth32 sw d a b s
  | .gth64 sw d a b => Sys2Proof.Machine.execGth64 sw d a b s
  | .gth128 sw d a b => Sys2Proof.Machine.execGth128 sw d a b s
  | .gth256 sw d a b => Sys2Proof.Machine.execGth256 sw d a b s
  | .sct32 sw d a b => Sys2Proof.Machine.execSct32 sw d a b s
  | .sct64 sw d a b => Sys2Proof.Machine.execSct64 sw d a b s
  | .sct128 sw d a b => Sys2Proof.Machine.execSct128 sw d a b s
  | .sct256 sw d a b => Sys2Proof.Machine.execSct256 sw d a b s
  | .enq sw d a b => Sys2Proof.Machine.execEnq sw d a b s
  | .spawnLocal sw d b => Sys2Proof.Machine.execSpawnLocal sw d b s
  | .spawnDie sw d b => Sys2Proof.Machine.execSpawnDie sw d b s
  | .endOp sw => Sys2Proof.Machine.execEndOp sw s
  | .cpt sw n imm => Sys2Proof.Machine.execCpt sw n imm s
  | .yield sw => Sys2Proof.Machine.execYield sw s
  | .yieldIf sw a => Sys2Proof.Machine.execYieldIf sw a s
  | .btopIb sw d a b => Sys2Proof.Machine.execBtopIb sw d a b s
  | .btopTb sw d a b => Sys2Proof.Machine.execBtopTb sw d a b s
  | .msgapp sw d a b n => Sys2Proof.Machine.execMsgapp sw d a b n s
  | .msgrecv sw d a b n => Sys2Proof.Machine.execMsgrecv sw d a b n s
  | .fmt sw a n => Sys2Proof.Machine.execFmt sw a n s
  | .lut4 sw a b => Sys2Proof.Machine.execLut4 sw a b s
  | .tzero sw t => Sys2Proof.Machine.execTzero sw t s
  | .trd sw t a b => Sys2Proof.Machine.execTrd sw t a b s
  | .twr sw t a b => Sys2Proof.Machine.execTwr sw t a b s
  | .tcvt sw t a b => Sys2Proof.Machine.execTcvt sw t a b s
  | .tmmaNn sw t a b => Sys2Proof.Machine.execTmmaNn sw t a b s
  | .tmmaTn sw t a b => Sys2Proof.Machine.execTmmaTn sw t a b s
  | .tmmaNt sw t a b => Sys2Proof.Machine.execTmmaNt sw t a b s
  | .tmmaTt sw t a b => Sys2Proof.Machine.execTmmaTt sw t a b s
  | .tmmaSp sw t a b => Sys2Proof.Machine.execTmmaSp sw t a b s
  | .tstF32 sw t a b => Sys2Proof.Machine.execTstF32 sw t a b s
  | .tstBf16 sw t a b => Sys2Proof.Machine.execTstBf16 sw t a b s
  | .tstF16 sw t a b => Sys2Proof.Machine.execTstF16 sw t a b s
  | .tstaF32 sw t a b => Sys2Proof.Machine.execTstaF32 sw t a b s
  | .tstaS32 sw t a b => Sys2Proof.Machine.execTstaS32 sw t a b s
  | .trap sw imm => Sys2Proof.Machine.execTrap sw imm s
  | .rett sw => Sys2Proof.Machine.execRett sw s
  | .srd sw d r => Sys2Proof.Machine.execSrd sw d r s
  | .swr sw d r => Sys2Proof.Machine.execSwr sw d r s
  | .tlbiAddr sw a b => Sys2Proof.Machine.execTlbiAddr sw a b s
  | .tlbiDom sw a => Sys2Proof.Machine.execTlbiDom sw a s
  | .tlbiAll sw => Sys2Proof.Machine.execTlbiAll sw s
  | .illegalInstruction w => Sys2Proof.Machine.execIllegalInstruction w s
  | .instructionFetchFault => Sys2Proof.Machine.execInstructionFetchFault s

end Sys2Proof.Machine
end

