-- ==== Sys2Proof/Machine/Run.lean ====
section
/-!
DEFINITION. What runs next: the choices of the surroundings, events that are due, what has become ready by itself, and the next
instruction of a stream (R189, R205, R246, R262), with the fetch and decoding of it. One step is one of these.
-/

namespace Sys2Proof.Machine

open Sys2Proof

/-! ### Which streams issue (R189) -/

/-- A team lets its streams issue: it is not to be killed, no yield has stopped it, and its grace has not run out (R156, R159, R337). -/
def teamRuns (s : State) (t : Team) (routine : Bool) : Bool :=
  t.doomed.isNone && (routine || (t.stopped.isNone && match t.pend with | some g => !graceOver s g | none => true))

/-- The stream stands at a CPT. -/
noncomputable def atCpt (s : State) (c : Ctx) : Bool := match decode (wordAt s c) with | .ok (.cpt _ _ _) => true | _ => false

/-- The team's grace has ended in this cycle, in which the stream may still issue (R157): its turn in the cycle has been settled, or the
grace time ends with the cycle that begins. -/
def graceEnds (s : State) (sid : Nat) (t : Team) : Bool :=
  t.doomed.isNone && t.stopped.isNone
    && match t.pend with
       | some g => graceOver s g && (s.slate.contains sid || (decide (s.slate = []) && decide (g.until_ = s.cycle) && decide (g.units ≠ 0)))
       | none => false

/-- The cluster's caches are about to be shared: every group stops until accesses already issued have completed (R237). -/
def switching (s : State) (c : Nat) : Bool :=
  switchWaits s c && s.meets.any (fun m => decide (meetCluster s m.2 = c) && meetSettled s m.2)

/-- A stream may issue its next instruction: it is not parked or halted, its cluster goes on, and its team runs. -/
noncomputable def canIssue (s : State) (sid : Nat) (st : Stream) : Bool :=
  st.park.isNone && decide (st.haltIn ≠ some 0)
    && match ctxOf s sid with
       | some c =>
         (c.routine || !switching s c.team.cluster) && (teamRuns s c.team c.routine || (graceEnds s sid c.team && atCpt s c))
       | none => false

/-- A stream that is ready in a cycle: its number, how far its slot stands from the one the cycle offers first, and its pipelines. -/
structure Ready where
  sid   : Nat
  far   : Nat
  pipes : List Nat
  deriving DecidableEq, Repr

/-- The ready streams. -/
noncomputable def readyStreams (s : State) : List Ready :=
  s.streams.filterMap (fun e =>
    if canIssue s e.1 e.2 then
      match ctxOf s e.1 with
      | some c =>
        some { sid := e.1, far := (e.1 % 8 + 8 - s.cycle % 8) % 8, pipes := (lanesIn c.grp c.st.members).map (fun l => pipeOf l.2) }
      | none => none
    else none)

/-- The streams that issue in this cycle (R189): each pipeline chooses the first ready slot from slot `cycle mod 8` on, and a stream
issues when all its pipelines choose it. -/
noncomputable def slateOf (s : State) : List Nat :=
  let l := readyStreams s
  (l.filter (fun r => r.pipes.all (fun p => l.all (fun q => !q.pipes.contains p || decide (r.far ≤ q.far))))).map Ready.sid

/-! ### Issue -/

/-- The instruction is a release, or contains one, so that the group's transfers and held releases stand before it (R288, R289, R517). -/
def isRelease : Instr → Bool
  | .fenceRel _ _ => true
  | .fenceAr _ _ => true
  | .fenceSc _ _ => true
  | .stDRel _ _ _ _ => true
  | .stWRel _ _ _ _ => true
  | .bararv _ _ => true
  | .tbar _ _ => true
  | .msgapp _ _ _ _ _ => true
  | .sch _ _ _ _ => true
  | .relr _ _ => true
  | _ => false

/-- A fence that orders a group's ENQs (R124). -/
def ordersEnq : Instr → Bool
  | .fenceRel _ sc => decide (sc = .device ∨ sc = .fabric)
  | .fenceAr _ sc => decide (sc = .device ∨ sc = .fabric)
  | .fenceSc _ sc => decide (sc = .device ∨ sc = .fabric)
  | _ => false

/-- The event is the arrival of an ENQ of a stream. -/
def arrivalOf (sid : Nat) : Instr → Bool
  | .recordArrival r => (match r.origin with | .enq stream _ _ _ _ _ => decide (stream = sid) | _ => false)
  | _ => false

/-- An instruction waits for earlier work of its group: a release for transfers and releases that are held, a fence for ENQ arrivals. -/
def heldBack (s : State) (c : Ctx) (i : Instr) : Bool :=
  (isRelease i && s.moves.any (fun m => decide (m.2.group = c.st.group)))
    || (ordersEnq i && s.work.any (arrivalOf c.sid))

/-- What the stream that issues comes to: the instruction's meaning, the fault of its fetch, or the illegal-instruction trap. -/
noncomputable def runAt (s : State) (c : Ctx) : Host.Outcome State Fault Refusal :=
  match fetchWord s c with
  | .error _ => Sys2Proof.Machine.exec .instructionFetchFault { s with issuer := some c.sid }
  | .ok (t, w) =>
    match decode w with
    | .error _ => Sys2Proof.Machine.exec (.illegalInstruction (BitVec.ofNat 32 w)) { t with issuer := some c.sid }
    | .ok i => if heldBack t c i then .next t else Sys2Proof.Machine.exec i { t with issuer := some c.sid }

/-- The row is an event that happens by itself: no instruction word and no trap of a word or its fetch, which need an issuing stream. -/
def happens : Instr → Bool
  | .illegalInstruction _ => false
  | .instructionFetchFault => false
  | i => !isWord i

/-- An event happens; what is no event is dropped. -/
def happen (e : Instr) (s : State) : Host.Outcome State Fault Refusal := if happens e then Sys2Proof.Machine.exec e s else .next s

/-- Cycles pass. -/
def wait (s : State) (n : Nat) : State := if n = 0 then s else { tick s n with slate := [] }

/-- After an issue: with the last stream chosen for it, the cycle is over. -/
def afterIssue (s : State) : State := if s.slate = [] then wait { s with issuer := none } 1 else { s with issuer := none }

/-- A function of the next state of an outcome. -/
def onNext (f : State → State) : Host.Outcome State Fault Refusal → Host.Outcome State Fault Refusal
  | .next s => .next (f s)
  | .fault r => .fault r
  | .refused r => .refused r

/-- A late fault of a stream that may be delivered (R324). -/
def lateDue (s : State) (sid : Nat) (st : Stream) : Bool :=
  match find? s.teams st.team with
  | some t => decide (sid < 49152) && !(lateAt s t sid).isEmpty && mayDeliver st
  | none => false

/-- An automatic split that is due and possible (R226). -/
noncomputable def splitDue (s : State) (c : Ctx) : Bool :=
  canIssue s c.sid c.st && c.fused && decide (c.st.adiv ≠ 0) && decide (c.st.lowRun ≥ 16 * c.st.adiv.toNat)
    && decide (c.st.stack.length < 16) && !(c.st.waits.any (fun w => decide (w.depth ≤ c.st.spilled)))
    && match resumesOf s c c.st.waits with | .ok _ => true | .error _ => false

/-- A stream issues. A late fault is delivered first (R324), and an automatic split that is due takes effect (R226); at the pc of its
split record a lane parks to rejoin instead (R227). -/
noncomputable def issueStream (s : State) (sid : Nat) : Host.Outcome State Fault Refusal :=
  match ctxOf s sid with
  | none => .next (afterIssue s)
  | some c =>
    if lateDue s sid c.st then onNext afterIssue (happen (.lateFaultDelivery sid) s)
    else if splitDue s c then onNext afterIssue (happen (.automaticSplit sid) s)
    else if atImplicit c then .next (afterIssue (tryRejoin (parkRejoin s c none 65536) c.st.group))
    else onNext afterIssue (runAt s c)

/-! ### What has become ready by itself -/

/-- Something that the state is ready for: an internal event, a kill, a wait that is over, a retry, a held release, or a halt. -/
inductive Wake where
  | event (e : Instr)
  | kill (team kcode fcode : Nat)
  | goOn (stream : Nat)
  | retry (stream : Nat)
  | held (move : Nat)
  | halt (stream : Nat)
  deriving DecidableEq, Repr

/-- A team that is to be killed (R337). -/
def wakeKill (s : State) : Option Wake :=
  s.teams.findSome? (fun e => match e.2.doomed with | some (k, f) => some (.kill e.1 k f) | none => none)

/-- A result that has come back. -/
def wakeResult (s : State) : Option Wake :=
  s.streams.findSome? (fun e => e.2.pend.findSome? (fun p =>
    match p.await with
    | .nothing => some (.event (.resultWriteback e.1 p.seq))
    | .fails _ => some (.event (.resultWriteback e.1 p.seq))
    | .change _ _ _ _ => if waitChanged s p.seq then some (.event (.waitaWake e.1 p.seq)) else none
    | _ => none))

/-- A late fault that is delivered (R324). -/
def wakeLate (s : State) : Option Wake :=
  s.streams.findSome? (fun e => if lateDue s e.1 e.2 then some (.event (.lateFaultDelivery e.1)) else none)

/-- What a parked stream waits for is over. -/
def waitOver (s : State) (c : Ctx) : Bool :=
  match c.st.park with
  | some .results => decide (c.st.pend = [])
  | some (.trap _) => decide (c.st.pend = [])
  | some (.fence acq rel sc _) => fenceReady s c acq rel sc
  | some (.phase n _) => phasePassed s c.st n
  | some (.status d _ _) => !columnsFull c d
  | some (.parking _) => !draining s c.st.group
  | _ => false

/-- The instruction a stream parked before would find its role queue columns ready (R198). -/
noncomputable def columnsReady (s : State) (c : Ctx) : Bool :=
  match decode (wordAt s c) with
  | .ok i => !queuesBlock c (operands i)
  | .error _ => true

/-- An instruction that waited before its effect may be tried again. -/
noncomputable def mayRetry (s : State) (c : Ctx) : Bool :=
  match c.st.park with
  | some .roleQueue => columnsReady s c
  | some .tileClaim => canClaim s c.st.team (claimPipes c)
  | some (.phaseFull n) => !phaseFull c.team n
  | some (.pendFull n) => decide ((barOf c.team n).pend.toNat + c.lanes.length ≤ 65535)
  | some (.kickFull h) => (kickFull s [h]).isNone
  | some .drain => !draining s c.st.group && !heldReleases s c.st.group && (!c.routine || decide (c.st.pend = []))
  | _ => false

/-- A stream that goes on. -/
noncomputable def wakeStream (s : State) : Option Wake :=
  s.streams.findSome? (fun e =>
    match ctxOf s e.1 with
    | some c => if waitOver s c then some (.goOn e.1) else if mayRetry s c then some (.retry e.1) else none
    | none => none)

/-- TINFO of a lane of a halted sibling (R326). -/
def haltInfo (st : Stream) (la : Lane) : Word := word (2 ^ 61 + la.ln * 2 ^ 55 + st.skid * 2 ^ 50)

/-- A halted sibling has recorded where it stopped. -/
def haltNoted (s : State) (c : Ctx) : Bool :=
  (lanesIn c.grp c.st.members).all (fun e =>
    decide ((laneOf s e.2).tpc = c.st.pc) && decide ((laneOf s e.2).tinfo = haltInfo c.st (laneOf s e.2)))

/-- A sibling that has stopped for a team halt, or has parked during it, and has not recorded it (R326). -/
def mayHalt (s : State) (c : Ctx) : Bool :=
  !c.st.handler
    && match c.st.haltIn, c.st.park with
       | some 0, none => true
       | some _, some p =>
         (match p with
          | .trap _ => false
          | .atTrap => false
          | .tmma => false
          | _ => !haltNoted s c || decide (c.st.haltIn ≠ some 0))
       | _, _ => false

/-- A stream that stops for a halt. -/
def wakeHalt (s : State) : Option Wake :=
  s.streams.findSome? (fun e =>
    match ctxOf s e.1 with | some c => if mayHalt s c then some (.halt e.1) else none | none => none)

/-- The stop recorded: TPC, HALTED, SKID and LANE in every lane. -/
def recordHalt (s : State) (sid : Nat) : State :=
  match ctxOf s sid with
  | none => s
  | some c =>
    let t := (lanesIn c.grp c.st.members).foldl (fun u e =>
      modLane u e.2 (fun la => { la with tpc := c.st.pc, tinfo := haltInfo c.st la })) s
    modStream t sid (fun st => { st with haltIn := some 0, park := match st.park with | none => some .halted | p => p })

/-- Rendezvous, rejoins and automatic splits that are due (R219, R226, R228, R237). -/
noncomputable def wakeGroup (s : State) : Option Wake :=
  match s.meets.find? (fun m => meetSettled s m.2 && !switchWaits s (meetCluster s m.2)) with
  | some m => some (.event (.fuseRendezvousComplete m.1))
  | none =>
    match s.groups.find? (fun g => rejoinReady s g.1 g.2) with
    | some g => some (.event (.implicitRejoin g.1))
    | none =>
      s.streams.findSome? (fun e =>
        match ctxOf s e.1 with | some c => if splitDue s c then some (.event (.automaticSplit e.1)) else none | none => none)

/-- A stream of a team that issues a CPT in the cycle in which grace ends (R157). -/
noncomputable def lastCpt (s : State) (tk : Nat) : Option Nat :=
  (s.streams.find? (fun e =>
    decide (e.2.team = tk) && canIssue s e.1 e.2 && match find? s.teams tk with | some t => graceEnds s e.1 t | none => false)).map Prod.fst

/-- A yield that is due (R156), or that has stopped its team (R159). -/
noncomputable def yieldDue (s : State) (tk : Nat) (t : Team) : Bool :=
  match t.pend, t.stopped with
  | none, _ => false
  | some _, some _ => true
  | some g, none =>
    (cleanReady s tk || graceOver s g) && !awaitsArrival s tk && (find? s.sched.placing tk).isNone && (lastCpt s tk).isNone

/-- A team's yield, a release that waited, or a shootdown whose requests have been accepted (R156, R258, R312). -/
noncomputable def wakeTeam (s : State) : Option Wake :=
  match heldDue s with
  | some id => some (.held id)
  | none =>
    match s.ctl.shoots.find? (fun x => shootOver s x.2) with
    | some x => some (.event (.shootdownDone x.1))
    | none => s.teams.findSome? (fun e => if yieldDue s e.1 e.2 then some (.event (.teamYield e.1)) else none)

/-- The first thing the state is ready for. -/
noncomputable def wake (s : State) : Option Wake :=
  (wakeKill s).orElse fun _ => (wakeResult s).orElse fun _ => (wakeLate s).orElse fun _ => (wakeTeam s).orElse fun _ =>
    (wakeGroup s).orElse fun _ => (wakeHalt s).orElse fun _ => wakeStream s

/-- A retry: the instruction stands again at the issue. -/
def retryStream (s : State) (sid : Nat) : Host.Outcome State Fault Refusal :=
  match find? s.streams sid with
  | some st =>
    if st.park = some .roleQueue then Sys2Proof.Machine.exec (.roleQueueRetry sid) s
    else if st.park = some .tileClaim then Sys2Proof.Machine.exec (.tileClaimRetry sid) s
    else .next (unpark s sid)
  | none => .next s

/-- What the state is ready for happens. -/
def runWake (s : State) : Wake → Host.Outcome State Fault Refusal
  | .event e => happen e s
  | .kill t k f => .next (killTeam s t k f)
  | .goOn sid => .next (resumeStream s sid)
  | .retry sid => retryStream s sid
  | .held id => .next (performHeld s id)
  | .halt sid => .next (recordHalt s sid)

/-! ### Nothing to do -/

/-- A die whose queue engine has a candidate to place (R115). -/
def dieReady (s : State) (die : Nat) : Bool :=
  (dieSlots s die).any (fun e => decide (slotState s (256 * die + e.1) e.2 = some true))
    || (engineGrids s die).any (fun g => !(engineFits s g.2).isEmpty)

/-- The earliest time of a timer. -/
def earliest : List (Nat × Instr) → Option Nat
  | [] => none
  | e :: r => match earliest r with | none => some e.1 | some n => some (Nat.min e.1 n)

/-- Cycles of the clock in force until the next timer or alarm. -/
def dueIn (s : State) : Option Nat :=
  let a := (earliest s.timers).map (fun n => n - s.cycle)
  let b := (earliest s.alarms).map (fun n => ceilDiv (n - s.time) (period s.pkg.inForce))
  match a, b with
  | some m, some n => some (Nat.min m n)
  | some m, none => some m
  | none, b => b

/-- Time passes: a queue engine with a candidate decides after 4 cycles, unless a timer or alarm comes first; else the next of these
comes, or one cycle goes by. -/
def passTime (s : State) : Host.Outcome State Fault Refusal :=
  let n := match dueIn s with | some k => Nat.max 1 k | none => 1
  match (List.range 8).find? (dieReady s) with
  | some d =>
    if (dueIn s).isSome ∧ n ≤ 4 then .next (wait s n) else Sys2Proof.Machine.exec (.dispatchDecision d) (wait s 4)
  | none => .next (wait s n)

/-! ### The default order -/

/-- The first timer or alarm that is due, and the state without it. -/
def dueEvent (s : State) : Option (Instr × State) :=
  match s.timers.find? (fun t => decide (t.1 ≤ s.cycle)) with
  | some t => some (t.2, { s with timers := s.timers.erase t })
  | none =>
    match s.alarms.find? (fun t => decide (t.1 ≤ s.time)) with
    | some t => some (t.2, { s with alarms := s.alarms.erase t })
    | none => none

/-- The cycle's issue goes on: the next stream chosen for it, or at its beginning the first that is chosen now. -/
noncomputable def runSlate (s : State) : Host.Outcome State Fault Refusal :=
  match s.slate with
  | sid :: rest =>
    let t := { s with slate := rest }
    if (match find? s.streams sid with | some st => canIssue s sid st | none => false) then issueStream t sid else .next (afterIssue t)
  | [] => match slateOf s with | sid :: rest => issueStream { s with slate := rest } sid | [] => passTime s

/-- The stream whose CPT comes before an event, which is its team's forced yield (R157). -/
noncomputable def cptFirst (s : State) : Instr → Option Nat
  | .teamYield tk => lastCpt s tk
  | _ => none

/-- One step when nothing is due and the surroundings choose nothing. -/
noncomputable def runDefault (s : State) : Host.Outcome State Fault Refusal :=
  match s.work with
  | e :: rest =>
    (match cptFirst s e with
    | some sid => issueStream { s with slate := s.slate.filter (fun k => decide (k ≠ sid)) } sid
    | none => happen e { s with work := rest })
  | [] =>
    match wake s with
    | some x => runWake s x
    | none => runSlate s

/-! ### Choices of the surroundings -/

/-- An event that the surroundings, software on the host or the package's own sensors bring about. -/
def external : Instr → Bool
  | .powerUp | .inputRemoval | .railFault | .warmReset | .perstNDeassert | .bringupStepDone _ _ _ | .pcieTrainingDone _ _
  | .pcieConfigRequest _ | .recoveryRun _ | .recoveryCheckDone _ | .thermalSample _ | .powerWindowEnd _ | .powerLowIntervalEnd
  | .thrctlWrite _ | .thrlimWrite _ | .registerWrite _ _ _ | .ylportEnable _ _ | .ylportRetrain _ | .ylportWidthRequest _ _
  | .partnerDetected _ _ _ | .equaliseDone _ _ _ _ | .alignDone _ | .negotiationDone _ _ _ _ | .flitReceive _ _ | .laneLoss _ _
  | .comaDrain | .routingEntryWrite _ | .groupTableEntryWrite _ | .notifyWrite _ _ _ _ | .bar4Write _ _ _ | .bar4Read _ _ _
  | .queueEnable _ _ | .queueDisable _ _ | .queueUnmap _ _ | .queueClearerr _ _ | .partitionActivate _ | .partitionDeactivate _
  | .keyLoad _ _ | .keyErase _ _ | .attestationReport _ _ | .checkpointStart | .checkpointDone _ | .teamRevoke _ | .poolAdd _
  | .domainSetQuota _ | .domainPushPage _ | .domainPushSaveBlock _ | .domainSubtractUsed _ | .vaultStow _ | .vaultSwap _ _
  | .vaultRestore _ | .pageWalkDone _ _ _ | .grantInvalidateOne _ | .grantInvalidateAll | .patrolScrub _ _ | .killtWrite _
  | .handleSeal _ _ | .handleRevoke _ _ => true
  | _ => false

/-- Without power only the supply and PERST_N act (R17). -/
def actsUnpowered : Instr → Bool
  | .powerUp | .inputRemoval | .perstNDeassert => true
  | _ => false

/-- The order that a packet keeps: source, destination, window and VC (R43, R51). -/
def packetKey (p : Packet) : List Nat := [1, p.src.toNat, p.dst.toNat, p.win.toNat, if p.ptype = 1 ∨ p.ptype = 7 then 1 else 0]

/-- What must not pass one another: records of a queue (R124), packets of one source, destination, window and VC (R51), the lines of
a multicast group (R76), and the parts of a combined acknowledgement (R75). -/
def orderKey : Instr → Option (List Nat)
  | .recordArrival r => some [0, r.queue]
  | .remoteLoadArrival p => some (packetKey p)
  | .aggregatedStoreArrival p => some (packetKey p)
  | .aggregatedAtomicArrival p => some (packetKey p)
  | .tileStoreAddArrival _ p => some (packetKey p)
  | .inboxAppendArrival p => some (packetKey p)
  | .loadReplyArrival p => some (packetKey p)
  | .elementAckArrival p => some (packetKey p)
  | .inboxAckArrival p => some (packetKey p)
  | .multicastLineArrival _ p => some [2, p.dst.toNat]
  | .combinedAckArrival port p => some [3, port, p.tag.toNat]
  | _ => none

/-- An event of `work` may happen before those that stand earlier. -/
noncomputable def mayPass (s : State) (place : Nat) : Bool :=
  match s.work[place]? with
  | some e =>
    (cptFirst s e).isNone
      && (match orderKey e with | some k => (s.work.take place).all (fun f => decide (orderKey f ≠ some k)) | none => true)
  | none => false

/-- A stream may issue in the cycle: it is one of those chosen, or the cycle begins and no other stream is ready (R189: a slot is ready
once its instruction has been fetched and decoded). -/
def onSlate (s : State) (sid : Nat) : Bool := decide (s.slate = []) || s.slate.contains sid

/-- The cycles that a choice of the surroundings lets pass. -/
def Turn.dt : Turn → Nat
  | .issue dt _ => dt
  | .work dt _ => dt
  | .event dt _ => dt
  | .upset dt _ => dt
  | .hostRead dt _ _ _ _ => dt
  | .hostWrite dt _ _ _ _ => dt

/-- The same choice, some cycles later. -/
def Turn.less (n : Nat) : Turn → Turn
  | .issue dt sid => .issue (dt - n) sid
  | .work dt place => .work (dt - n) place
  | .event dt e => .event (dt - n) e
  | .upset dt u => .upset (dt - n) u
  | .hostRead dt c bar off len => .hostRead (dt - n) c bar off len
  | .hostWrite dt c bar off bs => .hostWrite (dt - n) c bar off bs

/-- What the surroundings choose happens now; a choice that cannot be made has no effect. -/
noncomputable def runTurn (t : State) : Turn → Host.Outcome State Fault Refusal
  | .issue _ sid =>
    (match find? t.streams sid with
     | some st =>
       if onSlate t sid && canIssue t sid st then issueStream { t with slate := t.slate.filter (fun k => decide (k ≠ sid)) } sid else .next t
     | none => .next t)
  | .work _ place =>
    (match t.work[place]? with
     | some e => if mayPass t place then happen e { t with work := t.work.eraseIdx place } else .next t
     | none => .next t)
  | .event _ e => if external e && (t.pkg.powered || actsUnpowered e) then happen e t else .next t
  | .upset _ u => .next (if t.pkg.powered then upsetMemory t u else t)
  | .hostRead _ c bar off len => .next (if t.pkg.powered then hostRead t c bar off len else t)
  | .hostWrite _ c bar off bs => .next (if t.pkg.powered then hostWrite t c bar off bs else t)

/-- A choice of the surroundings: its cycles pass, but not beyond what comes due meanwhile, and then it is made. -/
noncomputable def takeTurn (s : State) (x : Turn) (rest : List Turn) : Host.Outcome State Fault Refusal :=
  match dueIn s with
  | some n => if n ≤ x.dt then .next { wait s n with schedule := x.less n :: rest } else runTurn (wait { s with schedule := rest } x.dt) x
  | none => runTurn (wait { s with schedule := rest } x.dt) x

/-! ### A machine about to run one word -/

/-- A lane with nothing in it but its place in a team of its own. -/
def bootLane : Lane :=
  { team := 0, group := 0, stream := 0, ln := 0, order := 0, base := 0, alloc := 512, seed := 1, tcause := 0, tpc := 0, taddr := 0
    tinfo := 0, tvec := 0, tsave := 0, priv := 1 }

/-- The team's one group. -/
def bootGroup : Group := { team := 0, gi := 0, lanes := [0], ended := 0, mode := .single, trap := none, rejoinBy := none }

/-- The geode that holds the word: the first 64 KiB of domain 0. -/
def bootGeode : Geode := { dom := 0, index := 0, base := 0, len := 65536, entcnt := 1, entoff := 0 }

/-- The stream that stands at the word. -/
def bootStream (now : Nat) : Stream :=
  { team := 0, group := 0, members := 1, mask := 1, pc := 0x100, geode := bootGeode, handler := false, stack := [], trapRec := none
    waits := [], csspill := 0, spilled := 0, k := [], wbase := 0, alanes := 0, adiv := 0, fcsr := 0, contpc := 0, contlive := 0
    tprog := 0, mstream := 0, fmts := [], region := none, observed := 0, pend := [], park := none, lowRun := 0, haltIn := none
    skid := 0, noJoin := false, paid := none, tmma := none, fetch := none, cyBase := now, hart := none }

/-- The team, as placed from a record of no queue with its budgets full and role layout 1. -/
def bootTeam : Team :=
  { ident := 0x00010000, cluster := 0, domain := 0, cls := 0, home := 0, part := none, words := [], dseq := 0, ti := 0, node := none
    exempt := false, ib := 0xFFFF0000, tb := 0xFFFF0000, pend := none, stopped := none, geode := bootGeode, layout := 1
    popped := [], queues := (List.range 8).map (fun q => (16 * q, [0])), bars := [], scBase := 0, scUnits := 16, rtrack := 0, rtrackTo := none
    inside := 0, rage := 0, budcap := 0, born := 0, spare := [], resumed := false, relaunch := false, handlers := 0, late := []
    doomed := none }

/-- The leaf through which the word is reached: page 1 of local memory at virtual address 0, with every permission. -/
def bootLeaf (id : BitVec 12) : TlbEntry :=
  { dom := 0, base := 0, level := 3, pte := word (id.toNat * 2 ^ 40 + 0x10000 + 0x5F), at_ := 0 }

/-- Nothing but one team stands on the clusters, with the word at its pc. -/
def bootState (s : State) (w : Nat) : State :=
  { s with
    schedule := [], work := [], timers := [], alarms := [], issuer := none, slate := []
    mem := memPut s.mem 0x10100 (spread 4 w), poison := [], sealed := [], banks := []
    lanes := [(0, bootLane)], streams := [(0, bootStream s.cycle)], groups := [(0, bootGroup)], teams := [(0, bootTeam)]
    meets := [], moves := []
    ctl := { s.ctl with tlbs := [(0, [bootLeaf s.fab.id])], shoots := [] } }

/-- The same with the word at the pc of an engine routine of the team on copy hart 0: the opcodes of engine routines alone. -/
def bootHart (s : State) (w : Nat) : State :=
  let t := bootState s w
  installRoutine { t with streams := [], lanes := [], groups := [(0, bootGroup)] } 0 0 bootTeam 0 0x100

/-- The word's major opcode belongs to engine routines (R483). -/
def engineWord (w : Nat) : Bool := decide (0x65 ≤ w / 2 ^ 24 % 128 ∧ w / 2 ^ 24 % 128 ≤ 0x67)

end Sys2Proof.Machine
end

