-- ==== Sys2Proof/Machine/Step.lean ====
section
/-!
DEFINITION. The step of the machine, and the placing of one instruction where the next step fetches it.
-/

namespace Sys2Proof.Machine

open Sys2Proof

/-- One step: a timer or alarm that is due, else the choice the surroundings make next, else the default order. -/
noncomputable def step (s : State) : Host.Outcome State Fault Refusal :=
  match dueEvent s with
  | some (e, t) => happen e t
  | none =>
    match s.schedule with
    | x :: rest => takeTurn s x rest
    | [] => runDefault s

/-- The state with an instruction where the next step fetches and runs it: a team of one lane stands at it, or for an opcode of
engine routines a routine. This stands for the load of a program from outside. -/
def State.withFetchWord (s : State) (nbits w : Nat) : State :=
  let v := if nbits < 32 then w % 2 ^ nbits else w % 2 ^ 32
  if engineWord v then bootHart s v else bootState s v

end Sys2Proof.Machine
end

