-- ==== Sys2Proof/Safety.lean ====
section
/-!
DEFINITION. What counts as a safe run: a step that answers a next state, the canonical form of memory that no step breaks,
and the states that some choice of the surroundings reaches from reset.
-/

namespace Sys2Proof.Machine

open Sys2Proof

/-- The outcome is a next state: no fault and no refusal. -/
def Answers (o : Host.Outcome State Fault Refusal) : Prop := ∃ t, o = .next t

/-- Local memory is in its canonical form. -/
def State.MemoryCanonical (s : State) : Prop := Memory.wf s.mem = true

/-! ### An instruction word that issues -/

/-- Field values of the registers an instruction writes beyond its operands (R447). -/
def extraRegs (i : Instr) : List Nat := match destRun i with | some r => runFields r.1 r.2 | none => []

/-- The stream of `c` issues the instruction and nothing the manual puts before its own effect stops it: the word is legal
where it stands (R197, R318, R483), its registers lie in every active lane's allocation (R203), and no role queue it names
is empty to a pop or full to a push (R198). -/
structure Issues (s : State) (c : Ctx) (i : Instr) : Prop where
  issuer : s.issuer = some c.sid
  ctx    : ctxOf s c.sid = some c
  legal  : (match opcode i with | some (maj, f) => illegalHere c maj f (operands i) | none => true) = false
  alloc  : allocFaults s c (windowed (operands i) (extraRegs i)) = []
  roles  : queuesBlock c (operands i) = false

/-- The operand values of an active lane, given as its index and its position. -/
def valsOf (s : State) (c : Ctx) (i : Instr) (e : Nat × Nat) : Vals := laneVals s c (operands i) e

/-- No other active lane has its register `n` at the place of this lane's. It holds of every group that a team launch or a
FUSE forms, whose lanes stand on different pipelines. -/
def OwnPlace (s : State) (c : Ctx) (e : Nat × Nat) (n : Nat) : Prop :=
  ∀ e' ∈ c.lanes, e' ≠ e → regPlace s c.st e'.2 n ≠ regPlace s c.st e.2 n

/-- A lane's result of ALU class stands where its register name says (R204, R205, R346): in the lane's windowed register, in
the uniform register when the lane is the lowest active one, at the tail of its role queue column after the pops of the
instruction. Any other name discards it. -/
def Holds (s t : State) (c : Ctx) (i : Instr) (d : RegName) (e : Nat × Nat) (v : Word) : Prop :=
  match d with
  | .x n => OwnPlace s c e n.val → look 0 t.regs (regPlace s c.st e.2 n.val) = v
  | .k n => e.1 = c.first.1 → ∃ st, find? t.streams c.sid = some st ∧ look 0 st.k n.val = v
  | .q n => ∃ tm, find? t.teams c.st.team = some tm ∧
      column tm n.val e.1 = (column c.team n.val e.1).drop (popCountOf (operands i) n.val) ++ [v]
  | _ => True

/-- A lane's long-latency result is outstanding with its value (R205): it returns to the place its register name says. -/
def Outstanding (s t : State) (c : Ctx) (d : RegName) (e : Nat × Nat) (v : Word) : Prop :=
  (∀ n, d = .x n → OwnPlace s c e n.val) →
    ∃ st, find? t.streams c.sid = some st ∧
      ∃ p ∈ st.pend, p.lane = e.2 ∧ p.await = .nothing ∧ p.writes = resultTo s c e.1 e.2 d v

/-- Flags that an instruction of floating point left in the issuing stream (R373). -/
def FlagsRaised (t : State) (c : Ctx) (n : Nat) : Prop :=
  ∃ st, find? t.streams c.sid = some st ∧ st.fcsr = c.st.fcsr ||| BitVec.ofNat 8 (n % 32)

/-- No doubleword of the team's role queues has an uncorrectable error (R266). -/
def QueuesSound (s : State) (c : Ctx) : Prop := ∀ q l j, queueWord c.team q l j ∉ s.scErr

/-- What the issue of an instruction that only computes leaves unchanged: all but its destination, the issuing stream's pc,
flags and outstanding results, the counts that an issue moves (R226, R326), the charge and the grace it may start (R147, R148,
R151) and the role queues of its operands. A pop of a word with an uncorrectable error condemns the team, and a push writes its word
anew (R266). -/
structure OnlyComputes (s t : State) (c : Ctx) (d : Option RegName) (flags : Bool) : Prop where
  rest    : t = { s with regs := t.regs, streams := t.streams, teams := t.teams, timers := t.timers, seq := t.seq, scErr := t.scErr }
  errors  : ∀ e ∈ t.scErr, e ∈ s.scErr
  clears  : (∀ n, d ≠ some (.q n)) → t.scErr = s.scErr
  others  : ∀ k, k ≠ c.sid → find? t.streams k = find? s.streams k
  stream  : ∃ st, find? t.streams c.sid = some st ∧ st.pc = c.st.pc + 4 ∧
      { st with pc := c.st.pc, k := c.st.k, fcsr := c.st.fcsr, pend := c.st.pend, park := c.st.park, lowRun := c.st.lowRun
                haltIn := c.st.haltIn, skid := c.st.skid, noJoin := c.st.noJoin, paid := c.st.paid } = c.st ∧
      (flags = false → st.fcsr = c.st.fcsr) ∧
      (∀ n : Nat, (∀ m, d = some (.k m) → m.val ≠ n) → look 0 st.k n = look 0 c.st.k n)
  regs    : ∀ p, (∀ n, d = some (.x n) → ∀ e ∈ c.lanes, regPlace s c.st e.2 n.val ≠ p) → look 0 t.regs p = look 0 s.regs p
  teams   : ∀ k, k ≠ c.st.team → find? t.teams k = find? s.teams k
  team    : ∃ tm, find? t.teams c.st.team = some tm ∧
      { tm with ib := c.team.ib, pend := c.team.pend, queues := c.team.queues, popped := c.team.popped, doomed := c.team.doomed } = c.team ∧
      (QueuesSound s c → tm.doomed = c.team.doomed)

/-- What an access to memory may change: memory with its keys and poison, the first-level banks with their counters, the
choice of a line that leaves a bank, and the TLBs. -/
structure OnlyMemory (s t : State) : Prop where
  rest : t = { s with mem := t.mem, poison := t.poison, sealed := t.sealed, banks := t.banks, clusters := t.clusters
                      free := t.free, ctl := t.ctl }
  ctl  : t.ctl = { s.ctl with tlbs := t.ctl.tlbs }

/-- What stands before an effect: the context of the issuing stream, which has only its issue counts moved, and a state that
differs in streams, teams and timers alone. -/
structure Before (s b : State) (c c' : Ctx) (o : Operands) : Prop where
  rest    : b = { s with streams := b.streams, teams := b.teams, timers := b.timers }
  others  : ∀ k, k ≠ c.sid → find? b.streams k = find? s.streams k
  teams   : ∀ k, k ≠ c.st.team → find? b.teams k = find? s.teams k
  ctx     : ctxOf b c.sid = some c'
  sid     : c'.sid = c.sid
  grp     : c'.grp = c.grp
  stream  : { c'.st with lowRun := c.st.lowRun, haltIn := c.st.haltIn, skid := c.st.skid, noJoin := c.st.noJoin
                         paid := c.st.paid } = c.st
  team    : { c'.team with ib := c.team.ib, pend := c.team.pend, queues := c.team.queues, popped := c.team.popped, doomed := c.team.doomed } = c.team
  kept    : QueuesSound s c → c'.team.doomed = c.team.doomed
  columns : ∀ q l, l < 16 → column c'.team q l =
      if l ∈ c.lanes.map Prod.fst then (column c.team q l).drop (popCountOf o q) else column c.team q l

/-- The end of an issue: the stream's pc moves past the word, and at a switch point the stream parks while results are
outstanding (R206). -/
structure Ends (u t : State) (sid : Nat) (sw : Bool) : Prop where
  rest   : t = { u with streams := t.streams }
  others : ∀ k, k ≠ sid → find? t.streams k = find? u.streams k
  stream : ∃ st st', find? u.streams sid = some st ∧ find? t.streams sid = some st' ∧
      { st' with park := st.park } = { st with pc := st.pc + 4 } ∧
      (¬(sw = true ∧ st.pend ≠ [] ∧ st.park = none) → st'.park = st.park) ∧
      (sw = true ∧ st.pend ≠ [] ∧ st.park = none → st'.park = some .results)

/-- Lane after lane: what `P` says of each lane's state before and after its part. -/
inductive InTurn {α : Type} (P : State → α → State → Prop) : State → List α → State → Prop where
  | nil (s : State) : InTurn P s [] s
  | cons (s u t : State) (a : α) (r : List α) (h : P s a u) (g : InTurn P u r t) : InTurn P s (a :: r) t

/-- An instruction acts lane by lane between its charge and the advance of its pc. `r` is the state that the translation of
the lanes' addresses leaves: the state before, or one that differs from it in memory alone. -/
def Acts {α : Type} (s r : State) (c : Ctx) (i : Instr) (sw : Bool) (xs : List α) (P : Ctx → State → α → State → Prop)
    (t : State) : Prop :=
  ∃ b c' u, Before s b c c' (operands i) ∧
    InTurn (P c') { r with streams := b.streams, teams := b.teams, timers := b.timers } xs u ∧ Ends u t c.sid sw

/-- An instruction acts once, between its charge and the advance of its pc: `E` relates the state that the charge leaves, with the
issuing stream's context in it, to the state before the advance. -/
def Does (s : State) (c : Ctx) (i : Instr) (sw : Bool) (E : Ctx → State → State → Prop) (t : State) : Prop :=
  ∃ b c' u, Before s b c c' (operands i) ∧ E c' b u ∧ Ends u t c.sid sw

/-- At a switch point a stream parks while results are outstanding (R206). -/
structure Switched (u t : State) (sid : Nat) (sw : Bool) : Prop where
  rest   : t = { u with streams := t.streams }
  others : ∀ k, k ≠ sid → find? t.streams k = find? u.streams k
  stream : ∀ st, find? u.streams sid = some st → find? t.streams sid =
      some (if sw = true ∧ st.pend ≠ [] ∧ st.park = none then { st with park := some .results } else st)

/-- An instruction that sets its pc itself acts once, between its charge and its switch point. -/
def Sets (s : State) (c : Ctx) (i : Instr) (sw : Bool) (E : Ctx → State → State → Prop) (t : State) : Prop :=
  ∃ b c' u, Before s b c c' (operands i) ∧ E c' b u ∧ Switched u t c.sid sw

/-- One stream becomes `st`; nothing else changes. -/
structure StreamSet (u t : State) (sid : Nat) (st : Stream) : Prop where
  rest   : t = { u with streams := t.streams }
  others : ∀ k, k ≠ sid → find? t.streams k = find? u.streams k
  stream : find? t.streams sid = some st

/-- One team becomes `tm`; nothing else changes. -/
structure TeamSet (u t : State) (k : Nat) (tm : Team) : Prop where
  rest   : t = { u with teams := t.teams }
  others : ∀ j, j ≠ k → find? t.teams j = find? u.teams j
  team   : find? t.teams k = some tm

/-- An instruction raises its causes: the trap is taken with the lanes' causes in ascending order (R321). -/
def Raises (s : State) (c : Ctx) (i : Instr) (fs : List LaneFault) : Prop := fs ≠ [] → exec i s = .next (raise s c fs)

/-- An instruction is charged and waits at its pc: its effect, whenever it comes, is not charged again (R147, R148). -/
def WaitsAt (s : State) (c : Ctx) (i : Instr) (p : Park) : Prop :=
  ∃ maj f, opcode i = some (maj, f) ∧ exec i s = .next (waitAt s c (chargeUnits maj f) p)

/-! ### First-level banks -/

/-- Lines whose sectors are numbered below four and whose written bytes lie in their sector. -/
def SoundLine (l : Line) : Prop := ∀ e ∈ l.sectors, e.1 < 4 ∧ ∀ o ∈ e.2.dirty, o < 256

/-- The lines of a bank are sound. -/
def SoundBank (s : State) (b : Nat) : Prop := ∀ l ∈ linesOf s b, SoundLine l

/-- No other bank of the cluster holds the line dirty, or the banks are shared: a miss moves nothing (R238). -/
def NoMove (s : State) (b num : Nat) : Prop := sharedOn s (b / 16) = true ∨ dirtyElsewhere s b num = []

/-- Lines of a bank stand once each, and a sector once in its line. -/
def WellBank (s : State) (b : Nat) : Prop :=
  SoundBank s b ∧ (linesOf s b).Pairwise (fun x y => x.num ≠ y.num) ∧ ∀ l ∈ linesOf s b, l.sectors.Pairwise (fun x y => x.1 ≠ y.1)

/-! ### Accesses to memory -/

/-- What one lane's access to memory may change: memory and what serves it, the stream's outstanding results, and the sectors
charged to its team with the grace they may start (R149, R151). -/
structure Touches (u t : State) (c : Ctx) : Prop where
  rest   : t = { u with mem := t.mem, poison := t.poison, sealed := t.sealed, banks := t.banks, clusters := t.clusters
                        free := t.free, ctl := t.ctl, streams := t.streams, teams := t.teams, timers := t.timers, seq := t.seq }
  ctl    : t.ctl = { u.ctl with tlbs := t.ctl.tlbs }
  others : ∀ k, k ≠ c.sid → find? t.streams k = find? u.streams k
  stream : ∀ st, find? u.streams c.sid = some st → ∃ st', find? t.streams c.sid = some st' ∧ { st' with pend := st.pend } = st
  teams  : ∀ k, k ≠ c.st.team → find? t.teams k = find? u.teams k
  team   : ∀ tm, find? u.teams c.st.team = some tm → ∃ tm', find? t.teams c.st.team = some tm' ∧
      { tm' with tb := tm.tb, pend := tm.pend } = tm

/-- A lane's result is outstanding (R205): its value, or the late fault of poisoned data (R272). -/
def Returning (u t : State) (c : Ctx) (d : RegName) (r : Reached) (bad : Bool) (w : Word) : Prop :=
  t.seq = u.seq + 1 ∧ ∀ st, find? u.streams c.sid = some st → ∃ st' p, find? t.streams c.sid = some st' ∧ p ∈ st'.pend ∧
    p.seq = u.seq ∧ p.lane = r.v.pos ∧ p.pc = c.st.pc ∧
    (bad = false → p.await = .nothing ∧ p.writes = resultTo u c r.v.ln r.v.pos d w) ∧
    (bad = true → p.writes = [] ∧
      p.await = .fails { lane := r.v.pos, code := 0x18, addr := r.va, detail := 0, pc := c.st.pc })

/-- The sector as the lane's bank holds it, or as a fill from the home brings it when no other bank of the cluster has the
line dirty (R268, R238). -/
def InBank (u : State) (b : Nat) (key : KeySel) (sec : Nat) (e : Sector) : Prop :=
  sectorIn u b sec = some e ∨
    (sectorIn u b sec = none ∧ NoMove u b (sec / 4) ∧ SoundBank u b ∧ e.key = key ∧ e.dirty = [] ∧
      e.poison = homeBad u key (sec * 256) ∧ ∀ o, o < 256 → look 0 e.data o = homeByte u key (sec * 256 + o))

/-- The lane's bank needs no line to leave it: it holds the sector, or has a way free and no line to move (R267). -/
def Roomy (u : State) (b sec : Nat) : Prop :=
  sectorIn u b sec ≠ none ∨ (NoMove u b (sec / 4) ∧
    ((linesOf u b).filter (fun l => decide (setFor (sharedOn u (b / 16)) l.num = setFor (sharedOn u (b / 16)) (sec / 4)))).length < 12 ∧
    (linesOf u b).length < 48)

/-- Sectors charged to tb by a fill (R149). -/
def fillCharge (u : State) (b sec : Nat) : Nat := if sectorIn u b sec = none then 1 else 0

/-- Byte `i` of a word. -/
def byteOf (w : Word) (i : Nat) : Byte := BitVec.ofNat 8 (w.toNat / 256 ^ i)

/-- A kick enters the FIFO of the hart that its word of the aperture names (R480, R481). -/
structure Kicked (h : Nat) (c : Ctx) (u : State) (v : Vals) (t : State) : Prop where
  rest  : t = { u with harts := t.harts, work := u.work ++ [.engineRoutineStart h] }
  fifo  : hartOf t h = { hartOf u h with fifo := (hartOf u h).fifo ++
      [{ team := c.team.ident, block := v.d.toNat, domain := c.team.domain, cluster := c.team.cluster }] }
  other : ∀ k, k ≠ h → hartOf t k = hartOf u k

/-- The hart a kick names: word 0 of the aperture names the copy engine of the cluster, words 32 to 39 the collective
engines of the cluster's IO die (R480). -/
def NamesHart (c : Ctx) (va : Word) (h : Nat) : Prop :=
  (va.toNat % 65536 = 0 ∧ h = c.team.cluster) ∨
    ∃ n, n < 8 ∧ va.toNat % 65536 = 256 + 8 * n ∧ h = 384 + 8 * teamIo c.team + n

/-- A kick that R480 and R481 let through: not by a routine, at a word of the aperture that names a hart, its block a multiple of
64 in the team's scratchpad. -/
def GoodKick (c : Ctx) (va v : Word) : Prop :=
  c.routine = false ∧ (∃ h, NamesHart c va h) ∧ v.toNat % 64 = 0 ∧ v.toNat < 2 ^ 19 ∧ scratchIn c.team v.toNat 64 = true

/-- The banks that a release or an acquire of a scope by a lane acts on (R295, R296). -/
def scopeBanks (s : State) (pipe : Nat) (sc : Scope) (fused : Bool) : List Nat :=
  if sharedOn s (pipe / 16) then
    (match sc with | .group => [] | .team => [] | _ => (List.range 16).map (pipe / 16 * 16 + ·))
  else
    (match sc with | .group => if fused then [] else [pipe] | _ => [pipe])

/-- Bytes written through the banks of a list stand at their home; what was not written reads there as before (R297). The banks
hold no common written sector. -/
def WrittenBack (s t : State) (bs : List Nat) : Prop :=
  ∀ b ∈ bs, ∀ sec e, sectorIn s b sec = some e → e.key ≠ .dead →
    (∀ b' ∈ bs, b' ≠ b → ∀ e', sectorIn s b' sec = some e' → e'.dirty = []) →
    ∀ o, o < 256 → homeByte t e.key (sec * 256 + o) = if o ∈ e.dirty then look 0 e.data o else homeByte s e.key (sec * 256 + o)

/-- The one copy of a sector among the banks that serve a lane, if any, made under the access's key. -/
def SoleCopy (u : State) (banks : List Nat) (key : KeySel) (sec : Nat) : Option Sector → Prop
  | none => ∀ b ∈ banks, sectorIn u b sec = none
  | some e => banks.Nodup ∧ e.key = key ∧ key ≠ .dead ∧ (∀ o ∈ e.dirty, o < 256) ∧
      ∃ b ∈ banks, sectorIn u b sec = some e ∧ ∀ b' ∈ banks, b' ≠ b → sectorIn u b' sec = none

/-- A byte as an access at the home finds it once the lane's copy has been written back and invalidated (R269). -/
def viaHome (u : State) (key : KeySel) (a : Nat) : Option Sector → Byte
  | none => homeByte u key a
  | some e => if a % 256 ∈ e.dirty then look 0 e.data (a % 256) else homeByte u key a

/-- Whether it finds poison (R271). -/
def badHome (u : State) (key : KeySel) (pa : Nat) : Option Sector → Bool
  | none => homeBad u key pa
  | some e => homeBad u key pa || (e.poison && decide (e.dirty ≠ []))

/-- The value an access at the home reads. -/
def homeValue (u : State) (r : Reached) (n : Nat) (e : Option Sector) : Nat :=
  gather (fun a => viaHome u r.x.key a e) n r.x.local_

/-! ### The fabric -/

/-- What remote elements and packets may change (R59 to R72): the fabric of this device, counts of teams that run or stand in
a vault, the tracking blocks and rings in memory with what serves memory, and the events that follow. -/
structure Sends (s t : State) : Prop where
  rest  : t = { s with mem := t.mem, poison := t.poison, sealed := t.sealed, banks := t.banks, clusters := t.clusters
                       free := t.free, ctl := t.ctl, teams := t.teams, timers := t.timers, work := t.work, fab := t.fab
                       sched := t.sched }
  ctl   : t.ctl = { s.ctl with tlbs := t.ctl.tlbs, grants := t.ctl.grants, shoots := t.ctl.shoots }
  sched : t.sched = { s.sched with vaults := t.sched.vaults }

/-! ### Correctly rounded results (R371, R372) -/

/-- The real number a decoded value stands for; 0 for an infinity or a NaN. -/
noncomputable def FVal.val : FVal → ℝ
  | .fin neg m e => (if neg then -1 else 1) * (m : ℝ) * (2 : ℝ) ^ e
  | _ => 0

/-- The integer that a direct rounding mode takes for a real number (R372). -/
def RoundsTo (rnd : Rounding) (x : ℝ) (n : ℤ) : Prop :=
  match rnd with
  | .rne => |x - n| ≤ 1 / 2 ∧ (|x - n| = 1 / 2 → n % 2 = 0)
  | .rna => |x - n| ≤ 1 / 2 ∧ (|x - n| = 1 / 2 → |x| ≤ |(n : ℝ)|)
  | .rtz => |(n : ℝ)| ≤ |x| ∧ |x| < |(n : ℝ)| + 1 ∧ 0 ≤ x * n
  | .rdn => (n : ℝ) ≤ x ∧ x < n + 1
  | .rup => (n : ℝ) - 1 < x ∧ x ≤ n
  | .sr _ => False

/-- Bits and flags of a result of a format. -/
abbrev FpResult : Type := Nat × Nat

/-- The correctly rounded result of an exact real number, with its flags (R371): to the precision of the format, subnormals
kept, tininess after rounding; `zn` is the sign of an exact zero. -/
def Correct (f : Fmt) (rnd : Rounding) (x : ℝ) (zn : Bool) (r : FpResult) : Prop :=
  (x = 0 → r = (packZero f zn, 0)) ∧
  (x ≠ 0 → ∃ l q n w : ℤ, (2 : ℝ) ^ l ≤ |x| ∧ |x| < (2 : ℝ) ^ (l + 1) ∧ q = max l f.emin - ((f.prec : ℤ) - 1) ∧
    RoundsTo rnd (x / (2 : ℝ) ^ q) n ∧ RoundsTo rnd (x / (2 : ℝ) ^ (l - ((f.prec : ℤ) - 1))) w ∧
    ((2 : ℝ) ^ ((f.bias : ℤ) + 1) ≤ |(n : ℝ)| * (2 : ℝ) ^ q → ∃ neg, (neg = true ↔ x < 0) ∧
      r = (packOverflow f rnd neg, flagOF + flagNX)) ∧
    (|(n : ℝ)| * (2 : ℝ) ^ q < (2 : ℝ) ^ ((f.bias : ℤ) + 1) →
      (∃ neg m e, (neg = true ↔ x < 0) ∧ r.1 < 2 ^ f.width ∧ decodeF f r.1 = .fin neg m e ∧
        FVal.val (.fin neg m e) = n * (2 : ℝ) ^ q) ∧
      (n * (2 : ℝ) ^ q = x → r.2 = 0) ∧
      (n * (2 : ℝ) ^ q ≠ x → (|(w : ℝ)| * (2 : ℝ) ^ (l - ((f.prec : ℤ) - 1)) < (2 : ℝ) ^ f.emin → r.2 = flagUF + flagNX) ∧
        ((2 : ℝ) ^ f.emin ≤ |(w : ℝ)| * (2 : ℝ) ^ (l - ((f.prec : ℤ) - 1)) → r.2 = flagNX))))

/-- The canonical NaN, with NV when the operation is invalid. -/
def IsNan (f : Fmt) (invalid : Bool) (r : FpResult) : Prop := r = (packNan f, if invalid then flagNV else 0)

/-- An exact infinity. -/
def IsInf (f : Fmt) (neg : Bool) (r : FpResult) : Prop := r = (packInf f neg, 0)

/-- A sum (R371, R414). -/
def SumIs (f : Fmt) (rnd : Rounding) (r : FpResult) : FVal → FVal → Prop
  | .nan s, y => IsNan f (s || y.signals) r
  | _, .nan s => IsNan f s r
  | .inf a, .inf b => if a = b then IsInf f a r else IsNan f true r
  | .inf a, .fin _ _ _ => IsInf f a r
  | .fin _ _ _, .inf b => IsInf f b r
  | .fin na ma ea, .fin nb mb eb =>
    Correct f rnd (FVal.val (.fin na ma ea) + FVal.val (.fin nb mb eb)) (if na = nb then na else decide (rnd = .rdn)) r

/-- A product (R371, R414). -/
def ProductIs (f : Fmt) (rnd : Rounding) (r : FpResult) : FVal → FVal → Prop
  | .nan s, y => IsNan f (s || y.signals) r
  | _, .nan s => IsNan f s r
  | .inf a, .inf b => IsInf f (a != b) r
  | .inf a, .fin b m _ => if m = 0 then IsNan f true r else IsInf f (a != b) r
  | .fin a m _, .inf b => if m = 0 then IsNan f true r else IsInf f (a != b) r
  | .fin na ma ea, .fin nb mb eb => Correct f rnd (FVal.val (.fin na ma ea) * FVal.val (.fin nb mb eb)) (na != nb) r

/-- A quotient (R371, R414). -/
def QuotientIs (f : Fmt) (rnd : Rounding) (r : FpResult) : FVal → FVal → Prop
  | .nan s, y => IsNan f (s || y.signals) r
  | _, .nan s => IsNan f s r
  | .inf _, .inf _ => IsNan f true r
  | .inf a, .fin b _ _ => IsInf f (a != b) r
  | .fin a _ _, .inf b => r = (packZero f (a != b), 0)
  | .fin na ma ea, .fin nb mb eb =>
    if mb = 0 then (if ma = 0 then IsNan f true r else r = (packInf f (na != nb), flagDZ))
    else Correct f rnd (FVal.val (.fin na ma ea) / FVal.val (.fin nb mb eb)) (na != nb) r

/-- A product of an infinity and a zero. -/
def infTimesZero : FVal → FVal → Bool
  | .inf _, .fin _ m _ => decide (m = 0)
  | .fin _ m _, .inf _ => decide (m = 0)
  | _, _ => false

/-- x × y + z rounded once (R415). -/
def FusedIs (f : Fmt) (rnd : Rounding) (r : FpResult) (x y z : FVal) : Prop :=
  if infTimesZero x y then IsNan f true r
  else if x.isNan || y.isNan || z.isNan then IsNan f (x.signals || y.signals || z.signals) r
  else match x, y, z with
    | .fin na ma ea, .fin nb mb eb, .fin nc mc ec =>
      Correct f rnd (FVal.val (.fin na ma ea) * FVal.val (.fin nb mb eb) + FVal.val (.fin nc mc ec))
        (if (na != nb) = nc then nc else decide (rnd = .rdn)) r
    | .fin _ _ _, .fin _ _ _, .inf c => IsInf f c r
    | a, b, .inf c => if (a.sign != b.sign) = c then IsInf f c r else IsNan f true r
    | a, b, _ => IsInf f (a.sign != b.sign) r

/-- A square root (R371, R416). -/
def RootIs (f : Fmt) (rnd : Rounding) (r : FpResult) : FVal → Prop
  | .nan s => IsNan f s r
  | .inf neg => if neg then IsNan f true r else IsInf f false r
  | .fin neg m e =>
    if m = 0 then r = (packZero f neg, 0)
    else if neg then IsNan f true r
    else Correct f rnd (Real.sqrt (FVal.val (.fin neg m e))) false r

/-- An integral value of the format (R416). -/
def IntegralIs (f : Fmt) (rnd : Rounding) (r : FpResult) : FVal → Prop
  | .nan s => IsNan f s r
  | .inf neg => IsInf f neg r
  | .fin neg m e => ∃ n : ℤ, RoundsTo rnd (FVal.val (.fin neg m e)) n ∧
      (∃ m' e', decodeF f r.1 = .fin neg m' e' ∧ FVal.val (.fin neg m' e') = n) ∧ r.1 < 2 ^ f.width ∧
      (FVal.val (.fin neg m e) = n → r.2 = 0) ∧ (FVal.val (.fin neg m e) ≠ n → r.2 = flagNX)

/-- A × 2^n rounded once (R416). -/
def ScaledIs (f : Fmt) (rnd : Rounding) (r : FpResult) (n : Int) : FVal → Prop
  | .nan s => IsNan f s r
  | .inf neg => IsInf f neg r
  | .fin neg m e => Correct f rnd (FVal.val (.fin neg m e) * (2 : ℝ) ^ n) neg r

/-- Order of two values that are no NaN. -/
def valLt (x y : FVal) : Prop :=
  match x, y with
  | .inf a, .inf b => a = true ∧ b = false
  | .inf a, .fin _ _ _ => a = true
  | .fin _ _ _, .inf b => b = false
  | .fin na ma ea, .fin nb mb eb => FVal.val (.fin na ma ea) < FVal.val (.fin nb mb eb)
  | _, _ => False

/-- Two values that are no NaN are equal; zeros of both signs are. -/
def valEq (x y : FVal) : Prop :=
  match x, y with
  | .inf a, .inf b => a = b
  | .fin na ma ea, .fin nb mb eb => FVal.val (.fin na ma ea) = FVal.val (.fin nb mb eb)
  | _, _ => False

/-- The order in which -0 counts as less than +0 (R371). -/
def below (x y : FVal) : Prop := valLt x y ∨ (valEq x y ∧ x.sign = true ∧ y.sign = false)

/-- minimumNumber and maximumNumber of two codes (R371). -/
def MinMaxIs (f : Fmt) (big : Bool) (a b : Nat) (r : FpResult) : Prop :=
  r.2 = (if (decodeF f a).signals || (decodeF f b).signals then flagNV else 0) ∧
  (if (decodeF f a).isNan then (if (decodeF f b).isNan then r.1 = packNan f else r.1 = b)
   else if (decodeF f b).isNan then r.1 = a
   else
     (r.1 = a ∧ ¬(if big then below (decodeF f a) (decodeF f b) else below (decodeF f b) (decodeF f a))) ∨
     (r.1 = b ∧ ¬(if big then below (decodeF f b) (decodeF f a) else below (decodeF f a) (decodeF f b))))

/-- The class of a code, one bit of ten (R417). -/
def classOfCode (f : Fmt) (v : Nat) : Nat :=
  2 ^ (if v / 2 ^ (f.prec - 1) % 2 ^ f.ebits = 2 ^ f.ebits - 1 then
        (if v % 2 ^ (f.prec - 1) = 0 then (if bitN v (f.width - 1) then 0 else 7) else if bitN v (f.prec - 2) then 9 else 8)
       else if v / 2 ^ (f.prec - 1) % 2 ^ f.ebits = 0 then
        (if v % 2 ^ (f.prec - 1) = 0 then (if bitN v (f.width - 1) then 3 else 4) else if bitN v (f.width - 1) then 2 else 5)
       else if bitN v (f.width - 1) then 1 else 6)

/-! ### Runs -/

/-- A run of steps from one state to another. Between steps the surroundings may put further choices into the schedule. -/
inductive Run : State → State → Prop where
  | refl (s : State) : Run s s
  | step (s t u : State) (h : Run s t) (e : step t = .next u) : Run s u
  | choose (s t : State) (more : List Turn) (h : Run s t) : Run s { t with schedule := t.schedule ++ more }

/-- The states of a module that was reset. -/
def State.Reachable (s : State) : Prop := Run State.reset s

end Sys2Proof.Machine
end

