-- ==== Sys2Proof/Certificates/Slice0/Obligations.lean ====
section
/-!
DEFINITION. Statements of the manual's rules about the Z5, for the provers.
-/

open Sys2Proof Sys2Proof.Machine

namespace Sys2Proof.Machine

/-! ### Results of computing instructions -/

/-- What a rule says an instruction computes: its destination, whether the result is long-latency (R205), and the result of a
lane, given the context, the operands of all active lanes in order, and the lane's own. -/
structure Computes where
  dest : RegName
  long : Bool
  res  : Ctx → List Vals → Vals → Word → Prop

/-- A result of ALU class from the lane's own operands. -/
abbrev quick (d : RegName) (p : Vals → Word → Prop) : Option Computes := some ⟨d, false, fun _ _ v r => p v r⟩

/-- A long-latency result from the lane's own operands. -/
abbrev slow (d : RegName) (p : Vals → Word → Prop) : Option Computes := some ⟨d, true, fun _ _ v r => p v r⟩

/-- A lane's result stands, or is outstanding when it is long-latency. -/
def Delivered (s t : State) (c : Ctx) (i : Instr) (k : Computes) (e : Nat × Nat) (r : Word) : Prop :=
  if k.long then Outstanding s t c k.dest e r else Holds s t c i k.dest e r

/-- Every instruction of a table issues with exactly its result: `exec` answers a next state that differs from the state before
only in what OnlyComputes allows, and every active lane's result satisfies the rule. -/
def Computed (table : Instr → Option Computes) : Prop :=
  ∀ (s : State) (c : Ctx) (i : Instr) (k : Computes), Issues s c i → table i = some k →
    ∃ t, exec i s = .next t ∧ OnlyComputes s t c (some k.dest) false ∧
      ∀ e ∈ c.lanes, ∃ r, k.res c (c.lanes.map (valsOf s c i)) (valsOf s c i e) r ∧ Delivered s t c i k e r

/-- A signed saturation of R12. -/
def clampS (n : Nat) (v : Int) : Int := max (-(2 ^ (n - 1))) (min (2 ^ (n - 1) - 1) v)

/-- ARITH (R399) and CSEL (R405). -/
def arithRule : Instr → Option Computes
  | .add _ d _ _ => quick d (fun v r => r.toNat = (v.a.toNat + v.b.toNat) % 2 ^ 64)
  | .sub _ d _ _ => quick d (fun v r => (r.toNat : Int) = ((v.a.toNat : Int) - v.b.toNat) % 2 ^ 64)
  | .minS _ d _ _ => quick d (fun v r => r.toInt = min v.a.toInt v.b.toInt)
  | .maxS _ d _ _ => quick d (fun v r => r.toInt = max v.a.toInt v.b.toInt)
  | .minN _ d _ _ => quick d (fun v r => r.toNat = min v.a.toNat v.b.toNat)
  | .maxN _ d _ _ => quick d (fun v r => r.toNat = max v.a.toNat v.b.toNat)
  | .addsS _ d _ _ => quick d (fun v r => r.toInt = clampS 64 (v.a.toInt + v.b.toInt))
  | .subsS _ d _ _ => quick d (fun v r => r.toInt = clampS 64 (v.a.toInt - v.b.toInt))
  | .csel _ d _ _ => quick d (fun v r => r = if v.d.toNat ≠ 0 then v.a else v.b)
  | _ => none

/-- MULDIV (R400) with the cases of R368. -/
def muldivRule : Instr → Option Computes
  | .mul _ d _ _ => quick d (fun v r => r.toNat = v.a.toNat * v.b.toNat % 2 ^ 64)
  | .mulhS _ d _ _ => quick d (fun v r => r.toInt = v.a.toInt * v.b.toInt / 2 ^ 64)
  | .mulhN _ d _ _ => quick d (fun v r => r.toNat = v.a.toNat * v.b.toNat / 2 ^ 64)
  | .mac _ d _ _ => quick d (fun v r => r.toNat = (v.d.toNat + v.a.toNat * v.b.toNat) % 2 ^ 64)
  | .divS _ d _ _ => slow d (fun v r => r.toInt =
      if v.b.toInt = 0 then -1
      else if v.a.toInt = -(2 ^ 63) ∧ v.b.toInt = -1 then -(2 ^ 63) else v.a.toInt.tdiv v.b.toInt)
  | .divN _ d _ _ => slow d (fun v r => r.toNat = if v.b.toNat = 0 then 2 ^ 64 - 1 else v.a.toNat / v.b.toNat)
  | .remS _ d _ _ => slow d (fun v r => r.toInt =
      if v.b.toInt = 0 then v.a.toInt
      else if v.a.toInt = -(2 ^ 63) ∧ v.b.toInt = -1 then 0 else v.a.toInt - v.b.toInt * v.a.toInt.tdiv v.b.toInt)
  | .remN _ d _ _ => slow d (fun v r => r.toNat =
      if v.b.toNat = 0 then v.a.toNat else v.a.toNat - v.b.toNat * (v.a.toNat / v.b.toNat))
  | _ => none

/-- A result given bit by bit. -/
abbrev bitwise (d : RegName) (p : Vals → Nat → Bool) : Option Computes :=
  quick d (fun v r => ∀ n, n < 64 → r.getLsbD n = p v n)

/-- The count of a shift by a register (R369). -/
def countOf (v : Vals) : Nat := v.b.toNat % 64

/-- LOGIC (R401), SHIFT and SHI (R402). -/
def logicRule : Instr → Option Computes
  | .and _ d _ _ => bitwise d (fun v n => v.a.getLsbD n && v.b.getLsbD n)
  | .or _ d _ _ => bitwise d (fun v n => v.a.getLsbD n || v.b.getLsbD n)
  | .xor _ d _ _ => bitwise d (fun v n => v.a.getLsbD n != v.b.getLsbD n)
  | .andn _ d _ _ => bitwise d (fun v n => v.a.getLsbD n && !v.b.getLsbD n)
  | .orn _ d _ _ => bitwise d (fun v n => v.a.getLsbD n || !v.b.getLsbD n)
  | .xnor _ d _ _ => bitwise d (fun v n => v.a.getLsbD n == v.b.getLsbD n)
  | .bsel _ d _ _ => quick d (fun v r => r.toNat = (v.a.getLsbD (countOf v)).toNat)
  | .shl _ d _ _ => quick d (fun v r => r.toNat = v.a.toNat * 2 ^ countOf v % 2 ^ 64)
  | .shr _ d _ _ => quick d (fun v r => r.toNat = v.a.toNat / 2 ^ countOf v)
  | .sar _ d _ _ => quick d (fun v r => r.toInt = v.a.toInt / 2 ^ countOf v)
  | .rol _ d _ _ => bitwise d (fun v n => v.a.getLsbD ((n + 64 - countOf v) % 64))
  | .ror _ d _ _ => bitwise d (fun v n => v.a.getLsbD ((n + countOf v) % 64))
  | .shli _ d _ k => quick d (fun v r => r.toNat = v.a.toNat * 2 ^ k.toNat % 2 ^ 64)
  | .shri _ d _ k => quick d (fun v r => r.toNat = v.a.toNat / 2 ^ k.toNat)
  | .sari _ d _ k => quick d (fun v r => r.toInt = v.a.toInt / 2 ^ k.toNat)
  | .roli _ d _ k => bitwise d (fun v n => v.a.getLsbD ((n + 64 - k.toNat) % 64))
  | .rori _ d _ k => bitwise d (fun v n => v.a.getLsbD ((n + k.toNat) % 64))
  | _ => none

/-- The width of SEXT and ZEXT (R403). -/
def extendOf (v : Vals) : Nat := if v.b.toNat % 64 = 0 then 64 else v.b.toNat % 64

/-- BITS (R403). -/
def bitsRule : Instr → Option Computes
  | .clz _ d _ => quick d (fun v r => r.toNat ≤ 64 ∧ (∀ n, 64 - r.toNat ≤ n → n < 64 → v.a.getLsbD n = false) ∧
      (r.toNat < 64 → v.a.getLsbD (63 - r.toNat) = true))
  | .ctz _ d _ => quick d (fun v r => r.toNat ≤ 64 ∧ (∀ n, n < r.toNat → v.a.getLsbD n = false) ∧
      (r.toNat < 64 → v.a.getLsbD r.toNat = true))
  | .popc _ d _ => quick d (fun v r => r.toNat = ((List.range 64).filter (fun n => v.a.getLsbD n)).length)
  | .brev _ d _ => bitwise d (fun v n => v.a.getLsbD (63 - n))
  | .bswap _ d _ => bitwise d (fun v n => v.a.getLsbD (8 * (7 - n / 8) + n % 8))
  | .sext _ d _ _ => bitwise d (fun v n => v.a.getLsbD (min n (extendOf v - 1)))
  | .zext _ d _ _ => bitwise d (fun v n => decide (n < extendOf v) && v.a.getLsbD n)
  | _ => none

/-- 1 when a condition holds, else 0. -/
abbrev tests (d : RegName) (p : Vals → Prop) : Option Computes := quick d (fun v r => (p v ∧ r = 1) ∨ (¬p v ∧ r = 0))

/-- CMP and CMPI (R404). -/
def compareRule : Instr → Option Computes
  | .cmpEq _ d _ _ => tests d (fun v => v.a.toNat = v.b.toNat)
  | .cmpNe _ d _ _ => tests d (fun v => v.a.toNat ≠ v.b.toNat)
  | .cmpLtS _ d _ _ => tests d (fun v => v.a.toInt < v.b.toInt)
  | .cmpLeS _ d _ _ => tests d (fun v => v.a.toInt ≤ v.b.toInt)
  | .cmpLtN _ d _ _ => tests d (fun v => v.a.toNat < v.b.toNat)
  | .cmpLeN _ d _ _ => tests d (fun v => v.a.toNat ≤ v.b.toNat)
  | .cmpTst _ d _ _ => tests d (fun v => ∃ n, v.a.getLsbD n = true ∧ v.b.getLsbD n = true)
  | .cmpiEq _ d _ m => tests d (fun v => v.a.toInt = m.toInt)
  | .cmpiNe _ d _ m => tests d (fun v => v.a.toInt ≠ m.toInt)
  | .cmpiLtS _ d _ m => tests d (fun v => v.a.toInt < m.toInt)
  | .cmpiLeS _ d _ m => tests d (fun v => v.a.toInt ≤ m.toInt)
  | .cmpiLtN _ d _ m => tests d (fun v => (v.a.toNat : Int) < m.toInt % 2 ^ 64)
  | .cmpiLeN _ d _ m => tests d (fun v => (v.a.toNat : Int) ≤ m.toInt % 2 ^ 64)
  | .cmpiTst _ d _ m => tests d (fun v => ∃ n, v.a.getLsbD n = true ∧ (BitVec.ofInt 64 m.toInt).getLsbD n = true)
  | _ => none

/-- Bits [31:0] of an operand, unsigned and signed. -/
def lowN (w : Word) : Nat := w.toNat % 2 ^ 32
def lowS (w : Word) : Int := Int.bmod w.toNat (2 ^ 32)

/-- A 32-bit result, sign-extended from bit 31. -/
abbrev narrow (d : RegName) (p : Vals → Int) : Option Computes := quick d (fun v r => r.toInt = Int.bmod (p v) (2 ^ 32))

/-- ARITHW (R406). -/
def arithwRule : Instr → Option Computes
  | .addw _ d _ _ => narrow d (fun v => lowN v.a + lowN v.b)
  | .subw _ d _ _ => narrow d (fun v => lowN v.a - lowN v.b)
  | .mulw _ d _ _ => narrow d (fun v => lowN v.a * lowN v.b)
  | .shlw _ d _ _ => narrow d (fun v => lowN v.a * 2 ^ (v.b.toNat % 32))
  | .shrw _ d _ _ => narrow d (fun v => (lowN v.a / 2 ^ (v.b.toNat % 32) : Nat))
  | .sarw _ d _ _ => narrow d (fun v => lowS v.a / 2 ^ (v.b.toNat % 32))
  | _ => none

/-- ADDI to XORI (R407), LI, LIX and ADDPC (R408), LEA (R409). -/
def immediateRule : Instr → Option Computes
  | .addi _ d _ m => quick d (fun v r => (r.toNat : Int) = ((v.a.toNat : Int) + m.toInt) % 2 ^ 64)
  | .andi _ d _ m => bitwise d (fun v n => v.a.getLsbD n && m.getLsbD (min n 9))
  | .ori _ d _ m => bitwise d (fun v n => v.a.getLsbD n || m.getLsbD n)
  | .xori _ d _ m => bitwise d (fun v n => v.a.getLsbD n != m.getLsbD n)
  | .li _ d m => quick d (fun _ r => r.toInt = m.toInt)
  | .lix _ d m => quick d (fun v r => r.toNat = v.d.toNat * 2 ^ 17 % 2 ^ 64 + m.toNat)
  | .addpc _ d m => some ⟨d, false, fun c _ _ r => (r.toNat : Int) = ((c.st.pc.toNat : Int) + 4 * m.toInt) % 2 ^ 64⟩
  | .lea1 _ d _ _ => quick d (fun v r => r.toNat = (v.a.toNat + v.b.toNat * 1) % 2 ^ 64)
  | .lea2 _ d _ _ => quick d (fun v r => r.toNat = (v.a.toNat + v.b.toNat * 2) % 2 ^ 64)
  | .lea4 _ d _ _ => quick d (fun v r => r.toNat = (v.a.toNat + v.b.toNat * 4) % 2 ^ 64)
  | .lea8 _ d _ _ => quick d (fun v r => r.toNat = (v.a.toNat + v.b.toNat * 8) % 2 ^ 64)
  | .lea16 _ d _ _ => quick d (fun v r => r.toNat = (v.a.toNat + v.b.toNat * 16) % 2 ^ 64)
  | _ => none

/-- Element i of a register cut into elements of w bits, unsigned and signed (R374). -/
def elN (w i : Nat) (x : Word) : Nat := x.toNat / 2 ^ (w * i) % 2 ^ w
def elS (w i : Nat) (x : Word) : Int := Int.bmod (elN w i x) (2 ^ w)

/-- A result given element by element. -/
abbrev packed (w : Nat) (d : RegName) (p : Vals → Nat → Int) : Option Computes :=
  quick d (fun v r => ∀ i, i < 64 / w → (elN w i r : Int) = p v i % 2 ^ w)

/-- The sum over the `k` elements of w bits in word j of both operands of their products (R411). -/
def dotIn (w k j : Nat) (el : Nat → Nat → Word → Int) (v : Vals) : Int :=
  ((List.range k).map (fun i => el w (k * j + i) v.a * el w (k * j + i) v.b)).sum

/-- PADD (R410), PMUL (R411) and PERM (R412). -/
def packedRule : Instr → Option Computes
  | .paddB _ d _ _ => packed 8 d (fun v i => elN 8 i v.a + elN 8 i v.b)
  | .paddH _ d _ _ => packed 16 d (fun v i => elN 16 i v.a + elN 16 i v.b)
  | .paddW _ d _ _ => packed 32 d (fun v i => elN 32 i v.a + elN 32 i v.b)
  | .psubB _ d _ _ => packed 8 d (fun v i => elN 8 i v.a - elN 8 i v.b)
  | .psubH _ d _ _ => packed 16 d (fun v i => elN 16 i v.a - elN 16 i v.b)
  | .psubW _ d _ _ => packed 32 d (fun v i => elN 32 i v.a - elN 32 i v.b)
  | .paddsB _ d _ _ => packed 8 d (fun v i => clampS 8 (elS 8 i v.a + elS 8 i v.b))
  | .paddsH _ d _ _ => packed 16 d (fun v i => clampS 16 (elS 16 i v.a + elS 16 i v.b))
  | .pmulH _ d _ _ => packed 16 d (fun v i => elN 16 i v.a * elN 16 i v.b)
  | .pmulW _ d _ _ => packed 32 d (fun v i => elN 32 i v.a * elN 32 i v.b)
  | .pdotBS _ d _ _ => packed 32 d (fun v j => elN 32 j v.d + dotIn 8 4 j elS v)
  | .pdotBN _ d _ _ => packed 32 d (fun v j => elN 32 j v.d + dotIn 8 4 j (fun w i x => elN w i x) v)
  | .pdotHS _ d _ _ => packed 32 d (fun v j => elN 32 j v.d + dotIn 16 2 j elS v)
  | .pmaxHS _ d _ _ => packed 16 d (fun v i => max (elS 16 i v.a) (elS 16 i v.b))
  | .pminHS _ d _ _ => packed 16 d (fun v i => min (elS 16 i v.a) (elS 16 i v.b))
  | .packlo _ d _ _ => packed 32 d (fun v i => if i = 0 then elN 32 0 v.a else elN 32 0 v.b)
  | .packhi _ d _ _ => packed 32 d (fun v i => if i = 0 then elN 32 1 v.a else elN 32 1 v.b)
  | .shufb _ d _ _ => packed 8 d (fun v i => if elN 8 i v.b ≥ 128 then 0 else elN 8 (elN 8 i v.b % 8) v.a)
  | _ => none

/-! ### Lane operations and group reductions -/

/-- A of the active lane `l`; none when that lane is not active. -/
def activeA (vs : List Vals) (l : Int) : Option Word := (vs.find? (fun v => decide ((v.ln : Int) = l))).map Vals.a

/-- A long-latency result that depends on all active lanes. -/
abbrev across (d : RegName) (p : List Vals → Vals → Word → Prop) : Option Computes := some ⟨d, true, fun _ vs v r => p vs v r⟩

/-- The lane that SHFL names gives its A, or the lane keeps its own (R433). -/
def takes (vs : List Vals) (v : Vals) (l : Int) (r : Word) : Prop := r = (activeA vs l).getD v.a

/-- LANEX: shuffles, votes and BCAST (R433, R434). -/
def laneRule : Instr → Option Computes
  | .shflIdx _ d _ _ => across d (fun vs v r => takes vs v v.b.toNat r)
  | .shflXor _ d _ _ => across d (fun vs v r => takes vs v (BitVec.ofNat 64 v.ln ^^^ v.b).toNat r)
  | .shflUp _ d _ _ => across d (fun vs v r => takes vs v ((v.ln : Int) - v.b.toNat) r)
  | .shflDn _ d _ _ => across d (fun vs v r => takes vs v ((v.ln : Int) + v.b.toNat) r)
  | .voteAny _ d _ => across d (fun vs _ r => ((∃ u ∈ vs, u.a ≠ 0) ∧ r = 1) ∨ ((∀ u ∈ vs, u.a = 0) ∧ r = 0))
  | .voteAll _ d _ => across d (fun vs _ r => ((∀ u ∈ vs, u.a ≠ 0) ∧ r = 1) ∨ ((∃ u ∈ vs, u.a = 0) ∧ r = 0))
  | .voteBal _ d _ => across d (fun vs _ r => ∀ n, n < 64 → (r.getLsbD n = true ↔ ∃ u ∈ vs, u.ln = n ∧ u.a ≠ 0))
  | .bcast _ d _ _ => across d (fun vs _ r => ∀ u us, vs = u :: us → takes vs u u.b.toNat r)
  | _ => none

/-- GRED and GSCAN on integers (R435). -/
def reduceRule : Instr → Option Computes
  | .gredAdd _ d _ => across d (fun vs _ r => r.toNat = (vs.map (fun u => u.a.toNat)).sum % 2 ^ 64)
  | .gredMinS _ d _ => across d (fun vs _ r => (∃ u ∈ vs, r = u.a) ∧ ∀ u ∈ vs, r.toInt ≤ u.a.toInt)
  | .gredMaxS _ d _ => across d (fun vs _ r => (∃ u ∈ vs, r = u.a) ∧ ∀ u ∈ vs, u.a.toInt ≤ r.toInt)
  | .gredAnd _ d _ => across d (fun vs _ r => ∀ n, n < 64 → (r.getLsbD n = true ↔ ∀ u ∈ vs, u.a.getLsbD n = true))
  | .gredOr _ d _ => across d (fun vs _ r => ∀ n, n < 64 → (r.getLsbD n = true ↔ ∃ u ∈ vs, u.a.getLsbD n = true))
  | .gredXor _ d _ => across d (fun vs _ r => ∀ n, n < 64 →
      r.getLsbD n = decide ((vs.filter (fun u => u.a.getLsbD n)).length % 2 = 1))
  | .gscanAdd _ d _ => across d (fun vs v r =>
      r.toNat = ((vs.filter (fun u => decide (u.ln ≤ v.ln))).map (fun u => u.a.toNat)).sum % 2 ^ 64)
  | _ => none

/-! ### Results of floating-point instructions -/

/-- What a rule says a floating-point instruction computes: its destination, whether the result is long-latency (R205), and the
bits and flags of a lane's result, given the rounding mode in force and the lane's operands. -/
structure ComputesFp where
  dest : RegName
  long : Bool
  res  : Rounding → Vals → FpResult → Prop

/-- Every instruction of a table issues with exactly its result: every active lane's bits stand at its destination, FCSR
takes the flags of all active lanes, and nothing else changes but what OnlyComputes allows. -/
def ComputedFp (table : Instr → Option ComputesFp) : Prop :=
  ∀ (s : State) (c : Ctx) (i : Instr) (k : ComputesFp), Issues s c i → table i = some k →
    ∃ (t : State) (f : Nat × Nat → FpResult), exec i s = .next t ∧ OnlyComputes s t c (some k.dest) true ∧
      (∀ e ∈ c.lanes, k.res (roundingIn c.st) (valsOf s c i e) (f e) ∧
        (if k.long then Outstanding s t c k.dest e (word (f e).1) else Holds s t c i k.dest e (word (f e).1))) ∧
      FlagsRaised t c (flagsAll (c.lanes.map (fun e => (f e).2)))

abbrev fpQuick (d : RegName) (p : Rounding → Vals → FpResult → Prop) : Option ComputesFp := some ⟨d, false, p⟩
abbrev fpSlow (d : RegName) (p : Rounding → Vals → FpResult → Prop) : Option ComputesFp := some ⟨d, true, p⟩

/-- FP32 and FP64 operands (R413). -/
def f32 (w : Word) : FVal := decodeF fp32 (lo32 w)
def f64 (w : Word) : FVal := decodeF fp64 w.toNat

/-- A result whose bits are those of one operand but for the sign, without flags. -/
abbrev signOnly (n : Nat) (d : RegName) (sgn : Vals → Bool) : Option ComputesFp :=
  fpQuick d (fun _ v r => r.2 = 0 ∧ r.1 < 2 ^ n ∧ ∀ m, m < n → r.1.testBit m = if m = n - 1 then sgn v else v.a.getLsbD m)

/-- FALU.S and FALU.D (R414), FMA (R415). -/
def falu : Instr → Option ComputesFp
  | .faddS _ d _ _ => fpQuick d (fun rnd v r => SumIs fp32 rnd r (f32 v.a) (f32 v.b))
  | .fsubS _ d _ _ => fpQuick d (fun rnd v r => SumIs fp32 rnd r (f32 v.a) (f32 v.b).negate)
  | .fmulS _ d _ _ => fpQuick d (fun rnd v r => ProductIs fp32 rnd r (f32 v.a) (f32 v.b))
  | .fdivS _ d _ _ => fpSlow d (fun rnd v r => QuotientIs fp32 rnd r (f32 v.a) (f32 v.b))
  | .fminS _ d _ _ => fpQuick d (fun _ v r => MinMaxIs fp32 false (lo32 v.a) (lo32 v.b) r)
  | .fmaxS _ d _ _ => fpQuick d (fun _ v r => MinMaxIs fp32 true (lo32 v.a) (lo32 v.b) r)
  | .fabsS _ d _ => signOnly 32 d (fun _ => false)
  | .fnegS _ d _ => signOnly 32 d (fun v => !v.a.getLsbD 31)
  | .faddD _ d _ _ => fpQuick d (fun rnd v r => SumIs fp64 rnd r (f64 v.a) (f64 v.b))
  | .fsubD _ d _ _ => fpQuick d (fun rnd v r => SumIs fp64 rnd r (f64 v.a) (f64 v.b).negate)
  | .fmulD _ d _ _ => fpQuick d (fun rnd v r => ProductIs fp64 rnd r (f64 v.a) (f64 v.b))
  | .fdivD _ d _ _ => fpSlow d (fun rnd v r => QuotientIs fp64 rnd r (f64 v.a) (f64 v.b))
  | .fminD _ d _ _ => fpQuick d (fun _ v r => MinMaxIs fp64 false v.a.toNat v.b.toNat r)
  | .fmaxD _ d _ _ => fpQuick d (fun _ v r => MinMaxIs fp64 true v.a.toNat v.b.toNat r)
  | .fabsD _ d _ => signOnly 64 d (fun _ => false)
  | .fnegD _ d _ => signOnly 64 d (fun v => !v.a.getLsbD 63)
  | .fmaS _ d _ _ => fpQuick d (fun rnd v r => FusedIs fp32 rnd r (f32 v.a) (f32 v.b) (f32 v.d))
  | .fmsS _ d _ _ => fpQuick d (fun rnd v r => FusedIs fp32 rnd r (f32 v.a) (f32 v.b) (f32 v.d).negate)
  | .fnmaS _ d _ _ => fpQuick d (fun rnd v r => FusedIs fp32 rnd r (f32 v.a).negate (f32 v.b) (f32 v.d))
  | .fmaD _ d _ _ => fpQuick d (fun rnd v r => FusedIs fp64 rnd r (f64 v.a) (f64 v.b) (f64 v.d))
  | .fmsD _ d _ _ => fpQuick d (fun rnd v r => FusedIs fp64 rnd r (f64 v.a) (f64 v.b) (f64 v.d).negate)
  | .fnmaD _ d _ _ => fpQuick d (fun rnd v r => FusedIs fp64 rnd r (f64 v.a).negate (f64 v.b) (f64 v.d))
  | _ => none

/-- 1 or 0 by a condition, and NV by another. -/
abbrev fpTest (d : RegName) (p : Vals → Prop) (nv : Vals → Bool) : Option ComputesFp :=
  fpQuick d (fun _ v r => r.2 = (if nv v then flagNV else 0) ∧ ((p v ∧ r.1 = 1) ∨ (¬p v ∧ r.1 = 0)))

/-- FMISC (R416) and FCMP (R417). -/
def fmisc : Instr → Option ComputesFp
  | .fsgnjS _ d _ _ => signOnly 32 d (fun v => v.b.getLsbD 31)
  | .fsgnjnS _ d _ _ => signOnly 32 d (fun v => !v.b.getLsbD 31)
  | .fsgnjxS _ d _ _ => signOnly 32 d (fun v => v.a.getLsbD 31 != v.b.getLsbD 31)
  | .frintS _ d _ => fpQuick d (fun rnd v r => IntegralIs fp32 rnd r (f32 v.a))
  | .frintD _ d _ => fpQuick d (fun rnd v r => IntegralIs fp64 rnd r (f64 v.a))
  | .fsqrtD _ d _ => fpSlow d (fun rnd v r => RootIs fp64 rnd r (f64 v.a))
  | .fscaleS _ d _ _ => fpQuick d (fun rnd v r => ScaledIs fp32 rnd r v.b.toInt (f32 v.a))
  | .feqS _ d _ _ => fpTest d (fun v => valEq (f32 v.a) (f32 v.b)) (fun v => (f32 v.a).signals || (f32 v.b).signals)
  | .feqD _ d _ _ => fpTest d (fun v => valEq (f64 v.a) (f64 v.b)) (fun v => (f64 v.a).signals || (f64 v.b).signals)
  | .fltS _ d _ _ => fpTest d (fun v => valLt (f32 v.a) (f32 v.b)) (fun v => (f32 v.a).isNan || (f32 v.b).isNan)
  | .fltD _ d _ _ => fpTest d (fun v => valLt (f64 v.a) (f64 v.b)) (fun v => (f64 v.a).isNan || (f64 v.b).isNan)
  | .fleS _ d _ _ => fpTest d (fun v => valLt (f32 v.a) (f32 v.b) ∨ valEq (f32 v.a) (f32 v.b))
      (fun v => (f32 v.a).isNan || (f32 v.b).isNan)
  | .fleD _ d _ _ => fpTest d (fun v => valLt (f64 v.a) (f64 v.b) ∨ valEq (f64 v.a) (f64 v.b))
      (fun v => (f64 v.a).isNan || (f64 v.b).isNan)
  | .funS _ d _ _ => fpTest d (fun v => (f32 v.a).isNan = true ∨ (f32 v.b).isNan = true)
      (fun v => (f32 v.a).signals || (f32 v.b).signals)
  | .fclass _ d _ => fpQuick d (fun _ v r =>
      r.2 = 0 ∧ r.1 = classOfCode fp32 (lo32 v.a) + 2 ^ 16 * classOfCode fp64 v.a.toNat)
  | _ => none

/-- A packed result: the elements of the result are `g 0`, `g 1` and so on, and its flags are those of all (R374). -/
def Elementwise (w n : Nat) (p : Nat → FpResult → Prop) (r : FpResult) : Prop :=
  ∃ g : Nat → FpResult, (∀ i, i < n → p i (g i)) ∧ r.1 < 2 ^ (w * n) ∧ (∀ i, i < n → r.1 / 2 ^ (w * i) % 2 ^ w = (g i).1 % 2 ^ w) ∧
    r.2 = flagsAll ((List.range n).map (fun i => (g i).2))

/-- Element i of a register decoded. -/
def elF (f : Fmt) (i : Nat) (w : Word) : FVal := decodeF f (elN f.width i w)

/-- FPK (R418). -/
def fpk : Instr → Option ComputesFp
  | .fadd2s _ d _ _ => fpQuick d (fun rnd v => Elementwise 32 2 (fun i r => SumIs fp32 rnd r (elF fp32 i v.a) (elF fp32 i v.b)))
  | .fsub2s _ d _ _ => fpQuick d (fun rnd v => Elementwise 32 2 (fun i r =>
      SumIs fp32 rnd r (elF fp32 i v.a) (elF fp32 i v.b).negate))
  | .fmul2s _ d _ _ => fpQuick d (fun rnd v => Elementwise 32 2 (fun i r =>
      ProductIs fp32 rnd r (elF fp32 i v.a) (elF fp32 i v.b)))
  | .fma2s _ d _ _ => fpQuick d (fun rnd v => Elementwise 32 2 (fun i r =>
      FusedIs fp32 rnd r (elF fp32 i v.a) (elF fp32 i v.b) (elF fp32 i v.d)))
  | .fadd4h _ d _ _ => fpQuick d (fun rnd v => Elementwise 16 4 (fun i r => SumIs fp16 rnd r (elF fp16 i v.a) (elF fp16 i v.b)))
  | .fmul4h _ d _ _ => fpQuick d (fun rnd v => Elementwise 16 4 (fun i r =>
      ProductIs fp16 rnd r (elF fp16 i v.a) (elF fp16 i v.b)))
  | .fma4h _ d _ _ => fpQuick d (fun rnd v => Elementwise 16 4 (fun i r =>
      FusedIs fp16 rnd r (elF fp16 i v.a) (elF fp16 i v.b) (elF fp16 i v.d)))
  | .fma4b _ d _ _ => fpQuick d (fun rnd v => Elementwise 16 4 (fun i r =>
      FusedIs bf16 rnd r (elF bf16 i v.a) (elF bf16 i v.b) (elF bf16 i v.d)))
  | _ => none

/-- SFU (R420): the result is a fixed function of the input, and the square root is correctly rounded. -/
def sfuRule : Instr → Option ComputesFp
  | .frcpS _ d _ => fpSlow d (fun _ v r => r = sfuRcp (lo32 v.a))
  | .frsqS _ d _ => fpSlow d (fun _ v r => r = sfuRsq (lo32 v.a))
  | .fsqrtS _ d _ => fpSlow d (fun rnd v r => RootIs fp32 rnd r (f32 v.a))
  | .fexp2S _ d _ => fpSlow d (fun _ v r => r = sfuExp2 (lo32 v.a))
  | .flog2S _ d _ => fpSlow d (fun _ v r => r = sfuLog2 (lo32 v.a))
  | .fsinpiS _ d _ => fpSlow d (fun _ v r => r = sfuSinPi (lo32 v.a))
  | .fcospiS _ d _ => fpSlow d (fun _ v r => r = sfuCosPi (lo32 v.a))
  | .ftanhS _ d _ => fpSlow d (fun _ v r => r = sfuTanh (lo32 v.a))
  | _ => none

/-! ### Conversions -/

/-- The rounded value of an input in a binary format (R383). -/
def FormatIs (f : Fmt) (rnd : Rounding) (r : FpResult) : FVal → Prop
  | .nan s => IsNan f s r
  | .inf neg => IsInf f neg r
  | .fin neg m e => Correct f rnd (FVal.val (.fin neg m e)) neg r

/-- The n-bit pattern of an integer. -/
def patternOf (v : ℤ) (n : Nat) : Nat := (v % 2 ^ n).toNat

/-- The least and the greatest value of an integer format. -/
def intLeast (sg : Bool) (n : Nat) : ℤ := if sg then -(2 ^ (n - 1)) else 0
def intGreatest (sg : Bool) (n : Nat) : ℤ := if sg then 2 ^ (n - 1) - 1 else 2 ^ n - 1

/-- An input converted to an integer format (R384). -/
def IntegerIs (rnd : Rounding) (sg : Bool) (n : Nat) (r : FpResult) : FVal → Prop
  | .nan _ => r = (0, flagNV)
  | .inf neg => r = (patternOf (if neg then intLeast sg n else intGreatest sg n) n, flagNV)
  | .fin neg m e => ∃ k : ℤ, RoundsTo rnd (FVal.val (.fin neg m e)) k ∧
      (intGreatest sg n < k → r = (patternOf (intGreatest sg n) n, flagNV)) ∧
      (k < intLeast sg n → r = (patternOf (intLeast sg n) n, flagNV)) ∧
      (intLeast sg n ≤ k → k ≤ intGreatest sg n → r.1 = patternOf k n ∧
        (FVal.val (.fin neg m e) = k → r.2 = 0) ∧ (FVal.val (.fin neg m e) ≠ k → r.2 = flagNX))

/-- An element converted under a direct rounding mode (R379, R383 to R385). -/
def ElementIs (rnd : Rounding) (target source : ConvKind) (v : Nat) (r : FpResult) : Prop :=
  match source, target with
  | .num f _, .num (.ieee g) _ => FormatIs g rnd r (decodeNum f v)
  | .num f _, .num g _ => r = encodeNum rnd g (decodeNum f v)
  | .num f _, .int sg n => IntegerIs rnd sg n r (decodeNum f v)
  | .int sg n, .num (.ieee g) _ => Correct g rnd ((if sg then Int.bmod v (2 ^ n) else (v : ℤ) : ℤ) : ℝ) false r
  | .int _ _, _ => True

/-- The rounding of a conversion whose mode field is `rm` (R372). -/
def directMode (rm : Nat) (dyn : Rounding) : Rounding :=
  match rm with | 0 => .rne | 1 => .rtz | 2 => .rdn | 3 => .rup | 4 => .rna | _ => dyn

/-- A 32-bit integer is extended from bit 31 (R421). -/
def extended (k : ConvKind) (n : Nat) : Nat :=
  match k with | .int _ 32 => if n.testBit 31 then n + (2 ^ 64 - 2 ^ 32) else n | _ => n

/-- FCVT under a direct mode (R421). -/
def fcvtRule : Instr → Option ComputesFp
  | .fcvt _ d _ conv rm =>
    match conversion conv.toNat with
    | some k =>
      if rm.toNat < 6 then
        fpQuick d (fun rnd v r => ∃ u : FpResult, r.2 = u.2 ∧ r.1 = extended k.target u.1 ∧
          Elementwise k.target.width k.count (fun i =>
            ElementIs (directMode rm.toNat rnd) k.target k.source (v.a.toNat / 2 ^ (k.source.width * i) % 2 ^ k.source.used)) u)
      else none
    | none => none
  | _ => none

end Sys2Proof.Machine

/-- Integer arithmetic of 64 and 32 bits: ARITH, CSEL, MULDIV and ARITHW give exactly the results of their rules, wrapped or
saturated as the rules say, with the division corners of R368 (R399, R400, R405, R406). -/
def Sys2Proof.Machine.IntegerArithmeticHold : Prop := Computed arithRule ∧ Computed muldivRule ∧ Computed arithwRule

/-- LOGIC, SHIFT, SHI, BITS, CMP, CMPI and the immediate forms give exactly the bits of their rules (R369, R401 to R404, R407 to
R409). -/
def Sys2Proof.Machine.IntegerLogicHold : Prop := Computed logicRule ∧ Computed bitsRule ∧ Computed compareRule ∧ Computed immediateRule

/-- Packed integers: every element of the result is that of R410, R411 or R412. -/
def Sys2Proof.Machine.PackedIntegersHold : Prop := Computed packedRule

/-- The integer instructions: arithmetic, logic and packed integers (R369, R399 to R412). -/
def Obligations.IntegerOperations : Prop :=
  Sys2Proof.Machine.IntegerArithmeticHold ∧ Sys2Proof.Machine.IntegerLogicHold ∧ Sys2Proof.Machine.PackedIntegersHold

/-- Lane operations and group reductions on integers over the active lanes (R433 to R435). -/
def Obligations.LaneOperations : Prop := Computed laneRule ∧ Computed reduceRule

/-- Floating-point arithmetic, comparison and packed forms: the results are correctly rounded in the mode in force, and FCSR takes
the flags of all active lanes (R371 to R374, R414 to R418). -/
def Obligations.FloatingPoint : Prop := ComputedFp falu ∧ ComputedFp fmisc ∧ ComputedFp fpk

/-- The special function unit's square root is correctly rounded and its other functions depend on the input alone (R420); FCVT
under a direct rounding mode converts element by element (R383 to R385, R421). -/
def Obligations.FunctionsAndConversions : Prop := ComputedFp sfuRule ∧ ComputedFp fcvtRule

namespace Sys2Proof.Machine

/-! ### The fixed tree of GRED.FADD.S, stochastic conversion, special cases of the special function unit -/

/-- The partial value and the flags at a lane before level `j` of the tree (R393): neighbours add, a lone value passes on. -/
def TreeIs (rnd : Rounding) (vs : List Vals) : Nat → Nat → Option Nat × Nat → Prop
  | 0, l, r => r = ((activeA vs l).map lo32, 0)
  | j + 1, l, r => ∃ p q : Option Nat × Nat, TreeIs rnd vs j l p ∧ TreeIs rnd vs j (l + 2 ^ j) q ∧
      match p.1, q.1 with
      | some x, some y => ∃ z : FpResult, SumIs fp32 rnd z (decodeF fp32 x) (decodeF fp32 y) ∧ r = (some z.1, p.2 ||| q.2 ||| z.2)
      | some x, none => r = (some x, p.2 ||| q.2)
      | none, y => r = (y, p.2 ||| q.2)

/-- The generator after `n` steps (R386). -/
def generated (seed : Nat) : Nat → Nat
  | 0 => seed
  | n + 1 => xorshift (generated seed n)

/-- What FCVT gives under SR (R386, R421): element i is rounded by the generator's number after i + 1 steps. -/
def StochasticIs (k : Conversion) (seed : Nat) (v : Vals) (r : FpResult) : Prop :=
  ∃ u : FpResult, r.2 = u.2 ∧ r.1 = extended k.target u.1 ∧
    Elementwise k.target.width k.count (fun i w =>
      w = convertOne k.target k.source (.sr (generated seed (i + 1))) (v.a.toNat / 2 ^ (k.source.width * i) % 2 ^ k.source.used)) u

/-- The seven approximating functions of the unit, in the order of their codes without FSQRT.S (R420). -/
def sfuFunctions : List (Nat → FpResult) := [sfuRcp, sfuRsq, sfuExp2, sfuLog2, sfuSinPi, sfuCosPi, sfuTanh]

end Sys2Proof.Machine

/-- R393: GRED.FADD.S returns the sum of the fixed tree in every active lane and raises the flags of all its additions. -/
def Sys2Proof.Machine.ReductionTreeHold : Prop :=
  ∀ (s : State) (c : Ctx) (sw : Bool) (d a : RegName), Issues s c (.gredFaddS sw d a) →
    ∃ (t : State) (r : Option Nat × Nat), exec (.gredFaddS sw d a) s = .next t ∧ OnlyComputes s t c (some d) true ∧
      TreeIs (roundingIn c.st) (c.lanes.map (valsOf s c (.gredFaddS sw d a))) 4 0 r ∧
      (∀ e ∈ c.lanes, ∃ x, r.1 = some x ∧ Outstanding s t c d e (word x)) ∧ FlagsRaised t c r.2

/-- R386, R421: under SR every active lane's generator advances by a step for each element and every lane's result is rounded
by the numbers it passes; no other lane's generator moves, and nothing else changes but as for every conversion. -/
def Sys2Proof.Machine.StochasticConversionHold : Prop :=
  ∀ (s : State) (c : Ctx) (sw : Bool) (d a : RegName) (conv : BitVec 7) (k : Conversion),
    Issues s c (.fcvt sw d a conv 6) → conversion conv.toNat = some k → (c.lanes.map Prod.snd).Nodup →
    ∃ (t : State) (f : Nat × Nat → FpResult), exec (.fcvt sw d a conv 6) s = .next t ∧
      OnlyComputes s { t with lanes := s.lanes } c (some d) true ∧
      (∀ e ∈ c.lanes, StochasticIs k (laneOf s e.2).seed.toNat (valsOf s c (.fcvt sw d a conv 6) e) (f e) ∧
        Holds s t c (.fcvt sw d a conv 6) d e (word (f e).1) ∧
        (∀ la, find? s.lanes e.2 = some la →
          find? t.lanes e.2 = some { la with seed := word (generated la.seed.toNat k.count) })) ∧
      (∀ p, (∀ e ∈ c.lanes, e.2 ≠ p) → find? t.lanes p = find? s.lanes p) ∧
      FlagsRaised t c (flagsAll (c.lanes.map (fun e => (f e).2)))

/-- R391, R392: special inputs, exact symmetry, and the flags of the special function unit. -/
def Sys2Proof.Machine.SfuSpecialCasesHold : Prop :=
  -- a NaN gives the canonical NaN, with NV when it is signalling
  (∀ fn ∈ sfuFunctions, ∀ x b, decodeF fp32 x = .nan b → fn x = (0x7FC00000, if b then flagNV else 0)) ∧
  -- only NV, DZ and OF
  (∀ fn ∈ sfuFunctions, ∀ x, (fn x).2 = 0 ∨ (fn x).2 = flagNV ∨ (fn x).2 = flagDZ ∨ (fn x).2 = flagOF) ∧
  -- ±0 and ±∞
  sfuRcp 0 = (0x7F800000, flagDZ) ∧ sfuRcp 0x80000000 = (0xFF800000, flagDZ) ∧
  sfuRcp 0x7F800000 = (0, 0) ∧ sfuRcp 0xFF800000 = (0x80000000, 0) ∧
  sfuRsq 0 = (0x7F800000, flagDZ) ∧ sfuRsq 0x80000000 = (0xFF800000, flagDZ) ∧ sfuRsq 0x7F800000 = (0, 0) ∧
  sfuExp2 0xFF800000 = (0, 0) ∧ sfuExp2 0x7F800000 = (0x7F800000, 0) ∧
  sfuLog2 0 = (0xFF800000, flagDZ) ∧ sfuLog2 0x80000000 = (0xFF800000, flagDZ) ∧ sfuLog2 0x7F800000 = (0x7F800000, 0) ∧
  (∀ x, x = 0x7F800000 ∨ x = 0xFF800000 → sfuSinPi x = (0x7FC00000, flagNV) ∧ sfuCosPi x = (0x7FC00000, flagNV)) ∧
  sfuTanh 0x7F800000 = (0x3F800000, 0) ∧ sfuTanh 0xFF800000 = (0xBF800000, 0) ∧ sfuTanh 0 = (0, 0) ∧
  sfuTanh 0x80000000 = (0x80000000, 0) ∧
  -- a negative number has no root and no logarithm
  (∀ x m e, decodeF fp32 x = .fin true m e → m ≠ 0 → sfuRsq x = (0x7FC00000, flagNV) ∧ sfuLog2 x = (0x7FC00000, flagNV)) ∧
  -- sine and hyperbolic tangent are odd, the cosine is even, and no tangent lies above 1
  (∀ x n m e, x < 2 ^ 32 → decodeF fp32 x = .fin n m e → sfuSinPi (flipSign 31 x) = (flipSign 31 (sfuSinPi x).1, (sfuSinPi x).2)) ∧
  (∀ x, x < 2 ^ 32 → (decodeF fp32 x).isNan = false → sfuTanh (flipSign 31 x) = (flipSign 31 (sfuTanh x).1, (sfuTanh x).2)) ∧
  (∀ x, x < 2 ^ 32 → (decodeF fp32 x).isNan = false → sfuCosPi (flipSign 31 x) = sfuCosPi x) ∧
  (∀ x, x < 2 ^ 32 → (decodeF fp32 x).isNan = false → (sfuTanh x).1 % 2 ^ 31 ≤ 0x3F800000)

/-- The reduction tree, stochastic rounding and the special cases of the functions (R386, R391 to R393, R421). -/
def Obligations.SpecialConversions : Prop :=
  Sys2Proof.Machine.ReductionTreeHold ∧ Sys2Proof.Machine.StochasticConversionHold ∧ Sys2Proof.Machine.SfuSpecialCasesHold

namespace Sys2Proof.Machine

/-! ### Control -/

/-- What a control instruction leaves of the state: the issuing stream becomes `n` but for the counts that an issue moves and
a park at its switch point; a register `d` takes results; everything else is unchanged but the charge and the grace it may
start (R147, R151) and the role queues of its operands, whose words a pop that meets an error or a push may change (R266). -/
structure Steers (s t : State) (c : Ctx) (d : Option RegName) (n : Stream) : Prop where
  rest   : t = { s with regs := t.regs, streams := t.streams, teams := t.teams, timers := t.timers, scErr := t.scErr }
  errors : ∀ e ∈ t.scErr, e ∈ s.scErr
  clears : (∀ q, d ≠ some (.q q)) → t.scErr = s.scErr
  others : ∀ k, k ≠ c.sid → find? t.streams k = find? s.streams k
  stream : ∃ st, find? t.streams c.sid = some st ∧
      { st with k := n.k, pend := n.pend, park := n.park, lowRun := n.lowRun, haltIn := n.haltIn, skid := n.skid
                noJoin := n.noJoin, paid := n.paid } = n ∧
      (∀ m : Nat, (∀ q, d = some (.k q) → q.val ≠ m) → look 0 st.k m = look 0 c.st.k m)
  regs   : ∀ p, (∀ q, d = some (.x q) → ∀ e ∈ c.lanes, regPlace s c.st e.2 q.val ≠ p) → look 0 t.regs p = look 0 s.regs p
  teams  : ∀ k, k ≠ c.st.team → find? t.teams k = find? s.teams k
  team   : ∃ tm, find? t.teams c.st.team = some tm ∧
      { tm with ib := c.team.ib, pend := c.team.pend, queues := c.team.queues, popped := c.team.popped, doomed := c.team.doomed } = c.team ∧
      (QueuesSound s c → tm.doomed = c.team.doomed)

/-- The byte offset of a branch field of words (R343). -/
def jumpTo {n : Nat} (pc : Word) (off : BitVec n) : Word := pc + BitVec.ofInt 64 (4 * off.toInt)

/-- Where a branch or call sends a lane (R424). -/
def laneTarget (pc : Word) : Instr → Option (Vals → Word)
  | .bnz _ _ off => some (fun v => if v.a ≠ 0 then jumpTo pc off else pc + 4)
  | .bz _ _ off => some (fun v => if v.a = 0 then jumpTo pc off else pc + 4)
  | .jmp _ off => some (fun _ => jumpTo pc off)
  | .call _ off => some (fun _ => jumpTo pc off)
  | .jr _ _ => some (fun v => v.a)
  | .jalr _ _ _ => some (fun v => v.a)
  | _ => none

/-- The register a call writes with pc + 4 (R424). -/
def linkOf : Instr → Option RegName
  | .call _ _ => some (.x 1)
  | .jalr _ d _ => some d
  | _ => none

/-- A branch whose target a register gives (R426). -/
def indirect : Instr → Bool
  | .jr _ _ => true
  | .jalr _ _ _ => true
  | _ => false

end Sys2Proof.Machine

/-- A group whose active lanes agree on a target branches as one, and a call first writes pc + 4 (R424, R425). -/
def Sys2Proof.Machine.BranchesHold : Prop :=
  ∀ (s : State) (c : Ctx) (i : Instr) (f : Vals → Word) (t0 : Word), Issues s c i → laneTarget c.st.pc i = some f →
    c.lanes ≠ [] → (∀ e ∈ c.lanes, f (valsOf s c i e) = t0) → (indirect i = true → t0.toNat % 4 = 0) →
    ∃ t, exec i s = .next t ∧ Steers s t c (linkOf i) { c.st with pc := t0 } ∧
      ∀ d, linkOf i = some d → ∀ e ∈ c.lanes, Holds s t c i d e (c.st.pc + 4)

/-- A JR or JALR whose target is no multiple of 4 in some lanes raises code 0x0C in exactly those lanes, TADDR the target,
and takes no effect (R426). -/
def Sys2Proof.Machine.MisalignedTargetsHold : Prop :=
  ∀ (s : State) (c : Ctx) (i : Instr), Issues s c i → indirect i = true →
    (∃ e ∈ c.lanes, (valsOf s c i e).a.toNat % 4 ≠ 0) →
    exec i s = .next (raise s c (((c.lanes.map (valsOf s c i)).filter (fun v => decide (v.a.toNat % 4 ≠ 0))).map
      (fun v => { ln := v.ln, code := 0x0C, addr := v.a, detail := 0 })))

/-- The positions of a group's live lanes differ. -/
def Sys2Proof.Machine.Apart (c : Ctx) : Prop := (lanesIn c.grp c.st.members).Pairwise (fun a b => a.2 ≠ b.2)

/-- A fused group, all its lanes active, that disagrees on a branch diverges: each lane goes on alone at its own target, under
a split record, whatever MODE.ADIV holds (R223, R224, R425). -/
def Sys2Proof.Machine.BranchesApartHold : Prop :=
  ∀ (s : State) (c : Ctx) (i : Instr) (f : Vals → Word), Issues s c i → laneTarget c.st.pc i = some f → c.grp.mode = .fused →
    (∃ e ∈ c.lanes, ∃ e' ∈ c.lanes, f (valsOf s c i e) ≠ f (valsOf s c i e')) →
    (indirect i = true → ∀ e ∈ c.lanes, (f (valsOf s c i e)).toNat % 4 = 0) →
    c.st.mask = c.st.members → c.st.waits = [] → c.st.stack.length < 16 → Apart c →
    ∃ t, exec i s = .next t ∧ (∃ g, find? t.groups c.st.group = some g ∧ g.mode = .diverged ∧ g.lanes = c.grp.lanes) ∧
      ∀ e ∈ c.lanes, ∃ st r, find? t.streams e.2 = some st ∧ st.pc = f (valsOf s c i e) ∧ st.members = maskOf [e.1] ∧
        st.mask = maskOf [e.1] ∧ st.stack = r :: c.st.stack ∧ r.kind = kindSplit ∧ r.mask = c.st.members ∧ st.waits = [] ∧
        st.spilled = c.st.spilled ∧ st.fcsr = c.st.fcsr ∧ st.wbase = c.st.wbase

/-- Branches, jumps, their misaligned targets and their effect on groups (R223, R224, R424 to R426). -/
def Obligations.BranchesAndJumps : Prop :=
  Sys2Proof.Machine.BranchesHold ∧ Sys2Proof.Machine.MisalignedTargetsHold ∧ Sys2Proof.Machine.BranchesApartHold

namespace Sys2Proof.Machine

/-! ### Structured control -/

/-- Entries of a group's control stack, spilled ones included; the bottom entry is depth 1 (R427). -/
def depthIn (st : Stream) : Nat := st.stack.length + st.spilled

/-- Lane `l` waits at depth `t` for some reasons (R427). -/
def waitsFor (st : Stream) (t : Nat) (p : WaitReason → Prop) (l : Nat) : Prop :=
  l < 16 ∧ ∃ w ∈ st.waits, w.lane = l ∧ w.depth = t ∧ p w.reason

/-- A lane is in the active mask. -/
def activeIn (st : Stream) (l : Nat) : Prop := inMask st.mask l = true

/-- Depth `t` is that of the entry `e`, the topmost that is no split record; `above` are the split records over it and
`below` what lies beneath (R211, R428). -/
def TopEntry (st : Stream) (above : List CsEntry) (e : CsEntry) (below : List CsEntry) (t : Nat) : Prop :=
  st.stack = above ++ e :: below ∧ (∀ x ∈ above, x.kind = kindSplit) ∧ e.kind ≠ kindSplit ∧ t = below.length + 1 + st.spilled

/-- What IF, ELSE, ENDIF, a closing ENDLOOP, BRK, CONT and a counting LOOP do to stack, mask and waiting records before R429
is applied (R428). `vs` are the operands of the active lanes. -/
def Opened (c : Ctx) (vs : List Vals) (u : Stream) : Instr → Prop
  | .ifOp _ _ off =>
    u.stack = { kind := kindIf, mask := c.st.mask, count := 0, pc := (jumpTo c.st.pc off).setWidth 55 } :: c.st.stack ∧
    (∀ l, l < 16 → (activeIn u l ↔ activeIn c.st l ∧ ∀ v ∈ vs, v.ln = l → v.a ≠ 0)) ∧
    (∀ w, w ∈ u.waits ↔ w ∈ c.st.waits ∨
      (w.depth = depthIn c.st + 1 ∧ w.reason = .iff ∧ ∃ v ∈ vs, v.ln = w.lane ∧ v.a = 0))
  | .elseOp _ off => ∃ above e below t, TopEntry c.st above e below t ∧ e.kind = kindIf ∧
    u.stack = above ++ { e with kind := kindElse, pc := (jumpTo c.st.pc off).setWidth 55 } :: below ∧
    (∀ l, l < 16 → (activeIn u l ↔ waitsFor c.st t (fun r => r = .iff) l)) ∧
    (∀ w, w ∈ u.waits ↔ (w ∈ c.st.waits ∧ ¬(w.depth = t ∧ waitsFor c.st t (fun r => r = .iff) w.lane)) ∨
      (w.depth = t ∧ w.reason = .andThen ∧ w.lane < 16 ∧ activeIn c.st w.lane))
  | .endif _ => ∃ above e below t, TopEntry c.st above e below t ∧ (e.kind = kindIf ∨ e.kind = kindElse) ∧
    u.stack = above ++ below ∧
    (∀ l, l < 16 → (activeIn u l ↔ activeIn c.st l ∨ waitsFor c.st t (fun _ => True) l)) ∧
    (∀ w, w ∈ u.waits ↔ w ∈ c.st.waits ∧ ¬(w.depth = t ∧ waitsFor c.st t (fun _ => True) w.lane))
  | .loop _ _ _ => ∃ v r, vs = v :: r ∧ v.a ≠ 0 ∧
    u.stack = { kind := kindLoop, mask := c.st.mask, count := BitVec.ofNat 32 (min v.a.toNat (2 ^ 32 - 1))
                pc := (c.st.pc + 4).setWidth 55 } :: c.st.stack ∧
    (∀ l, l < 16 → (activeIn u l ↔ activeIn c.st l)) ∧ (∀ w, w ∈ u.waits ↔ w ∈ c.st.waits)
  | .endloop _ => ∃ above e below t, TopEntry c.st above e below t ∧ e.kind = kindLoop ∧
    (e.count - 1 = 0 ∨ ∀ l, l < 16 → ¬activeIn c.st l ∧ ¬waitsFor c.st t (fun r => r = .cont) l) ∧
    u.stack = above ++ below ∧
    (∀ l, l < 16 → (activeIn u l ↔ activeIn c.st l ∨ waitsFor c.st t (fun r => r = .cont ∨ r = .brk) l)) ∧
    (∀ w, w ∈ u.waits ↔ w ∈ c.st.waits ∧ ¬(w.depth = t ∧ waitsFor c.st t (fun r => r = .cont ∨ r = .brk) w.lane))
  | .brk _ => ∃ above e below t, c.st.stack = above ++ e :: below ∧ (∀ x ∈ above, x.kind ≠ kindLoop) ∧ e.kind = kindLoop ∧
    t = below.length + 1 + c.st.spilled ∧ u.stack = c.st.stack ∧ (∀ l, l < 16 → ¬activeIn u l) ∧
    (∀ w, w ∈ u.waits ↔ w ∈ c.st.waits ∨ (w.depth = t ∧ w.reason = .brk ∧ w.lane < 16 ∧ activeIn c.st w.lane))
  | .cont _ => ∃ above e below t, c.st.stack = above ++ e :: below ∧ (∀ x ∈ above, x.kind ≠ kindLoop) ∧ e.kind = kindLoop ∧
    t = below.length + 1 + c.st.spilled ∧ u.stack = c.st.stack ∧ (∀ l, l < 16 → ¬activeIn u l) ∧
    (∀ w, w ∈ u.waits ↔ w ∈ c.st.waits ∨ (w.depth = t ∧ w.reason = .cont ∧ w.lane < 16 ∧ activeIn c.st w.lane))
  | _ => False

/-- The closing address of an entry (R428): its PC, or for LOOP the ENDLOOP that the LOOP word at PC − 4 names. -/
def ClosesAt (s : State) (c : Ctx) (e : CsEntry) (a : Word) : Prop :=
  (e.kind ≠ kindLoop → a = e.pc.setWidth 64) ∧
  (e.kind = kindLoop → ∃ t w, codeWord s c (e.pc.toNat - 4) = .ok (t, w) ∧
    a = BitVec.ofInt 64 (((e.pc.toNat - 4 : Nat) : Int) + 4 * (BitVec.ofNat 17 w).toInt))

/-- Some lane waits at the entry that has `below` entries beneath it. -/
def waitedAt (u : Stream) (below : Nat) : Prop := ∃ w ∈ u.waits, w.depth = below + 1 + u.spilled

/-- Where a group goes on (R429): at pc + 4, or with an empty mask at the closing address of the innermost entry at which some
lane waits, the entries above it popped but for split records. -/
def Settles (s : State) (c : Ctx) (u n : Stream) : Prop :=
  (u.mask ≠ 0 → n = { u with pc := c.st.pc + 4, region := n.region }) ∧
  (u.mask = 0 → ∃ above e below a, u.stack = above ++ e :: below ∧ e.kind ≠ kindSplit ∧ waitedAt u below.length ∧
    (∀ x y z, above = x ++ y :: z → y.kind ≠ kindSplit → ¬waitedAt u (z.length + 1 + below.length)) ∧ ClosesAt s c e a ∧
    n = { u with stack := above.filter (fun x => decide (x.kind = kindSplit)) ++ e :: below, pc := a, region := n.region })

end Sys2Proof.Machine

/-- The structured control instructions act on stack, mask and waiting records as R428 says and go on as R429 says; the region
entry stays or becomes none (R322). Where the mask becomes empty the entry that R429 seeks is on chip and its closing address
can be read. -/
def Sys2Proof.Machine.StructuredControlHold : Prop :=
  ∀ (s : State) (c : Ctx) (i : Instr), Issues s c i → c.st.stack.length < 16 →
    (∃ u, Opened c (c.lanes.map (valsOf s c i)) u i ∧ { u with stack := c.st.stack, mask := c.st.mask, waits := c.st.waits } = c.st) →
    (∀ u, Opened c (c.lanes.map (valsOf s c i)) u i → u.spilled = c.st.spilled → u.mask = 0 → ∃ n, Settles s c u n) →
    ∃ t u n, exec i s = .next t ∧ Opened c (c.lanes.map (valsOf s c i)) u i ∧
      { u with stack := c.st.stack, mask := c.st.mask, waits := c.st.waits, region := c.st.region } = c.st ∧
      Settles s c u n ∧ (n.region = c.st.region ∨ n.region = none) ∧ Steers s t c none n

/-- A LOOP whose count is 0 goes past its ENDLOOP and pushes nothing (R428). -/
def Sys2Proof.Machine.EmptyLoopHold : Prop :=
  ∀ (s : State) (c : Ctx) (sw : Bool) (a : RegName) (off : BitVec 17) (v : Vals) (r : List Vals), Issues s c (.loop sw a off) →
    c.lanes.map (valsOf s c (.loop sw a off)) = v :: r → v.a = 0 →
    ∃ t, exec (.loop sw a off) s = .next t ∧ Steers s t c none { c.st with pc := jumpTo c.st.pc off + 4 }

/-- An ENDLOOP that is not the last pass counts down, lets the lanes that left the pass by CONT in again and goes back to the
first instruction of the body (R428). -/
def Sys2Proof.Machine.LoopPassesHold : Prop :=
  ∀ (s : State) (c : Ctx) (sw : Bool) (above : List CsEntry) (e : CsEntry) (below : List CsEntry) (t : Nat),
    Issues s c (.endloop sw) → TopEntry c.st above e below t → e.kind = kindLoop → e.count - 1 ≠ 0 →
    (∃ l, l < 16 ∧ (activeIn c.st l ∨ waitsFor c.st t (fun r => r = .cont) l)) →
    ∃ u n, exec (.endloop sw) s = .next u ∧ Steers s u c none n ∧
      n = { c.st with stack := above ++ { e with count := e.count - 1 } :: below, mask := n.mask, waits := n.waits
                      pc := e.pc.setWidth 64 } ∧
      (∀ l, l < 16 → (activeIn n l ↔ activeIn c.st l ∨ waitsFor c.st t (fun r => r = .cont) l)) ∧
      (∀ w, w ∈ n.waits ↔ w ∈ c.st.waits ∧ ¬(w.depth = t ∧ waitsFor c.st t (fun r => r = .cont) w.lane))

/-- Structured control: conditions and loops (R322, R428, R429). -/
def Obligations.StructuredLoops : Prop :=
  Sys2Proof.Machine.StructuredControlHold ∧ Sys2Proof.Machine.EmptyLoopHold ∧ Sys2Proof.Machine.LoopPassesHold

namespace Sys2Proof.Machine

/-- An entry that a closing instruction may act on. -/
def closes (i : Instr) (e : CsEntry) : Prop :=
  match i with
  | .elseOp _ _ => e.kind = kindIf
  | .endif _ => e.kind = kindIf ∨ e.kind = kindElse
  | .endloop _ => e.kind = kindLoop
  | _ => False

/-- Instructions that act on the top entry. -/
def actsOnTop : Instr → Bool
  | .elseOp _ _ => true
  | .endif _ => true
  | .endloop _ => true
  | _ => false

/-- Instructions that leave a pass of the innermost loop. -/
def leavesLoop : Instr → Bool
  | .brk _ => true
  | .cont _ => true
  | _ => false

/-- A cause raised in every active lane, or in the lane of a stream that has none active (R213). -/
def allLanes (c : Ctx) (code detail : Nat) : List LaneFault :=
  (if c.lanes = [] then [c.first] else c.lanes).map (fun e => { ln := e.1, code := code, addr := 0, detail := detail })

end Sys2Proof.Machine

/-- The control stack traps, each precise: a push that finds 16 entries (0x0F); with entries spilled, a pop or replacement that
finds none on chip, or a BRK or CONT with no LOOP on chip (0x10); the same with none spilled, and an entry of the wrong kind
(0x11) (R212, R213, R428). -/
def Sys2Proof.Machine.ControlStackTrapsHold : Prop :=
  (∀ (s : State) (c : Ctx) (sw : Bool) (a : RegName) (off : BitVec 17), Issues s c (.ifOp sw a off) → 16 ≤ c.st.stack.length →
    exec (.ifOp sw a off) s = .next (raise s c (allLanes c 0x0F c.st.stack.length))) ∧
  (∀ (s : State) (c : Ctx) (sw : Bool) (a : RegName) (off : BitVec 17) (v : Vals) (r : List Vals), Issues s c (.loop sw a off) →
    16 ≤ c.st.stack.length → c.lanes.map (valsOf s c (.loop sw a off)) = v :: r → v.a ≠ 0 →
    exec (.loop sw a off) s = .next (raise s c (allLanes c 0x0F c.st.stack.length))) ∧
  (∀ (s : State) (c : Ctx) (i : Instr), Issues s c i →
    (actsOnTop i = true ∧ (∀ e ∈ c.st.stack, e.kind = kindSplit)) ∨ (leavesLoop i = true ∧ ∀ e ∈ c.st.stack, e.kind ≠ kindLoop) →
    exec i s = .next (raise s c (if c.st.spilled = 0 then allLanes c 0x11 0 else allLanes c 0x10 c.st.spilled))) ∧
  (∀ (s : State) (c : Ctx) (i : Instr) (above : List CsEntry) (e : CsEntry) (below : List CsEntry) (t : Nat), Issues s c i →
    actsOnTop i = true → TopEntry c.st above e below t → ¬closes i e →
    exec i s = .next (raise s c (allLanes c 0x11 e.kind.toNat)))

/-- IDEM records its pc, the control stack depth and the spilled count (R322); WBASE sets the window and clears the region
entry, or faults with code 0x0E in the lanes whose allocation its offset does not lie in (R432). -/
def Sys2Proof.Machine.RegionAndWindowHold : Prop :=
  (∀ (s : State) (c : Ctx) (sw : Bool), Issues s c (.idem sw) →
    ∃ t, exec (.idem sw) s = .next t ∧ Steers s t c none { c.st with
      pc := c.st.pc + 4, region := some { pc := c.st.pc, depth := depthIn c.st, spilled := c.st.spilled } }) ∧
  (∀ (s : State) (c : Ctx) (sw : Bool) (n : BitVec 6), Issues s c (.wbase sw n) →
    ((∀ e ∈ (if c.lanes = [] then [c.first] else c.lanes), 8 * n.toNat < (laneOf s e.2).alloc) →
      ∃ t, exec (.wbase sw n) s = .next t ∧
        Steers s t c none { c.st with pc := c.st.pc + 4, wbase := BitVec.ofNat 9 (8 * n.toNat), region := none }) ∧
    ((∃ e ∈ (if c.lanes = [] then [c.first] else c.lanes), (laneOf s e.2).alloc ≤ 8 * n.toNat) →
      exec (.wbase sw n) s = .next (raise s c
        (((if c.lanes = [] then [c.first] else c.lanes).filter (fun e => decide ((laneOf s e.2).alloc ≤ 8 * n.toNat))).map
          (fun e => { ln := e.1, code := 0x0E, addr := 0, detail := 8 * n.toNat })))))

/-- The control stack's traps, regions and the register window (R212, R213, R322, R428, R432). -/
def Obligations.ControlStackAndWindow : Prop :=
  Sys2Proof.Machine.ControlStackTrapsHold ∧ Sys2Proof.Machine.RegionAndWindowHold

namespace Sys2Proof.Machine

/-! ### Morphing -/

/-- A FUSE mask well formed for a participant on pipeline `p` of its cluster (R217): bits [63:16] zero, and the set bits an
aligned run of 2, 4, 8 or 16 pipelines with its own among them. -/
def FuseMask (m : Word) (p : Nat) : Prop :=
  ∃ w k, (w = 2 ∨ w = 4 ∨ w = 8 ∨ w = 16) ∧ w * k ≤ p ∧ p < w * (k + 1) ∧ w * (k + 1) ≤ 16 ∧ m.toNat = (2 ^ w - 1) * 2 ^ (w * k)

/-- The first active lane's A. -/
def firstA (s : State) (c : Ctx) (i : Instr) : Word := match c.lanes.map (valsOf s c i) with | v :: _ => v.a | [] => 0

/-- FUSE, SPLIT and REJOIN that complete at once, with their status (R217, R223, R229, R331). -/
def AtOnce (s : State) (c : Ctx) : Instr → Option (RegName × Word) → Prop
  | .fuse sw d a imm, r => r = some (d, 2) ∧ (c.st.handler = true ∨ c.grp.mode ≠ .single ∨
      ¬FuseMask (firstA s c (.fuse sw d a imm)) (pipeOf c.first.2 % 16))
  | .split _ d, r => r = some (d, 1) ∧ (c.st.handler = true ∨ c.grp.mode = .single)
  | .rejoin _ d _, r => r = some (d, 2) ∧ (c.st.handler = true ∨ c.grp.mode ≠ .diverged)
  | _, _ => False

end Sys2Proof.Machine

/-- A FUSE not well formed, not in SINGLE mode or in a handler writes 2; a SPLIT in SINGLE mode or in a handler writes 1; a
REJOIN outside DIVERGED mode or in a handler writes 2; and nothing else changes but the region entry, which becomes none. A
SPLIT by a lane already in DIVERGED mode pushes a split record of its own bit with PC 0 and writes 0 (R217, R223, R229, R331,
R322). -/
def Sys2Proof.Machine.MorphsAtOnceHold : Prop :=
  (∀ (s : State) (c : Ctx) (i : Instr) (d : RegName) (v : Word), Issues s c i → AtOnce s c i (some (d, v)) →
    ∃ t, exec i s = .next t ∧ Steers s t c (some d) { c.st with pc := c.st.pc + 4, region := none } ∧
      ∀ e ∈ c.lanes, Holds s t c i d e v) ∧
  (∀ (s : State) (c : Ctx) (sw : Bool) (d : RegName), Issues s c (.split sw d) → c.st.handler = false → c.grp.mode = .diverged →
    c.st.stack.length < 16 →
    ∃ t, exec (.split sw d) s = .next t ∧
      Steers s t c (some d) { c.st with
        stack := { kind := kindSplit, mask := c.st.members, count := 0, pc := 0 } :: c.st.stack, pc := c.st.pc + 4, region := none } ∧
      ∀ e ∈ c.lanes, Holds s t c (.split sw d) d e 0)

namespace Sys2Proof.Machine

/-- Where an inactive lane of a splitting group goes on, by the entry it waits at (R224). -/
def ResumesAt (s : State) (c : Ctx) (e : CsEntry) (r : WaitReason) (pc : Word) : Prop :=
  match r with
  | .iff => e.kind ≠ kindLoop ∧ ∃ t w, codeWord s c e.pc.toNat = .ok (t, w) ∧ pc = (if w / 2 ^ 24 % 128 = 0x36 then e.pc.setWidth 64 + 4 else e.pc.setWidth 64)
  | .andThen => ClosesAt s c e pc
  | .brk => ∃ a, ClosesAt s c e a ∧ pc = a + 4
  | .cont => ClosesAt s c e pc

end Sys2Proof.Machine

/-- SPLIT by a FUSED group enters DIVERGED mode. Each lane that was active goes on at the next instruction with a copy of the
control stack under a split record of all lanes and PC 0, and each lane that waits at an entry on chip goes on where R224 says
(R223, R224). -/
def Sys2Proof.Machine.SplitDivergesHold : Prop :=
  ∀ (s : State) (c : Ctx) (sw : Bool) (d : RegName), Issues s c (.split sw d) → c.st.handler = false → c.grp.mode = .fused →
    c.st.stack.length < 16 → Apart c → (∀ w ∈ c.st.waits, c.st.spilled < w.depth ∧ w.depth ≤ depthIn c.st) →
    c.st.waits.Pairwise (fun a b => a.lane ≠ b.lane) →
    ∃ t, exec (.split sw d) s = .next t ∧
      (∃ g, find? t.groups c.st.group = some g ∧ g.mode = .diverged ∧ g.lanes = c.grp.lanes) ∧
      (∀ n, d = .x n → ∀ e ∈ c.lanes, OwnPlace s c e n.val → look 0 t.regs (regPlace s c.st e.2 n.val) = 0) ∧
      (∀ e ∈ c.lanes, (∀ w ∈ c.st.waits, w.lane ≠ e.1) → inMask c.st.members e.1 = true → ∃ st, find? t.streams e.2 = some st ∧
        st.pc = c.st.pc + 4 ∧ st.members = maskOf [e.1] ∧ st.mask = maskOf [e.1] ∧
        st.stack = { kind := kindSplit, mask := c.st.members, count := 0, pc := 0 } :: c.st.stack ∧ st.waits = []) ∧
      (∀ e ∈ lanesIn c.grp c.st.members, ∀ w ∈ c.st.waits, w.lane = e.1 → ∀ x pc, c.st.stack[depthIn c.st - w.depth]? = some x →
        ResumesAt s c x w.reason pc → ∃ st, find? t.streams e.2 = some st ∧ st.pc = pc ∧ st.members = maskOf [e.1] ∧
          st.mask = maskOf [e.1] ∧ st.waits = [] ∧ ∃ r, st.stack.head? = some r ∧ r.kind = kindSplit ∧ r.mask = c.st.members)

/-- The automatic split (R226): once the count of R225 is complete, with fewer than 16 entries on chip and every waiting lane's
entry there, the group diverges between two instructions, and each active lane goes on at the group's pc. -/
def Sys2Proof.Machine.AutomaticSplitHold : Prop :=
  ∀ (s : State) (c : Ctx), ctxOf s c.sid = some c → c.grp.mode = .fused → 0 < c.st.adiv.toNat → 16 * c.st.adiv.toNat ≤ c.st.lowRun →
    c.st.stack.length < 16 → (∀ w ∈ c.st.waits, c.st.spilled < w.depth ∧ w.depth ≤ depthIn c.st) → Apart c →
    ∃ t, exec (.automaticSplit c.sid) s = .next t ∧
      (∃ g, find? t.groups c.st.group = some g ∧ g.mode = .diverged ∧ g.lanes = c.grp.lanes) ∧
      ∀ e ∈ c.lanes, (∀ w ∈ c.st.waits, w.lane ≠ e.1) → inMask c.st.members e.1 = true → ∃ st r, find? t.streams e.2 = some st ∧
        st.pc = c.st.pc ∧ st.mask = maskOf [e.1] ∧ st.stack = r :: c.st.stack ∧ r.kind = kindSplit ∧ r.mask = c.st.members

/-- Groups that split, by instruction or of themselves. -/
def Obligations.Splits : Prop :=
  Sys2Proof.Machine.MorphsAtOnceHold ∧ Sys2Proof.Machine.SplitDivergesHold ∧ Sys2Proof.Machine.AutomaticSplitHold

namespace Sys2Proof.Machine

/-! ### Rendezvous and rejoins -/

/-- The rendezvous of a FUSE: its team, slot index and mask, while it is not complete (R218). -/
def SameMeet (c : Ctx) (mask : BitVec 16) (m : Rendezvous) : Prop :=
  m.team = c.st.team ∧ m.slot = c.first.2 % 8 ∧ m.mask = mask ∧ m.full = false

/-- The time of a rendezvous or rejoin wait in cycles, 65,536 for 0 (R218, R227). -/
def waitCycles (n unit : Nat) : Nat := if n = 0 then 65536 else unit * n

/-- A stream that waited goes on at its next instruction, at once or when its results are in (R206); one whose status goes to a role
queue may first wait for room there (R198). -/
def WentOn (s t : State) (sid : Nat) : Prop :=
  ∃ st st', find? s.streams sid = some st ∧ find? t.streams sid = some st' ∧
    ((st'.pc = st.pc + 4 ∧ (st'.park = none ∨ st'.park = some .results)) ∨
      (st'.pc = st.pc ∧ ∃ n v sw, st'.park = some (.status (.q n) v sw)))

/-- A stream waits at a rendezvous. -/
def AtMeet (s : State) (id sid : Nat) : Prop :=
  ∃ c d sw, ctxOf s sid = some c ∧ c.st.park = some (.fusing id d sw)

/-- The status of a stream that left a rendezvous stands in each of its lanes, where no other participant's register is. -/
def StatusLeft (s t : State) (id sid : Nat) (come : List Nat) (v : Word) : Prop :=
  ∀ c n sw, ctxOf s sid = some c → c.st.park = some (.fusing id (.x n) sw) → ∀ e ∈ c.lanes, OwnPlace s c e n.val →
    (∀ sid' ∈ come, sid' ≠ sid → ∀ c' e' (n' : Fin 96), ctxOf s sid' = some c' → e' ∈ c'.lanes →
      regPlace s c'.st e'.2 n'.val ≠ regPlace s c.st e.2 n.val) →
    look 0 t.regs (regPlace s c.st e.2 n.val) = v

end Sys2Proof.Machine

/-- The first FUSE opens a rendezvous and its timer, a later one of the same pc joins it, the last completes it; another pc and the end of
the time end it with status 4 and 1, and an arrival after that end opens one anew (R218). -/
def Sys2Proof.Machine.FuseMeetsHold : Prop :=
  (∀ (s : State) (c : Ctx) (sw : Bool) (d a : RegName) (imm : BitVec 10), Issues s c (.fuse sw d a imm) → c.st.handler = false →
    c.grp.mode = .single → FuseMask (firstA s c (.fuse sw d a imm)) (pipeOf c.first.2 % 16) →
    (∀ e ∈ s.meets, ¬SameMeet c ((firstA s c (.fuse sw d a imm)).setWidth 16) e.2) →
    ∃ t id, exec (.fuse sw d a imm) s = .next t ∧
      find? t.meets id = some { team := c.st.team, slot := c.first.2 % 8, mask := (firstA s c (.fuse sw d a imm)).setWidth 16
                                pc := c.st.pc, come := [c.sid], by_ := s.cycle + waitCycles imm.toNat 64, full := false } ∧
      (s.cycle + waitCycles imm.toNat 64 + 1, .fuseTimeout id) ∈ t.timers ∧
      ∃ st, find? t.streams c.sid = some st ∧ st.pc = c.st.pc ∧ st.park = some (.fusing id d sw) ∧ st.region = none) ∧
  (∀ (s : State) (c : Ctx) (sw : Bool) (d a : RegName) (imm : BitVec 10) (id : Nat) (m : Rendezvous),
    Issues s c (.fuse sw d a imm) → c.st.handler = false → c.grp.mode = .single →
    FuseMask (firstA s c (.fuse sw d a imm)) (pipeOf c.first.2 % 16) → find? s.meets id = some m →
    (∀ e ∈ s.meets, SameMeet c ((firstA s c (.fuse sw d a imm)).setWidth 16) e.2 ↔ e = (id, m)) → s.cycle ≤ m.by_ → m.pc = c.st.pc →
    ∃ t, exec (.fuse sw d a imm) s = .next t ∧
      find? t.meets id = some { m with come := m.come ++ [c.sid],
                                       full := decide (m.come.length + 1 = popCount 16 m.mask.toNat) } ∧
      (m.come.length + 1 = popCount 16 m.mask.toNat → .fuseRendezvousComplete id ∈ t.work) ∧
      ∃ st, find? t.streams c.sid = some st ∧ st.pc = c.st.pc ∧ st.park = some (.fusing id d sw)) ∧
  (∀ (s : State) (c : Ctx) (sw : Bool) (d a : RegName) (imm : BitVec 10) (id : Nat) (m : Rendezvous),
    Issues s c (.fuse sw d a imm) → c.st.handler = false → c.grp.mode = .single →
    FuseMask (firstA s c (.fuse sw d a imm)) (pipeOf c.first.2 % 16) → find? s.meets id = some m →
    (∀ e ∈ s.meets, SameMeet c ((firstA s c (.fuse sw d a imm)).setWidth 16) e.2 ↔ e = (id, m)) → s.cycle ≤ m.by_ → m.pc ≠ c.st.pc →
    (m.come ++ [c.sid]).Nodup → (∀ sid ∈ m.come, AtMeet s id sid) →
    ∃ t, exec (.fuse sw d a imm) s = .next t ∧ find? t.meets id = none ∧ (∀ sid ∈ m.come ++ [c.sid], WentOn s t sid)) ∧
  (∀ (s : State) (c : Ctx) (sw : Bool) (d a : RegName) (imm : BitVec 10) (id : Nat) (m : Rendezvous),
    Issues s c (.fuse sw d a imm) → c.st.handler = false → c.grp.mode = .single →
    FuseMask (firstA s c (.fuse sw d a imm)) (pipeOf c.first.2 % 16) → find? s.meets id = some m →
    (∀ e ∈ s.meets, SameMeet c ((firstA s c (.fuse sw d a imm)).setWidth 16) e.2 ↔ e = (id, m)) → m.by_ < s.cycle →
    ∃ t id', exec (.fuse sw d a imm) s = .next t ∧
      find? t.meets id' = some { team := c.st.team, slot := c.first.2 % 8, mask := (firstA s c (.fuse sw d a imm)).setWidth 16
                                 pc := c.st.pc, come := [c.sid], by_ := s.cycle + waitCycles imm.toNat 64, full := false }) ∧
  (∀ (s : State) (id : Nat) (m : Rendezvous), find? s.meets id = some m → m.full = false → m.by_ < s.cycle → m.come.Nodup →
    (∀ sid ∈ m.come, AtMeet s id sid) →
    ∃ t, exec (.fuseTimeout id) s = .next t ∧ find? t.meets id = none ∧
      ∀ sid ∈ m.come, WentOn s t sid ∧ StatusLeft s t id sid m.come 1)

namespace Sys2Proof.Machine

/-- The allocation of a follower and the leader's base on its pipeline leave the follower room (R219 step 2). -/
def HasRoom (s : State) (lead p : Nat) : Prop :=
  (laneOf s p).alloc = (laneOf s lead).alloc ∧ ((laneOf s p).base = (laneOf s lead).base ∨
    ∀ e ∈ s.lanes, e.1 = p ∨ pipeOf e.1 ≠ pipeOf p ∨ e.2.base + e.2.alloc ≤ (laneOf s lead).base ∨
      (laneOf s lead).base + (laneOf s p).alloc ≤ e.2.base)

end Sys2Proof.Machine

/-- A complete rendezvous with every result in, and the cluster's transfers settled where its banks change mode (R237), fuses when all
have room: one FUSED group in pipeline order under the leader's pc, stack and registers, each d receiving 0; else all leave with status
3. A moved allocation keeps each register's offset (R219). -/
def Sys2Proof.Machine.FuseFormsHold : Prop :=
  (∀ (s : State) (id lead : Nat) (m : Rendezvous) (poss : List Nat) (st : Stream) (g : Group) (tm : Team) (d : RegName) (sw : Bool),
    find? s.meets id = some m → m.full = true → (∀ sid ∈ m.come, ∃ x, find? s.streams sid = some x ∧ x.pend = []) →
    poss.Pairwise (· < ·) → (∀ p, p ∈ poss ↔ p ∈ m.come) → poss.head? = some lead →
    find? s.streams lead = some st → find? s.groups (laneOf s lead).group = some g → find? s.teams m.team = some tm →
    st.team = m.team → st.group = (laneOf s lead).group → st.park = some (.fusing id d sw) → poss.length ≤ 16 →
    (sharedOn s tm.cluster = true ∨ ∀ e ∈ s.moves, e.2.kind < 5 → ∀ x, find? s.teams e.2.team = some x → x.cluster ≠ tm.cluster) →
    (∀ p ∈ poss, ∃ l, find? s.lanes p = some l) → (∀ p ∈ poss, p ≠ lead → (laneOf s p).group ≠ (laneOf s lead).group ∧
      (laneOf s p).stream ≠ lead) →
    (∀ p ∈ poss, HasRoom s lead p) →
    ∃ t, exec (.fuseRendezvousComplete id) s = .next t ∧ find? t.meets id = none ∧
      (∃ g', find? t.groups (laneOf s lead).group = some g' ∧ g'.lanes = poss ∧ g'.mode = .fused ∧ g'.ended = 0) ∧
      (∃ st', find? t.streams lead = some st' ∧ ((∀ n, d ≠ .q n) → st'.pc = st.pc + 4) ∧
        (st'.pc = st.pc + 4 ∨ (st'.pc = st.pc ∧ st'.park = some (.status d 0 sw))) ∧ st'.members = maskOf (List.range poss.length) ∧
        st'.mask = maskOf (List.range poss.length) ∧ st'.stack.length = st.stack.length ∧
        (∀ e ∈ st'.stack, e.mask = maskOf (List.range poss.length)) ∧ st'.waits = [] ∧ st'.region = none ∧
        st'.wbase = st.wbase ∧ st'.fcsr = st.fcsr) ∧
      (∀ n p, poss[n]? = some p → (laneOf t p).ln = n ∧ (laneOf t p).stream = lead ∧
        (laneOf t p).group = (laneOf s lead).group ∧ (laneOf t p).base = (laneOf s lead).base)) ∧
  (∀ (s : State) (pos base i : Nat), i < (laneOf s pos).alloc →
    look 0 (moveAllocation s pos base).regs (pipeOf pos * 2048 + base + i) =
      look 0 s.regs (pipeOf pos * 2048 + (laneOf s pos).base + i))

namespace Sys2Proof.Machine

/-- The streams of a group. -/
def InGroup (s : State) (gk : Nat) (e : Nat × Stream) : Prop := e ∈ s.streams ∧ e.2.group = gk

/-- A lane of a group's stream waits at a rejoin of a kind: none implicit, some explicit. -/
def AtRejoin (e : Nat × Stream) (expl : Bool) : Prop := ∃ x, e.2.park = some (.rejoin x) ∧ x.isSome = expl

end Sys2Proof.Machine

/-- REJOIN in DIVERGED mode parks its lane, the first opening the wait, anew when the last one has ended (R227). -/
def Sys2Proof.Machine.RejoinWaitsHold : Prop :=
  ∀ (s : State) (c : Ctx) (sw : Bool) (d a : RegName), Issues s c (.rejoin sw d a) → c.st.handler = false → c.grp.mode = .diverged →
    (∃ e, InGroup s c.st.group e ∧ e.1 ≠ c.sid ∧ ¬(∃ b, AtRejoin e b)) → c.lanes ≠ [] → c.st.park = none →
    ∃ t, exec (.rejoin sw d a) s = .next t ∧
      (∃ st, find? t.streams c.sid = some st ∧ st.pc = c.st.pc ∧ st.park = some (.rejoin (some (d, sw))) ∧ st.region = none) ∧
      ∃ g, find? t.groups c.st.group = some g ∧ g.mode = .diverged ∧
        ((∀ w, c.grp.rejoinBy = some w → w < s.cycle) → g.rejoinBy = some (s.cycle + waitCycles ((firstA s c (.rejoin sw d a)).toNat % 2 ^ 32) 1) ∧
          (s.cycle + waitCycles ((firstA s c (.rejoin sw d a)).toNat % 2 ^ 32) 1 + 1, .rejoinTimeout c.st.group) ∈ t.timers) ∧
        (∀ w, c.grp.rejoinBy = some w → s.cycle ≤ w → g.rejoinBy = some w)

/-- An implicit rejoin at which all lanes wait at one pc and stack depth fuses the group under the stack of the lowest lane less its split
record; with different depths each lane goes on singly past it.
The end of the wait lets each lane go on singly (R227 to R229). -/
def Sys2Proof.Machine.RejoinEndsHold : Prop :=
  (∀ (s : State) (gk k0 : Nat) (g : Group) (a : Stream) (r : List (Nat × Stream)), find? s.groups gk = some g →
    g.mode = .diverged → g.trap = none → s.streams.filter (fun e => decide (e.2.group = gk)) = (k0, a) :: r →
    (∀ e ∈ (k0, a) :: r, e.2.pc = a.pc ∧ AtRejoin e false) → (∀ e ∈ r, depthIn e.2 = depthIn a) →
    ∃ t, exec (.implicitRejoin gk) s = .next t ∧
      (∃ g', find? t.groups gk = some g' ∧ g'.mode = .fused ∧ g'.rejoinBy = none ∧ g'.lanes = g.lanes) ∧
      (∃ st, find? t.streams (groupSid g) = some st ∧ st.pc = a.pc ∧ st.park = none ∧ st.waits = [] ∧ st.mask = st.members ∧
        (∀ l, l < 16 → (inMask st.members l = true ↔ ∃ e ∈ (k0, a) :: r, inMask e.2.members l = true)) ∧
        st.fcsr = a.fcsr ∧ st.wbase = a.wbase ∧ st.region = a.region)) ∧
  (∀ (s : State) (gk k0 : Nat) (g : Group) (a : Stream) (r : List (Nat × Stream)), find? s.groups gk = some g →
    g.mode = .diverged → g.trap = none → s.streams.filter (fun e => decide (e.2.group = gk)) = (k0, a) :: r →
    (∀ e ∈ (k0, a) :: r, e.2.pc = a.pc ∧ AtRejoin e false ∧ ctxOf s e.1 ≠ none ∧ find? s.streams e.1 = some e.2) →
    (∃ e ∈ r, depthIn e.2 ≠ depthIn a) → ((k0, a) :: r).Pairwise (fun x y => x.1 ≠ y.1) →
    ∃ t, exec (.implicitRejoin gk) s = .next t ∧
      (∃ g', find? t.groups gk = some g' ∧ g'.mode = .diverged ∧ g'.rejoinBy = none) ∧
      ∀ e ∈ (k0, a) :: r, find? t.streams e.1 = some { e.2 with park := none, noJoin := true }) ∧
  (∀ (s : State) (gk : Nat) (g : Group) (w : Nat), find? s.groups gk = some g → g.rejoinBy = some w → w < s.cycle →
    (s.streams.filter (fun e => decide (e.2.group = gk))).Pairwise (fun x y => x.1 ≠ y.1) →
    (∀ e, InGroup s gk e → ctxOf s e.1 ≠ none ∧ find? s.streams e.1 = some e.2) →
    ∃ t, exec (.rejoinTimeout gk) s = .next t ∧ (∃ g', find? t.groups gk = some g' ∧ g'.rejoinBy = none ∧ g'.mode = g.mode) ∧
      ∀ e, InGroup s gk e → (AtRejoin e false → find? t.streams e.1 = some { e.2 with park := none, noJoin := true }) ∧
        (AtRejoin e true → WentOn s t e.1))

/-- Lanes that meet to be fused and groups that rejoin. -/
def Obligations.FuseAndRejoin : Prop :=
  Sys2Proof.Machine.FuseMeetsHold ∧ Sys2Proof.Machine.FuseFormsHold ∧ Sys2Proof.Machine.RejoinWaitsHold ∧ Sys2Proof.Machine.RejoinEndsHold

namespace Sys2Proof.Machine

/-! ### Accesses to memory -/

/-! ### Loads -/

/-- A load: its marker, destination, size, extension and address. -/
structure LoadForm where
  sw   : Bool
  dest : RegName
  size : Nat
  ext  : Nat → Word
  addr : Vals → Word

/-- An M-format address (R456). -/
def mAddress (off : BitVec 10) (size : Nat) (v : Vals) : Word := BitVec.ofInt 64 (v.a.toNat + off.toInt * size)

/-- The plain loads (R456 to R459). -/
def loadForm : Instr → Option LoadForm
  | .ldBS sw d _ off => some ⟨sw, d, 1, fun n => (BitVec.ofNat 8 n).signExtend 64, mAddress off 1⟩
  | .ldBN sw d _ off => some ⟨sw, d, 1, BitVec.ofNat 64, mAddress off 1⟩
  | .ldHS sw d _ off => some ⟨sw, d, 2, fun n => (BitVec.ofNat 16 n).signExtend 64, mAddress off 2⟩
  | .ldHN sw d _ off => some ⟨sw, d, 2, BitVec.ofNat 64, mAddress off 2⟩
  | .ldWS sw d _ off => some ⟨sw, d, 4, fun n => (BitVec.ofNat 32 n).signExtend 64, mAddress off 4⟩
  | .ldWN sw d _ off => some ⟨sw, d, 4, BitVec.ofNat 64, mAddress off 4⟩
  | .ldD sw d _ off => some ⟨sw, d, 8, BitVec.ofNat 64, mAddress off 8⟩
  | .ldDX sw d _ _ => some ⟨sw, d, 8, BitVec.ofNat 64, fun v => v.a + v.b⟩
  | .ldWX sw d _ _ => some ⟨sw, d, 4, BitVec.ofNat 64, fun v => v.a + v.b⟩
  | _ => none

/-- One lane's load: through its bank, where an erased key reads as poison (R277), and for an engine routine from the home with the
cluster's dirty bytes (R269, R458, R482). -/
structure LoadedLane (k : LoadForm) (c : Ctx) (u : State) (r : Reached) (t : State) : Prop where
  touches : Touches u t c
  result  : c.routine = false → ∀ e, InBank u (bankFor u (pipeOf r.v.pos) r.x.local_) r.x.key (r.x.local_ / 256) e →
    Returning u t c k.dest r (e.poison || decide (r.x.key = .dead)) (k.ext (gather (fun a => look 0 e.data (a % 256)) k.size r.x.local_))
  memory  : c.routine = false → Roomy u (bankFor u (pipeOf r.v.pos) r.x.local_) (r.x.local_ / 256) →
    t.mem = u.mem ∧ t.poison = u.poison ∧ t.sealed = u.sealed ∧
      t.teams = (chargeSectors u c (fillCharge u (bankFor u (pipeOf r.v.pos) r.x.local_) (r.x.local_ / 256))).teams
  routine : c.routine = true → ∀ e, SoleCopy u (servingBanks u c r.v.pos) r.x.key (r.x.local_ / 256) e →
    Returning u t c k.dest r false (k.ext (homeValue u r k.size e)) ∧ t.mem = u.mem ∧ t.poison = u.poison ∧
      t.sealed = u.sealed

/-- The addresses of an instruction's active lanes. -/
def addressesOf (s : State) (c : Ctx) (i : Instr) (addr : Vals → Word) : List (Vals × Word) :=
  (c.lanes.map (valsOf s c i)).map (fun v => (v, addr v))

end Sys2Proof.Machine

/-- Every active lane whose address translates loads, in ascending lane order: its bank's bytes, or after a fill the home's,
extended as the suffix says, are outstanding for its destination (R456 to R459, R268, R272). -/
def Sys2Proof.Machine.LoadsHold : Prop :=
  ∀ (s : State) (c : Ctx) (i : Instr) (k : LoadForm) (r : State) (xs : List Reached), Issues s c i → loadForm i = some k →
    reachAll c { need := ⟨true, false, false⟩, size := k.size, remote := false, reads := true } s (addressesOf s c i k.addr) = (r, [], xs) →
    heldStore r c k.size xs = false →
    ∃ t, exec i s = .next t ∧ Acts s r c i k.sw xs (LoadedLane k) t

namespace Sys2Proof.Machine

/-! ### Stores -/

/-- A plain store: its marker, size and address, and whether it may kick (R480). -/
structure StoreForm where
  sw   : Bool
  size : Nat
  addr : Vals → Word
  wide : Bool

/-- The plain stores (R456, R458, R459). -/
def storeForm : Instr → Option StoreForm
  | .stB sw _ _ off => some ⟨sw, 1, mAddress off 1, false⟩
  | .stH sw _ _ off => some ⟨sw, 2, mAddress off 2, false⟩
  | .stW sw _ _ off => some ⟨sw, 4, mAddress off 4, false⟩
  | .stD sw _ _ off => some ⟨sw, 8, mAddress off 8, true⟩
  | .stDX sw _ _ _ => some ⟨sw, 8, fun v => v.a + v.b, true⟩
  | .stWX sw _ _ _ => some ⟨sw, 4, fun v => v.a + v.b, false⟩
  | _ => none

/-- One lane's store into its bank, and for an engine routine at the home, once its cluster's copy has gone there; the leaf's D bit
is set before (R269, R279, R458). Under an erased key nothing is written (R277). -/
structure StoredLane (n : Nat) (c : Ctx) (u : State) (r : Reached) (t : State) : Prop where
  touches : Touches u t c
  result  : c.routine = false → ∀ m x, dirtied u c.tlbs r.va ⟨false, true, false⟩ (userOf u c) r.x = (m, x) →
    x.key ≠ .dead → ∀ e, InBank m (bankFor m (pipeOf r.v.pos) x.local_) x.key (x.local_ / 256) e →
    ∃ e', sectorIn t (bankFor m (pipeOf r.v.pos) x.local_) (x.local_ / 256) = some e' ∧ e'.key = e.key ∧ e'.poison = e.poison ∧
      (∀ o, o < 256 → look 0 e'.data o =
        if x.local_ % 256 ≤ o ∧ o < x.local_ % 256 + n then byteOf r.v.d (o - x.local_ % 256) else look 0 e.data o) ∧
      (∀ o, o ∈ e'.dirty ↔ o ∈ e.dirty ∨ (x.local_ % 256 ≤ o ∧ o < x.local_ % 256 + n))
  dropped : c.routine = false → ∀ m x, dirtied u c.tlbs r.va ⟨false, true, false⟩ (userOf u c) r.x = (m, x) →
    x.key = .dead → ∀ e, InBank m (bankFor m (pipeOf r.v.pos) x.local_) x.key (x.local_ / 256) e →
    ∃ e', sectorIn t (bankFor m (pipeOf r.v.pos) x.local_) (x.local_ / 256) = some e' ∧ e'.dirty = e.dirty ∧
      ∀ o, o < 256 → look 0 e'.data o = look 0 e.data o
  memory  : c.routine = false → ∀ m x, dirtied u c.tlbs r.va ⟨false, true, false⟩ (userOf u c) r.x = (m, x) →
    Roomy m (bankFor m (pipeOf r.v.pos) x.local_) (x.local_ / 256) →
    t.mem = m.mem ∧ t.poison = m.poison ∧ t.sealed = m.sealed ∧
      t.teams = (chargeSectors m c (fillCharge m (bankFor m (pipeOf r.v.pos) x.local_) (x.local_ / 256))).teams
  routine : c.routine = true → ∀ m x, dirtied u c.tlbs r.va ⟨false, true, false⟩ (userOf u c) r.x = (m, x) → x.key ≠ .dead →
    ∀ e, SoleCopy m (servingBanks m c r.v.pos) x.key (x.local_ / 256) e → ∀ a, a / 256 = x.local_ / 256 →
    homeByte t x.key a = if x.local_ ≤ a ∧ a < x.local_ + n then byteOf r.v.d (a - x.local_) else viaHome m x.key a e

end Sys2Proof.Machine

/-- Every active lane whose address translates stores, in ascending lane order, and after them every lane of a doubleword store
that names the engine aperture kicks its hart (R456 to R459, R268, R279, R480, R481). -/
def Sys2Proof.Machine.StoresHold : Prop :=
  ∀ (s : State) (c : Ctx) (i : Instr) (k : StoreForm) (r : State) (xs : List Reached), Issues s c i → storeForm i = some k →
    reachAll c { need := ⟨false, true, false⟩, size := k.size, remote := false, reads := false } s
      ((addressesOf s c i k.addr).filter (fun e => !(k.wide && inAperture e.2))) = (r, [], xs) →
    heldStore r c k.size xs = false →
    (∀ e ∈ addressesOf s c i k.addr, k.wide = true → inAperture e.2 = true → GoodKick c e.2 e.1.d) →
    (∀ h, (hartOf s h).fifo.length + ((addressesOf s c i k.addr).filter (fun e => k.wide && inAperture e.2 &&
      decide (kickHart c e.2 = some h))).length ≤ 16) →
    ∃ t, exec i s = .next t ∧
      Acts s r c i k.sw (xs.map Sum.inl ++ ((addressesOf s c i k.addr).filter (fun e => k.wide && inAperture e.2)).map Sum.inr)
        (fun c' u x t' => match x with
          | .inl y => StoredLane k.size c' u y t'
          | .inr e => ∃ h, NamesHart c' e.2 h ∧ Kicked h c' u e.1 t') t

/-- Loads and stores of local memory, with their frames. -/
def Obligations.LoadsAndStores : Prop :=
  Sys2Proof.Machine.LoadsHold ∧ Sys2Proof.Machine.StoresHold

namespace Sys2Proof.Machine

/-! ### Releases, acquires and the home -/

end Sys2Proof.Machine

/-- A release writes back the dirty sectors of the banks that R295 names for its scope, which stay valid and become clean; an
acquire writes them back and invalidates every line; other banks keep their lines, and only bytes written through a bank reach
the home (R295 to R297). -/
def Sys2Proof.Machine.WriteBacksHold : Prop :=
  ∀ (s : State) (pipe : Nat) (sc : Scope) (fused : Bool), (∀ b ∈ scopeBanks s pipe sc fused, WellBank s b) →
    (∀ b ∈ scopeBanks s pipe sc fused, ∀ sec, sectorIn (releaseBanks s pipe sc fused) b sec =
      (sectorIn s b sec).map (fun e => { e with dirty := [] })) ∧
    (∀ b ∈ scopeBanks s pipe sc fused, linesOf (acquireBanks s pipe sc fused) b = []) ∧
    (∀ b, b ∉ scopeBanks s pipe sc fused → linesOf (releaseBanks s pipe sc fused) b = linesOf s b ∧
      linesOf (acquireBanks s pipe sc fused) b = linesOf s b) ∧
    WrittenBack s (releaseBanks s pipe sc fused) (scopeBanks s pipe sc fused) ∧
    WrittenBack s (acquireBanks s pipe sc fused) (scopeBanks s pipe sc fused) ∧
    OnlyMemory s (releaseBanks s pipe sc fused) ∧ OnlyMemory s (acquireBanks s pipe sc fused)

namespace Sys2Proof.Machine

/-- An acquire load: marker, destination, size, scope (R460). -/
def acquireForm : Instr → Option (Bool × RegName × Nat × Scope)
  | .ldDAcq sw d _ sc => some (sw, d, 8, sc)
  | .ldWAcq sw d _ sc => some (sw, d, 4, sc)
  | _ => none

/-- One lane's acquire load: read at the home, then the cache actions of its scope; one sector is charged (R149, R269, R296,
R460). -/
structure AcquiredLane (d : RegName) (n : Nat) (sc : Scope) (c : Ctx) (u : State) (r : Reached) (t : State) : Prop where
  touches : Touches u t c
  result  : ∀ e, SoleCopy u (servingBanks u c r.v.pos) r.x.key (r.x.local_ / 256) e →
    Returning u t c d r (badHome u r.x.key r.x.local_ e) (BitVec.ofNat 64 (homeValue u r n e))
  charge  : t.teams = (chargeSectors u c 1).teams
  banks   : c.routine = false → ∀ m, m = toHome u c r n → t.banks = (acquireBanks m (pipeOf r.v.pos) sc c.fused).banks ∧
    t.mem = (acquireBanks m (pipeOf r.v.pos) sc c.fused).mem

/-- A release store: marker, size, scope, and whether it may kick (R460). -/
def releaseForm : Instr → Option (Bool × Nat × Scope × Bool)
  | .stDRel sw _ _ sc => some (sw, 8, sc, true)
  | .stWRel sw _ _ sc => some (sw, 4, sc, false)
  | _ => none

/-- The state before the write of a release store: its cache actions, the leaf's D bit, the sector at its home, and at fabric
scope the team's aggregation buffers flushed (R269, R279, R295, R312). -/
def beforeRelease (n : Nat) (sc : Scope) (c : Ctx) (u : State) (r : Reached) : State × Xlat :=
  let d := dirtied (releaseLane u c r.v.pos sc) c.tlbs r.va ⟨false, true, false⟩ (userOf u c) r.x
  let m := toHome d.1 c { r with x := d.2 } n
  (if sc = .fabric then flushTeam m c.team.ident else m, d.2)

/-- Nothing the release waits for: at fabric scope the team has nothing outstanding, and no earlier release store of the group
waits (R312). -/
def MayWrite (sc : Scope) (c : Ctx) (m : State) : Prop :=
  sc ≠ .fabric ∨ ((∀ tm, find? m.teams c.st.team = some tm → outstanding m tm = 0) ∧
    ∀ e ∈ m.moves, ¬(5 ≤ e.2.kind ∧ e.2.group = c.st.group))

/-- One lane's release store: it writes at the home, or at fabric scope waits there for the outstanding count (R312, R460). -/
structure ReleasedLane (n : Nat) (sc : Scope) (c : Ctx) (u : State) (r : Reached) (t : State) : Prop where
  done    : ∀ m x, beforeRelease n sc c u r = (m, x) → (∃ tm, find? m.teams c.st.team = some tm) → MayWrite sc c m → x.key ≠ .dead →
    (∀ a, homeByte t x.key a = if x.local_ ≤ a ∧ a < x.local_ + n then byteOf r.v.d (a - x.local_) else homeByte m x.key a) ∧
    t.banks = m.banks ∧ t.streams = m.streams ∧ t.regs = m.regs ∧ t.moves = m.moves
  waits   : ∀ m x tm, beforeRelease n sc c u r = (m, x) → find? m.teams c.st.team = some tm → sc = .fabric → outstanding m tm ≠ 0 →
    t.mem = m.mem ∧ t.banks = m.banks ∧ t.streams = m.streams ∧ ∃ q, find? t.moves m.seq = some q ∧ q.kind = 5 ∧ q.team = c.st.team ∧
      q.group = c.st.group ∧ q.lane = r.v.pos ∧ q.va = r.va ∧ q.size = n ∧
      q.cells = [(x.local_, x.key, (List.range n).map (fun i => (i, byteOf r.v.d i)))]

/-- One read-modify-write of an instruction: marker, destination, size, and the new value, none when nothing is written. -/
structure UpdateForm where
  sw   : Bool
  dest : RegName
  size : Nat
  new  : Nat → Vals → Option Nat → Prop

/-- An AMO of a function `f` on `n` bytes, `w` the low bytes of B (R463). -/
def amo (sw : Bool) (d : RegName) (n : Nat) (f : Nat → Nat → Nat → Prop) : Option UpdateForm :=
  some ⟨sw, d, n, fun old v new => ∃ x, new = some x ∧ f old (v.b.toNat % 2 ^ (8 * n)) x⟩

/-- The smaller or the larger of two as signed numbers of `n` bytes. -/
def signedPick (n : Nat) (big : Bool) (old w x : Nat) : Prop :=
  x = if (decide ((BitVec.ofNat (8 * n) old).toInt ≤ (BitVec.ofNat (8 * n) w).toInt)) != big then old else w

/-- The atomics (R463, R464). -/
def updateForm : Instr → Option UpdateForm
  | .amoAddD sw d _ _ => amo sw d 8 (fun old w x => x = (old + w) % 2 ^ 64)
  | .amoAndD sw d _ _ => amo sw d 8 (fun old w x => x = old &&& w)
  | .amoOrD sw d _ _ => amo sw d 8 (fun old w x => x = old ||| w)
  | .amoXorD sw d _ _ => amo sw d 8 (fun old w x => x = old ^^^ w)
  | .amoMinSD sw d _ _ => amo sw d 8 (signedPick 8 false)
  | .amoMaxSD sw d _ _ => amo sw d 8 (signedPick 8 true)
  | .amoFaddD sw d _ _ => amo sw d 8 (fun old w x => ∃ fl, SumIs fp64 .rne (x, fl) (decodeF fp64 old) (decodeF fp64 w))
  | .amoSwapD sw d _ _ => amo sw d 8 (fun _ w x => x = w)
  | .amoAddW sw d _ _ => amo sw d 4 (fun old w x => x = (old + w) % 2 ^ 32)
  | .amoAndW sw d _ _ => amo sw d 4 (fun old w x => x = old &&& w)
  | .amoOrW sw d _ _ => amo sw d 4 (fun old w x => x = old ||| w)
  | .amoXorW sw d _ _ => amo sw d 4 (fun old w x => x = old ^^^ w)
  | .amoMinSW sw d _ _ => amo sw d 4 (signedPick 4 false)
  | .amoMaxSW sw d _ _ => amo sw d 4 (signedPick 4 true)
  | .amoFaddS sw d _ _ => amo sw d 4 (fun old w x => ∃ fl, SumIs fp32 .rne (x, fl) (decodeF fp32 old) (decodeF fp32 w))
  | .amoSwapW sw d _ _ => amo sw d 4 (fun _ w x => x = w)
  | .casD sw d _ _ => some ⟨sw, d, 8, fun old v new => new = if old = v.d.toNat then some v.b.toNat else none⟩
  | .casW sw d _ _ => some ⟨sw, d, 4, fun old v new =>
      new = if old = v.d.toNat % 2 ^ 32 then some (v.b.toNat % 2 ^ 32) else none⟩
  | _ => none

/-- One lane's kick by a release store: after its cache actions, and at fabric scope only when the team has nothing outstanding; else it
waits (R308, R312). -/
structure KickReleased (h : Nat) (sc : Scope) (c : Ctx) (u : State) (v : Vals) (t : State) : Prop where
  narrow : sc ≠ .fabric → Kicked h c (releaseLane u c v.pos sc) v t
  wide   : sc = .fabric → ∀ m tm, m = flushTeam (releaseLane u c v.pos sc) c.team.ident → find? m.teams c.st.team = some tm →
    (MayWrite sc c m → (hartOf t h).fifo = (hartOf m h).fifo ++
      [{ team := tm.ident, block := v.d.toNat, domain := tm.domain, cluster := tm.cluster }]) ∧
    (outstanding m tm ≠ 0 → hartOf t h = hartOf m h ∧ ∃ q, find? t.moves m.seq = some q ∧ q.kind = 6 ∧ q.team = c.st.team ∧
      q.group = c.st.group ∧ q.lane = v.pos ∧ q.dst = h ∧ q.size = v.d.toNat)

/-- One lane's read-modify-write at the home (R298, R463, R464): the old value returns, and the new one, if any, stands at the same
place once the leaf's D bit is set (R279); poison returns late and writes nothing (R271, R272). `m` and `y` are the state and the lane
after the leaf has been settled. -/
structure UpdatedLane (k : UpdateForm) (c : Ctx) (u : State) (r : Reached) (t : State) : Prop where
  touches : Touches u t c
  charge  : t.teams = (chargeSectors u c 1).teams
  result  : ∀ m y, settledAt u c r = (m, y.x) → y = { r with x := y.x } →
    ∀ e, SoleCopy m (servingBanks m c r.v.pos) y.x.key (y.x.local_ / 256) e →
    Returning u t c k.dest r (badHome m y.x.key y.x.local_ e) (BitVec.ofNat 64 (homeValue m y k.size e))
  write   : ∀ m y, settledAt u c r = (m, y.x) → y = { r with x := y.x } →
    ∀ e, SoleCopy m (servingBanks m c r.v.pos) y.x.key (y.x.local_ / 256) e → badHome m y.x.key y.x.local_ e = false →
    ∃ new, k.new (homeValue m y k.size e) r.v new ∧
      (∀ w, new = some w → homeRead t y.x.key y.x.local_ k.size = w % 256 ^ k.size ∧
        ∀ a, a < y.x.local_ ∨ y.x.local_ + k.size ≤ a →
          homeByte t y.x.key a = homeByte (setDirty (toHome m c y k.size) c.tlbs y.x.leaf).1 y.x.key a) ∧
      (new = none → ∀ key a, homeByte t key a = homeByte (toHome m c y k.size) key a)
  poisoned : ∀ m y, settledAt u c r = (m, y.x) → y = { r with x := y.x } →
    ∀ e, SoleCopy m (servingBanks m c r.v.pos) y.x.key (y.x.local_ / 256) e → badHome m y.x.key y.x.local_ e = true →
    ∀ key a, homeByte t key a = homeByte (toHome m c y k.size) key a

end Sys2Proof.Machine

/-- Acquire loads act lane by lane (R296, R457, R460). -/
def Sys2Proof.Machine.AcquireLoadsHold : Prop :=
  ∀ (s : State) (c : Ctx) (i : Instr) (sw : Bool) (d : RegName) (n : Nat) (sc : Scope) (r : State) (xs : List Reached),
    Issues s c i → acquireForm i = some (sw, d, n, sc) →
    reachAll c { need := ⟨true, false, false⟩, size := n, remote := false, reads := true } s (addressesOf s c i Vals.a) = (r, [], xs) →
    heldStore r c n xs = false →
    ∃ t, exec i s = .next t ∧ Acts s r c i sw xs (AcquiredLane d n sc) t

/-- Release stores act lane by lane; a doubleword one kicks for the lanes that name the aperture, after its cache actions (R295,
R308, R312, R460, R480). -/
def Sys2Proof.Machine.ReleaseStoresHold : Prop :=
  ∀ (s : State) (c : Ctx) (i : Instr) (sw : Bool) (n : Nat) (sc : Scope) (kicks : Bool) (r : State) (xs : List Reached),
    Issues s c i → releaseForm i = some (sw, n, sc, kicks) →
    reachAll c { need := ⟨false, true, false⟩, size := n, remote := false, reads := false } s
      ((addressesOf s c i Vals.a).filter (fun e => !(kicks && inAperture e.2))) = (r, [], xs) →
    heldStore r c n xs = false →
    (∀ e ∈ addressesOf s c i Vals.a, kicks = true → inAperture e.2 = true → GoodKick c e.2 e.1.d) →
    (∀ h, (hartOf s h).fifo.length + ((addressesOf s c i Vals.a).filter (fun e => kicks && inAperture e.2 &&
      decide (kickHart c e.2 = some h))).length ≤ 16) →
    ∃ t, exec i s = .next t ∧
      Acts s r c i sw (xs.map Sum.inl ++ ((addressesOf s c i Vals.a).filter (fun e => kicks && inAperture e.2)).map Sum.inr)
        (fun c' u x t' => match x with
          | .inl y => ReleasedLane n sc c' u y t'
          | .inr e => ∃ h, NamesHart c' e.2 h ∧ KickReleased h sc c' u e.1 t') t

/-- Acquire loads, release stores and the write-backs they need. -/
def Obligations.CoherentAccesses : Prop :=
  Sys2Proof.Machine.WriteBacksHold ∧ Sys2Proof.Machine.AcquireLoadsHold ∧ Sys2Proof.Machine.ReleaseStoresHold

/-- AMO and CAS act lane by lane (R298, R457, R463, R464). -/
def Obligations.Atomics : Prop :=
  ∀ (s : State) (c : Ctx) (i : Instr) (k : UpdateForm) (r : State) (xs : List Reached), Issues s c i → updateForm i = some k →
    reachAll c { need := ⟨true, true, false⟩, size := k.size, remote := false, reads := true } s (addressesOf s c i Vals.a) = (r, [], xs) →
    heldStore r c k.size xs = false →
    ∃ t, exec i s = .next t ∧ Acts s r c i k.sw xs (UpdatedLane k) t

namespace Sys2Proof.Machine

/-! ### Scratchpad -/

/-- A scratchpad load: its marker, destination, size and offset (R461). -/
def scratchLoad : Instr → Option (Bool × RegName × Nat × BitVec 10)
  | .sldW sw d _ off => some (sw, d, 4, off)
  | .sldD sw d _ off => some (sw, d, 8, off)
  | _ => none

/-- A scratchpad store. -/
def scratchStore : Instr → Option (Bool × Nat × BitVec 10)
  | .sstW sw _ _ off => some (sw, 4, off)
  | .sstD sw _ _ off => some (sw, 8, off)
  | _ => none

/-- Bytes that a team's accesses may reach: its allocation without the role queue area at its end (R197, R461). -/
def ownBytes (t : Team) : Nat := t.scUnits * 4096 - (if t.layout = 0 then 0 else 16384)

/-- The cause of a scratchpad offset, if any (R456, R461). -/
def offsetCause (t : Team) (n : Nat) (ln : Nat) (a : Word) : Option LaneFault :=
  if a.toNat % n ≠ 0 then some { ln := ln, code := 0x0C, addr := a, detail := 0 }
  else if ownBytes t < a.toNat + n then some { ln := ln, code := 0x0D, addr := a, detail := 0 } else none

/-- The place of a byte of a team's scratchpad in the cluster's 512 KiB (R263, R264). -/
def padAt (t : Team) (off : Nat) : Nat := t.cluster * 524288 + t.scBase * 4096 + off

/-- No doubleword of a range of the team's scratchpad has an uncorrectable error (R266). -/
def PadGood (s : State) (t : Team) (off n : Nat) : Prop := ∀ o, o < n → padAt t (off + o) / 8 ∉ s.scErr

/-- What a write of `n` bytes to a team's scratchpad does: its bytes stand there, every other byte of scratchpad is unchanged,
and the doublewords written whole lose their errors (R266, R461). -/
structure PadWritten (u t : State) (tm : Team) (off n : Nat) (val : Nat → Byte) : Prop where
  rest  : t = { u with scratch := t.scratch, scErr := t.scErr }
  bytes : ∀ p, look 0 t.scratch p = if padAt tm off ≤ p ∧ p < padAt tm off + n then val (p - padAt tm off) else look 0 u.scratch p
  errs  : ∀ d, d ∈ t.scErr ↔ d ∈ u.scErr ∧ ¬(padAt tm off ≤ 8 * d ∧ 8 * d + 8 ≤ padAt tm off + n)

end Sys2Proof.Machine

/-- SLD zero-extends the bytes at each lane's offset in the team's scratchpad, without translation or charge to tb; SST writes
them lane by lane in ascending order; a lane whose offset is misaligned or outside what the team may reach traps (R197, R456,
R461). -/
def Obligations.Scratchpad : Prop :=
  (∀ (s : State) (c : Ctx) (i : Instr) (sw : Bool) (d : RegName) (n : Nat) (off : BitVec 10), Issues s c i →
    scratchLoad i = some (sw, d, n, off) → (∀ e ∈ c.lanes, offsetCause c.team n e.1 (mAddress off n (valsOf s c i e)) = none) →
    (∀ e ∈ c.lanes, PadGood s c.team (mAddress off n (valsOf s c i e)).toNat n) →
    ∃ t, exec i s = .next t ∧ OnlyComputes s t c (some d) false ∧ ∀ e ∈ c.lanes,
      Outstanding s t c d e (BitVec.ofNat 64 (gather (fun o => look 0 s.scratch (padAt c.team o)) n
        (mAddress off n (valsOf s c i e)).toNat))) ∧
  (∀ (s : State) (c : Ctx) (i : Instr) (sw : Bool) (n : Nat) (off : BitVec 10), Issues s c i → scratchStore i = some (sw, n, off) →
    (∀ e ∈ c.lanes, offsetCause c.team n e.1 (mAddress off n (valsOf s c i e)) = none) →
    (∀ e ∈ c.lanes, PadGood s c.team (mAddress off n (valsOf s c i e)).toNat n) →
    ∃ t, exec i s = .next t ∧ Acts s s c i sw (c.lanes.map (valsOf s c i))
      (fun c' u v t' => PadWritten u t' c'.team (mAddress off n v).toNat n (byteOf v.d)) t) ∧
  (∀ (s : State) (c : Ctx) (i : Instr) (n : Nat) (off : BitVec 10), Issues s c i →
    ((∃ sw d, scratchLoad i = some (sw, d, n, off)) ∨ ∃ sw, scratchStore i = some (sw, n, off)) →
    Raises s c i ((c.lanes.map (valsOf s c i)).filterMap (fun v => offsetCause c.team n v.ln (mAddress off n v))))

namespace Sys2Proof.Machine

/-! ### Barrier objects -/

/-- A barrier object that is due completes its phase: ARRIVED becomes 0 and PHASE flips (R304). -/
def phaseStep (b : Barrier) : Barrier :=
  if b.expect ≠ 0 ∧ b.arrived = b.expect ∧ b.pend = 0 then { b with arrived := 0, phase := !b.phase } else b

/-- One object of a team changes by `f`; its other objects, the rest of the team and the other teams stay. -/
def BarrierSet (u t : State) (tk n : Nat) (f : Barrier → Barrier) : Prop :=
  (∀ k, k ≠ tk → find? t.teams k = find? u.teams k) ∧
    ∀ tm, find? u.teams tk = some tm → ∃ tm', find? t.teams tk = some tm' ∧ { tm' with bars := tm.bars } = tm ∧
      ∀ m, look .reset tm'.bars m = if m = n then f (look .reset tm.bars n) else look .reset tm.bars m

/-- The object of a team. -/
def objectOf (c : Ctx) (n : Nat) : Barrier := look .reset c.team.bars n

/-- The observed bit of a party (R471). -/
def sawPhase (c : Ctx) (n : Nat) : Bool := c.st.observed.getLsbD n

/-- Releases or acquires of a scope by every active lane in turn (R295, R296). -/
def LanesRelease (c : Ctx) (sc : Scope) (u t : State) : Prop :=
  if c.routine then t = u else InTurn (fun v e w => w = releaseBanks v (pipeOf e.2) sc c.fused) u c.lanes t
def LanesAcquire (c : Ctx) (sc : Scope) (u t : State) : Prop :=
  if c.routine then t = u else InTurn (fun v e w => w = acquireBanks v (pipeOf e.2) sc c.fused) u c.lanes t

/-- An arrival: a release of team scope, the observed bit takes PHASE, ARRIVED rises by 1 and a due phase completes (R289,
R304, R471). -/
def Arrives (n : Nat) (c : Ctx) (u t : State) : Prop :=
  ∃ m, LanesRelease c .team u m ∧ t = { m with streams := t.streams, teams := t.teams } ∧
    BarrierSet m t c.st.team n (fun b => phaseStep { b with arrived := b.arrived + 1 }) ∧
    (∀ k, k ≠ c.sid → find? t.streams k = find? m.streams k) ∧
    ∃ st, find? t.streams c.sid = some st ∧ { st with observed := c.st.observed } = c.st ∧
      ∀ l, l < 16 → st.observed.getLsbD l = if l = n then (objectOf c n).phase else c.st.observed.getLsbD l

/-- A party goes on past a completed phase, with an acquire of team scope (R289). -/
def PassesPhase (c : Ctx) (u t : State) : Prop :=
  ∃ m, LanesAcquire c .team u m ∧ t = { m with streams := t.streams } ∧ (∀ k, k ≠ c.sid → find? t.streams k = find? m.streams k) ∧
    ∀ st, find? u.streams c.sid = some st → find? t.streams c.sid = some { st with pc := st.pc + 4 }

/-- A party waits for a phase. -/
def AwaitsPhase (n : Nat) (sw : Bool) (c : Ctx) (u t : State) : Prop :=
  t = { u with streams := t.streams } ∧ (∀ k, k ≠ c.sid → find? t.streams k = find? u.streams k) ∧
    ∀ st, find? u.streams c.sid = some st → find? t.streams c.sid = some { st with park := some (.phase n sw) }

/-- All arrivals of the phase are in (R471). -/
def AllIn (b : Barrier) : Prop := b.expect ≠ 0 ∧ b.arrived = b.expect

end Sys2Proof.Machine

/-- BARINIT sets EXPECT from the lowest active lane and ARRIVED to 0. BARARV arrives, or parks while every arrival of the phase
is in. BARWAIT returns when PHASE differs from the observed bit and waits otherwise; BARTRY says which without waiting. TBAR
arrives and then waits (R289, R303, R304, R471). -/
def Obligations.BarrierObjects : Prop :=
  (∀ (s : State) (c : Ctx) (sw : Bool) (n : BitVec 4) (b : RegName), Issues s c (.barinit sw n b) → c.lanes ≠ [] →
    ∃ t, exec (.barinit sw n b) s = .next t ∧ Does s c (.barinit sw n b) sw (fun _ u t' => t' = { u with teams := t'.teams } ∧
      BarrierSet u t' c.st.team n.toNat (fun o => { o with
        expect := BitVec.ofNat 8 (valsOf s c (.barinit sw n b) c.first).b.toNat, arrived := 0 })) t) ∧
  (∀ (s : State) (c : Ctx) (sw : Bool) (n : BitVec 4), Issues s c (.bararv sw n) → ¬AllIn (objectOf c n.toNat) →
    ∃ t, exec (.bararv sw n) s = .next t ∧ Does s c (.bararv sw n) sw (Arrives n.toNat) t) ∧
  (∀ (s : State) (c : Ctx) (i : Instr) (sw : Bool) (n : BitVec 4), Issues s c i → (i = .bararv sw n ∨ i = .tbar sw n) →
    AllIn (objectOf c n.toNat) → WaitsAt s c i (.phaseFull n.toNat)) ∧
  (∀ (s : State) (c : Ctx) (sw : Bool) (n : BitVec 4), Issues s c (.barwait sw n) →
    ∃ t, exec (.barwait sw n) s = .next t ∧ Sets s c (.barwait sw n) sw
      (if (objectOf c n.toNat).phase ≠ sawPhase c n.toNat then PassesPhase else AwaitsPhase n.toNat sw) t) ∧
  (∀ (s : State) (c : Ctx) (sw : Bool) (d : RegName) (n : BitVec 4), Issues s c (.bartry sw d n) →
    (objectOf c n.toNat).phase = sawPhase c n.toNat →
    ∃ t, exec (.bartry sw d n) s = .next t ∧ OnlyComputes s t c (some d) false ∧
      ∀ e ∈ c.lanes, Holds s t c (.bartry sw d n) d e 0) ∧
  (∀ (s : State) (c : Ctx) (sw : Bool) (d : RegName) (n : BitVec 4), Issues s c (.bartry sw d n) →
    (objectOf c n.toNat).phase ≠ sawPhase c n.toNat →
    ∃ t, exec (.bartry sw d n) s = .next t ∧ (∀ e ∈ c.lanes, Holds s t c (.bartry sw d n) d e 1) ∧
      Does s c (.bartry sw d n) sw (fun c' u t' => ∃ m, m = { u with regs := m.regs, streams := m.streams, teams := m.teams } ∧
        LanesAcquire c' .team m t') t) ∧
  (∀ (s : State) (c : Ctx) (sw : Bool) (n : BitVec 4), Issues s c (.tbar sw n) → ¬AllIn (objectOf c n.toNat) →
    ∃ t, exec (.tbar sw n) s = .next t ∧ Sets s c (.tbar sw n) sw (fun c' u t' => ∃ m, Arrives n.toNat c' u m ∧
      (if (phaseStep { objectOf c' n.toNat with arrived := (objectOf c' n.toNat).arrived + 1 }).phase ≠ (objectOf c' n.toNat).phase
        then PassesPhase c' m t' else AwaitsPhase n.toNat sw c' m t')) t)

namespace Sys2Proof.Machine

/-! ### Fences -/

/-- A fence: its marker, acquire and release sides, and scope (R470). -/
def fenceForm : Instr → Option (Bool × Bool × Bool × Scope)
  | .fenceAcq sw sc => some (sw, true, false, sc)
  | .fenceRel sw sc => some (sw, false, true, sc)
  | .fenceAr sw sc => some (sw, true, true, sc)
  | .fenceSc sw sc => some (sw, true, true, sc)
  | _ => none

/-- Nothing that a fence waits for: with an acquire side every read has returned, those of the group's LDS among them; with a release side no release store of
the group waits, at device or fabric scope every ENQ has arrived, and at fabric scope the team has nothing outstanding (R124,
R305, R312, R470). -/
def NothingOpen (m : State) (c : Ctx) (acq rel : Bool) (sc : Scope) : Prop :=
  (acq = true → c.st.pend = [] ∧ ∀ e ∈ m.moves, ¬(e.2.kind = 0 ∧ e.2.group = c.st.group)) ∧
  (rel = true → (∀ e ∈ m.moves, ¬(5 ≤ e.2.kind ∧ e.2.group = c.st.group)) ∧
    (sc = .device ∨ sc = .fabric → ∀ p ∈ c.st.pend, p.await ≠ .arrival) ∧
    (sc = .fabric → ∀ tm, find? m.teams c.st.team = some tm → outstanding m tm = 0))

/-- What a fence has done at once: with a release side its cache actions, and at fabric scope the flush of the team's buffers
(R295, R312, R470). -/
def Released (c : Ctx) (rel : Bool) (sc : Scope) (u m : State) : Prop :=
  ∃ v, (if rel then LanesRelease c sc u v else v = u) ∧
    m = if rel = true ∧ sc = .fabric then flushTeam v c.team.ident else v

/-- A waiting write to RTRACK takes effect with a release of fabric scope (R454). -/
def RtrackDue (rel : Bool) (sc : Scope) (k : Nat) (m n : State) : Prop :=
  if rel = true ∧ sc = .fabric then
    n = { m with teams := n.teams } ∧ (∀ j, j ≠ k → find? n.teams j = find? m.teams j) ∧
      ∀ tm, find? m.teams k = some tm →
        find? n.teams k = some { tm with rtrack := tm.rtrackTo.getD tm.rtrack, rtrackTo := none }
  else n = m

end Sys2Proof.Machine

/-- A fence performs its release actions at once; when nothing that it waits for is open it performs its acquire actions and the
group goes on, and otherwise the group waits there (R124, R295, R296, R312, R454, R470). -/
def Sys2Proof.Machine.FencesHold : Prop :=
  ∀ (s : State) (c : Ctx) (i : Instr) (sw acq rel : Bool) (sc : Scope), Issues s c i → fenceForm i = some (sw, acq, rel, sc) →
    ∃ t, exec i s = .next t ∧ Sets s c i sw (fun c' u t' => ∃ m, Released c' rel sc u m ∧
      (NothingOpen m c' acq rel sc → ∃ n v, RtrackDue rel sc c'.st.team m n ∧ (if acq then LanesAcquire c' sc n v else v = n) ∧
        t' = { v with streams := t'.streams } ∧ (∀ k, k ≠ c.sid → find? t'.streams k = find? u.streams k) ∧
        find? t'.streams c.sid = some { c'.st with pc := c'.st.pc + 4 }) ∧
      (¬NothingOpen m c' acq rel sc → t' = { m with streams := t'.streams } ∧
        (∀ k, k ≠ c.sid → find? t'.streams k = find? u.streams k) ∧
        find? t'.streams c.sid = some { c'.st with park := some (.fence acq rel sc sw) })) t

namespace Sys2Proof.Machine

/-! ### Cache operations -/

/-- CWB, CINV and CWBI: whether the line leaves the bank, and whether a supervisor's discards (R472). -/
def cacheForm : Instr → Option (Bool × Bool × Bool)
  | .cwb sw _ => some (sw, false, false)
  | .cinv sw _ => some (sw, true, true)
  | .cwbi sw _ => some (sw, true, false)
  | _ => none

/-- One lane's cache operation on the line of its address in the bank that serves it (R472): the line's sectors stay clean or
leave; bytes written through the bank reach their home, or are discarded; other lines and banks stay; each sector written
back is charged (R149). -/
structure CachedLane (drop discard : Bool) (c : Ctx) (u : State) (r : Reached) (t : State) : Prop where
  touches : Touches u t c
  line    : ∀ b, b = bankFor u (pipeOf r.v.pos) r.x.local_ → WellBank u b → ∀ sec, sec / 4 = r.x.local_ / 1024 →
    sectorIn t b sec = if drop then none else (sectorIn u b sec).map (fun e => { e with dirty := [] })
  others  : ∀ b sec, (b ≠ bankFor u (pipeOf r.v.pos) r.x.local_ ∨ sec / 4 ≠ r.x.local_ / 1024) → sectorIn t b sec = sectorIn u b sec
  home    : ∀ b, b = bankFor u (pipeOf r.v.pos) r.x.local_ → WellBank u b → ∀ sec e, sec / 4 = r.x.local_ / 1024 →
    sectorIn u b sec = some e → e.key ≠ .dead → ∀ o, o < 256 → homeByte t e.key (sec * 256 + o) =
      if o ∈ e.dirty ∧ discard = false then look 0 e.data o else homeByte u e.key (sec * 256 + o)
  charge  : ∀ b l, b = bankFor u (pipeOf r.v.pos) r.x.local_ → findLine (linesOf u b) (r.x.local_ / 1024) = some l →
    t.teams = (chargeSectors u c (if discard then 0 else (l.sectors.filter (fun e => decide (e.2.dirty ≠ []))).length)).teams

end Sys2Proof.Machine

/-- CWB, CINV and CWBI act lane by lane on the line of each lane's address; CINV at user privilege acts as CWBI. PREF fills an
absent sector, and a fault drops it. ISYNC discards the fetch block (R149, R472, R473). -/
def Sys2Proof.Machine.CacheOperationsHold : Prop :=
  (∀ (s : State) (c : Ctx) (i : Instr) (sw drop cinv : Bool) (r : State) (xs : List Reached), Issues s c i → c.routine = false →
    cacheForm i = some (sw, drop, cinv) →
    reachAll c { need := ⟨true, false, false⟩, size := 1, remote := false, reads := false } s (addressesOf s c i Vals.a) = (r, [], xs) →
    heldStore r c 1 xs = false →
    ∃ t, exec i s = .next t ∧ Acts s r c i sw xs (CachedLane drop (cinv && decide (privOf s c ≠ 0))) t) ∧
  (∀ (s : State) (c : Ctx) (sw : Bool) (a : RegName), Issues s c (.pref sw a) →
    ∃ t, exec (.pref sw a) s = .next t ∧ Acts s s c (.pref sw a) sw (c.lanes.map (valsOf s c (.pref sw a)))
      (fun c' u v t' => Touches u t' c' ∧
        (∀ f, permLocal u c'.tlbs c'.team.domain v.a ⟨true, false, false⟩ (userOf u c') = .error f → t' = u) ∧
        (∀ m x, permLocal u c'.tlbs c'.team.domain v.a ⟨true, false, false⟩ (userOf u c') = .ok (m, x) →
          ∀ e, InBank m (bankFor m (pipeOf v.pos) x.local_) x.key (x.local_ / 256) e →
            (∃ e', sectorIn t' (bankFor m (pipeOf v.pos) x.local_) (x.local_ / 256) = some e' ∧ e'.key = e.key ∧ e'.poison = e.poison ∧
              e'.dirty = e.dirty ∧ ∀ o, o < 256 → look 0 e'.data o = look 0 e.data o) ∧
            (Roomy m (bankFor m (pipeOf v.pos) x.local_) (x.local_ / 256) → t'.mem = m.mem ∧
              t'.teams = (chargeSectors m c' (fillCharge m (bankFor m (pipeOf v.pos) x.local_) (x.local_ / 256))).teams))) t) ∧
  (∀ (s : State) (c : Ctx) (sw : Bool), Issues s c (.isync sw) →
    ∃ t, exec (.isync sw) s = .next t ∧ Does s c (.isync sw) sw (fun c' u t' => StreamSet u t' c.sid { c'.st with fetch := none }) t)

/-- Fences and cache operations. -/
def Obligations.FencesAndCaches : Prop :=
  Sys2Proof.Machine.FencesHold ∧ Sys2Proof.Machine.CacheOperationsHold

namespace Sys2Proof.Machine

/-! ### LDS -/

/-- An LDS: its marker, size and barrier object (R462). -/
def ldsForm : Instr → Option (Bool × Nat × BitVec 4)
  | .lds256 sw _ _ n => some (sw, 256, n)
  | .lds1k sw _ _ n => some (sw, 1024, n)
  | .lds4k sw _ _ n => some (sw, 4096, n)
  | .lds16k sw _ _ n => some (sw, 16384, n)
  | _ => none

/-- One lane's LDS starts (R462): the transfer is recorded and becomes due to land, PEND rises by 1 and its sectors are charged
(R149). What would fault late is recorded with it: a range outside what the team may reach, else the first page that does not
translate. -/
structure LdsStarted (size n : Nat) (c : Ctx) (u : State) (v : Vals) (t : State) : Prop where
  rest   : t = { u with mem := t.mem, poison := t.poison, sealed := t.sealed, banks := t.banks, clusters := t.clusters
                        free := t.free, ctl := t.ctl, teams := t.teams, timers := t.timers, work := t.work, moves := t.moves, seq := u.seq + 1 }
  team   : ∃ m, m.sched = u.sched ∧ m.cycle = u.cycle ∧ BarrierSet u m c.st.team n (fun b => phaseStep { b with pend := b.pend + 1 }) ∧
      t.teams = (chargeSectors m c (size / 256)).teams
  lands  : t.work = u.work ++ [.ldsLanded u.seq]
  move   : ∃ q, find? t.moves u.seq = some q ∧ q.kind = 0 ∧ q.team = c.st.team ∧ q.group = c.st.group ∧ q.lane = v.pos ∧ q.pc = c.st.pc ∧
      q.bar = some n ∧ q.va = v.a ∧ q.dst = v.d.toNat ∧ q.size = size ∧
      (ownBytes c.team < v.d.toNat + size → q.fault = some (0, 0x0D, v.d.toNat, 0)) ∧
      (v.d.toNat + size ≤ ownBytes c.team → v.a.toNat % 65536 + size ≤ 65536 →
        (∀ m x, permLocal u c.tlbs c.team.domain v.a ⟨true, false, false⟩ (userOf u c) = .ok (m, x) →
          q.fault = none ∧ q.src = [(0, x.local_, x.key)]) ∧
        (∀ f, permLocal u c.tlbs c.team.domain v.a ⟨true, false, false⟩ (userOf u c) = .error f →
          q.fault = some (0, f.code, v.a.toNat, f.detail)))
  moves  : ∀ k, k ≠ u.seq → find? t.moves k = find? u.moves k

/-- No first-level bank of a cluster holds a dirty sector of a range: its bytes are those of the home (R269). -/
def Undirtied (s : State) (cluster pa n : Nat) : Prop :=
  ∀ b, b / 16 = cluster → ∀ a, pa ≤ a → a < pa + n → ∀ e, sectorIn s b (a / 256) = some e → e.dirty = []

end Sys2Proof.Machine

/-- An LDS with aligned addresses starts a transfer per active lane, waits while PEND would pass 65,535 or while a release store of
its group to bytes it reads waits, and traps on a misaligned
address. When it lands its bytes stand in scratchpad, or a late fault is delivered, and PEND falls by 1 (R304, R305,
R335, R462). -/
def Sys2Proof.Machine.LdsTransfersHold : Prop :=
  (∀ (s : State) (c : Ctx) (i : Instr) (sw : Bool) (size : Nat) (n : BitVec 4), Issues s c i → ldsForm i = some (sw, size, n) →
    (∀ e ∈ c.lanes, (valsOf s c i e).a.toNat % 256 = 0 ∧ (valsOf s c i e).d.toNat % 256 = 0) →
    ((objectOf c n.toNat).pend.toNat + c.lanes.length ≤ 65535 → (∀ e ∈ c.lanes, ldsHeld s c size (valsOf s c i e) = false) →
      ∃ t, exec i s = .next t ∧ Acts s s c i sw (c.lanes.map (valsOf s c i)) (LdsStarted size n.toNat) t) ∧
    (65535 < (objectOf c n.toNat).pend.toNat + c.lanes.length → WaitsAt s c i (.pendFull n.toNat)) ∧
    ((objectOf c n.toNat).pend.toNat + c.lanes.length ≤ 65535 → (∃ e ∈ c.lanes, ldsHeld s c size (valsOf s c i e) = true) →
      WaitsAt s c i .drain)) ∧
  (∀ (s : State) (c : Ctx) (i : Instr) (sw : Bool) (size : Nat) (n : BitVec 4), Issues s c i → ldsForm i = some (sw, size, n) →
    Raises s c i ((c.lanes.map (valsOf s c i)).filterMap (fun v =>
      if v.a.toNat % 256 ≠ 0 then some { ln := v.ln, code := 0x0C, addr := v.a, detail := 0 }
      else if v.d.toNat % 256 ≠ 0 then some { ln := v.ln, code := 0x0C, addr := v.d, detail := 0 } else none))) ∧
  (∀ (s : State) (id pa : Nat) (key : KeySel) (m : Transfer) (tm : Team), find? s.moves id = some m → m.kind = 0 → m.fault = none →
    m.src = [(0, pa, key)] → pa % 65536 + m.size ≤ 65536 → 0 < m.size → m.size % 8 = 0 → m.dst % 8 = 0 → find? s.teams m.team = some tm →
    Undirtied s tm.cluster pa m.size → (∀ o, o < m.size → homeBad s key (pa + o) = false) →
    ∃ t, exec (.ldsLanded id) s = .next t ∧ t = { s with moves := t.moves, scratch := t.scratch, scErr := t.scErr, teams := t.teams } ∧
      find? t.moves id = none ∧ (∀ k, k ≠ id → find? t.moves k = find? s.moves k) ∧
      (∀ p, look 0 t.scratch p = if padAt tm m.dst ≤ p ∧ p < padAt tm m.dst + m.size then homeByte s key (pa + (p - padAt tm m.dst))
        else look 0 s.scratch p) ∧
      (∀ n, m.bar = some n → BarrierSet s t m.team n (fun b => phaseStep { b with pend := b.pend - 1 }))) ∧
  (∀ (s : State) (id code addr det : Nat) (m : Transfer) (tm : Team), find? s.moves id = some m → m.kind = 0 →
    m.fault = some (0, code, addr, det) → m.src = [] → find? s.teams m.team = some tm →
    ∃ t, exec (.ldsLanded id) s = .next t ∧ t = { s with moves := t.moves, teams := t.teams, work := t.work } ∧ find? t.moves id = none ∧
      (∃ tm', find? t.teams m.team = some tm' ∧
        tm'.late = tm.late ++ [{ lane := m.lane, code := code, addr := BitVec.ofNat 64 addr, detail := 0, pc := m.pc }] ∧
        ∀ n, m.bar = some n → look .reset tm'.bars n = phaseStep { look .reset tm.bars n with pend := (look .reset tm.bars n).pend - 1 }) ∧
      t.work = s.work ++ [.lateFaultDelivery (laneOf s m.lane).stream])

namespace Sys2Proof.Machine

/-! ### Queued reservations -/

/-- The requests for a line, holder first (R299). -/
def requestsOf (s : State) (line : Nat) : List Reserve := look [] s.ctl.resv line

/-- The lane holds the reservation of the line of an address, for 4,096 cycles from its grant (R300, R301). -/
def HoldsLine (s : State) (pos pa : Nat) : Prop :=
  ∃ r rest, requestsOf s (pa / 1024) = r :: rest ∧ r.held = true ∧ r.lane = pos ∧ s.cycle < r.since + 4096

/-- What a lane's access at a line's home may change: as an access to memory, with reservations and their due events. -/
structure AtLine (u t : State) (c : Ctx) : Prop where
  rest   : t = { u with mem := t.mem, poison := t.poison, sealed := t.sealed, banks := t.banks, clusters := t.clusters
                        free := t.free, ctl := t.ctl, streams := t.streams, teams := t.teams, timers := t.timers, seq := t.seq, work := t.work }
  ctl    : t.ctl = { u.ctl with tlbs := t.ctl.tlbs, resv := t.ctl.resv }
  others : ∀ k, k ≠ c.sid → find? t.streams k = find? u.streams k
  charge : t.teams = (chargeSectors u c 1).teams

/-- The reservation of a line is handed on: the head leaves and the next request is due (R300, R301). -/
def HandedOn (u t : State) (line : Nat) : Prop :=
  requestsOf t line = (requestsOf u line).drop 1 ∧ (∀ l, l ≠ line → requestsOf t l = requestsOf u l) ∧
    (if (requestsOf u line).drop 1 = [] then t.work = u.work else t.work = u.work ++ [.reservationGrant line])

/-- One lane's LRW (R299, R465): its older request is withdrawn from wherever it stands, the new one enters its line's FIFO, and its
result waits for the reservation. An empty FIFO, or one whose holder left, has its head due. -/
structure Queued (d : RegName) (c : Ctx) (u : State) (r : Reached) (t : State) : Prop where
  atLine : AtLine u t c
  fifos  : ∀ l, requestsOf t l = (requestsOf u l).filter (fun x => decide (x.lane ≠ r.v.pos)) ++
      if l = r.x.local_ / 1024 then
        [{ lane := r.v.pos, stream := c.sid, seq := u.seq, addr := r.x.local_, key := r.x.key, since := 0, held := false }] else []
  due    : (requestsOf u (r.x.local_ / 1024)).filter (fun x => decide (x.lane ≠ r.v.pos)) = [] → .reservationGrant (r.x.local_ / 1024) ∈ t.work
  freed  : ∀ l q rest, requestsOf u l = q :: rest → q.lane = r.v.pos → rest.filter (fun x => decide (x.lane ≠ r.v.pos)) ≠ [] →
      .reservationGrant l ∈ t.work
  result : t.seq = u.seq + 1 ∧ ∀ st, find? u.streams c.sid = some st → ∃ st' p, find? t.streams c.sid = some st' ∧ p ∈ st'.pend ∧
      p.seq = u.seq ∧ p.lane = r.v.pos ∧ p.pc = c.st.pc ∧ p.await = .holder (r.x.local_ / 1024) r.va

/-- One lane's SCH (R300, R466): by the holder it writes its doubleword, returns 0 and hands the reservation on, after the release
of device scope (R289); otherwise it writes nothing and returns 1. `m` and `y` are the state and the lane after the leaf has been
settled. -/
structure Conditional (d : RegName) (c : Ctx) (u : State) (r : Reached) (t : State) : Prop where
  atLine : AtLine u t c
  holder : ∀ m y, settledAt u c r = (m, y.x) → y = { r with x := y.x } → HoldsLine u r.v.pos y.x.local_ →
      Returning u t c d r false 0 ∧ HandedOn u t (y.x.local_ / 1024) ∧
      (y.x.key ≠ .dead → ∀ a, homeByte t y.x.key a = if y.x.local_ ≤ a ∧ a < y.x.local_ + 8 then byteOf r.v.b (a - y.x.local_)
        else homeByte (setDirty (releaseLane (toHome m c y 8) c r.v.pos .device) c.tlbs y.x.leaf).1 y.x.key a)
  other  : ∀ m y, settledAt u c r = (m, y.x) → y = { r with x := y.x } → ¬HoldsLine u r.v.pos y.x.local_ →
      Returning u t c d r false 1 ∧ t.mem = (toHome m c y 8).mem ∧ t.banks = (toHome m c y 8).banks ∧ t.work = u.work ∧
      ∀ l, requestsOf t l = requestsOf u l

/-- One lane's RELR (R300, R466). -/
structure Released1 (c : Ctx) (u : State) (r : Reached) (t : State) : Prop where
  atLine : AtLine u t c
  holder : HoldsLine u r.v.pos r.x.local_ → HandedOn u t (r.x.local_ / 1024) ∧
      t.mem = (releaseLane (toHome u c r 8) c r.v.pos .device).mem ∧ t.banks = (releaseLane (toHome u c r 8) c r.v.pos .device).banks
  other  : ¬HoldsLine u r.v.pos r.x.local_ → t = toHome u c r 8

/-- What LRW, SCH and RELR need of an address. -/
def lineReach : Reach := { need := ⟨true, true, false⟩, size := 8, remote := false, reads := false }

end Sys2Proof.Machine

/-- LRW queues each lane at its line; SCH and RELR act for the holder alone; the head of a FIFO becomes holder, reads its doubleword
as an acquire of device scope and has 4,096 cycles, after which the reservation is handed on (R299 to R301, R465, R466). -/
def Sys2Proof.Machine.ReservationsHold : Prop :=
  (∀ (s : State) (c : Ctx) (i : Instr) (sw : Bool) (P : Ctx → State → Reached → State → Prop) (r : State) (xs : List Reached), Issues s c i →
    ((∃ d a, i = .lrw sw d a ∧ P = Queued d) ∨ (∃ d a b, i = .sch sw d a b ∧ P = Conditional d) ∨ (∃ a, i = .relr sw a ∧ P = Released1)) →
    reachAll c lineReach s (addressesOf s c i Vals.a) = (r, [], xs) → heldStore r c 8 xs = false →
    ∃ t, exec i s = .next t ∧ Acts s r c i sw xs P t) ∧
  (∀ (s : State) (line sid : Nat) (q : Reserve) (rest : List Reserve) (p : Pending) (c : Ctx), requestsOf s line = q :: rest → q.held = false →
    findPend s q.seq = some (sid, p) → ctxOf s sid = some c → homeBad (acquireLane s c p.lane .device) q.key q.addr = false →
    ∃ t, exec (.reservationGrant line) s = .next t ∧ requestsOf t line = { q with held := true, since := s.cycle } :: rest ∧
      (∀ l, l ≠ line → requestsOf t l = requestsOf s l) ∧ t.timers = s.timers ++ [(s.cycle + 4096, .reservationTimeout line q.seq)] ∧
      t.mem = (acquireLane s c p.lane .device).mem ∧ t.banks = (acquireLane s c p.lane .device).banks ∧
      t.work = s.work ++ [.resultWriteback sid q.seq] ∧ t.regs = s.regs ∧
      ∃ st', find? t.streams sid = some st' ∧ { st' with pend := c.st.pend } = c.st ∧ ∀ x ∈ st'.pend, x.seq = q.seq → x.await = .nothing ∧
        ∀ w ∈ x.writes, w.2 = BitVec.ofNat 64 (homeRead (acquireLane s c p.lane .device) q.key q.addr 8)) ∧
  (∀ (s : State) (line owner : Nat) (q : Reserve) (rest : List Reserve), requestsOf s line = q :: rest →
    ∃ t, exec (.reservationTimeout line owner) s = .next t ∧
      (q.held = true ∧ q.seq = owner ∧ q.since + 4096 ≤ s.cycle → HandedOn s t line ∧ t = { s with ctl := t.ctl, work := t.work } ∧
        t.ctl = { s.ctl with resv := t.ctl.resv }) ∧
      (¬(q.held = true ∧ q.seq = owner ∧ q.since + 4096 ≤ s.cycle) → t = s))

namespace Sys2Proof.Machine

/-! ### WAITA and results -/

/-- Timeouts of the WAITA classes in cycles (R468). -/
def waitLimit : Nat → Option Nat
  | 0 => some 0 | 1 => some 256 | 2 => some 1024 | 3 => some 4096 | 4 => some 16384 | 5 => some 65536 | 6 => some 1048576
  | _ => none

/-- A lane's WAITA that finds the value `w`: on a change it returns at once, as an acquire load of device scope; in class 0 it
returns too; otherwise its result waits for a change, and in classes 1 to 6 for its timeout (R289, R302, R468). `m` is the
state that the reading leaves. -/
structure Waited (d : RegName) (k : Nat) (c : Ctx) (u m : State) (v : Vals) (w : Nat) (t : State) : Prop where
  frame  : t = { m with mem := t.mem, poison := t.poison, sealed := t.sealed, banks := t.banks, clusters := t.clusters
                        free := t.free, ctl := t.ctl, streams := t.streams, teams := t.teams, timers := t.timers, seq := u.seq + 1 }
  ctl    : t.ctl = { m.ctl with tlbs := t.ctl.tlbs }
  others : ∀ j, j ≠ c.sid → find? t.streams j = find? u.streams j
  result : ∀ st, find? u.streams c.sid = some st → ∃ st' p, find? t.streams c.sid = some st' ∧ { st' with pend := st.pend } = st ∧ p ∈ st'.pend ∧
      p.seq = u.seq ∧ p.lane = v.pos ∧ p.pc = c.st.pc ∧
      (BitVec.ofNat 64 w ≠ v.b ∨ waitLimit k = some 0 → p.await = .nothing ∧ p.writes = resultTo u c v.ln v.pos d (BitVec.ofNat 64 w)) ∧
      (BitVec.ofNat 64 w = v.b → waitLimit k ≠ some 0 → p.await = .change v.a v.b k ((waitLimit k).map (u.cycle + ·)))
  timer  : ∀ n, BitVec.ofNat 64 w = v.b → waitLimit k = some n → n ≠ 0 → (u.cycle + n, .waitaTimeout c.sid u.seq) ∈ t.timers
  banks  : t.banks = if BitVec.ofNat 64 w ≠ v.b then (acquireLane m c v.pos .device).banks else m.banks

/-- One lane's WAITA on a scratchpad word. -/
def PadWaited (d : RegName) (k : Nat) (c : Ctx) (u : State) (v : Vals) (t : State) : Prop :=
  Waited d k c u u v (gather (fun o => look 0 u.scratch (padAt c.team o)) 8 (v.a.toNat % 2 ^ 19)) t

/-- A scratchpad word that WAITA may name (R461, R468). -/
def PadWord (s : State) (t : Team) (a : Word) : Prop :=
  a.getLsbD 63 = true ∧ a.toNat % 2 ^ 63 < 2 ^ 19 ∧ a.toNat % 8 = 0 ∧ a.toNat % 2 ^ 19 + 8 ≤ ownBytes t ∧ PadGood s t (a.toNat % 2 ^ 19) 8

/-- One lane's WAITA on a global word, its sector's one copy in the lane's banks written back first (R269, R468). -/
def GlobalWaited (d : RegName) (k : Nat) (c : Ctx) (u : State) (v : Vals) (t : State) : Prop :=
  ∀ m x e, permLocal u c.tlbs c.team.domain v.a ⟨true, false, false⟩ (userOf u c) = .ok (m, x) →
    SoleCopy m (servingBanks m c v.pos) x.key (x.local_ / 256) e → badHome m x.key x.local_ e = false →
    Waited d k c u (evictRange m (servingBanks m c v.pos) x.local_ 8) v (gather (fun a => viaHome m x.key a e) 8 x.local_) t

end Sys2Proof.Machine

/-- WAITA reads each lane's word and returns, or waits for a change or its timeout; on a wake it reads again and returns only what
changed, at its timeout whatever it reads (R302, R468). -/
def Sys2Proof.Machine.WaitsOnWordsHold : Prop :=
  (∀ (s : State) (c : Ctx) (sw : Bool) (d a b : RegName) (k : BitVec 3), Issues s c (.waita sw d a b k) →
    (∀ e ∈ c.lanes, PadWord s c.team (valsOf s c (.waita sw d a b k) e).a) →
    ∃ t, exec (.waita sw d a b k) s = .next t ∧
      Acts s s c (.waita sw d a b k) sw (c.lanes.map (valsOf s c (.waita sw d a b k))) (PadWaited d k.toNat) t) ∧
  (∀ (s : State) (c : Ctx) (sw : Bool) (d a b : RegName) (k : BitVec 3), Issues s c (.waita sw d a b k) →
    (∀ e ∈ c.lanes, (valsOf s c (.waita sw d a b k) e).a.getLsbD 63 = false ∧ ∃ y,
      laneXlat s c { need := ⟨true, false, false⟩, size := 8, remote := false, reads := true } (valsOf s c (.waita sw d a b k) e).a = .ok y) →
    ∃ t, exec (.waita sw d a b k) s = .next t ∧
      Acts s s c (.waita sw d a b k) sw (c.lanes.map (valsOf s c (.waita sw d a b k))) (GlobalWaited d k.toNat) t) ∧
  (∀ (s : State) (sid seq cls w : Nat) (p : Pending) (c : Ctx) (a b : Word) (lim : Option Nat), findPend s seq = some (sid, p) →
    ctxOf s sid = some c → p.await = .change a b cls lim → waitRead s c p.lane a = some (w, false) →
    (a.getLsbD 63 = true → a.toNat % 8 = 0 ∧ PadGood s c.team (a.toNat % 2 ^ 19) 8) →
    ∀ ev, (ev = .waitaWake sid seq ∨ ev = .waitaTimeout sid seq) → ∃ t, exec ev s = .next t ∧
      (BitVec.ofNat 64 w ≠ b ∨ (ev = .waitaTimeout sid seq ∧ ∃ n, lim = some n ∧ n ≤ s.cycle) →
        t.work = s.work ++ [.resultWriteback sid seq] ∧ t.regs = s.regs ∧ t.scratch = s.scratch ∧
        ∃ st', find? t.streams sid = some st' ∧ { st' with pend := c.st.pend } = c.st ∧ ∀ x ∈ st'.pend, x.seq = seq → x.await = .nothing ∧
          ∀ y ∈ x.writes, y.2 = BitVec.ofNat 64 w) ∧
      (BitVec.ofNat 64 w = b → (ev = .waitaWake sid seq ∨ lim = none ∨ ∃ n, lim = some n ∧ s.cycle < n) → t = s))

/-- Reservations of lines and waits on words. -/
def Obligations.ReservationsAndWaits : Prop :=
  Sys2Proof.Machine.ReservationsHold ∧ Sys2Proof.Machine.WaitsOnWordsHold

/-- A result that has returned is written to its places and leaves the stream's list; the stream parked at a switch point goes on
when it was the last. One whose data was poisoned becomes a late fault (R205, R206, R208, R272, R324). -/
def Sys2Proof.Machine.ResultsReturnHold : Prop :=
  (∀ (s : State) (sid seq : Nat) (p : Pending) (c : Ctx), findPend s seq = some (sid, p) → ctxOf s sid = some c → p.await = .nothing →
    (c.st.park = none ∨ c.st.park = some .results) →
    ∃ t, exec (.resultWriteback sid seq) s = .next t ∧ t = { s with regs := t.regs, streams := t.streams } ∧
      (∀ k, k ≠ sid → find? t.streams k = find? s.streams k) ∧
      (∀ n, (∀ w, (.reg n, w) ∉ p.writes) → look 0 t.regs n = look 0 s.regs n) ∧
      (p.writes.Pairwise (fun x y => x.1 ≠ y.1) → ∀ n w, (.reg n, w) ∈ p.writes → look 0 t.regs n = w) ∧
      ∃ st', find? t.streams sid = some st' ∧ st'.pend = c.st.pend.filter (fun x => decide (x.seq ≠ seq)) ∧
        st'.park = (if c.st.pend.filter (fun x => decide (x.seq ≠ seq)) = [] then none else c.st.park) ∧
        { st' with pend := c.st.pend, park := c.st.park, k := c.st.k } = c.st ∧
        (∀ n, (∀ w, (.k n, w) ∉ p.writes) → look 0 st'.k n = look 0 c.st.k n) ∧
        (p.writes.Pairwise (fun x y => x.1 ≠ y.1) → ∀ n w, (.k n, w) ∈ p.writes → look 0 st'.k n = w)) ∧
  (∀ (s : State) (sid seq : Nat) (p : Pending) (c : Ctx) (f : LateFault), findPend s seq = some (sid, p) → ctxOf s sid = some c →
    p.await = .fails f → c.st.hart = none → (c.st.park = none ∨ c.st.park = some .results) →
    ∃ t, exec (.resultWriteback sid seq) s = .next t ∧ t = { s with streams := t.streams, teams := t.teams, work := t.work } ∧
      t.work = s.work ++ [.lateFaultDelivery (laneOf s f.lane).stream] ∧
      (∃ tm, find? t.teams c.st.team = some tm ∧ tm = { c.team with late := c.team.late ++ [f] }) ∧
      ∃ st', find? t.streams sid = some st' ∧ st'.pend = c.st.pend.filter (fun x => decide (x.seq ≠ seq)) ∧ st'.k = c.st.k ∧ st'.pc = c.st.pc)

/-- Transfers into scratchpad and results that return. -/
def Obligations.TransfersAndResults : Prop :=
  Sys2Proof.Machine.LdsTransfersHold ∧ Sys2Proof.Machine.ResultsReturnHold

namespace Sys2Proof.Machine

/-! ### The step as a whole -/

/-- Nothing but an instruction can run next: nothing is due, the surroundings chose nothing, and nothing has become ready by itself. -/
structure OnlyIssues (s : State) : Prop where
  due    : dueEvent s = none
  choice : s.schedule = []
  work   : s.work = []
  ready  : wake s = none

/-- The stream of `c` may issue in the cycle, its team running and its cluster not stopped (R189). -/
def MayIssue (s : State) (c : Ctx) : Prop := ∃ st, (c.sid, st) ∈ s.streams ∧ canIssue s c.sid st = true ∧ ctxOf s c.sid = some c

/-- How far a stream's slot stands from slot `cycle mod 8`, which each pipeline offers first (R189). -/
def slotsAfter (s : State) (sid : Nat) : Nat := (sid % 8 + 8 - s.cycle % 8) % 8

/-- The step gives the stream of `c` its issue, in the state `v`: the first of those chosen for the cycle when nothing else can run, or by
the order in which the surroundings let the chosen streams of a cycle issue, after `dt` cycles (R189). -/
def Issued (s : State) (c : Ctx) (v : State) : Prop :=
  (OnlyIssues s ∧ ∃ rest, s.slate = c.sid :: rest ∧ (∃ st, find? s.streams c.sid = some st ∧ canIssue s c.sid st = true) ∧
    v = { s with slate := rest }) ∨
  (OnlyIssues s ∧ s.slate = [] ∧ ∃ rest, slateOf s = c.sid :: rest ∧ v = { s with slate := rest }) ∨
  (dueEvent s = none ∧ ∃ dt rest w st, s.schedule = .issue dt c.sid :: rest ∧ (∀ n, dueIn s = some n → dt < n) ∧
    w = wait { s with schedule := rest } dt ∧ find? w.streams c.sid = some st ∧ onSlate w c.sid = true ∧ canIssue w c.sid st = true ∧
    v = { w with slate := w.slate.filter (fun k => decide (k ≠ c.sid)) })

/-- The stream that issues stands at a word: no late fault, automatic split or implicit rejoin comes first (R226, R227, R324). -/
structure AtWord (s : State) (c : Ctx) (v : State) : Prop where
  issued : Issued s c v
  ctx    : ctxOf v c.sid = some c
  late   : lateDue v c.sid c.st = false
  split  : splitDue v c = false
  apart  : atImplicit c = false

/-- The words of the majors that no instruction has (R345). -/
def ReservedMajor (w : Nat) : Prop :=
  ∃ m, m = w / 2 ^ 24 % 128 ∧ (m = 0 ∨ (0x16 ≤ m ∧ m ≤ 0x1F) ∨ (0x28 ≤ m ∧ m ≤ 0x2F) ∨ (0x59 ≤ m ∧ m ≤ 0x5F) ∨ m = 0x76 ∨ m = 0x77 ∨ 0x7D ≤ m)

end Sys2Proof.Machine

/-- Every well-formed instruction has a 32-bit word, and the decoder reads that word as the instruction with every operand. -/
def Obligations.DecodeEncode : Prop :=
  ∀ i, isWord i = true → wellFormed i = true → ∃ w, encode i = some w ∧ w < 2 ^ 32 ∧ decode w = .ok i

/-- No word has two meanings, none is an event's, and what the decoder reads is well formed and is that instruction's word; the words
of reserved majors, the all-zero word among them, are no instruction (R318, R345). -/
def Obligations.EncodingsApart : Prop :=
  (∀ w i, decode w = .ok i → isWord i = true ∧ wellFormed i = true ∧ encode i = some w ∧ w < 2 ^ 32 ∧ decodeTableWord 32 w = some i) ∧
  (∀ i j w, encode i = some w → encode j = some w → wellFormed i = true → wellFormed j = true → i = j) ∧
  (∀ w, ReservedMajor w → ∃ r, decode w = .error r)

/-- Words written out from the tables of R341 and R349 to R353, their fields from bit 31 down, and words of each kind that R318
rejects. -/
def Obligations.WordsOfTheTables : Prop :=
  decode (0 * 2 ^ 31 + 0x01 * 2 ^ 24 + 5 * 2 ^ 17 + 6 * 2 ^ 10 + 7 * 2 ^ 3 + 1) = .ok (.sub false (.x 5) (.x 6) (.x 7)) ∧
  decode (1 * 2 ^ 31 + 0x09 * 2 ^ 24 + 96 * 2 ^ 17 + 121 * 2 ^ 10 + 1023) = .ok (.addi true (.k 0) .ln 1023) ∧
  decode (0 * 2 ^ 31 + 0x21 * 2 ^ 24 + 95 * 2 ^ 17 + 1 * 2 ^ 10 + 2 * 2 ^ 3 + 3) = .ok (.fmaD false (.x 95) (.x 1) (.x 2)) ∧
  decode (0 * 2 ^ 31 + 0x30 * 2 ^ 24 + 3 * 2 ^ 17 + 131071) = .ok (.bnz false (.x 3) 131071) ∧
  decode (0 * 2 ^ 31 + 0x46 * 2 ^ 24 + 4 * 2 ^ 17 + 2 * 2 ^ 10 + 512) = .ok (.ldD false (.x 4) (.x 2) 512) ∧
  decode (0 * 2 ^ 31 + 0x56 * 2 ^ 24 + 0 * 2 ^ 17 + 3 * 2 ^ 10 + 0 * 2 ^ 3 + 1) = .ok (.fenceRel false .device) ∧
  decode (0 * 2 ^ 31 + 0x60 * 2 ^ 24 + 0 * 2 ^ 17 + 8 * 2 ^ 10 + 9 * 2 ^ 3 + 1) = .ok (.rstD false (.x 8) (.x 9)) ∧
  decode (0 * 2 ^ 31 + 0x68 * 2 ^ 24 + 1 * 2 ^ 17 + 2 * 2 ^ 10 + 96 * 2 ^ 3 + 0) = .ok (.enq false (.x 1) (.x 2) (.k 0)) ∧
  decode (0 * 2 ^ 31 + 0x73 * 2 ^ 24 + 63 * 2 ^ 17 + 10 * 2 ^ 10 + 12 * 2 ^ 3 + 3) = .ok (.tmmaTt false 63 (.x 10) (.x 12)) ∧
  decode (0 * 2 ^ 31 + 0x7A * 2 ^ 24 + 7 * 2 ^ 17 + 0x050) = .ok (.srd false (.x 7) 0x050) ∧
  decode 0 = .error .reservedMajor ∧
  decode (0x16 * 2 ^ 24) = .error .reservedMajor ∧
  decode (0x03 * 2 ^ 24 + 7) = .error .reservedFunction ∧
  decode (0x01 * 2 ^ 24 + 127 * 2 ^ 17) = .error .badRegister ∧
  decode (0x01 * 2 ^ 24 + 124 * 2 ^ 17) = .error .badDestination ∧
  decode (0x73 * 2 ^ 24 + 2 ^ 23) = .error .reservedField ∧
  decode (0x6B * 2 ^ 24 + 97 * 2 ^ 17) = .error .badCount ∧
  decode (0x56 * 2 ^ 24 + 5 * 2 ^ 10) = .error .badScope

/-- A step whose stream stands at an instruction's word runs exactly that instruction, with the stream as its issuer, and the cycle ends
with the last stream chosen for it; a release waits at its word for its group's transfers and held releases (R288). At a word that is no
instruction the stream takes the illegal-instruction trap, and at a word that cannot be fetched the fault of the fetch (R246, R318,
R341). A timer or alarm that is due, and an event that is waiting, run before any instruction. -/
def Sys2Proof.Machine.StepRunsInstructionHold : Prop :=
  (∀ (s v t : State) (c : Ctx) (w : Nat) (i : Instr), AtWord s c v → fetchWord v c = .ok (t, w) → decode w = .ok i →
    (heldBack t c i = false → step s = onNext afterIssue (exec i { t with issuer := some c.sid })) ∧
    (heldBack t c i = true → step s = .next (afterIssue t))) ∧
  (∀ (s v t : State) (c : Ctx) (w : Nat) (r : Reject), AtWord s c v → fetchWord v c = .ok (t, w) → decode w = .error r →
    step s = onNext afterIssue (exec (.illegalInstruction (BitVec.ofNat 32 w)) { t with issuer := some c.sid })) ∧
  (∀ (s v : State) (c : Ctx) (f : XFault), AtWord s c v → fetchWord v c = .error f →
    step s = onNext afterIssue (exec .instructionFetchFault { v with issuer := some c.sid })) ∧
  (∀ (s t : State) (e : Instr), dueEvent s = some (e, t) → happens e = true → step s = exec e t) ∧
  (∀ (s : State) (e : Instr) (rest : List Instr), dueEvent s = none → s.schedule = [] → s.work = e :: rest → cptFirst s e = none →
    happens e = true → step s = exec e { s with work := rest }) ∧
  (∀ (s : State) (dt : Nat) (e : Instr) (rest : List Turn), dueEvent s = none → s.schedule = .event dt e :: rest →
    (∀ n, dueIn s = some n → dt < n) → external e = true → happens e = true → s.pkg.powered = true →
    step s = exec e (wait { s with schedule := rest } dt))

/-- A word is fetched from the group's geode: from the stream's fetch block, or from the bytes that the translated pc names, little-endian,
with the bytes that stores have left in the banks, the stream's own last; outside the geode it cannot be fetched (R246, R262, R341). -/
def Sys2Proof.Machine.FetchReadsCodeHold : Prop :=
  (∀ (s : State) (c : Ctx), c.st.pc.toNat < c.st.geode.base ∨ c.st.geode.base + c.st.geode.len < c.st.pc.toNat + 4 →
    fetchWord s c = .error { code := 0x0B, detail := 0 }) ∧
  (∀ (s : State) (c : Ctx), c.st.geode.base ≤ c.st.pc.toNat → c.st.pc.toNat + 4 ≤ c.st.geode.base + c.st.geode.len →
    (∀ b, c.st.fetch = some b → b.block = c.st.pc.toNat / 64 → b.bytes.length = 64 → c.st.pc.toNat % 4 = 0 →
      fetchWord s c = .ok (s, gather (fun a => nth 0 b.bytes a) 4 (c.st.pc.toNat % 64))) ∧
    (∀ m x, c.st.pc.toNat % 4 = 0 → (∀ b, c.st.fetch = some b → b.block ≠ c.st.pc.toNat / 64) →
      translateLocal s c.tlbs c.team.domain c.st.pc ⟨false, false, true⟩ (userOf s c) = .ok (m, x) →
      takeBad m (fetchBanks m c x.local_) x.key x.local_ = false →
      ∃ t, fetchWord s c = .ok (t, gather (takeByte m (fetchBanks m c x.local_) x.key) 4 x.local_) ∧ t = { m with streams := t.streams } ∧
        ∀ k, k ≠ c.sid → find? t.streams k = find? m.streams k) ∧
    (∀ m x, (∀ b, c.st.fetch = some b → b.block ≠ c.st.pc.toNat / 64) →
      translateLocal s c.tlbs c.team.domain c.st.pc ⟨false, false, true⟩ (userOf s c) = .ok (m, x) →
      takeBad m (fetchBanks m c x.local_) x.key x.local_ = true → fetchWord s c = .error { code := 0x17, detail := 0 }) ∧
    (∀ f, (∀ b, c.st.fetch = some b → b.block ≠ c.st.pc.toNat / 64) →
      translateLocal s c.tlbs c.team.domain c.st.pc ⟨false, false, true⟩ (userOf s c) = .error f → fetchWord s c = .error f)) ∧
  (∀ (s : State) (key : KeySel) (a : Nat) (banks : List Nat),
    (∀ b ∈ banks, ∀ e, sectorIn s b (a / 256) = some e → a % 256 ∉ e.dirty) → takeByte s banks key a = homeByte s key a) ∧
  (∀ (s : State) (c : Ctx) (key : KeySel) (pa a : Nat) (e : Sector), c.routine = false →
    sectorIn s (bankFor s (pipeOf c.first.2) pa) (a / 256) = some e → a % 256 ∈ e.dirty →
    takeByte s (fetchBanks s c pa) key a = look 0 e.data (a % 256))

/-- The streams that issue in a cycle are those that every one of their pipelines chooses: on a pipeline the first ready slot from slot
`cycle mod 8` on (R189). -/
def Sys2Proof.Machine.IssueSlotsHold : Prop :=
  ∀ (s : State) (sid : Nat), sid ∈ slateOf s ↔ ∃ c, c.sid = sid ∧ MayIssue s c ∧ ∀ e ∈ lanesIn c.grp c.st.members, ∀ c', MayIssue s c' →
    (∃ e' ∈ lanesIn c'.grp c'.st.members, pipeOf e'.2 = pipeOf e.2) → slotsAfter s sid ≤ slotsAfter s c'.sid

/-- A step of a stream runs the instruction its word decodes to, the fetch reads the code's bytes, and the slots that issue are those R189 chooses. -/
def Obligations.StepRunsDecoded : Prop :=
  Sys2Proof.Machine.StepRunsInstructionHold ∧ Sys2Proof.Machine.FetchReadsCodeHold ∧ Sys2Proof.Machine.IssueSlotsHold

/-- No step stops: whatever the state, the machine goes on. -/
def Obligations.StepGoesOn : Prop := ∀ s : State, Answers (step s)

/-- Every step keeps local memory in its canonical form. -/
def Obligations.StepKeepsMemory : Prop := ∀ s t : State, s.MemoryCanonical → step s = .next t → t.MemoryCanonical

namespace Sys2Proof.Machine

/-! ### Page tables -/

/-- Bits hi to lo of an entry. -/
def bitField (e : Word) (hi lo : Nat) : Nat := e.toNat / 2 ^ lo % 2 ^ (hi + 1 - lo)

/-- A permission bit R, W or X is set. -/
def AnyPermission (e : Word) : Prop := e.getLsbD 1 = true ∨ e.getLsbD 2 = true ∨ e.getLsbD 3 = true

/-- A valid leaf of a peer device (R245). -/
def PeerLeaf (s : State) (e : Word) : Prop := e.getLsbD 0 = true ∧ AnyPermission e ∧ bitField e 51 40 ≠ s.fab.id.toNat

/-- A malformed entry of a level (R253). -/
def BadEntry (s : State) (dom level : Nat) (e : Word) : Prop :=
  (e.getLsbD 0 = true ∨ e.getLsbD 5 = true) ∧
    (bitField e 53 52 ≠ 0 ∨ bitField e 15 8 ≠ 0 ∨
     (e.getLsbD 0 = true ∧ ¬AnyPermission e ∧ level = 3) ∨
     (e.getLsbD 2 = true ∧ e.getLsbD 1 = false) ∨
     (e.getLsbD 0 = true ∧ AnyPermission e ∧ level < 3 ∧ bitField e 51 16 * 65536 % 2 ^ (if level = 1 then 42 else 29) ≠ 0) ∨
     (e.getLsbD 0 = true ∧ ¬AnyPermission e ∧ bitField e 51 40 ≠ s.fab.id.toNat) ∨
     (e.getLsbD 5 = true ∧ (level < 3 ∨ PeerLeaf s e)) ∨
     (¬PeerLeaf s e ∧ e.getLsbD 7 = true ∧ keyAllowed s dom (bitField e 63 54) = false) ∨
     (bitField e 63 54 ≠ 0 ∧ ((e.getLsbD 0 = true ∧ ¬AnyPermission e) ∨ (¬PeerLeaf s e ∧ e.getLsbD 7 = false))) ∨
     (e.getLsbD 0 = true ∧ ¬AnyPermission e ∧ e.getLsbD 7 = true))

/-- The index of an address into the table of a level (R250). -/
def indexAt (va level : Nat) : Nat := va / 2 ^ (if level = 1 then 42 else if level = 2 then 29 else 16) % 8192

/-- The doubleword a walk reads at a local address. -/
def wordIn (s : State) (a : Nat) : Word := BitVec.ofNat 64 (rawRead s a 8)

/-- A walk reads an entry there: it exists and is not poisoned. -/
def Legible (s : State) (a : Nat) : Prop := a < localLimit ∧ homeBad s .clear a = false

/-- The root entry of a domain, read well (R251). -/
def GoodRoot (s : State) (dom : Nat) : Prop :=
  Legible s (s.ctl.trtbase.toNat + 8 * dom) ∧ (rootEntry s dom).getLsbD 63 = true ∧ bitField (rootEntry s dom) 51 40 = 0 ∧
    bitField (rootEntry s dom) 15 0 = 0

/-- The table of a level that a walk of an address reaches (R250 to R253). -/
def TableAt (s : State) (dom va : Nat) : Nat → Nat → Prop
  | 0, _ => False
  | 1, T => GoodRoot s dom ∧ T = bitField (rootEntry s dom) 39 16 * 65536
  | n + 2, T => ∃ T0, TableAt s dom va (n + 1) T0 ∧ Legible s (T0 + 8 * indexAt va (n + 1)) ∧
      (wordIn s (T0 + 8 * indexAt va (n + 1))).getLsbD 0 = true ∧ ¬AnyPermission (wordIn s (T0 + 8 * indexAt va (n + 1))) ∧
      ¬BadEntry s dom (n + 1) (wordIn s (T0 + 8 * indexAt va (n + 1))) ∧
      T = bitField (wordIn s (T0 + 8 * indexAt va (n + 1))) 39 16 * 65536

/-- A walk of an address reads the entry `e` at `a` in the table of a level. -/
def EntryAt (s : State) (dom va level a : Nat) (e : Word) : Prop :=
  level ≤ 3 ∧ ∃ T, TableAt s dom va level T ∧ a = T + 8 * indexAt va level ∧ Legible s a ∧ e = wordIn s a

/-- The permission an access lacks in a leaf (R254): code 0x07 before 0x08. -/
def lackedBy (need : Need) (user : Bool) (e : Word) : Option Nat :=
  if (need.r = true ∧ e.getLsbD 1 = false) ∨ (need.w = true ∧ e.getLsbD 2 = false) ∨ (need.x = true ∧ e.getLsbD 3 = false) then some 0x07
  else if user = true ∧ e.getLsbD 4 = false then some 0x08
  else none

/-- Bytes of a page of a level (R250). -/
def pageSize (level : Nat) : Nat := if level = 1 then 2 ^ 42 else if level = 2 then 2 ^ 29 else 2 ^ 16

/-- A leaf that a TLB holds is of no use to an access: it lacks the permission (R257), or the access writes while D is clear and the
entry it came from is another by now (R279). -/
def Useless (s : State) (need : Need) (user : Bool) (e : TlbEntry) : Prop :=
  lackedBy need user e.pte ≠ none ∨
    (need.w = true ∧ e.pte.getLsbD 6 = false ∧ wordIn s e.at_ ≠ e.pte ∧ wordIn s e.at_ ≠ e.pte ||| 0x40)

/-- An address that translation serves: 55 bits, outside the engine aperture (R242, R480), and with no leaf of use in the TLBs. -/
def Misses (s : State) (ts : List Nat) (dom : Nat) (va : Word) (need : Need) (user : Bool) : Prop :=
  va.toNat < 2 ^ 55 ∧ inAperture va = false ∧ ∀ e, tlbLook s dom va.toNat ts = some e → Useless s need user e

/-- Where a leaf of a level puts an address (R250). -/
def placeOf (e : Word) (level va : Nat) : Nat := bitField e 51 16 * 65536 + va % pageSize level

/-- A leaf of this device names no local memory at an address: it lies beyond it, or on another device (R243). -/
def Nowhere (s : State) (pa : Nat) : Prop := localLimit ≤ pa % 2 ^ 40 ∨ pa / 2 ^ 40 ≠ s.fab.id.toNat

/-- The TLBs hold a leaf; nothing else changed (R255). -/
def Installed (s t : State) (ts : List Nat) (e : TlbEntry) : Prop :=
  t = { s with ctl := { s.ctl with tlbs := t.ctl.tlbs } } ∧ ∀ i ∈ ts, e ∈ look [] t.ctl.tlbs i

/-- A page is one of a domain's lists as the Z5 knows them; of a domain where no team was placed that is not known (R5, R168). -/
def Owned (s : State) (dom p : Nat) : Bool := match find? s.sched.owned dom with | some a => decide (p ∈ a.free) | none => true

/-- The head page of a domain's list (R179). -/
def listHead (s : State) (dom : Nat) : Nat := bitField (wordIn s (s.sched.dtbase.toNat + 64 * dom + 16)) 39 16 * 65536

/-- What a domain's page list lacks for backing a page (R179, R181). -/
def poolLacks (s : State) (dom : Nat) : Option Nat :=
  let w := wordIn s (s.sched.dtbase.toNat + 64 * dom)
  let used := rawRead s (s.sched.dtbase.toNat + 64 * dom + 8) 8 % 2 ^ 40
  if w.getLsbD 63 = false ∨ bitField w 39 0 ≤ used then some 0x12
  else if rawRead s (s.sched.dtbase.toNat + 64 * dom + 24) 8 % 2 ^ 40 = 0 ∨ listHead s dom = 0 ∨ Owned s dom (listHead s dom) = false then
    some 0x13
  else none

/-- Two ranges of addresses share no byte. -/
def RangesApart (a n b m : Nat) : Prop := a + n ≤ b ∨ b + m ≤ a

end Sys2Proof.Machine

/-- An access to an address that no TLB holds walks the domain's three tables from its root: each way a walk ends in a fault, and the
leaf's address, key and TLB entry when it succeeds (R242, R243, R245, R250 to R256). -/
def Sys2Proof.Machine.PageWalksHold : Prop :=
  (∀ (s : State) (ts : List Nat) (dom : Nat) (va : Word) (need : Need) (user : Bool),
    2 ^ 55 ≤ va.toNat → permAny s ts dom va need user = .error { code := 0x03, detail := 0 }) ∧
  (∀ (s : State) (ts : List Nat) (dom : Nat) (va : Word) (need : Need) (user : Bool), Misses s ts dom va need user →
    (Legible s (s.ctl.trtbase.toNat + 8 * dom) →
      ((rootEntry s dom).getLsbD 63 = false → permAny s ts dom va need user = .error { code := 0x05, detail := 0 }) ∧
      ((rootEntry s dom).getLsbD 63 = true → bitField (rootEntry s dom) 51 40 ≠ 0 ∨ bitField (rootEntry s dom) 15 0 ≠ 0 →
        permAny s ts dom va need user = .error { code := 0x06, detail := 0 })) ∧
    (∀ level T, level ≤ 3 → TableAt s dom va.toNat level T → T + 8 * indexAt va.toNat level < localLimit →
      homeBad s .clear (T + 8 * indexAt va.toNat level) = true → permAny s ts dom va need user = .error { code := 0x09, detail := level }) ∧
    (∀ level a e, EntryAt s dom va.toNat level a e →
      (e.getLsbD 0 = false → e.getLsbD 5 = false → permAny s ts dom va need user = .error { code := 0x05, detail := level }) ∧
      (BadEntry s dom level e → permAny s ts dom va need user = .error { code := 0x06, detail := level }) ∧
      (¬BadEntry s dom level e → e.getLsbD 0 = true → AnyPermission e →
        (∀ f, lackedBy need user e = some f → permAny s ts dom va need user = .error { code := f, detail := 0 }) ∧
        (lackedBy need user e = none → bitField e 51 40 = s.fab.id.toNat → Nowhere s (placeOf e level va.toNat) →
          permAny s ts dom va need user = .error { code := 0x04, detail := 0 }) ∧
        (lackedBy need user e = none → bitField e 51 40 ≠ s.fab.id.toNat → permLocal s ts dom va need user = .error { code := 0x0A, detail := 0 }) ∧
        (lackedBy need user e = none →
          bitField e 51 40 ≠ s.fab.id.toNat ∨ ¬Nowhere s (placeOf e level va.toNat) →
          ∃ t x, permAny s ts dom va need user = .ok (t, x) ∧ x.pa = placeOf e level va.toNat ∧
            x.leaf = { dom := dom, base := va.toNat / pageSize level * pageSize level, level := level, pte := e, at_ := a } ∧
            x.key = leafKey s x.leaf ∧ Installed s t ts x.leaf ∧
            (bitField e 51 40 = s.fab.id.toNat → permLocal s ts dom va need user = .ok (t, x))))))

/-- An access through an on-touch entry is checked first, then takes the head page of its domain's list, or raises the trap of a quota
or of an empty list; the page reads zero, the entry becomes a valid leaf of that page and USED and the list are updated (R179, R181,
R281). -/
def Sys2Proof.Machine.OnTouchPagesHold : Prop :=
  ∀ (s : State) (ts : List Nat) (dom : Nat) (va : Word) (need : Need) (user : Bool) (a : Nat) (e : Word), Misses s ts dom va need user →
    EntryAt s dom va.toNat 3 a e → ¬BadEntry s dom 3 e → e.getLsbD 0 = false → e.getLsbD 5 = true →
    (∀ f, lackedBy need user e = some f → permAny s ts dom va need user = .error { code := f, detail := 0 }) ∧
    (lackedBy need user e = none → need.x = true → permAny s ts dom va need user = .error { code := 0x05, detail := 3 }) ∧
    (∀ f, lackedBy need user e = none → need.x = false → poolLacks s dom = some f → permAny s ts dom va need user = .error { code := f, detail := dom }) ∧
    (lackedBy need user e = none → need.x = false → poolLacks s dom = none →
      ∀ p d r, d = s.sched.dtbase.toNat + 64 * dom → r = s.ctl.trtbase.toNat + 8 * dom → p = listHead s dom →
      p + 65536 ≤ localLimit → d + 64 ≤ localLimit → a + 8 ≤ localLimit →
      RangesApart p 65536 d 64 → RangesApart p 65536 r 8 → RangesApart p 65536 a 8 → RangesApart d 64 r 8 → RangesApart d 64 a 8 → RangesApart r 8 a 8 →
      ∃ t x, permAny s ts dom va need user = .ok (t, x) ∧ x.pa = s.fab.id.toNat * 2 ^ 40 + p + va.toNat % 65536 ∧
        wordIn t a = BitVec.ofNat 64 (e.toNat - bitField e 51 16 * 65536 + (s.fab.id.toNat * 2 ^ 40 + p) + 1) ∧
        rawRead t (d + 8) 8 = rawRead s (d + 8) 8 % 2 ^ 40 + 1 ∧ rawRead t (d + 16) 8 = (if Owned s dom (bitField (wordIn s p) 39 16 * 65536) = true then rawRead s p 8 else 0) ∧
        rawRead t (d + 24) 8 = rawRead s (d + 24) 8 % 2 ^ 40 - 1 ∧
        (x.key ≠ .dead → ∀ i, p ≤ i → i < p + 65536 → homeByte t x.key i = 0))

/-- Walks of the page tables and pages backed on touch. -/
def Obligations.PageTables : Prop :=
  Sys2Proof.Machine.PageWalksHold ∧ Sys2Proof.Machine.OnTouchPagesHold

namespace Sys2Proof.Machine

/-- The permissions, size and kind of an access that reads, writes, or does both (R254). -/
def needsRead (n : Nat) : Reach := { need := ⟨true, false, false⟩, size := n, remote := false, reads := true }
def needsWrite (n : Nat) : Reach := { need := ⟨false, true, false⟩, size := n, remote := false, reads := false }
def needsBoth (n : Nat) : Reach := { need := ⟨true, true, false⟩, size := n, remote := false, reads := true }
def remoteRead (n : Nat) : Reach := { need := ⟨true, false, false⟩, size := n, remote := true, reads := false }
def remoteUpdate (n : Nat) : Reach := { need := ⟨true, true, false⟩, size := n, remote := true, reads := false }

/-- What the instructions that name one global address per lane need of it, and the address (R254, R456 to R466, R474). -/
def accessForm : Instr → Option (Reach × (Vals → Word))
  | .ldBS _ _ _ off => some (needsRead 1, mAddress off 1)
  | .ldBN _ _ _ off => some (needsRead 1, mAddress off 1)
  | .ldHS _ _ _ off => some (needsRead 2, mAddress off 2)
  | .ldHN _ _ _ off => some (needsRead 2, mAddress off 2)
  | .ldWS _ _ _ off => some (needsRead 4, mAddress off 4)
  | .ldWN _ _ _ off => some (needsRead 4, mAddress off 4)
  | .ldD _ _ _ off => some (needsRead 8, mAddress off 8)
  | .ldDX _ _ _ _ => some (needsRead 8, fun v => v.a + v.b)
  | .ldWX _ _ _ _ => some (needsRead 4, fun v => v.a + v.b)
  | .stB _ _ _ off => some (needsWrite 1, mAddress off 1)
  | .stH _ _ _ off => some (needsWrite 2, mAddress off 2)
  | .stW _ _ _ off => some (needsWrite 4, mAddress off 4)
  | .stWX _ _ _ _ => some (needsWrite 4, fun v => v.a + v.b)
  | .ldDAcq _ _ _ _ => some (needsRead 8, Vals.a)
  | .ldWAcq _ _ _ _ => some (needsRead 4, Vals.a)
  | .stWRel _ _ _ _ => some (needsWrite 4, Vals.a)
  | .amoAddD _ _ _ _ => some (needsBoth 8, Vals.a)
  | .amoAndD _ _ _ _ => some (needsBoth 8, Vals.a)
  | .amoOrD _ _ _ _ => some (needsBoth 8, Vals.a)
  | .amoXorD _ _ _ _ => some (needsBoth 8, Vals.a)
  | .amoMinSD _ _ _ _ => some (needsBoth 8, Vals.a)
  | .amoMaxSD _ _ _ _ => some (needsBoth 8, Vals.a)
  | .amoFaddD _ _ _ _ => some (needsBoth 8, Vals.a)
  | .amoSwapD _ _ _ _ => some (needsBoth 8, Vals.a)
  | .amoAddW _ _ _ _ => some (needsBoth 4, Vals.a)
  | .amoAndW _ _ _ _ => some (needsBoth 4, Vals.a)
  | .amoOrW _ _ _ _ => some (needsBoth 4, Vals.a)
  | .amoXorW _ _ _ _ => some (needsBoth 4, Vals.a)
  | .amoMinSW _ _ _ _ => some (needsBoth 4, Vals.a)
  | .amoMaxSW _ _ _ _ => some (needsBoth 4, Vals.a)
  | .amoFaddS _ _ _ _ => some (needsBoth 4, Vals.a)
  | .amoSwapW _ _ _ _ => some (needsBoth 4, Vals.a)
  | .casD _ _ _ _ => some (needsBoth 8, Vals.a)
  | .casW _ _ _ _ => some (needsBoth 4, Vals.a)
  | .lrw _ _ _ => some ({ needsBoth 8 with reads := false }, Vals.a)
  | .sch _ _ _ _ => some ({ needsBoth 8 with reads := false }, Vals.a)
  | .relr _ _ => some ({ needsBoth 8 with reads := false }, Vals.a)
  | .cwb _ _ => some ({ needsRead 1 with reads := false }, Vals.a)
  | .cinv _ _ => some ({ needsRead 1 with reads := false }, Vals.a)
  | .cwbi _ _ => some ({ needsRead 1 with reads := false }, Vals.a)
  | .rstW _ _ _ => some ({ needsWrite 4 with remote := true }, Vals.a)
  | .rstD _ _ _ => some ({ needsWrite 8 with remote := true }, Vals.a)
  | .ramoAddW _ _ _ => some (remoteUpdate 4, Vals.a)
  | .ramoAddD _ _ _ => some (remoteUpdate 8, Vals.a)
  | .ramoFaddS _ _ _ => some (remoteUpdate 4, Vals.a)
  | .ramoMinS _ _ _ => some (remoteUpdate 8, Vals.a)
  | .ramoMaxS _ _ _ => some (remoteUpdate 8, Vals.a)
  | .ramoOrD _ _ _ => some (remoteUpdate 8, Vals.a)
  | .ramoAndD _ _ _ => some (remoteUpdate 8, Vals.a)
  | .ramoXorD _ _ _ => some (remoteUpdate 8, Vals.a)
  | .rldW _ _ _ => some (remoteRead 4, Vals.a)
  | .rldD _ _ _ => some (remoteRead 8, Vals.a)
  | _ => none

end Sys2Proof.Machine

/-- An instruction that names global addresses traps when one does not translate, with every such lane's lowest cause, and takes no
effect in any lane; a misaligned address is a cause of its own. While a release store of its group that waits covers bytes it would
touch, it waits. Where a page pool runs out, the pages of the other lanes are backed (R182, R254, R290, R317, R321, R456). -/
def Sys2Proof.Machine.AccessFaultsHold : Prop :=
  (∀ (s : State) (c : Ctx) (i : Instr) (w : Reach) (addr : Vals → Word) (r : State) (fs : List LaneFault) (xs : List Reached), Issues s c i →
    accessForm i = some (w, addr) → reachAll c w s (addressesOf s c i addr) = (r, fs, xs) →
    (fs ≠ [] → exec i s = .next (raise (if ∃ f ∈ fs, f.code = 0x12 ∨ f.code = 0x13 then r else s) c fs)) ∧
    (fs = [] → heldStore r c w.size xs = true → WaitsAt s c i .drain)) ∧
  (∀ (s : State) (c : Ctx) (w : Reach) (l : List (Vals × Word)) (r : State) (fs : List LaneFault) (xs : List Reached),
    reachAll c w s l = (r, fs, xs) → OnlyMemory s r ∧ fs.length + xs.length = l.length ∧
      (∀ f ∈ fs, ∃ e ∈ l, ∃ u x, OnlyMemory s u ∧ laneXlat u c w e.2 = .error x ∧ f = { ln := e.1.ln, code := x.code, addr := e.2, detail := x.detail }) ∧
      (∀ x ∈ xs, ∃ e ∈ l, ∃ u m, OnlyMemory s u ∧ laneXlat u c w e.2 = .ok (m, x.x) ∧ x.v = e.1 ∧ x.va = e.2)) ∧
  (∀ (s : State) (c : Ctx) (w : Reach) (va : Word),
    ∀ p, p = (if w.remote then permAny else permLocal) s c.tlbs c.team.domain va w.need (userOf s c) →
    (va.toNat % w.size = 0 → ∀ f, p = .error f → laneXlat s c w va = .error f) ∧
    (va.toNat % w.size ≠ 0 → ∀ f, p = .error f → laneXlat s c w va = .error (if f.code ≤ 0x0C then f else { code := 0x0C, detail := 0 })) ∧
    (va.toNat % w.size ≠ 0 → ∀ q, p = .ok q → laneXlat s c w va = .error { code := 0x0C, detail := 0 }) ∧
    (va.toNat % w.size = 0 → ∀ t x, p = .ok (t, x) → c.routine = false ∨ w.reads = false ∨ x.peer t = true ∨
      takeBad t (clusterBanks c.team.cluster) x.key (x.pa % 2 ^ 40) = false → laneXlat s c w va = .ok (t, x)) ∧
    (va.toNat % w.size = 0 → ∀ t x, p = .ok (t, x) → c.routine = true → w.reads = true → x.peer t = false →
      takeBad t (clusterBanks c.team.cluster) x.key (x.pa % 2 ^ 40) = true → laneXlat s c w va = .error { code := 0x18, detail := 0 }))

/-- Before a write through a leaf whose D is clear its entry at home gets D and no other bit; when the entry is no longer that leaf the
address is translated again, and when that fails nothing is written (R279). -/
def Sys2Proof.Machine.DirtyBitsHold : Prop :=
  ∀ (s : State) (ts : List Nat) (va : Word) (need : Need) (user : Bool) (x : Xlat),
    (x.leaf.pte.getLsbD 6 = true → dirtied s ts va need user x = (s, x)) ∧
    (x.leaf.pte.getLsbD 6 = false → wordIn s x.leaf.at_ = x.leaf.pte ∨ wordIn s x.leaf.at_ = x.leaf.pte ||| 0x40 → x.leaf.at_ + 8 ≤ localLimit →
      ∃ t, dirtied s ts va need user x = (t, x) ∧ OnlyMemory s t ∧ wordIn t x.leaf.at_ = x.leaf.pte ||| 0x40 ∧
        (∀ a, a < x.leaf.at_ ∨ x.leaf.at_ + 8 ≤ a → homeByte t .clear a = homeByte s .clear a) ∧
        ∀ i ∈ ts, { x.leaf with pte := x.leaf.pte ||| 0x40 } ∈ look [] t.ctl.tlbs i) ∧
    (x.leaf.pte.getLsbD 6 = false → wordIn s x.leaf.at_ ≠ x.leaf.pte → wordIn s x.leaf.at_ ≠ x.leaf.pte ||| 0x40 →
      (∀ m y, permAny s ts x.leaf.dom va need user = .ok (m, y) →
        (y.leaf.pte.getLsbD 6 = true → dirtied s ts va need user x = (m, y)) ∧
        (y.leaf.pte.getLsbD 6 = false → y.leaf.at_ + 8 ≤ localLimit → ∃ t, dirtied s ts va need user x = (t, y) ∧ OnlyMemory s t ∧
          wordIn t y.leaf.at_ = y.leaf.pte ||| 0x40)) ∧
      (∀ f, permAny s ts x.leaf.dom va need user = .error f → dirtied s ts va need user x = (s, { x with key := .dead })))

/-- Accesses that fault and dirty bits. -/
def Obligations.AccessesAndDirtyBits : Prop :=
  Sys2Proof.Machine.AccessFaultsHold ∧ Sys2Proof.Machine.DirtyBitsHold

namespace Sys2Proof.Machine

/-! ### Remote stores and atomics -/

/-- A remote store or atomic (R475): its marker, class, size, function, and at the destination what an old value and an operand give. -/
structure RemoteForm where
  sw     : Bool
  atomic : Bool
  size   : Nat
  op     : Nat
  new    : Nat → Nat → Nat → Prop

/-- The remote stores and atomics (R475). -/
def remoteForm : Instr → Option RemoteForm
  | .rstW sw _ _ => some ⟨sw, false, 4, 0, fun _ v x => x = v⟩
  | .rstD sw _ _ => some ⟨sw, false, 8, 0, fun _ v x => x = v⟩
  | .ramoAddW sw _ _ => some ⟨sw, true, 4, 0, fun old v x => x = (old + v) % 2 ^ 32⟩
  | .ramoAddD sw _ _ => some ⟨sw, true, 8, 1, fun old v x => x = (old + v) % 2 ^ 64⟩
  | .ramoFaddS sw _ _ => some ⟨sw, true, 4, 2, fun old v x => ∃ fl, SumIs fp32 .rne (x, fl) (decodeF fp32 old) (decodeF fp32 v)⟩
  | .ramoMinS sw _ _ => some ⟨sw, true, 8, 3, signedPick 8 false⟩
  | .ramoMaxS sw _ _ => some ⟨sw, true, 8, 4, signedPick 8 true⟩
  | .ramoOrD sw _ _ => some ⟨sw, true, 8, 5, fun old v x => x = old ||| v⟩
  | .ramoAndD sw _ _ => some ⟨sw, true, 8, 6, fun old v x => x = old &&& v⟩
  | .ramoXorD sw _ _ => some ⟨sw, true, 8, 7, fun old v x => x = old ^^^ v⟩
  | _ => none

/-- A lane's element (R54, R59). -/
def laneElement (k : RemoteForm) (x : Xlat) (v : Vals) : Element :=
  { off := x.pa % 65536, size := k.size, op := k.op, data := BitVec.ofNat 64 (v.b.toNat % 2 ^ (8 * k.size)), comb := 1 }

/-- A buffer is the team's for a device and window, of a class (R59). -/
def Keyed (tm : Team) (x : Xlat) (atomic : Bool) (b : Buffer) : Prop :=
  b.team = tm.ident ∧ b.dev = BitVec.ofNat 12 (x.pa / 2 ^ 40) ∧ b.win = BitVec.ofNat 24 (x.pa % 2 ^ 40 / 65536) ∧ b.atomic = atomic ∧ b.io = teamIo tm

/-- The coma has room for one more buffer of the team (R64). -/
def BufferRoom (u : State) (tm : Team) : Prop :=
  (u.fab.buffers.filter (fun e => decide (e.2.team = tm.ident ∧ e.2.io = teamIo tm))).length < (if u.fab.teamcap = 0 then 256 else u.fab.teamcap.toNat) ∧
    (u.fab.buffers.filter (fun e => decide (e.2.io = teamIo tm))).length < 256

/-- The buffers of a class for this key are one, numbered `n`, and none of the other class is open (R59). -/
def OneBuffer (u : State) (tm : Team) (x : Xlat) (atomic : Bool) (n : Nat) (b : Buffer) : Prop :=
  (n, b) ∈ u.fab.buffers ∧ Keyed tm x atomic b ∧ (∀ e ∈ u.fab.buffers, Keyed tm x atomic e.2 → e = (n, b)) ∧ (∀ e ∈ u.fab.buffers, ¬Keyed tm x (!atomic) e.2) ∧
    find? u.fab.buffers n = some b

/-- One lane's RST or RAMO (R245, R59, R60, R269, R475): on a local page it is applied at its home, where the lane's banks give up the
sector before; for a peer it enters the team's buffer,
combined with an earlier element, appended, or in a new buffer. -/
structure RemoteLane (k : RemoteForm) (c : Ctx) (u : State) (r : Reached) (t : State) : Prop where
  sends : Sends u t
  home  : ∀ m x e, dirtied u c.tlbs r.va ⟨k.atomic, true, false⟩ (userOf u c) r.x = (m, x) → x.peer m = false → x.key ≠ .dead →
    SoleCopy m (servingBanks m c r.v.pos) x.key (x.local_ / 256) e → badHome m x.key x.local_ e = false → find? m.teams c.st.team ≠ none →
    k.new (gather (fun a => viaHome m x.key a e) k.size x.local_) (r.v.b.toNat % 2 ^ (8 * k.size)) (homeRead t x.key x.local_ k.size) ∧
      ∀ a, a < x.local_ ∨ x.local_ + k.size ≤ a → homeByte t x.key a = if a / 256 = x.local_ / 256 then viaHome m x.key a e else homeByte m x.key a
  opens : ∀ m x tm, dirtied u c.tlbs r.va ⟨k.atomic, true, false⟩ (userOf u c) r.x = (m, x) → x.peer m = true → find? m.teams c.st.team = some tm →
    (∀ e ∈ m.fab.buffers, ¬Keyed tm x k.atomic e.2 ∧ ¬Keyed tm x (!k.atomic) e.2) → BufferRoom m tm →
    ∃ n b, find? t.fab.buffers n = some b ∧ Keyed tm x k.atomic b ∧ b.elems = [laneElement k x r.v] ∧ b.dom = tm.domain ∧ b.leaves = [x.leaf]
  joins : ∀ m x tm n b, dirtied u c.tlbs r.va ⟨k.atomic, true, false⟩ (userOf u c) r.x = (m, x) → x.peer m = true → find? m.teams c.st.team = some tm →
    OneBuffer m tm x k.atomic n b →
    (∀ i e, b.elems[i]? = some e → e.off = x.pa % 65536 → e.size = k.size → (∀ j e', i < j → b.elems[j]? = some e' → e'.off ≠ x.pa % 65536) →
      (k.atomic = false → (∀ e' ∈ b.elems, overlaps e' (laneElement k x r.v) = false) → ∃ b', find? t.fab.buffers n = some b' ∧
        b'.elems = b.elems.set i { e with data := (laneElement k x r.v).data }) ∧
      (k.atomic = true → e.op = k.op → k.op ≠ 2 → ∃ b' w, find? t.fab.buffers n = some b' ∧ b'.elems = b.elems.set i { e with data := BitVec.ofNat 64 w, comb := min 32 (e.comb + 1) } ∧
        k.new e.data.toNat (r.v.b.toNat % 2 ^ (8 * k.size)) w)) ∧
    ((∀ e ∈ b.elems, e.off ≠ x.pa % 65536) → (k.atomic = false → ∀ e ∈ b.elems, overlaps e (laneElement k x r.v) = false) →
      dataBytes b.elems + k.size < 256 → b.elems.length + 1 < 32 →
      ∃ b', find? t.fab.buffers n = some b' ∧ b'.elems = b.elems ++ [laneElement k x r.v])

end Sys2Proof.Machine

/-- RST and RAMO act lane by lane and write no register: a local page is written at its home, an element for a peer enters the coma
(R59, R60, R245, R279, R475). -/
def Sys2Proof.Machine.RemoteStoresHold : Prop :=
  ∀ (s : State) (c : Ctx) (i : Instr) (k : RemoteForm) (r : State) (xs : List Reached), Issues s c i → remoteForm i = some k →
    reachAll c { need := ⟨k.atomic, true, false⟩, size := k.size, remote := true, reads := false } s (addressesOf s c i Vals.a) = (r, [], xs) →
    heldStore r c k.size xs = false → ∃ t, exec i s = .next t ∧ Acts s r c i k.sw xs (RemoteLane k) t

namespace Sys2Proof.Machine

/-! ### Remote loads, flushes and multicast -/

/-- The team's open buffers for a device and window are flushed; no other buffer changes (R477). -/
def FlushedWhere (u t : State) (p : Buffer → Prop) : Prop :=
  Sends u t ∧ ∀ n, ((∃ b, (n, b) ∈ u.fab.buffers ∧ p b) → find? t.fab.buffers n = none) ∧
    ((∀ b, (n, b) ∈ u.fab.buffers → ¬p b) → find? t.fab.buffers n = find? u.fab.buffers n)

/-- A packet stands at the end of the egress queue of VC 0 of the port toward its device. -/
def Queued0 (m t : State) (p : Packet) : Prop :=
  ∃ n, routePort m p.dst.toNat p.win.toNat = some n ∧ (portOf t n).egress0 = (portOf m n).egress0 ++ [p]

/-- One lane's RLD (R245, R476): from a peer the team's buffers for the window are flushed and a remote load is sent, its reply awaited
for at most COMAX.ACKTO; where no port leads there it fails with reason 3. From this device it reads at the home. -/
structure RemoteLoad (d : RegName) (n : Nat) (c : Ctx) (u : State) (r : Reached) (t : State) : Prop where
  frame : t = { u with mem := t.mem, poison := t.poison, sealed := t.sealed, banks := t.banks, clusters := t.clusters, free := t.free, ctl := t.ctl, streams := t.streams, teams := t.teams, timers := t.timers, work := t.work, fab := t.fab, sched := t.sched, seq := u.seq + 1 }
  local_ : r.x.peer u = false → ∀ e, SoleCopy u (servingBanks u c r.v.pos) r.x.key (r.x.local_ / 256) e → badHome u r.x.key r.x.local_ e = false →
    Returning u t c d r false (BitVec.ofNat 64 (homeValue u r n e))
  peer  : r.x.peer u = true → ∀ m, m = chargeSectors (flushWindow u c.team.ident (devOf r.x) (winOf r.x)) c 1 → ∀ st, find? u.streams c.sid = some st →
    (∀ q, routePort m (devOf r.x).toNat (winOf r.x).toNat = some q →
      Queued0 m t (request m 0 (devOf r.x) (winOf r.x) c.team.domain 0 ((if n = 8 then 65536 else 0) + r.x.pa % 65536) []) ∧
        (u.cycle + ackCycles m, .rldTimeout (nextTag m)) ∈ t.timers ∧
        (∃ f ∈ t.fab.flights, f.tag = nextTag m ∧ f.dev = devOf r.x ∧ f.win = winOf r.x ∧ f.due = some (u.cycle + ackCycles m) ∧ f.leaves = [r.x.leaf]) ∧
        ∃ st' p, find? t.streams c.sid = some st' ∧ p ∈ st'.pend ∧ p.seq = u.seq ∧ p.lane = r.v.pos ∧ p.await = .reply (nextTag m) r.va n) ∧
    (routePort m (devOf r.x).toNat (winOf r.x).toNat = none → ∃ st' p, find? t.streams c.sid = some st' ∧ p ∈ st'.pend ∧ p.seq = u.seq ∧ p.writes = [] ∧
      p.await = .fails { lane := r.v.pos, code := 0x19, addr := r.va, detail := 3, pc := c.st.pc })

/-- A multicast descriptor's fields (R478). -/
def castGroup (v : Vals) : Nat := v.b.toNat / 2 ^ 32 % 2 ^ 12
def castWin (v : Vals) : Nat := v.b.toNat / 2 ^ 8 % 2 ^ 24
def castLine (v : Vals) : Nat := v.b.toNat % 2 ^ 8

/-- One lane's MCST (R73 to R76, R478, R519): the line of 256 bytes is queued at every child port of the group that carries it, and
written here when this device is a member that grants it. -/
structure MulticastLane (c : Ctx) (u : State) (v : Vals) (t : State) : Prop where
  sends  : Sends u t
  sent   : (groupEntry u (castGroup v)).valid = true → (groupEntry u (castGroup v)).parent = 0xF →
    ∀ n, n < 12 → (groupEntry u (castGroup v)).child.toNat / 2 ^ n % 2 = 1 → (portOf u n).state = 5 → (portOf u n).cap.toNat / 4 % 2 = 1 →
    ∃ p ∈ (portOf t n).egress0, p.ptype = 5 ∧ p.dst = BitVec.ofNat 12 (castGroup v) ∧ p.src = u.fab.id ∧ p.win = BitVec.ofNat 24 (castWin v) ∧
      p.dom = BitVec.ofNat 12 c.team.domain ∧ p.spec = BitVec.ofNat 28 (castLine v * 256) ∧
      p.body = listBytes (fun a => look 0 u.scratch (padAt c.team a)) 256 v.a.toNat
  unsent : (groupEntry u (castGroup v)).valid = false ∨ (groupEntry u (castGroup v)).parent ≠ 0xF → t.fab = u.fab

end Sys2Proof.Machine

/-- RLD, RFLUSH and MCST (R476 to R478). -/
def Sys2Proof.Machine.RemoteLoadsHold : Prop :=
  (∀ (s : State) (c : Ctx) (i : Instr) (sw : Bool) (d : RegName) (n : Nat) (r : State) (xs : List Reached), Issues s c i →
    ((∃ a, i = .rldW sw d a ∧ n = 4) ∨ ∃ a, i = .rldD sw d a ∧ n = 8) → reachAll c (remoteRead n) s (addressesOf s c i Vals.a) = (r, [], xs) →
    heldStore r c n xs = false → ∃ t, exec i s = .next t ∧ Acts s r c i sw xs (RemoteLoad d n) t) ∧
  (∀ (s : State) (c : Ctx) (sw : Bool) (a : RegName) (r : State) (xs : List Reached), Issues s c (.rflushOne sw a) →
    reachAll c { need := ⟨false, false, false⟩, size := 1, remote := true, reads := false } s (addressesOf s c (.rflushOne sw a) Vals.a) = (r, [], xs) →
    heldStore r c 1 xs = false → ∃ t, exec (.rflushOne sw a) s = .next t ∧ Acts s r c (.rflushOne sw a) sw xs (fun c' u x t' =>
      (x.x.peer u = false → t' = u) ∧
      (x.x.peer u = true → FlushedWhere u t' (fun b => b.team = c'.team.ident ∧ b.dev = devOf x.x ∧ b.win = winOf x.x))) t) ∧
  (∀ (s : State) (c : Ctx) (sw : Bool), Issues s c (.rflushAll sw) →
    ∃ t, exec (.rflushAll sw) s = .next t ∧ Does s c (.rflushAll sw) sw (fun c' u t' => FlushedWhere u t' (fun b => b.team = c'.team.ident)) t) ∧
  (∀ (s : State) (c : Ctx) (sw : Bool) (a b : RegName), Issues s c (.mcst sw a b) →
    (∀ e ∈ c.lanes, (valsOf s c (.mcst sw a b) e).b.toNat < 2 ^ 44 ∧ offsetCause c.team 256 e.1 (valsOf s c (.mcst sw a b) e).a = none ∧
      PadGood s c.team (valsOf s c (.mcst sw a b) e).a.toNat 256) →
    ∃ t, exec (.mcst sw a b) s = .next t ∧ Acts s s c (.mcst sw a b) sw (c.lanes.map (valsOf s c (.mcst sw a b))) MulticastLane t) ∧
  (∀ (s : State) (c : Ctx) (sw : Bool) (a b : RegName), Issues s c (.mcst sw a b) →
    Raises s c (.mcst sw a b) ((c.lanes.map (valsOf s c (.mcst sw a b))).flatMap (fun v =>
      (if 2 ^ 44 ≤ v.b.toNat then [{ ln := v.ln, code := 0x03, addr := v.b, detail := 0 }] else []) ++ (offsetCause c.team 256 v.ln v.a).toList)))

/-- Remote stores, atomics, loads, flushes and multicast. -/
def Obligations.RemoteOperations : Prop :=
  Sys2Proof.Machine.RemoteStoresHold ∧ Sys2Proof.Machine.RemoteLoadsHold

namespace Sys2Proof.Machine

/-! ### Copies of engine routines -/

/-- The team's scratchpad stands where the context says. -/
def SamePad (u : State) (c : Ctx) : Prop :=
  ∃ tm, find? u.teams c.st.team = some tm ∧ tm.cluster = c.team.cluster ∧ tm.scBase = c.team.scBase

/-- A granule of a copy: 32 bytes read at one place and written at another, both in the copying team's spaces (R484 to R486). -/
structure Granule (c : Ctx) (dg sg : Bool) (u : State) (p : Word × Word) (t : State) : Prop where
  regs  : t.regs = u.regs ∧ t.streams = u.streams ∧ t.groups = u.groups ∧ t.lanes = u.lanes ∧ t.fab = u.fab ∧ t.host = u.host ∧ t.pkg = u.pkg
  pads  : dg = false → sg = false → SamePad u c → p.1.toNat % 8 = 0 → t.mem = u.mem ∧
    PadWritten u t c.team p.1.toNat 32 (fun i => look 0 u.scratch (padAt c.team (p.2.toNat + i)))
  fromMemory : dg = false → sg = true → SamePad u c → ∀ m x e,
    permLocal u c.tlbs c.team.domain p.2 ⟨true, false, false⟩ true = .ok (m, x) → SoleCopy m (servingBanks m c c.sid) x.key (x.local_ / 256) e →
    p.2.toNat % 32 = 0 → ∀ q, look 0 t.scratch q = if padAt c.team p.1.toNat ≤ q ∧ q < padAt c.team p.1.toNat + 32
      then viaHome m x.key (x.local_ + (q - padAt c.team p.1.toNat)) e else look 0 u.scratch q
  toMemory : dg = true → sg = false → ∀ m x n y e, permLocal u c.tlbs c.team.domain p.1 ⟨false, true, false⟩ true = .ok (m, x) →
    dirtied m c.tlbs p.1 ⟨false, true, false⟩ true x = (n, y) → SoleCopy n (servingBanks n c c.sid) y.key (y.local_ / 256) e → y.key ≠ .dead →
    p.1.toNat % 32 = 0 → ∀ a, homeByte t y.key a = if y.local_ ≤ a ∧ a < y.local_ + 32 then look 0 u.scratch (padAt c.team (p.2.toNat + (a - y.local_)))
      else if a / 256 = y.local_ / 256 then viaHome n y.key a e else homeByte n y.key a
  inMemory : dg = true → sg = true → ∀ m x m' x' n y e e', permLocal u c.tlbs c.team.domain p.2 ⟨true, false, false⟩ true = .ok (m, x) →
    SoleCopy m (servingBanks m c c.sid) x.key (x.local_ / 256) e → p.2.toNat % 32 = 0 →
    permLocal m c.tlbs c.team.domain p.1 ⟨false, true, false⟩ true = .ok (m', x') → dirtied m' c.tlbs p.1 ⟨false, true, false⟩ true x' = (n, y) →
    SoleCopy n (servingBanks n c c.sid) y.key (y.local_ / 256) e' → y.key ≠ .dead → p.1.toNat % 32 = 0 →
    ∀ a, homeByte t y.key a = if y.local_ ≤ a ∧ a < y.local_ + 32 then viaHome m x.key (x.local_ + (a - y.local_)) e
      else if a / 256 = y.local_ / 256 then viaHome n y.key a e' else homeByte n y.key a

/-- A copy: whether the destination and the source are global, how many granules, and the destination and source of each as it is
reached (R484, R485). -/
structure CopyForm where
  dg    : Bool
  sg    : Bool
  count : Nat
  place : State → Nat → Word × Word
  index : Nat → Option Word

/-- The element size of a gather or a scatter, and which it is (R485). -/
def gatherForm : Instr → Option (Bool × Nat × RegName)
  | .gth32 _ _ a _ => some (true, 32, a) | .gth64 _ _ a _ => some (true, 64, a) | .gth128 _ _ a _ => some (true, 128, a) | .gth256 _ _ a _ => some (true, 256, a)
  | .sct32 _ _ a _ => some (false, 32, a) | .sct64 _ _ a _ => some (false, 64, a) | .sct128 _ _ a _ => some (false, 128, a) | .sct256 _ _ a _ => some (false, 256, a)
  | _ => none

/-- Whether a CPY's destination and source are global (R484). -/
def copyForm : Instr → Option (Bool × Bool)
  | .cpyGg _ _ _ _ => some (true, true) | .cpyGs _ _ _ _ => some (true, false) | .cpySg _ _ _ _ => some (false, true) | .cpySs _ _ _ _ => some (false, false)
  | _ => none

/-- The marker of a copy. -/
def copyMark : Instr → Bool
  | .cpyGg sw _ _ _ | .cpyGs sw _ _ _ | .cpySg sw _ _ _ | .cpySs sw _ _ _ | .gth32 sw _ _ _ | .gth64 sw _ _ _ | .gth128 sw _ _ _ | .gth256 sw _ _ _
  | .sct32 sw _ _ _ | .sct64 sw _ _ _ | .sct128 sw _ _ _ | .sct256 sw _ _ _ => sw
  | _ => false

/-- A copy of an engine routine: what its one lane's operands name. -/
def copyOf (s : State) (c : Ctx) (i : Instr) (v : Vals) : Option CopyForm :=
  match copyForm i, gatherForm i with
  | some (dg, sg), _ => some { dg := dg, sg := sg, count := v.b.toNat / 32, index := fun _ => none
                               place := fun _ k => (v.d + BitVec.ofNat 64 (32 * k), v.a + BitVec.ofNat 64 (32 * k)) }
  | none, some (gth, e, a) =>
    let base := readField s c v.pos (fieldOf a)
    let list := readField s c v.pos (fieldOf a + 1)
    some { dg := !gth, sg := gth, count := v.b.toNat * (e / 32), index := fun k => some (BitVec.ofNat 64 (list.toNat + 4 * (k / (e / 32))))
           place := fun u k =>
             let x := gather (fun o => look 0 u.scratch (padAt c.team o)) 4 (list.toNat + 4 * (k / (e / 32)))
             let g := base + BitVec.ofNat 64 (x * e + k % (e / 32) * 32)
             let p := v.d + BitVec.ofNat 64 (k / (e / 32) * e + k % (e / 32) * 32)
             if gth then (p, g) else (g, p) }
  | none, none => none

/-- The operands of a copy that R484 and R485 let start. -/
def CopyReady (s : State) (c : Ctx) (i : Instr) (v : Vals) : Prop :=
  (∀ dg sg, copyForm i = some (dg, sg) → v.b.toNat % 32 = 0 ∧ v.b.toNat ≤ 2 ^ 24 ∧ v.a.toNat % 32 = 0 ∧ v.d.toNat % 32 = 0 ∧
    (dg = true ∨ v.b = 0 ∨ v.d.toNat + v.b.toNat ≤ ownBytes c.team) ∧ (sg = true ∨ v.b = 0 ∨ v.a.toNat + v.b.toNat ≤ ownBytes c.team)) ∧
  (∀ gth e a, gatherForm i = some (gth, e, a) → v.b.toNat ≤ 65536 ∧ (readField s c v.pos (fieldOf a)).toNat % 32 = 0 ∧
    (readField s c v.pos (fieldOf a + 1)).toNat % 4 = 0 ∧ v.d.toNat % 32 = 0 ∧
    (v.b = 0 ∨ ((readField s c v.pos (fieldOf a + 1)).toNat + 4 * v.b.toNat ≤ ownBytes c.team ∧ v.d.toNat + v.b.toNat * e ≤ ownBytes c.team)))

/-- The granules that a copy moves from a state, in order, up to its end or the first it cannot read or write. -/
inductive CopiedUpTo (c : Ctx) (k : CopyForm) : Nat → State → Nat → State → Prop where
  | here (n : Nat) (u : State) : CopiedUpTo c k n u n u
  | next (n m : Nat) (u v t : State) (h : Granule c k.dg k.sg u (k.place u n) v) (g : CopiedUpTo c k (n + 1) v m t) : CopiedUpTo c k n u m t

end Sys2Proof.Machine

/-- A copy, gather or scatter moves its granules of 32 bytes in ascending order and then goes on behind itself; the first granule that
cannot be moved ends it with the granules before it moved, and their number in the fault. From scratchpad to scratchpad nothing stops
it (R335, R336, R484 to R486). -/
def Obligations.RoutineCopies : Prop :=
  (∀ (s : State) (c : Ctx) (i : Instr) (e : Nat × Nat) (k : CopyForm), Issues s c i → c.lanes = [e] → copyOf s c i (valsOf s c i e) = some k →
    CopyReady s c i (valsOf s c i e) → heldReleases s c.st.group = false →
    ∃ t, exec i s = .next t ∧ Sets s c i (copyMark i) (fun c' b u => ∃ n m, CopiedUpTo c' k 0 b n m ∧ n ≤ k.count ∧
      (n = k.count → StreamSet m u c.sid { c'.st with pc := c'.st.pc + 4 }) ∧
      (n < k.count → u = doom m c.st.team 0x02 0 ∨ ∃ f a m', m' = { m with mem := m'.mem, poison := m'.poison, sealed := m'.sealed, banks := m'.banks, clusters := m'.clusters, free := m'.free, ctl := m'.ctl, teams := m'.teams, timers := m'.timers } ∧
        u = raiseTrap m' c' { faults := [{ ln := 0, code := f, addr := a, detail := n }], tpc := c'.st.pc, late := false, noroll := false, pcs := [] }) ∧
      (copyForm i = some (false, false) → PadGood s c.team (valsOf s c i e).a.toNat (valsOf s c i e).b.toNat → n = k.count)) t) ∧
  (∀ (s : State) (c : Ctx) (i : Instr) (e : Nat × Nat), Issues s c i → c.lanes = [e] → (copyForm i).isSome ∨ (gatherForm i).isSome →
    (CopyReady s c i (valsOf s c i e) → heldReleases s c.st.group = true → WaitsAt s c i .drain) ∧
    (¬CopyReady s c i (valsOf s c i e) → ∃ fs, fs ≠ [] ∧ (∀ f ∈ fs, f.code = 0x03 ∨ f.code = 0x0C ∨ f.code = 0x0D) ∧ exec i s = .next (raise s c fs)))

namespace Sys2Proof.Machine

/-! ### Records that a team offers -/

/-- What a lane's ENQ, SPAWN or BTOP may change beside its result: budgets of teams with the grace that may start, timers, deques, and
internal events that become due. -/
structure Offers (u t : State) (c : Ctx) : Prop where
  rest   : t = { u with streams := t.streams, teams := t.teams, timers := t.timers, clusters := t.clusters, work := t.work, sched := t.sched, seq := u.seq + 1 }
  sched  : t.sched = { u.sched with pools := t.sched.pools }
  others : ∀ k, k ≠ c.sid → find? t.streams k = find? u.streams k

/-- A record's funding (R123, R171, R176): its budgets come out of the parent's, all that is left when it asks for more, and the parent
then starts its grace; an exempt parent or an exempt record takes nothing. -/
structure Funds (u t : State) (c : Ctx) (words ws : List Word) (ib tb : Nat) : Prop where
  free   : c.team.exempt = true ∨ exemptOf u c words = true → ws = words ∧ ib = 0 ∧ tb = 0 ∧ t.teams = u.teams
  paid   : c.team.exempt = false → exemptOf u c words = false → ∀ tm, find? u.teams c.st.team = some tm →
    ib = min (ibOf words) tm.ib.toNat ∧ tb = min (tbOf words) tm.tb.toNat ∧ ws = words.set 1 (BitVec.ofNat 64 (ib * 2 ^ 32 + tb)) ∧
    (∀ k, k ≠ c.st.team → find? t.teams k = find? u.teams k) ∧
    ∃ tm', find? t.teams c.st.team = some tm' ∧ { tm' with ib := tm.ib, tb := tm.tb, pend := tm.pend } = tm ∧
      tm'.ib.toNat = tm.ib.toNat - ib ∧ tm'.tb.toNat = tm.tb.toNat - tb ∧ (ib < ibOf words ∨ tb < tbOf words → tm'.pend ≠ none)

/-- A lane's status is outstanding. -/
def StatusOut (u t : State) (c : Ctx) (d : RegName) (v : Vals) (status : Nat) : Prop :=
  ∀ st, find? u.streams c.sid = some st → ∃ st' p, find? t.streams c.sid = some st' ∧ p ∈ st'.pend ∧ p.seq = u.seq ∧ p.lane = v.pos ∧
    p.await = .nothing ∧ p.writes = resultTo u c v.ln v.pos d (BitVec.ofNat 64 status)

/-- One lane's ENQ (R122, R171, R437): the funded record is on its way to the queue its handle names, and the status is awaited. -/
structure Enqueued (d : RegName) (c : Ctx) (u : State) (e : Vals × List Word) (t : State) : Prop where
  offers : Offers u t c
  sent   : ∃ ws ib tb, Funds u t c e.2 ws ib tb ∧ t.work = u.work ++ [.recordArrival
      { queue := e.1.a.toNat / 65536 % 65536, tag := e.1.a.toNat % 65536, words := ws, exempt := exemptOf u c e.2
        origin := .enq c.sid e.1.pos u.seq ib tb (decide (privOf u c ≥ 1)) }]
  status : ∀ st, find? u.streams c.sid = some st → ∃ st' p, find? t.streams c.sid = some st' ∧ p ∈ st'.pend ∧ p.seq = u.seq ∧ p.lane = e.1.pos ∧ p.await = .arrival

/-- The cluster whose deque a SPAWN pushes to (R126): its own; for SPAWN.DIE the one of the partition's clusters on the die with the
fewest entries, the nearer of two, the lower of two at one distance. -/
def IsTarget (u : State) (c : Ctx) (wide : Bool) (k : Nat) : Prop :=
  (wide = false → k = c.team.cluster) ∧
  (wide = true → k ∈ deckClusters u (dieOf c.team.cluster) c.team.part ∧ ∀ j ∈ deckClusters u (dieOf c.team.cluster) c.team.part,
    (look Cluster.reset u.clusters k).deque.length < (look Cluster.reset u.clusters j).deque.length ∨
    ((look Cluster.reset u.clusters k).deque.length = (look Cluster.reset u.clusters j).deque.length ∧
      (meshHops c.team.cluster k < meshHops c.team.cluster j ∨ (meshHops c.team.cluster k = meshHops c.team.cluster j ∧ k ≤ j))))

/-- One lane's SPAWN (R126, R171, R438): its funded record stands at the head of the target's deque, with status 0; a full deque takes
nothing, the budgets are as before, and the status is 1. -/
structure Spawned (wide : Bool) (d : RegName) (c : Ctx) (u : State) (e : Vals × List Word) (t : State) : Prop where
  offers : Offers u t c
  pushed : ∀ k, IsTarget u c wide k → (look Cluster.reset u.clusters k).deque.length < 64 → ∃ ws ib tb r, Funds u t c e.2 ws ib tb ∧
    (look Cluster.reset t.clusters k).deque = r :: (look Cluster.reset u.clusters k).deque ∧ r.words = ws ∧ r.exempt = exemptOf u c e.2 ∧ r.again = none ∧
    (∃ o, r.owner = some o ∧ o.domain = c.team.domain ∧ o.cls = c.team.cls ∧ o.home = c.team.home ∧ o.part = c.team.part) ∧
    (∀ j, j ≠ k → look Cluster.reset t.clusters j = look Cluster.reset u.clusters j) ∧ .dequePop k ∈ t.work ∧ StatusOut u t c d e.1 0
  full   : ∀ k, IsTarget u c wide k → 64 ≤ (look Cluster.reset u.clusters k).deque.length → t.clusters = u.clusters ∧ t.work = u.work ∧ StatusOut u t c d e.1 1 ∧
    ∀ tm, find? u.teams c.st.team = some tm → ∃ tm', find? t.teams c.st.team = some tm' ∧ tm'.ib = tm.ib ∧ tm'.tb = tm.tb

/-- The lanes of an instruction with the eight registers each names. -/
def recordsOf (s : State) (c : Ctx) (i : Instr) (b : RegName) (n : Nat) : List (Vals × List Word) :=
  (c.lanes.map (valsOf s c i)).map (fun v => (v, readRun s c v.pos b n))

/-- The team a BTOP adds to: the one of the identifier (R174). -/
def Named (u : State) (ident : Nat) (tm : Team) : Prop := find? u.teams (ident % 65536) = some tm ∧ tm.ident.toNat = ident

/-- One lane's BTOP (R160, R173, R174): nothing is added to a team that is exempt or does not exist, nor when the caller's pool cannot
fund it; otherwise one budget rises, to at most 2^32 − 1, or, when a yield has stopped the team, the amount its continuation will get. -/
structure ToppedUp (traffic : Bool) (d : RegName) (c : Ctx) (u : State) (v : Vals) (t : State) : Prop where
  rest   : t = { u with streams := t.streams, teams := t.teams, sched := t.sched, seq := u.seq + 1 }
  absent : (∀ tm, ¬Named u (v.a.toNat % 2 ^ 32) tm) → t.teams = u.teams ∧ t.sched = u.sched ∧ StatusOut u t c d v 1
  exempt : ∀ tm, Named u (v.a.toNat % 2 ^ 32) tm → tm.exempt = true → t.teams = u.teams ∧ t.sched = u.sched ∧ StatusOut u t c d v 3
  added  : ∀ tm n ib tb, Named u (v.a.toNat % 2 ^ 32) tm → tm.exempt = false → n = min v.b.toNat (2 ^ 32 - 1) → ib = (if traffic then 0 else n) →
    tb = (if traffic then n else 0) → privOf u c ≠ 0 ∨ canFund u (bitsW c.team.budcap 41 32) ib tb = true →
    (∃ p, ∀ st, find? u.streams c.sid = some st → ∃ st', find? t.streams c.sid = some st' ∧ p ∈ st'.pend ∧ p.seq = u.seq ∧ p.await = .nothing ∧
      p.writes = resultTo u c v.ln v.pos d 0) ∧
    (tm.stopped = none → ∃ tm', find? t.teams (v.a.toNat % 65536) = some tm' ∧ tm'.ib.toNat = min (tm.ib.toNat + ib) (2 ^ 32 - 1) ∧
      tm'.tb.toNat = min (tm.tb.toNat + tb) (2 ^ 32 - 1)) ∧
    (∀ x, tm.stopped = some x → find? t.teams (v.a.toNat % 65536) = some { tm with stopped := some { x with addIb := x.addIb + ib, addTb := x.addTb + tb } }) ∧
    (∀ k, k ≠ v.a.toNat % 65536 → find? t.teams k = find? u.teams k) ∧ (privOf u c ≠ 0 → t.sched = u.sched)
  poor   : ∀ tm n ib tb, Named u (v.a.toNat % 2 ^ 32) tm → tm.exempt = false → n = min v.b.toNat (2 ^ 32 - 1) → ib = (if traffic then 0 else n) →
    tb = (if traffic then n else 0) → privOf u c = 0 → canFund u (bitsW c.team.budcap 41 32) ib tb = false →
    t.teams = u.teams ∧ t.sched = u.sched ∧ StatusOut u t c d v 2

end Sys2Proof.Machine

/-- ENQ, SPAWN and BTOP act lane by lane; a queue handle that fails its check, and a capability that does not cover the target, trap in
every such lane with no effect in any (R122, R126, R171, R173, R437, R438, R442). -/
def Obligations.TaskRecords : Prop :=
  (∀ (s : State) (c : Ctx) (sw : Bool) (d a b : RegName), Issues s c (.enq sw d a b) →
    (∀ e ∈ c.lanes, badHandle s c ((valsOf s c (.enq sw d a b) e).a.toNat % 2 ^ 32) = false) →
    ∃ t, exec (.enq sw d a b) s = .next t ∧ Acts s s c (.enq sw d a b) sw (recordsOf s c (.enq sw d a b) b 8) (Enqueued d) t) ∧
  (∀ (s : State) (c : Ctx) (sw : Bool) (d a b : RegName), Issues s c (.enq sw d a b) →
    Raises s c (.enq sw d a b) (((c.lanes.map (valsOf s c (.enq sw d a b))).filter (fun v => badHandle s c (v.a.toNat % 2 ^ 32))).map (fun v =>
      { ln := v.ln, code := 0x14, addr := BitVec.ofNat 64 (v.a.toNat % 2 ^ 32), detail := 0x68 }))) ∧
  (∀ (s : State) (c : Ctx) (i : Instr) (sw wide : Bool) (d b : RegName), Issues s c i →
    ((wide = false ∧ i = .spawnLocal sw d b) ∨ (wide = true ∧ i = .spawnDie sw d b)) →
    ∃ t, exec i s = .next t ∧ Acts s s c i sw (recordsOf s c i b 8) (Spawned wide d) t) ∧
  (∀ (s : State) (c : Ctx) (i : Instr) (sw traffic : Bool) (d a b : RegName), Issues s c i →
    ((traffic = false ∧ i = .btopIb sw d a b) ∨ (traffic = true ∧ i = .btopTb sw d a b)) →
    ((∀ e ∈ c.lanes, topUpBarred s c (valsOf s c i e) = false) →
      ∃ t, exec i s = .next t ∧ Acts s s c i sw (c.lanes.map (valsOf s c i)) (ToppedUp traffic d) t) ∧
    Raises s c i (((c.lanes.map (valsOf s c i)).filter (topUpBarred s c)).map (fun v => { ln := v.ln, code := 0x02, addr := 0, detail := 0x6D })))

namespace Sys2Proof.Machine

/-! ### Ends and continuation points -/

/-- The lanes of the issuing stream have ended, and its team goes on (R195, R439). -/
structure LanesEnded (c : Ctx) (u t : State) : Prop where
  gone   : find? t.streams c.sid = none
  others : ∀ k, k ≠ c.sid → c.st.handler = false → sharedOn u c.team.cluster = false → find? t.streams k = find? u.streams k
  group  : c.st.handler = false → ∀ g, find? u.groups c.st.group = some g → ∃ g', find? t.groups c.st.group = some g' ∧ g'.ended = g.ended ||| c.st.members ∧ g'.lanes = g.lanes
  team   : ∃ tm, find? t.teams c.st.team = some tm
  regs   : t.regs = u.regs
  pads   : t.scratch = u.scratch

/-- The team has ended with its last group: its places, scratchpad and tiles are free (R134, R195, R264, R489). -/
structure TeamGone (k : Nat) (tm : Team) (t : State) : Prop where
  team    : find? t.teams k = none
  lanes   : ∀ e ∈ t.lanes, e.2.team ≠ k
  streams : ∀ e ∈ t.streams, e.2.team ≠ k
  groups  : ∀ e ∈ t.groups, e.2.team ≠ k
  pads    : ∀ o, o < tm.scUnits * 4096 → look 0 t.scratch (padAt tm o) = 0
  tiles   : ∀ e ∈ t.owners, e.2 ≠ k
  looks   : .dequePop tm.cluster ∈ t.work

/-- The stream is the last of its team that has not ended. -/
def LastStream (s : State) (c : Ctx) : Prop :=
  ∀ e ∈ s.groups, e.2.team = c.st.team → e.1 < 49152 → ∀ l, l < e.2.lanes.length → inMask e.2.ended l = true ∨ (e.1 = c.st.group ∧ inMask c.st.members l = true)

/-- Nothing holds END back: the group's transfers are over (R325), and a routine's results have come. -/
def Settled (s : State) (c : Ctx) : Prop := draining s c.st.group = false ∧ (c.routine = true → c.st.pend = [])

end Sys2Proof.Machine

/-- END ends the stream's lanes, with the last of them the team, and a routine with its completion store; CPT declares a continuation
point or parks at it when the team is to yield; YIELD makes the team yield pending at once and parks. END waits for the group's
transfers before it takes effect, the parking of the others only with its going to the continuation point (R154, R155, R195, R309, R325,
R439 to R441, R487). -/
def Obligations.EndsAndPoints : Prop :=
  (∀ (s : State) (c : Ctx) (sw : Bool), Issues s c (.endOp sw) → Settled s c → c.routine = false → c.st.group < 49152 →
    ∃ t, exec (.endOp sw) s = .next t ∧ Sets s c (.endOp sw) sw (fun c' b u =>
      (LastStream s c → c.st.handler = false → TeamGone c.st.team c'.team u) ∧
      (¬LastStream s c → c.st.handler = false → LanesEnded c' b u)) t) ∧
  (∀ (s : State) (c : Ctx) (sw : Bool) (h : Nat) (x : Hart), Issues s c (.endOp sw) → Settled s c → c.st.hart = some h → find? s.harts h = some x →
    c.sid = hartPos h → x.word % 8 = 0 →
    ∃ t, exec (.endOp sw) s = .next t ∧ Sets s c (.endOp sw) sw (fun c' b u =>
      find? u.streams c.sid = none ∧ (∃ x', find? u.harts h = some x' ∧ x' = { x with run := none }) ∧
      gather (fun o => look 0 u.scratch (padAt c'.team o)) 8 x.word = x.value.toNat ∧ u.mem = b.mem ∧ u.teams = b.teams ∧ .engineRoutineStart h ∈ u.work) t) ∧
  (∀ (s : State) (c : Ctx) (sw : Bool) (n : BitVec 7) (imm : BitVec 17), Issues s c (.cpt sw n imm) → n.toNat ≤ 96 →
    ∃ t, exec (.cpt sw n imm) s = .next t ∧ Sets s c (.cpt sw n imm) sw (fun c' b u => ∀ at_, at_ = BitVec.ofInt 64 (c.st.pc.toNat + imm.toInt * 4) →
      (c'.team.pend = none → StreamSet b u c.sid { c'.st with contpc := at_.setWidth 55, contlive := n, pc := c'.st.pc + 4 }) ∧
      (c'.team.pend ≠ none → StreamSet b u c.sid { c'.st with contpc := at_.setWidth 55, contlive := n,
                                                              park := some (if draining s c.st.group = true then .parking false else .cpt) })) t) ∧
  (∀ (s : State) (c : Ctx) (i : Instr) (sw : Bool), Issues s c i →
    (i = .yield sw ∨ ∃ a, i = .yieldIf sw a ∧ ∀ e l, c.lanes = e :: l → (readBudget c.team c.team.ib).toNat < (valsOf s c i e).a.toNat) → c.lanes ≠ [] →
    ∃ t, exec i s = .next t ∧ Sets s c i sw (fun c' b u => (∃ tm, find? u.teams c.st.team = some tm ∧ tm.pend ≠ none ∧ { tm with pend := c'.team.pend } = c'.team) ∧
      (∀ k, k ≠ c.sid → find? u.streams k = find? b.streams k) ∧
      find? u.streams c.sid = some (
        if draining s c.st.group = true then { c'.st with park := some (.parking (decide (c.st.contpc = 0))) }
        else if c.st.contpc = 0 then { c'.st with pc := c'.st.pc + 4, park := some .yielded } else { c'.st with park := some .cpt })) t) ∧
  (∀ (s : State) (sid : Nat) (st : Stream) (full : Bool), find? s.streams sid = some st → st.park = some (.parking full) → draining s st.group = false →
    StreamSet s (resumeStream s sid) sid (if full = true then { st with pc := st.pc + 4, park := some .yielded } else { st with park := some .cpt })) ∧
  (∀ (s : State) (c : Ctx) (sw : Bool) (a : RegName), Issues s c (.yieldIf sw a) →
    (∀ e l, c.lanes = e :: l → (valsOf s c (.yieldIf sw a) e).a.toNat ≤ (readBudget c.team c.team.ib).toNat) →
    ∃ t, exec (.yieldIf sw a) s = .next t ∧ Does s c (.yieldIf sw a) sw (fun _ b u => u = b) t) ∧
  (∀ (s : State) (c : Ctx) (sw : Bool), Issues s c (.endOp sw) → ¬Settled s c → WaitsAt s c (.endOp sw) .drain)

namespace Sys2Proof.Machine

/-! ### Inboxes -/

/-- An inbox operand of this device whose inbox is valid and whose tag agrees, in the caller's partition (R444). -/
def GoodInbox (s : State) (c : Ctx) (a : Word) (recv : Bool) : Prop :=
  a.toNat < 2 ^ 44 ∧ a.toNat / 2 ^ 32 = s.fab.id.toNat ∧ inboxOk s c.team.part (viewInbox s (a.toNat / 2 ^ 16 % 2 ^ 16)) (a.toNat % 2 ^ 16) = true ∧
    (recv = true → (viewInbox s (a.toNat / 2 ^ 16 % 2 ^ 16)).domain = c.team.domain)

/-- No lane waits for a message of an inbox. -/
def NoReceiver (s : State) (n : Nat) : Prop := ∀ e ∈ s.streams, ∀ p ∈ e.2.pend, ∀ k ds lim, p.await ≠ .message n k ds lim

/-- Entries that stand in a ring (R443). -/
def RingCount (v : InboxView) : Nat := (2 ^ 32 + v.tail - v.head) % 2 ^ 32

/-- One lane's MSGAPP to an inbox of this device (R445): `m` is the state after its release and charge. A full ring takes nothing, an
entry that does not translate gives status 3; otherwise the entry holds the registers and zeros, and TAIL rises by 1. -/
structure AppendedHere (d : RegName) (c : Ctx) (u : State) (e : Vals × List Word) (t : State) : Prop where
  frame : t = { u with mem := t.mem, poison := t.poison, sealed := t.sealed, banks := t.banks, clusters := t.clusters, free := t.free, ctl := t.ctl, streams := t.streams, teams := t.teams, timers := t.timers, work := t.work, seq := t.seq }
  parts : ∀ m n v, m = chargeSectors (releaseLane u c e.1.pos .device) c 1 → n = e.1.a.toNat / 2 ^ 16 % 2 ^ 16 → v = viewInbox m n → e.1.a.toNat / 2 ^ 32 = m.fab.id.toNat →
    e.1.a.toNat < 2 ^ 44 →
    (RingCount v = 2 ^ v.logsize → t.mem = m.mem ∧ t.seq = u.seq + 1 ∧ StatusOut u t c d e.1 1) ∧
    (∀ f, RingCount v ≠ 2 ^ v.logsize → inboxEntry m v v.tail ⟨false, true, false⟩ = .error f → t.mem = m.mem ∧ t.seq = u.seq + 1 ∧ StatusOut u t c d e.1 3) ∧
    (∀ r x, RingCount v ≠ 2 ^ v.logsize → inboxEntry m v v.tail ⟨false, true, false⟩ = .ok (r, x) → x.key ≠ .dead → NoReceiver m n →
      inboxAt m n + 32 ≤ localLimit → x.local_ % 256 + 64 ≤ 256 → RangesApart (x.local_ / 256 * 256) 256 (inboxAt m n + 16) 8 →
      t.seq = u.seq + 1 ∧ StatusOut u t c d e.1 0 ∧ rawRead t (inboxAt m n + 16) 8 = v.head * 2 ^ 32 + (v.tail + 1) % 2 ^ 32 ∧
      ∀ i, i < 64 → homeByte t x.key (x.local_ + i) = byteOf (nth 0 e.2 (i / 8)) (i % 8))

/-- One lane's MSGRECV (R447): `m` is the state once it is charged. It takes the entry at HEAD, waits, or with no time to wait returns 1. -/
structure Received (d : RegName) (k : Nat) (c : Ctx) (u : State) (w : Vals) (t : State) : Prop where
  frame : t = { u with mem := t.mem, poison := t.poison, sealed := t.sealed, banks := t.banks, clusters := t.clusters, free := t.free, ctl := t.ctl, streams := t.streams, teams := t.teams, timers := t.timers, work := t.work, seq := u.seq + 1 }
  empty : ∀ n v, n = w.a.toNat / 2 ^ 16 % 2 ^ 16 → v = viewInbox u n → v.valid = true → v.head = v.tail → (∀ e ∈ u.streams, ∀ p ∈ e.2.pend, p.seq ≠ u.seq) →
    ∀ st, find? u.streams c.sid = some st → ∃ st' p, find? t.streams c.sid = some st' ∧ p ∈ st'.pend ∧ p.seq = u.seq ∧ p.lane = w.pos ∧
      (w.b.toNat % 2 ^ 32 ≠ 0 → (∃ ds, p.await = .message n k ds (u.cycle + w.b.toNat % 2 ^ 32)) ∧ (u.cycle + w.b.toNat % 2 ^ 32, .msgrecvTimeout c.sid u.seq) ∈ t.timers) ∧
      (w.b.toNat % 2 ^ 32 = 0 → p.await = .nothing ∧ .resultWriteback c.sid u.seq ∈ t.work)
  taken : ∀ n v m x, n = w.a.toNat / 2 ^ 16 % 2 ^ 16 → v = viewInbox u n → v.valid = true → v.head ≠ v.tail → (∀ e ∈ u.streams, ∀ p ∈ e.2.pend, p.seq ≠ u.seq) →
    inboxEntry u v v.head ⟨true, false, false⟩ = .ok (m, x) → rangeBad m x.key x.local_ 64 = false →
    ∀ st, find? u.streams c.sid = some st → ∃ st' p, find? t.streams c.sid = some st' ∧ p ∈ st'.pend ∧ p.seq = u.seq ∧ p.lane = w.pos ∧ p.await = .nothing ∧
      .resultWriteback c.sid u.seq ∈ t.work ∧ ∀ i f, i < k → f = fieldOf d + 1 + i → f < 96 → (.reg (regPlace u c.st w.pos f), BitVec.ofNat 64 (homeRead m x.key (x.local_ + 8 * i) 8)) ∈ p.writes

end Sys2Proof.Machine

/-- MSGAPP and MSGRECV on inboxes of this device act lane by lane; an operand that fails its check traps in every such lane; a lane
that waited for its whole time without an entry returns status 1 (R444, R445, R447). -/
def Obligations.Messages : Prop :=
  (∀ (s : State) (c : Ctx) (sw : Bool) (d a b : RegName) (n : BitVec 3), Issues s c (.msgapp sw d a b n) →
    (∀ e ∈ c.lanes, GoodInbox s c (valsOf s c (.msgapp sw d a b n) e).a false) →
    ∃ t, exec (.msgapp sw d a b n) s = .next t ∧ Acts s s c (.msgapp sw d a b n) sw (recordsOf s c (.msgapp sw d a b n) b (n.toNat + 1)) (AppendedHere d) t) ∧
  (∀ (s : State) (c : Ctx) (sw : Bool) (d a b : RegName) (n : BitVec 3), Issues s c (.msgrecv sw d a b n) →
    (∀ e ∈ c.lanes, GoodInbox s c (valsOf s c (.msgrecv sw d a b n) e).a true) →
    ∃ t, exec (.msgrecv sw d a b n) s = .next t ∧
      Acts s s c (.msgrecv sw d a b n) sw (c.lanes.map (valsOf s c (.msgrecv sw d a b n))) (Received d (n.toNat + 1)) t) ∧
  (∀ (s : State) (c : Ctx) (i : Instr) (maj : Nat), Issues s c i →
    ((maj = 0x6E ∧ ∃ sw d a b n, i = .msgapp sw d a b n) ∨ (maj = 0x6F ∧ ∃ sw d a b n, i = .msgrecv sw d a b n)) →
    (∃ e ∈ c.lanes, ¬GoodInbox s c (valsOf s c i e).a (decide (maj = 0x6F)) ∧
      ((valsOf s c i e).a.toNat / 2 ^ 32 % 2 ^ 12 = s.fab.id.toNat ∨ maj = 0x6F ∨ 2 ^ 44 ≤ (valsOf s c i e).a.toNat)) →
    ∃ fs, fs ≠ [] ∧ (∀ f ∈ fs, f.code = 0x14 ∧ f.detail = maj) ∧ exec i s = .next (raise s c fs)) ∧
  (∀ (s : State) (sid seq n k lim : Nat) (ds : List Dest) (p : Pending) (st : Stream), findPend s seq = some (sid, p) → p.await = .message n k ds lim → lim ≤ s.cycle →
    find? s.streams sid = some st →
    ∃ t, exec (.msgrecvTimeout sid seq) s = .next t ∧ t = { s with streams := t.streams, work := s.work ++ [.resultWriteback sid seq] } ∧
      ∃ st', find? t.streams sid = some st' ∧ { st' with pend := st.pend } = st ∧
        ∀ q ∈ st'.pend, q.seq = seq → q.await = .nothing ∧ ∀ w ∈ q.writes, w.1 ∉ ds ∧ w.2 = 1)

namespace Sys2Proof.Machine

/-! ### Tile accumulators -/

/-- The place of element `n` of tile `t` of a pipeline (R488). -/
def elementAt (pipe t n : Nat) : Nat := 4096 * pipe + 64 * t + n

/-- The pipelines of a group's live lanes, whose tiles it claims together (R489). -/
def tilePipes (c : Ctx) : List Nat := (lanesIn c.grp c.st.members).map (fun e => pipeOf e.2)

/-- No other team holds any of them. -/
def Claimable (s : State) (c : Ctx) : Prop := ∀ p ∈ tilePipes c, ∀ o, find? s.owners p = some o → o = c.st.team

/-- What a forced yield saved of a pipeline's tiles lists each element once. -/
def SavedTiles (s : State) : Prop := ∀ k m, find? s.restore k = some m → (m.map Prod.fst).Nodup ∧ ∀ e ∈ m, e.1 < 4096

/-- A group's claim (R489): the team holds the tiles of all its pipelines; those it did not hold hold zeros, or what a forced
yield saved for its continuation. -/
structure Claims (b u : State) (c : Ctx) : Prop where
  rest  : u = { b with tiles := u.tiles, tileErr := u.tileErr, owners := u.owners, restore := u.restore }
  owner : ∀ p, find? u.owners p = if p ∈ tilePipes c then some c.st.team else find? b.owners p
  tiles : ∀ p n, n < 4096 → look 0 u.tiles (4096 * p + n) =
    if p ∈ tilePipes c ∧ find? b.owners p = none then look 0 (look [] b.restore (6144 * c.st.team + p)) n
    else look 0 b.tiles (4096 * p + n)
  errs  : ∀ d, d ∈ u.tileErr ↔ d ∈ b.tileErr ∧ ¬(d / 2048 ∈ tilePipes c ∧ find? b.owners (d / 2048) = none)

/-- A tile instruction acts lane by lane after its claim. -/
def Tiled (s : State) (c : Ctx) (i : Instr) (sw : Bool) (P : Ctx → State → Vals → State → Prop) (t : State) : Prop :=
  ∃ b c' m u, Before s b c c' (operands i) ∧ Claims b m c' ∧ InTurn (P c') m (c.lanes.map (valsOf s c i)) u ∧ Ends u t c.sid sw

/-- Elements of a pipeline's tiles become what `f` gives; every other element stays, and doublewords written lose their
errors (R493). -/
structure TileSet (u t : State) (pipe : Nat) (f : Nat → Option (BitVec 32)) : Prop where
  rest  : t = { u with tiles := t.tiles, tileErr := t.tileErr }
  tiles : ∀ k, look 0 t.tiles k = (if k / 4096 = pipe then f (k % 4096) else none).getD (look 0 u.tiles k)
  errs  : ∀ d, d ∈ t.tileErr ↔ d ∈ u.tileErr ∧ ¬(d / 2048 = pipe ∧ (f (2 * (d % 2048))).isSome)

/-- The first element of the pair that x[b] names (R510). -/
def pairElement (b : Word) : Nat := 8 * (b.toNat % 32 / 4) + 2 * (b.toNat % 32 % 4)

/-- A lane's long-latency result of value `w` is outstanding (R205); nothing else changes. -/
structure LateResult (u t : State) (c : Ctx) (d : RegName) (v : Vals) (w : Word) : Prop where
  rest   : t = { u with streams := t.streams, seq := u.seq + 1 }
  others : ∀ k, k ≠ c.sid → find? t.streams k = find? u.streams k
  stream : ∀ st, find? u.streams c.sid = some st → ∃ st' p, find? t.streams c.sid = some st' ∧ { st' with pend := st.pend } = st ∧
    p ∈ st'.pend ∧ p.seq = u.seq ∧ p.lane = v.pos ∧ p.pc = c.st.pc ∧ p.await = .nothing ∧ p.writes = resultTo u c v.ln v.pos d w

/-- A team is to be killed with kill code 0x02 (R338, R493). -/
structure Condemned (u t : State) (k : Nat) : Prop where
  rest   : t = { u with teams := t.teams }
  others : ∀ j, j ≠ k → find? t.teams j = find? u.teams j
  team   : ∀ tm, find? u.teams k = some tm → find? t.teams k = some { tm with doomed := some (tm.doomed.getD (0x02, 0)) }

/-- TRD of a lane (R510). -/
def PairRead (tile : Nat) (d : RegName) (c : Ctx) (u : State) (v : Vals) (t : State) : Prop :=
  (elementAt (pipeOf v.pos) tile (pairElement v.b) / 2 ∈ u.tileErr → Condemned u t c.st.team) ∧
  (elementAt (pipeOf v.pos) tile (pairElement v.b) / 2 ∉ u.tileErr → ∃ w : Word, LateResult u t c d v w ∧
    w.toNat = (look 0 u.tiles (elementAt (pipeOf v.pos) tile (pairElement v.b))).toNat +
      2 ^ 32 * (look 0 u.tiles (elementAt (pipeOf v.pos) tile (pairElement v.b) + 1)).toNat)

/-- TWR of a lane (R510). -/
def PairWritten (tile : Nat) (u : State) (v : Vals) (t : State) : Prop :=
  TileSet u t (pipeOf v.pos) (fun n => if n = 64 * tile + pairElement v.b then some (BitVec.ofNat 32 v.a.toNat)
    else if n = 64 * tile + pairElement v.b + 1 then some (BitVec.ofNat 32 (v.a.toNat / 2 ^ 32)) else none)

/-- The target format of a TCVT and its bits per element (R511). -/
def tileTarget (w : Word) : Option (NumFmt × Nat) :=
  match w.toNat / 2 ^ 8 % 8 with
  | 0 => some (.ieee bf16, 16)
  | 1 => some (.ieee fp16, 16)
  | 2 => some (.e4m3, 8)
  | 3 => some (.e5m2, 8)
  | 4 => some (.t8, 8)
  | 5 => some (.t6, 8)
  | _ => none

/-- A control value that R511 allows. -/
def GoodControl (w : Word) : Prop :=
  w.toNat / 2 ^ 13 = 0 ∧ w.toNat / 2 ^ 11 % 2 = 0 ∧ w.toNat / 2 ^ 4 % 2 ^ 4 = 0 ∧
    ∃ f n, tileTarget w = some (f, n) ∧ (n = 8 → w.toNat / 2 ^ 3 % 2 = 0)

/-- The first column that a TCVT converts: 4 × HALF. -/
def firstColumn (w : Word) : Nat := 4 * (w.toNat / 2 ^ 3 % 2)

/-- TCVT of a lane whose row has no error (R379, R383, R386, R511): element e is rounded by FCSR.RM, or under SR by the
generator's number after e + 1 steps. -/
def RowConverted (tile : Nat) (d : RegName) (c : Ctx) (u : State) (v : Vals) (t : State) : Prop :=
  ∃ f n, tileTarget v.b = some (f, n) ∧ ∃ (w : Word) (g : Nat → FpResult) (m : State),
    (∀ e, e < 64 / n → g e = encodeNum
      (if v.b.toNat / 2 ^ 12 % 2 = 1 then .sr (generated (laneOf u v.pos).seed.toNat (e + 1)) else roundingIn c.st) f
      (decodeF fp32 (look 0 u.tiles (elementAt (pipeOf v.pos) tile (8 * (v.b.toNat % 8) + firstColumn v.b + e))).toNat)) ∧
    (∀ e, e < 64 / n → w.toNat / 2 ^ (n * e) % 2 ^ n = (g e).1 % 2 ^ n) ∧
    m = { u with lanes := m.lanes } ∧
    (∀ p, find? m.lanes p = (find? u.lanes p).map (fun la =>
      if p = v.pos ∧ v.b.toNat / 2 ^ 12 % 2 = 1 then { la with seed := word (generated (laneOf u v.pos).seed.toNat (64 / n)) } else la)) ∧
    ∃ x, LateResult m x c d v w ∧ t = { x with streams := t.streams } ∧ (∀ k, k ≠ c.sid → find? t.streams k = find? x.streams k) ∧
      ∀ st, find? x.streams c.sid = some st → find? t.streams c.sid =
        some { st with fcsr := st.fcsr ||| BitVec.ofNat 8 (flagsAll ((List.range (64 / n)).map (fun e => (g e).2)) % 32) }

/-- The tile instructions of a lane's slice: marker, tile, and what each active lane does. -/
def sliceForm : Instr → Option (Bool × (Ctx → State → Vals → State → Prop))
  | .tzero sw t => some (sw, fun _ u v u' => TileSet u u' (pipeOf v.pos) (fun n => if n / 64 = t.toNat then some 0 else none))
  | .trd sw t d _ => some (sw, PairRead t.toNat d)
  | .twr sw t _ _ => some (sw, fun _ u v u' => PairWritten t.toNat u v u')
  | .tcvt sw t d _ => some (sw, RowConverted t.toNat d)
  | _ => none

/-- A TCVT. -/
def isTcvt : Instr → Bool
  | .tcvt _ _ _ _ => true
  | _ => false

/-- No slice of a group's lanes holds an uncorrectable error. -/
def SoundTiles (s : State) (c : Ctx) : Prop := ∀ d ∈ s.tileErr, d / 2048 ∉ tilePipes c

end Sys2Proof.Machine

/-- TZERO, TRD, TWR and TCVT claim the tiles of all the group's pipelines and then act on each active lane's slice; while another
team holds any of them the group parks, and it goes on when they are free; TCVT traps on a control value that R511 rejects
(R489, R493, R510, R511). -/
def Sys2Proof.Machine.TileRegistersHold : Prop :=
  (∀ (s : State) (c : Ctx) (i : Instr) (sw : Bool) (P : Ctx → State → Vals → State → Prop), Issues s c i → sliceForm i = some (sw, P) →
    (isTcvt i = true → SoundTiles s c ∧ ∀ e ∈ c.lanes, GoodControl (valsOf s c i e).b) → SavedTiles s →
    (Claimable s c → ∃ t, exec i s = .next t ∧ Tiled s c i sw P t) ∧
    (¬Claimable s c → WaitsAt s c i .tileClaim)) ∧
  (∀ (s : State) (c : Ctx) (sw : Bool) (n : BitVec 6) (d b : RegName), Issues s c (.tcvt sw n d b) → ∀ fs,
    fs.map (fun f => (f.ln, f.code, f.addr, f.detail)) = (c.lanes.filter (fun e =>
      decide (cvtBad (valsOf s c (.tcvt sw n d b) e).b = true))).map (fun e => (e.1, 0x15, 0, 1)) →
    Raises s c (.tcvt sw n d b) fs) ∧
  (∀ w : Word, cvtBad w = false ↔ GoodControl w) ∧
  (∀ (s : State) (sid : Nat) (c : Ctx), ctxOf s sid = some c → c.st.park = some .tileClaim →
    (Claimable s c → ∃ t, exec (.tileClaimRetry sid) s = .next t ∧ StreamSet s t sid { c.st with park := none }) ∧
    (¬Claimable s c → exec (.tileClaimRetry sid) s = .next s))

/-- FMT writes x[a] of the lowest active lane to its group's format slot (R498); LUT4 loads the cluster's L4 table (R382, R499). -/
def Sys2Proof.Machine.MatrixTablesHold : Prop :=
  (∀ (s : State) (c : Ctx) (sw : Bool) (a : RegName) (n : BitVec 3) (v : Vals) (r : List Vals), Issues s c (.fmt sw a n) →
    c.lanes.map (valsOf s c (.fmt sw a n)) = v :: r →
    ∃ t, exec (.fmt sw a n) s = .next t ∧ Does s c (.fmt sw a n) sw (fun c' b u => ∃ m, StreamSet b u c.sid { c'.st with fmts := m } ∧
      ∀ k, look 0 m k = if k = n.toNat then v.a else look 0 c.st.fmts k) t) ∧
  (∀ (s : State) (c : Ctx) (sw : Bool) (a b : RegName) (v : Vals) (r : List Vals), Issues s c (.lut4 sw a b) →
    c.lanes.map (valsOf s c (.lut4 sw a b)) = v :: r →
    ∃ t, exec (.lut4 sw a b) s = .next t ∧ Does s c (.lut4 sw a b) sw (fun _ x u => u = { x with clusters := u.clusters } ∧
      ∀ k, clusterAt u k = if k = c.team.cluster then { clusterAt x k with lut0 := v.a, lut1 := v.b } else clusterAt x k) t)

/-- Tile registers and the matrix tables. -/
def Obligations.TileRegistersAndTables : Prop :=
  Sys2Proof.Machine.TileRegistersHold ∧ Sys2Proof.Machine.MatrixTablesHold

namespace Sys2Proof.Machine

/-! ### TMMA -/

/-- A TMMA: its marker, function, tile and descriptors (R504). -/
def tmmaForm : Instr → Option (Bool × Nat × BitVec 6 × RegName × RegName)
  | .tmmaNn sw t a b => some (sw, 0, t, a, b)
  | .tmmaTn sw t a b => some (sw, 1, t, a, b)
  | .tmmaNt sw t a b => some (sw, 2, t, a, b)
  | .tmmaTt sw t a b => some (sw, 3, t, a, b)
  | .tmmaSp sw t a b => some (sw, 4, t, a, b)
  | _ => none

/-- The first step that a TMMA performs: TPROG.STEP when TPROG.ACTIVE is 1, else 0 (R504, R506). -/
def firstStep (st : Stream) : Nat := if st.tprog.getLsbD 31 then st.tprog.toNat % 2 ^ 16 else 0

/-- The TMMA that a group starts, with its descriptors as the lowest active lane holds them (R500). -/
def tmmaOf (s : State) (c : Ctx) (fn : Nat) (t : BitVec 6) (a b : RegName) (sw : Bool) (pos : Nat) : Tmma :=
  { tile := t.toNat, fn := fn, a0 := nth 0 (readRun s c pos a 2) 0, a1 := nth 0 (readRun s c pos a 2) 1
    b0 := nth 0 (readRun s c pos b 2) 0, b1 := nth 0 (readRun s c pos b 2) 1, next := firstStep c.st, sw := sw }

/-- The group parks at its TMMA and its first step comes 5 cycles later (R504, R505). -/
structure TmmaStarted (x u : State) (c : Ctx) (m : Tmma) : Prop where
  rest   : u = { x with streams := u.streams, timers := x.timers ++ [(x.cycle + 5, .tmmaEngineStep c.sid)] }
  others : ∀ k, k ≠ c.sid → find? u.streams k = find? x.streams k
  stream : find? u.streams c.sid = some { c.st with tmma := some m, park := some .tmma }

/-- A factor of a product: its value, and its scale's exponent, none for a scale of 0xFF. -/
abbrev Factor : Type := FVal × Option Int

/-- A product involves a NaN, a NaR or a scale of 0xFF, or ∞ meets 0 (R388). -/
def nanTerm (x y : Factor) : Prop :=
  x.1.isNan = true ∨ y.1.isNan = true ∨ x.2 = none ∨ y.2 = none ∨ infTimesZero x.1 y.1 = true

/-- A product is an infinity of a sign. -/
def infTerm (x y : Factor) (neg : Bool) : Prop := ((∃ n, x.1 = .inf n) ∨ ∃ n, y.1 = .inf n) ∧ (x.1.sign != y.1.sign) = neg

/-- A product is −0. -/
def negZeroTerm (x y : Factor) : Prop := (x.1.isZero = true ∨ y.1.isZero = true) ∧ (x.1.sign != y.1.sign) = true

/-- A finite product with its scales. -/
noncomputable def termValue (x y : Factor) : ℝ := FVal.val x.1 * FVal.val y.1 * (2 : ℝ) ^ (x.2.getD 0 + y.2.getD 0)

/-- The new FP32 accumulator of an output (R388): special values in their order, else the exact sum rounded once. -/
def AccumulatorIs (acc : Nat) (xs : List (Factor × Factor)) (r : Nat) : Prop :=
  let a := decodeF fp32 acc
  let nan := a.isNan = true ∨ ∃ x ∈ xs, nanTerm x.1 x.2
  let inf (neg : Bool) := a = .inf neg ∨ ∃ x ∈ xs, infTerm x.1 x.2 neg
  (nan ∨ (inf false ∧ inf true) → r = packNan fp32) ∧
  (¬nan ∧ inf false ∧ ¬inf true → r = packInf fp32 false) ∧
  (¬nan ∧ ¬inf false ∧ inf true → r = packInf fp32 true) ∧
  (¬nan ∧ ¬inf false ∧ ¬inf true → ∃ zn fl,
    (zn = true ↔ (a.isZero = true ∧ a.sign = true ∧ ∀ x ∈ xs, negZeroTerm x.1 x.2)) ∧
    Correct fp32 .rne (FVal.val a + (xs.map (fun x => termValue x.1 x.2)).sum) zn (r, fl))

/-- The signed integer of an L4 value. -/
def integerOf : FVal → Int
  | .fin neg m _ => if neg then -(m : Int) else m
  | _ => 0

/-- Both operands are L4 without scales: the accumulator is S32 (R389). -/
def integerStep (st : Stream) (m : Tmma) : Prop :=
  (matArgs st m).1.code = 6 ∧ (matArgs st m).2.code = 6 ∧ (matArgs st m).1.block = 0 ∧ (matArgs st m).2.block = 0

/-- The products of element `n` of a lane's block in a step: A at its row with B at its column, position by position (R501,
R504, R508). -/
def stepFactors (s : State) (c : Ctx) (m : Tmma) (e : Nat × Nat) (n : Nat) : List (Factor × Factor) :=
  (List.range (logicalLen m (matArgs c.st m).1)).map (fun q =>
    (aValue s c (clusterAt s c.team.cluster) m (matArgs c.st m).1 e.2 (blockRow c.width e.1) m.next (n / 8) q,
     bValue s c (clusterAt s c.team.cluster) (matArgs c.st m).2 e.2 (blockCol c.width e.1) m.next (n % 8) q))

/-- An engine step's new element: by R389 when both operands are unscaled L4, else by R388. -/
def StepValue (s : State) (c : Ctx) (m : Tmma) (e : Nat × Nat) (n : Nat) (old new : BitVec 32) : Prop :=
  (integerStep c.st m → new.toInt =
    clampS 32 (old.toInt + ((stepFactors s c m e n).map (fun x => integerOf x.1.1 * integerOf x.2.1)).sum)) ∧
  (¬integerStep c.st m → AccumulatorIs old.toNat (stepFactors s c m e n) new.toNat)

/-- What an engine step changes: the slices of tile t of the active lanes, the charge of 8 units (R148, R504), and the issuing
stream. -/
structure StepDone (s t : State) (c : Ctx) (m : Tmma) : Prop where
  rest   : t = { s with tiles := t.tiles, tileErr := t.tileErr, streams := t.streams, teams := t.teams, timers := t.timers }
  tiles  : ∀ e ∈ c.lanes, ∀ n, n < 64 → StepValue s c m e n (look 0 s.tiles (elementAt (pipeOf e.2) m.tile n))
    (look 0 t.tiles (elementAt (pipeOf e.2) m.tile n))
  others : ∀ k, (∀ e ∈ c.lanes, k / 64 ≠ 64 * pipeOf e.2 + m.tile) → look 0 t.tiles k = look 0 s.tiles k
  teams  : t.teams = (chargeIssue s c 8).teams
  rests  : ∀ k, k ≠ c.sid → find? t.streams k = find? s.streams k
  last   : (matArgs c.st m).1.steps ≤ m.next + 1 → find? t.streams c.sid = some
    { c.st with tprog := 0, tmma := none, pc := c.st.pc + 4, park := if m.sw = true ∧ c.st.pend ≠ [] then some .results else none }
  more   : m.next + 1 < (matArgs c.st m).1.steps →
    find? t.streams c.sid = some { c.st with tmma := some { m with next := m.next + 1 } } ∧
    (s.cycle + 1, Instr.tmmaEngineStep c.sid) ∈ t.timers

/-- A TMMA of a stream is running. -/
structure Multiplying (s : State) (sid : Nat) (c : Ctx) (m : Tmma) : Prop where
  ctx  : ctxOf s sid = some c
  tmma : c.st.tmma = some m
  park : c.st.park = some .tmma

/-- Nothing that a step reads has an uncorrectable error. -/
def StepSound (s : State) (c : Ctx) (m : Tmma) : Prop :=
  ∀ e ∈ c.lanes, (∀ o ∈ stepReads c.st c.width m e.1 m.next, padAt c.team o / 8 ∉ s.scErr) ∧
    ∀ n, n < 64 → elementAt (pipeOf e.2) m.tile n / 2 ∉ s.tileErr

/-- An entry of metadata is malformed (R509): bit 15, more than four values, or positions that do not rise. -/
def Malformed (v : Nat) : Prop :=
  v / 2 ^ 15 % 2 = 1 ∨ 4 < v / 2 ^ 12 % 8 ∨ ∃ x, x + 1 < v / 2 ^ 12 % 8 ∧ v / 2 ^ (3 * (x + 1)) % 8 ≤ v / 2 ^ (3 * x) % 8

/-- Some entry for the rows of a lane is malformed in a step. -/
def MalformedFor (s : State) (c : Ctx) (m : Tmma) (e : Nat × Nat) : Prop :=
  ∃ i g, i < 8 ∧ g < (matArgs c.st m).1.ks / 4 ∧
    Malformed (gather (fun a => look 0 s.scratch (padAt c.team a)) 2
      (c.st.mstream.toNat % 2 ^ 19 +
        2 * ((m.next * tileRows c.width + (blockRow c.width e.1 + i)) * ((matArgs c.st m).1.ks / 4) + g)))

/-- No step is malformed: only TMMA.SP has metadata (R509). -/
def WellFormedStep (s : State) (c : Ctx) (m : Tmma) : Prop := m.fn = 4 → ∀ e ∈ c.lanes, ¬MalformedFor s c m e

end Sys2Proof.Machine

/-- A TMMA that passes the checks of R503 claims the group's tiles and parks until its last step; one that does not raises its
causes and takes no effect; while another team holds a tile the group waits (R489, R503 to R505). -/
def Obligations.TmmaIssues : Prop :=
  ∀ (s : State) (c : Ctx) (i : Instr) (sw : Bool) (fn : Nat) (t : BitVec 6) (a b : RegName) (v : Vals) (r : List Vals),
    Issues s c i → tmmaForm i = some (sw, fn, t, a, b) → c.lanes.map (valsOf s c i) = v :: r →
    Raises s c i (tmmaFaults s c (tmmaOf s c fn t a b sw v.pos) (v :: r)) ∧
    (tmmaFaults s c (tmmaOf s c fn t a b sw v.pos) (v :: r) = [] → SavedTiles s →
      (Claimable s c → ∃ u, exec i s = .next u ∧ Sets s c i sw (fun c' y z =>
        ∃ x, Claims y x c' ∧ TmmaStarted x z c' (tmmaOf s c fn t a b sw v.pos)) u) ∧
      (¬Claimable s c → WaitsAt s c i .tileClaim))

/-- An engine step of a running TMMA forms every element of the active lanes' slices from the exact sum, rounded or saturated once,
charges 8 units, and after the last step TPROG is zero and the group goes on; a halt stops it at the step boundary with its progress
in TPROG; malformed metadata stops it so and raises code 0x16 with the step in DETAIL (R388, R389, R504, R507, R509). -/
def Obligations.EngineSteps : Prop :=
  (∀ (s : State) (sid : Nat) (c : Ctx) (m : Tmma), Multiplying s sid c m → c.st.haltIn ≠ some 0 → StepSound s c m →
    WellFormedStep s c m → (c.lanes.map (fun e => pipeOf e.2)).Nodup →
    ∃ t, exec (.tmmaEngineStep sid) s = .next t ∧ StepDone s t c m) ∧
  (∀ (s : State) (sid : Nat) (c : Ctx) (m : Tmma), Multiplying s sid c m → c.st.haltIn = some 0 →
    ∃ t, exec (.tmmaEngineStep sid) s = .next t ∧
      StreamSet s t sid { c.st with tprog := BitVec.ofNat 64 (2 ^ 31 + m.next), tmma := none, park := none }) ∧
  (∀ (s : State) (sid : Nat) (c : Ctx) (m : Tmma) (bad : List (Nat × Nat)), Multiplying s sid c m → c.st.haltIn ≠ some 0 →
    StepSound s c m → m.fn = 4 → bad ≠ [] → List.Sublist bad c.lanes → (∀ e ∈ c.lanes, e ∈ bad ↔ MalformedFor s c m e) →
    ∃ u c', StreamSet s u sid c'.st ∧ ctxOf u sid = some c' ∧
      c'.st = { c.st with tprog := BitVec.ofNat 64 (2 ^ 31 + m.next), tmma := none, park := none } ∧
      exec (.tmmaEngineStep sid) s = .next (raise u c'
        (bad.map (fun l => { ln := l.1, code := 0x16, addr := c.st.mstream, detail := m.next }))))

namespace Sys2Proof.Machine

/-! ### Tile stores -/

/-- A tile store: its marker, format, tile and operands (R512). -/
def tileStoreForm : Instr → Option (Bool × TileStore × BitVec 6)
  | .tstF32 sw t _ _ => some (sw, .f32, t)
  | .tstBf16 sw t _ _ => some (sw, .bf16, t)
  | .tstF16 sw t _ _ => some (sw, .f16, t)
  | .tstaF32 sw t _ _ => some (sw, .addF32, t)
  | .tstaS32 sw t _ _ => some (sw, .addS32, t)
  | _ => none

/-- PITCH of a control value (R512). -/
def pitchOf (w : Word) : Nat := w.toNat % 2 ^ 20

/-- The barrier object that a transfer counts against (R512). -/
def barrierOf (w : Word) : Option Nat := if w.getLsbD 36 then some (w.toNat / 2 ^ 32 % 16) else none

/-- A control value that R512 and R513 allow for a group of width `w`. -/
def StoreControl (w : Nat) (k : TileStore) (ctl : Word) : Prop :=
  ctl.toNat / 2 ^ 37 = 0 ∧ ctl.toNat / 2 ^ 20 % 2 ^ 12 = 0 ∧ pitchOf ctl % (8 * k.size) = 0 ∧ tileCols w * k.size ≤ pitchOf ctl

/-- An element as stored (R513). -/
def storedElement (k : TileStore) (v : BitVec 32) : Nat :=
  match k with
  | .bf16 => (encodeF bf16 .rne (decodeF fp32 v.toNat)).1
  | .f16 => (encodeF fp16 .rne (decodeF fp32 v.toNat)).1
  | _ => v.toNat

/-- The cells of a transfer hold exactly the bytes of the active lanes' blocks, at their places from `base` upward (R513). -/
def CellsHold (u : State) (c : Ctx) (k : TileStore) (tile pitch base : Nat) (cells : List (Nat × KeySel × List (Nat × Byte))) : Prop :=
  ∀ p b, (∃ e ∈ cells, ∃ y ∈ e.2.2, e.1 + y.1 = p ∧ y.2 = b) ↔
    ∃ e ∈ c.lanes, ∃ n i, n < 64 ∧ i < k.size ∧
      p = base + (blockRow c.width e.1 + n / 8) * pitch + (blockCol c.width e.1 + n % 8) * k.size + i ∧
      b = BitVec.ofNat 8 (storedElement k (look 0 u.tiles (elementAt (pipeOf e.2) tile n)) / 256 ^ i)

/-- A tile store to scratchpad starts (R513, R514, R517): the tile is read now, the transfer is due, PEND rises by 1, and a range
outside what the team may reach is recorded as a late fault. -/
structure TileSent (k : TileStore) (tile : Nat) (dst ctl : Word) (c : Ctx) (x u : State) : Prop where
  rest  : u = { x with moves := u.moves, seq := x.seq + 1, teams := u.teams, work := x.work ++ [.tileTransferDone x.seq] }
  moves : ∀ j, j ≠ x.seq → find? u.moves j = find? x.moves j
  bar   : ∀ n, barrierOf ctl = some n → BarrierSet x u c.st.team n (fun b => phaseStep { b with pend := b.pend + 1 })
  nobar : barrierOf ctl = none → u.teams = x.teams
  move  : ∃ q, find? u.moves x.seq = some q ∧ q.team = c.st.team ∧ q.group = c.st.group ∧ q.lane = c.first.2 ∧ q.pc = c.st.pc ∧
    q.bar = barrierOf ctl ∧ q.toMem = false ∧ q.kind = (match k with | .addF32 => 3 | .addS32 => 4 | _ => 1) ∧
    q.size = c.lanes.length * 64 * k.size ∧ CellsHold x c k tile (pitchOf ctl) (dst.toNat % 2 ^ 19) q.cells ∧
    ((∃ e ∈ q.cells, ownBytes c.team < e.1 + 32) → q.fault = some (0, 0x0D, dst.toNat % 2 ^ 19, 0)) ∧
    ((∀ e ∈ q.cells, e.1 + 32 ≤ ownBytes c.team) → q.fault = none)

/-- The causes that a tile store raises before its destination is looked at (R512, R513): by lane, code, TADDR and DETAIL. -/
def storeCauses (c : Ctx) (k : TileStore) (dst ctl : Word) : List (Nat × Word × Nat) :=
  (if dst.getLsbD 63 = true ∧ dst.toNat / 2 ^ 19 % 2 ^ 44 ≠ 0 then [(0x03, dst, 0)] else []) ++
    (if dst.toNat % 32 ≠ 0 then [(0x0C, dst, 0)] else []) ++ (if tileControlBad c.width k ctl = true then [(0x15, 0, 1)] else [])

/-- The bytes of a transfer by place. -/
def placed (m : Transfer) : List (Nat × Byte) := m.cells.flatMap (fun e => e.2.2.map (fun y => (e.1 + y.1, y.2)))

/-- Old and new value of an element of a TSTA (R516). -/
def Added (kind : Nat) (old v new : BitVec 32) : Prop :=
  (kind = 3 → ∃ fl, SumIs fp32 .rne (new.toNat, fl) (decodeF fp32 old.toNat) (decodeF fp32 v.toNat)) ∧
  (kind = 4 → new.toInt = clampS 32 (old.toInt + v.toInt))

/-- The 32-bit word at an offset of a team's scratchpad. -/
def padWord (s : State) (tm : Team) (off : Nat) : BitVec 32 :=
  BitVec.ofNat 32 (gather (fun a => look 0 s.scratch (padAt tm a)) 4 off)

/-- A cell of a TSTA: whole elements, lowest first. -/
def cellOf (l : List (Nat × BitVec 32)) : List (Nat × Byte) :=
  l.flatMap (fun x => (List.range 4).map (fun j => (4 * x.1 + j, BitVec.ofNat 8 (x.2.toNat / 256 ^ j))))

/-- What the end of a transfer leaves beside its bytes (R517): the transfer is over and PEND falls by 1. -/
structure TransferOver (s t : State) (id : Nat) (m : Transfer) : Prop where
  gone  : find? t.moves id = none
  moves : ∀ k, k ≠ id → find? t.moves k = find? s.moves k
  bar   : ∀ n, m.bar = some n → BarrierSet s t m.team n (fun b => phaseStep { b with pend := b.pend - 1 })
  nobar : m.bar = none → t.teams = s.teams

end Sys2Proof.Machine

/-- A TST or TSTA to scratchpad reads the tile at issue and starts a transfer; it waits while PEND would pass 65,535 or another
team holds a tile, and traps on a bad destination or control value. When it ends TST's bytes stand in scratchpad and TSTA's
elements have been added, every other byte is unchanged, and PEND falls by 1 (R304, R512 to R514, R516, R517). -/
def Obligations.TileStores : Prop :=
  (∀ (s : State) (c : Ctx) (i : Instr) (sw : Bool) (k : TileStore) (tile : BitVec 6) (v : Vals) (r : List Vals), Issues s c i →
    tileStoreForm i = some (sw, k, tile) → c.lanes.map (valsOf s c i) = v :: r → v.a.getLsbD 63 = true →
    storeCauses c k v.a v.b = [] → SavedTiles s → SoundTiles s c →
    ((∀ n, barrierOf v.b = some n → (objectOf c n).pend.toNat < 65535) →
      (Claimable s c → ∃ t, exec i s = .next t ∧ Does s c i sw (fun c' b u =>
        ∃ x, Claims b x c' ∧ TileSent k tile.toNat v.a v.b c' x u) t) ∧
      (¬Claimable s c → WaitsAt s c i .tileClaim)) ∧
    (∀ n, barrierOf v.b = some n → (objectOf c n).pend.toNat = 65535 → WaitsAt s c i (.pendFull n))) ∧
  (∀ (s : State) (c : Ctx) (i : Instr) (sw : Bool) (k : TileStore) (tile : BitVec 6) (v : Vals) (r : List Vals), Issues s c i →
    tileStoreForm i = some (sw, k, tile) → c.lanes.map (valsOf s c i) = v :: r → v.a.getLsbD 63 = true →
    storeCauses c k v.a v.b ≠ [] →
    exec i s = .next (raise s c ((storeCauses c k v.a v.b).flatMap (fun x =>
      c.lanes.map (fun e => { ln := e.1, code := x.1, addr := x.2.1, detail := x.2.2 }))))) ∧
  (∀ w k ctl, tileControlBad w k ctl = false ↔ StoreControl w k ctl) ∧
  (∀ (s : State) (id : Nat) (m : Transfer) (tm : Team), find? s.moves id = some m → m.kind = 1 → m.toMem = false → m.fault = none →
    find? s.teams m.team = some tm → ((placed m).map Prod.fst).Nodup →
    ∃ t, exec (.tileTransferDone id) s = .next t ∧ TransferOver s t id m ∧
      t = { s with moves := t.moves, scratch := t.scratch, scErr := t.scErr, teams := t.teams } ∧
      (∀ x ∈ placed m, look 0 t.scratch (padAt tm x.1) = x.2) ∧
      (∀ p, (∀ x ∈ placed m, padAt tm x.1 ≠ p) → look 0 t.scratch p = look 0 s.scratch p) ∧
      (∀ d, d ∈ t.scErr ↔ d ∈ s.scErr ∧ ∀ x ∈ placed m, padAt tm x.1 / 8 ≠ d)) ∧
  (∀ (s : State) (id : Nat) (m : Transfer) (tm : Team) (ls : List (Nat × List (Nat × BitVec 32))), find? s.moves id = some m →
    m.kind = 3 ∨ m.kind = 4 → m.toMem = false → m.fault = none → find? s.teams m.team = some tm → ((placed m).map Prod.fst).Nodup →
    m.cells.map (fun e => (e.1, e.2.2)) = ls.map (fun e => (e.1, cellOf e.2)) → (∀ e ∈ ls, ∀ x ∈ e.2, x.1 < 8) →
    (∀ e ∈ ls, (e.2.map Prod.fst).Nodup) → (∀ x ∈ placed m, padAt tm x.1 / 8 ∉ s.scErr) →
    ∃ t, exec (.tileTransferDone id) s = .next t ∧ TransferOver s t id m ∧
      t = { s with moves := t.moves, scratch := t.scratch, scErr := t.scErr, teams := t.teams } ∧
      (∀ e ∈ ls, ∀ x ∈ e.2, Added m.kind (padWord s tm (e.1 + 4 * x.1)) x.2 (padWord t tm (e.1 + 4 * x.1))) ∧
      (∀ p, (∀ x ∈ placed m, padAt tm x.1 ≠ p) → look 0 t.scratch p = look 0 s.scratch p))

namespace Sys2Proof.Machine

/-! ### Special registers -/

/-- A word of fields, each a value at its lowest bit. -/
def fieldsOf (l : List (Nat × Nat)) : Word := BitVec.ofNat 64 ((l.map (fun f => f.1 * 2 ^ f.2)).sum)

/-- GRACE of a team (R153): nothing while no yield is pending. -/
def graceWord (now : Nat) : Option Grace → Word
  | none => 0
  | some g => fieldsOf [(1, 63), (g.cause, 60), (if g.nocan then 1 else 0, 59), (min ((g.until_ - now) / 20) 4095, 32), (min g.units 4095, 0)]

/-- The number of pipelines of a fused group as a power of two, 0 for any other stream (R225). -/
def widthField (c : Ctx) : Nat := if c.grp.mode = .fused then log2Width c.width else 0

/-- The register of a number as a lane reads it, GRACE apart (R225, R319, R450, R452, R453). -/
def registerValue (s : State) (c : Ctx) (e : Nat × Nat) : Nat → Option Word
  | 0x000 => some (fieldsOf [(widthField c, 32), ((maskOf (c.grp.lanes.map (fun p => p / 8 % 16))).toNat, 16), (c.sid % 8, 12),
      (c.st.alanes.toNat, 8), (c.st.adiv.toNat, 0)])
  | 0x001 => some (fieldsOf [(e.2 / 8 % 16, 52), (e.2 % 8, 48), (c.team.ident.toNat, 0)])
  | 0x002 => some (fieldsOf [(c.st.wbase.toNat, 0)])
  | 0x003 => some (fieldsOf [(c.st.stack.length, 0)])
  | 0x004 => some (fieldsOf [(c.st.csspill.toNat, 0)])
  | 0x005 => some (fieldsOf [(c.st.spilled, 0)])
  | 0x010 => some (fieldsOf [(c.st.fcsr.toNat, 0)])
  | 0x011 => some (laneOf s e.2).seed
  | 0x021 => some (fieldsOf [(c.st.contpc.toNat, 0)])
  | 0x022 => some (fieldsOf [(c.st.contlive.toNat, 0)])
  | 0x023 => some c.team.dseq
  | 0x024 => some c.team.budcap
  | 0x030 => some c.st.tprog
  | 0x031 => some c.st.mstream
  | 0x040 => some (readTrack s c.team 0)
  | 0x041 => some (readTrack s c.team 4)
  | 0x042 => some c.team.rtrack
  | 0x043 => some (fieldsOf [(c.team.rage.toNat, 0)])
  | 0x050 => some (fieldsOf [(c.team.domain, 0)])
  | 0x060 => some (laneOf s e.2).tcause
  | 0x061 => some (laneOf s e.2).tpc
  | 0x062 => some (laneOf s e.2).taddr
  | 0x063 => some (laneOf s e.2).tinfo
  | 0x064 => some (laneOf s e.2).tvec
  | 0x065 => some (laneOf s e.2).tsave
  | 0x066 => some (fieldsOf [((laneOf s e.2).priv.toNat, 0)])
  | 0x070 => some (clusterAt s c.team.cluster).lut0
  | 0x071 => some (clusterAt s c.team.cluster).lut1
  | _ => none

/-- Registers with a field that is RW at user privilege (R452). -/
def userRegister (r : Nat) : Bool := [0x000, 0x002, 0x010, 0x011, 0x021, 0x022, 0x030, 0x031, 0x042, 0x043].contains r

/-- Registers with a field that is RW at supervisor or firmware privilege alone (R452). -/
def superRegister (r : Nat) : Bool := [0x004, 0x005, 0x024, 0x061, 0x062, 0x064].contains r

/-- Registers of the table. -/
def isRegister (r : Nat) : Bool :=
  userRegister r || superRegister r || [0x001, 0x003, 0x020, 0x023, 0x040, 0x041, 0x050, 0x060, 0x063, 0x065, 0x066, 0x070, 0x071].contains r

/-- The privilege of a group's lanes (R320). -/
def levelOf (s : State) (c : Ctx) : Nat := (laneOf s c.first.2).priv.toNat

/-- The register may be written (R450). -/
def Writable (s : State) (c : Ctx) (r : Nat) : Prop := userRegister r = true ∨ (superRegister r = true ∧ levelOf s c ≠ 0)

/-- A group register of plain fields after an SWR (R214, R225, R373, R452, R453, R506, R508). -/
def groupWritten (r : Nat) (v : Word) (st : Stream) : Option Stream :=
  match r with
  | 0x000 => some { st with alanes := v.extractLsb' 8 4, adiv := v.extractLsb' 0 8 }
  | 0x004 => some { st with csspill := (v.extractLsb' 4 51) ++ (0#4) }
  | 0x010 => some { st with fcsr := (if 4 < (v.extractLsb' 5 3).toNat then 0#3 else v.extractLsb' 5 3) ++ v.extractLsb' 0 5 }
  | 0x021 => some { st with contpc := (v.extractLsb' 2 53) ++ (0#2) }
  | 0x022 => some { st with contlive := BitVec.ofNat 7 (min (v.toNat % 2 ^ 7) 96) }
  | 0x030 => some { st with tprog := fieldsOf [(v.toNat / 2 ^ 31 % 2, 31), (v.toNat % 2 ^ 16, 0)] }
  | 0x031 => some { st with mstream := fieldsOf [(v.toNat % 2 ^ 19, 0)] }
  | _ => none

/-- A lane register after an SWR (R319, R386). -/
def laneWritten (r : Nat) (v : Word) (la : Lane) : Option Lane :=
  match r with
  | 0x011 => some { la with seed := if v.toNat % 2 ^ 32 = 0 then 1 else fieldsOf [(v.toNat % 2 ^ 32, 0)] }
  | 0x061 => some { la with tpc := fieldsOf [(v.toNat % 2 ^ 55, 0)] }
  | 0x062 => some { la with taddr := v }
  | 0x064 => some { la with tvec := fieldsOf [(v.toNat / 2 ^ 40, 40), (v.toNat / 2 % 2, 1)] }
  | _ => none

/-- Remote elements or buffers of a team hold a write to RTRACK back (R454). -/
def TrackBusy (s : State) (t : Team) : Prop := outstanding s t ≠ 0 ∨ ∃ b ∈ s.fab.buffers, b.2.team = t.ident

end Sys2Proof.Machine

/-- SRD returns the register's fields to every active lane and never faults on a listed number (R225, R319, R450, R452, R453). -/
def Sys2Proof.Machine.SpecialRegisterReadsHold : Prop :=
  (∀ (s : State) (c : Ctx) (sw : Bool) (d : RegName) (r : BitVec 12), Issues s c (.srd sw d r) → isRegister r.toNat = true →
    ∃ t, exec (.srd sw d r) s = .next t ∧ OnlyComputes s t c (some d) false ∧ ∀ e ∈ c.lanes,
      (∀ w, registerValue s c e r.toNat = some w → Holds s t c (.srd sw d r) d e w) ∧
      (r = 0x020 → ∃ tm, find? t.teams c.st.team = some tm ∧ Holds s t c (.srd sw d r) d e (graceWord s.cycle tm.pend))) ∧
  (∀ (s : State) (c : Ctx) (sw : Bool) (d : RegName) (r : BitVec 12), isRegister r.toNat = false →
    (Issues s c (.srd sw d r) → exec (.srd sw d r) s = .next (illegal s c)) ∧
    (Issues s c (.swr sw d r) → exec (.swr sw d r) s = .next (illegal s c)))

/-- SWR writes the fields that the privilege may write and traps with code 0x02 when there is none: group and team registers from
the lowest active lane, lane registers from each; RTRACK waits while elements are outstanding; WBASE acts as the WBASE instruction
does; CSSPILLN moves stack entries (R202, R214, R319, R386, R423, R450, R452 to R454). -/
def Sys2Proof.Machine.SpecialRegisterWritesHold : Prop :=
  (∀ (s : State) (c : Ctx) (sw : Bool) (d : RegName) (r : BitVec 12), Issues s c (.swr sw d r) → isRegister r.toNat = true →
    ¬Writable s c r.toNat → exec (.swr sw d r) s = .next (raise s c (allLanes c 0x02 r.toNat))) ∧
  (∀ (s : State) (c : Ctx) (sw : Bool) (d : RegName) (r : BitVec 12) (v : Vals) (l : List Vals), Issues s c (.swr sw d r) →
    Writable s c r.toNat → c.lanes.map (valsOf s c (.swr sw d r)) = v :: l →
    (∀ st', groupWritten r.toNat v.d c.st = some st' →
      ∃ t, exec (.swr sw d r) s = .next t ∧ Does s c (.swr sw d r) sw (fun c' b u =>
        ∃ n, groupWritten r.toNat v.d c'.st = some n ∧ StreamSet b u c.sid n) t) ∧
    ((laneWritten r.toNat v.d (laneOf s v.pos)).isSome → (c.lanes.map Prod.snd).Nodup →
      ∃ t, exec (.swr sw d r) s = .next t ∧ Does s c (.swr sw d r) sw (fun _ b u => u = { b with lanes := u.lanes } ∧
        (∀ p, (∀ e ∈ c.lanes, e.2 ≠ p) → find? u.lanes p = find? b.lanes p) ∧
        ∀ e ∈ c.lanes, ∀ la, find? b.lanes e.2 = some la →
          find? u.lanes e.2 = laneWritten r.toNat (valsOf s c (.swr sw d r) e).d la) t) ∧
    (r = 0x024 → ∃ t, exec (.swr sw d r) s = .next t ∧ Does s c (.swr sw d r) sw (fun c' b u => TeamSet b u c.st.team
      { c'.team with budcap := fieldsOf [(v.d.toNat / 2 ^ 63, 63), (v.d.toNat / 2 ^ 32 % 2 ^ 10, 32), (v.d.toNat % 2 ^ 12, 0)] }) t) ∧
    (r = 0x042 → ∃ t, exec (.swr sw d r) s = .next t ∧ Does s c (.swr sw d r) sw (fun c' b u =>
      (TrackBusy b c'.team → TeamSet b u c.st.team { c'.team with rtrackTo := some (fieldsOf [(v.d.toNat / 2 ^ 5 % 2 ^ 50, 5)]) }) ∧
      (¬TrackBusy b c'.team → TeamSet b u c.st.team
        { c'.team with rtrack := fieldsOf [(v.d.toNat / 2 ^ 5 % 2 ^ 50, 5)], rtrackTo := none })) t) ∧
    (r = 0x043 → ∃ t, exec (.swr sw d r) s = .next t ∧ Does s c (.swr sw d r) sw (fun c' b u =>
      ∃ m, TeamSet b m c.st.team { c'.team with rage := v.d.extractLsb' 0 12 } ∧ u = { m with timers := u.timers } ∧
        List.Sublist b.timers u.timers ∧ ∀ k q, (k, q) ∈ b.fab.buffers → q.team = c.team.ident → ∃ n, (n, Instr.comaAgeLimit k) ∈ u.timers) t) ∧
    (r = 0x002 →
      ((∀ e ∈ c.lanes, v.d.toNat / 8 % 64 * 8 < (laneOf s e.2).alloc) →
        ∃ t, exec (.swr sw d r) s = .next t ∧ Does s c (.swr sw d r) sw (fun c' b u =>
          StreamSet b u c.sid { c'.st with wbase := BitVec.ofNat 9 (v.d.toNat / 8 % 64 * 8), region := none }) t) ∧
      ((∃ e ∈ c.lanes, (laneOf s e.2).alloc ≤ v.d.toNat / 8 % 64 * 8) → exec (.swr sw d r) s = .next (raise s c
        ((c.lanes.filter (fun e => decide ((laneOf s e.2).alloc ≤ v.d.toNat / 8 % 64 * 8))).map
          (fun e => { ln := e.1, code := 0x0E, addr := 0, detail := v.d.toNat / 8 % 64 * 8 }))))) ∧
    (r = 0x005 → v.d.getLsbD 63 = false → c.st.spilled + min (v.d.toNat % 2 ^ 16) c.st.stack.length ≤ 65535 →
      moveFault s c false (List.range (min (v.d.toNat % 2 ^ 16) c.st.stack.length)) = none →
      ∃ t st, exec (.swr sw d r) s = .next t ∧ find? t.streams c.sid = some st ∧ st.pc = c.st.pc + 4 ∧
        st.stack = c.st.stack.take (c.st.stack.length - min (v.d.toNat % 2 ^ 16) c.st.stack.length) ∧
        st.spilled = c.st.spilled + min (v.d.toNat % 2 ^ 16) c.st.stack.length ∧
        st.csspill = c.st.csspill + BitVec.ofNat 55 (16 * min (v.d.toNat % 2 ^ 16) c.st.stack.length)))

/-- Reads and writes of the special registers. -/
def Obligations.SpecialRegisters : Prop :=
  Sys2Proof.Machine.SpecialRegisterReadsHold ∧ Sys2Proof.Machine.SpecialRegisterWritesHold

namespace Sys2Proof.Machine

/-! ### Traps -/

/-- The class of a cause (R317). -/
def causeClass (code : Nat) : Nat :=
  match code with
  | 0x01 => 1
  | 0x02 => 2
  | 0x1B => 2
  | 0x0E => 6
  | 0x14 => 6
  | 0x15 => 6
  | 0x16 => 6
  | 0x0F => 5
  | 0x10 => 5
  | 0x11 => 5
  | 0x12 => 4
  | 0x13 => 4
  | 0x17 => 7
  | 0x18 => 7
  | 0x19 => 7
  | 0x1A => 8
  | _ => 3

/-- A group of one lane outside a handler, with no result outstanding and a save area in memory. -/
structure OneLane (s : State) (c : Ctx) (l pos : Nat) (la : Lane) : Prop where
  mode   : c.grp.mode ≠ .fused
  lanes  : lanesIn c.grp c.st.members = [(l, pos)]
  hart   : c.st.hart = none
  out    : c.st.handler = false
  pend   : c.st.pend = []
  lane   : find? s.lanes pos = some la
  stream : la.stream = c.sid
  ctx    : ctxOf s c.sid = some c
  area   : saveArea s c.team.part pos + 64 ≤ localLimit

/-- The handler that a lane's TVEC names, as it is found once the save area is written (R328, R366). -/
def HandlerAt (s : State) (c : Ctx) (pos : Nat) (la : Lane) (g : Geode) (pc : Word) : Prop :=
  handleOf (saveRegs s c.st pos (saveArea s c.team.part pos)) c.team.domain (la.tvec.toNat / 2 ^ 48) = some g ∧
    entryPc (saveRegs s c.st pos (saveArea s c.team.part pos)) g (la.tvec.toNat / 2 ^ 40 % 2 ^ 8) = some pc

/-- The lane enters its handler (R319, R326, R328): x0 to x7 stand in the save area, the trap registers tell the cause, privilege
is supervisor, and the pc is the handler's entry under its geode; the team's other groups are told to halt. -/
structure HandlerEntered (s t : State) (c : Ctx) (l pos : Nat) (la : Lane) (g : Geode) (pc tpc : Word) (f : LaneFault) : Prop where
  saved  : ∀ n, n < 8 → gather (homeByte t .clear) 8 (saveArea s c.team.part pos + 8 * n) = (look 0 s.regs (regPlace s c.st pos n)).toNat
  lane   : find? t.lanes pos = some { la with
    tcause := fieldsOf [(f.detail % 2 ^ 32, 32), (causeClass f.code, 16), (f.code, 0)], tpc := tpc &&& 0x7FFFFFFFFFFFFF, taddr := f.addr
    tinfo := fieldsOf [(la.priv.toNat, 59), (l, 55), (2 ^ l, 32)], priv := 1 }
  stream : find? t.streams c.sid = some { c.st with
    handler := true, geode := g, pc := pc, park := none, fetch := none, mask := maskOf [l] }
  team   : ∃ tm, find? t.teams c.st.team = some tm ∧ { tm with handlers := c.team.handlers } = c.team ∧ tm.handlers = c.team.handlers + 1
  halts  : c.team.handlers = 0 → ∀ k st, k ≠ c.sid → find? s.streams k = some st → st.team = c.st.team → st.group ≠ c.st.group →
    st.handler = false → st.haltIn = none → k < 49152 → ∃ n, n ≤ 16 ∧ find? t.streams k = some { st with haltIn := some n, skid := 0 }
  others : ∀ k st, k ≠ c.sid → find? s.streams k = some st → st.team ≠ c.st.team → find? t.streams k = some st

end Sys2Proof.Machine

/-- Taking a trap: a group of one lane enters its handler with the trap registers written (R319, R326, R328); a fused group
diverges, its lanes that raised nothing park at TPC (R329); inside a handler it is a double fault, which kills the team (R333);
while earlier results are outstanding the trap waits for them (R328). -/
def Obligations.TrapEntry : Prop :=
  (∀ (s : State) (c : Ctx) (l pos : Nat) (la : Lane) (g : Geode) (pc : Word) (f : LaneFault), OneLane s c l pos la →
    HandlerAt s c pos la g pc → f.ln = l → 1 ≤ f.code → f.code ≤ 0x1B → HandlerEntered s (raise s c [f]) c l pos la g pc c.st.pc f) ∧
  (∀ (s : State) (c : Ctx) (fs : List LaneFault), ctxOf s c.sid = some c → c.st.hart = none → c.st.handler = false → c.st.pend = [] →
    c.grp.mode = .fused → c.st.mask = c.st.members → c.st.waits = [] → Apart c →
    ∃ g, find? (raise s c fs).groups c.st.group = some g ∧ g.mode = .diverged ∧ (∃ x, g.trap = some x ∧ x.tpc = c.st.pc ∧
      x.saved = { c.st with park := none } ∧ ∀ l, l < 16 → (inMask x.faulting l = true ↔ inMask c.st.members l = true ∧ ∃ f ∈ fs, f.ln = l)) ∧
    ∀ e ∈ c.lanes, (∀ f ∈ fs, f.ln ≠ e.1) → ∃ st, find? (raise s c fs).streams e.2 = some st ∧ st.park = some .atTrap ∧ st.pc = c.st.pc ∧
      st.members = maskOf [e.1] ∧ st.stack = c.st.stack ∧ ∃ x, st.trapRec = some x) ∧
  (∀ (s : State) (c : Ctx) (fs : List LaneFault), ctxOf s c.sid = some c → c.st.hart = none → c.st.handler = true →
    TeamSet s (raise s c fs) c.st.team { c.team with doomed := some (c.team.doomed.getD (0x01, lowest fs)) }) ∧
  (∀ (s : State) (c : Ctx) (fs : List LaneFault), ctxOf s c.sid = some c → c.st.hart = none → c.st.handler = false → c.st.pend ≠ [] →
    raise s c fs = park s c.sid (.trap { faults := fs, tpc := c.st.pc, late := false, noroll := false, pcs := [] }))

/-- What raises a trap of itself: TRAP, once it is charged and with TPC the next instruction (R448); a word that is no instruction
(R318); a fetch outside the geode, from a page that may not be executed, or of poison (R246, R272). -/
def Sys2Proof.Machine.TrapsRaisedHold : Prop :=
  (∀ (s : State) (c : Ctx) (sw : Bool) (imm : BitVec 17) (l pos : Nat) (la : Lane) (g : Geode) (pc : Word), Issues s c (.trap sw imm) →
    OneLane s c l pos la → c.lanes = [(l, pos)] → HandlerAt s c pos la g pc →
    ∃ t, exec (.trap sw imm) s = .next t ∧ Sets s c (.trap sw imm) sw (fun c' b u =>
      HandlerEntered b u c' l pos la g pc (c.st.pc + 4) { ln := l, code := 0x1A, addr := 0, detail := imm.toNat }) t) ∧
  (∀ (s : State) (c : Ctx) (w : BitVec 32), s.issuer = some c.sid → ctxOf s c.sid = some c →
    ∃ t, exec (.illegalInstruction w) s = .next t ∧ t = raise s c ((if c.lanes = [] then [c.first] else c.lanes).map (fun e =>
      { ln := e.1, code := 0x01, addr := BitVec.ofNat 64 w.toNat, detail := 0 }))) ∧
  (∀ (s : State) (c : Ctx), s.issuer = some c.sid → ctxOf s c.sid = some c →
    ∃ t, exec .instructionFetchFault s = .next t ∧
      (c.st.pc.toNat < c.st.geode.base ∨ c.st.geode.base + c.st.geode.len < c.st.pc.toNat + 4 →
        t = raise s c ((if c.lanes = [] then [c.first] else c.lanes).map (fun e =>
          { ln := e.1, code := 0x0B, addr := c.st.pc, detail := 0 }))) ∧
      (∀ f, fetchWord s c = .error f → t = raise s c ((if c.lanes = [] then [c.first] else c.lanes).map (fun e =>
          { ln := e.1, code := f.code, addr := c.st.pc, detail := f.detail }))) ∧
      (∀ x, fetchWord s c = .ok x → t = s))

/-- RETT gives a lane of a group of its own x0 to x7 from the save area, its privilege, pc and geode back, and the last handler of
the team lifts the halt (R326, R332); it traps with code 0x02 at user privilege and with 0x1B outside a handler (R334). -/
def Sys2Proof.Machine.ReturnFromTrapHold : Prop :=
  (∀ (s : State) (c : Ctx) (sw : Bool) (l pos : Nat) (la : Lane), Issues s c (.rett sw) → lanesIn c.grp c.st.members = [(l, pos)] →
    c.lanes = [(l, pos)] → find? s.lanes pos = some la → la.priv ≠ 0 → c.st.handler = true → c.grp.trap = none → c.st.haltIn = none →
    saveArea s c.team.part pos + 64 ≤ localLimit → homeBad s .clear (saveArea s c.team.part pos) = false →
    ∃ t st, exec (.rett sw) s = .next t ∧ find? t.streams c.sid = some st ∧ st.handler = false ∧ st.geode = c.team.geode ∧
      st.pc = la.tpc &&& 0x7FFFFFFFFFFFFF ∧ st.stack = c.st.stack ∧ st.fcsr = c.st.fcsr ∧ st.k = c.st.k ∧
      find? t.lanes pos = some { la with priv := BitVec.ofNat 2 (la.tinfo.toNat / 2 ^ 59) } ∧
      (∀ n, n < 8 → look 0 t.regs (regPlace s c.st pos n) =
        BitVec.ofNat 64 (gather (homeByte s .clear) 8 (saveArea s c.team.part pos + 8 * n))) ∧
      (∀ p, (∀ n, n < 8 → p ≠ regPlace s c.st pos n) → look 0 t.regs p = look 0 s.regs p) ∧ t.mem = s.mem ∧
      (∃ tm, find? t.teams c.st.team = some tm ∧ tm.handlers = c.team.handlers - 1) ∧
      (c.team.handlers = 1 → ∀ k x, find? t.streams k = some x → x.team = c.st.team → x.haltIn = none)) ∧
  (∀ (s : State) (c : Ctx) (sw : Bool), Issues s c (.rett sw) → levelOf s c = 0 →
    exec (.rett sw) s = .next (raise s c (allLanes c 0x02 0x79))) ∧
  (∀ (s : State) (c : Ctx) (sw : Bool), Issues s c (.rett sw) → levelOf s c ≠ 0 → c.st.handler = false →
    exec (.rett sw) s = .next (raise s c (allLanes c 0x1B 0)))

/-- Traps that instructions raise and the return from a handler. -/
def Obligations.TrapsAndReturns : Prop :=
  Sys2Proof.Machine.TrapsRaisedHold ∧ Sys2Proof.Machine.ReturnFromTrapHold

namespace Sys2Proof.Machine

/-! ### Shootdowns -/

/-- A TLBI: its marker, the domain a lane names, if any, and the leaves that a lane's shootdown covers (R451). -/
def tlbiForm : Instr → Option (Bool × (Vals → Option Nat) × (State → Ctx → Vals → TlbEntry → Prop))
  | .tlbiAddr sw _ _ => some (sw, fun v => some (v.b.toNat % 2 ^ 12), fun _ _ v e => e.dom = v.b.toNat % 2 ^ 12 ∧
      e.base = v.a.toNat / 2 ^ 16 % 2 ^ 39 * 2 ^ 16 / 2 ^ pageBits e.level * 2 ^ pageBits e.level)
  | .tlbiDom sw _ => some (sw, fun v => some (v.a.toNat % 2 ^ 12), fun _ _ v e => e.dom = v.a.toNat % 2 ^ 12)
  | .tlbiAll sw => some (sw, fun _ => none, fun s c _ e => ∀ n p, c.team.part = some n → find? s.host.parts n = some p →
      partHasDomain p.1 e.dom = true)
  | _ => none

/-- The domain lies in the team's partition, or the team in none (R451). -/
def MayName (s : State) (c : Ctx) (d : Option Nat) : Prop :=
  ∀ n m, d = some m → c.team.part = some n → ∃ p, find? s.host.parts n = some p ∧ partHasDomain p.1 m = true

/-- A shootdown waits for every transfer, packet and buffer that was translated under a leaf it covers (R258). -/
def Marked (s : State) (cov : TlbEntry → Prop) (x : Shoot) : Prop :=
  (∀ k, k ∈ x.moves ↔ ∃ m, (k, m) ∈ s.moves ∧ ∃ e ∈ m.leaves, cov e) ∧ (∀ n, n ∈ x.tags ↔ ∃ f ∈ s.fab.flights, f.tag = n ∧ ∃ e ∈ f.leaves, cov e) ∧
    ∀ k, k ∈ x.bufs ↔ ∃ b, (k, b) ∈ s.fab.buffers ∧ ∃ e ∈ b.leaves, cov e

end Sys2Proof.Machine

/-- TLBI drops what it covers from every TLB, starts one shootdown for each active lane, which marks what was translated under a leaf
it covers, and parks the group until they have completed (R258, R451); it traps with code 0x02 at user privilege. SHOOTDOWN_DONE completes a shootdown when all that it marked
has been accepted: from then on every stream fetches its code anew (R261), and a group whose last shootdown it was goes on. -/
def Obligations.Shootdowns : Prop :=
  (∀ (s : State) (c : Ctx) (i : Instr) (sw : Bool) (dom : Vals → Option Nat) (cov : State → Ctx → Vals → TlbEntry → Prop),
    Issues s c i → tlbiForm i = some (sw, dom, cov) → levelOf s c ≠ 0 → c.lanes ≠ [] →
    (∀ n, c.team.part = some n → ∃ p, find? s.host.parts n = some p) →
    (∀ e ∈ c.lanes, MayName s c (dom (valsOf s c i e))) →
    ∃ t st ids, exec i s = .next t ∧ find? t.streams c.sid = some st ∧ st.park = some (.shootdown ids sw) ∧ st.pc = c.st.pc ∧
      ids.length = c.lanes.length ∧ (∀ p ∈ ids.zip c.lanes, ∃ x, find? t.ctl.shoots p.1 = some x ∧ Marked s (cov s c (valsOf s c i p.2)) x) ∧
      (∀ k e, e ∈ look [] t.ctl.tlbs k ↔ e ∈ look [] s.ctl.tlbs k ∧ ∀ x ∈ c.lanes, ¬cov s c (valsOf s c i x) e) ∧
      t.mem = s.mem ∧ t.regs = s.regs) ∧
  (∀ (s : State) (c : Ctx) (i : Instr) (sw : Bool) (dom : Vals → Option Nat) (cov : State → Ctx → Vals → TlbEntry → Prop),
    Issues s c i → tlbiForm i = some (sw, dom, cov) → levelOf s c = 0 → exec i s = .next (raise s c (allLanes c 0x02 0x7C))) ∧
  (∀ (s : State) (id : Nat) (x : Shoot), find? s.ctl.shoots id = some x →
    ((∃ m ∈ x.moves, (find? s.moves m).isSome) ∨ (∃ f ∈ s.fab.flights, f.tag ∈ x.tags) ∨ x.bufs ≠ [] →
      exec (.shootdownDone id) s = .next s) ∧
    ((∀ m ∈ x.moves, find? s.moves m = none) → (∀ f ∈ s.fab.flights, f.tag ∉ x.tags) → x.bufs = [] →
      ∃ t, exec (.shootdownDone id) s = .next t ∧ t = { s with ctl := t.ctl, streams := t.streams } ∧
        t.ctl = { s.ctl with shoots := t.ctl.shoots } ∧ find? t.ctl.shoots id = none ∧
        (∀ k, k ≠ id → find? t.ctl.shoots k = find? s.ctl.shoots k) ∧
        ∀ k st ids sw, find? s.streams k = some st → st.park = some (.shootdown ids sw) →
          ((∀ n ∈ ids, n ≠ id → find? s.ctl.shoots n = none) → find? t.streams k = some
            { st with pc := st.pc + 4, park := if sw = true ∧ st.pend ≠ [] then some .results else none, fetch := none }) ∧
          ((∃ n ∈ ids, n ≠ id ∧ (find? s.ctl.shoots n).isSome) → find? t.streams k = some { st with fetch := none })))

namespace Sys2Proof.Machine

/-- The pc that a late fault's trap returns to: the region's, or the next instruction's when there is no region entry (R324). -/
def lateReturn (c : Ctx) : Word := match c.st.region with | some r => r.pc | none => c.st.pc

end Sys2Proof.Machine

/-- LATE_FAULT_DELIVERY: with nothing due at the stream nothing happens; inside a handler it is a double fault with the lowest code;
otherwise the lane of a group of its own rolls back to its region entry, when it has one, and enters its handler with LATE, NOROLL
and IOFF told in TINFO (R319, R324, R333). -/
def Obligations.LateFaults : Prop :=
  (∀ (s : State) (sid : Nat) (c : Ctx), ctxOf s sid = some c → (∀ f ∈ c.team.late, (laneOf s f.lane).stream ≠ sid) →
    exec (.lateFaultDelivery sid) s = .next s) ∧
  (∀ (s : State) (sid : Nat) (c : Ctx) (f : LateFault), ctxOf s sid = some c → c.team.late = [f] → (laneOf s f.lane).stream = sid →
    c.st.handler = true → c.st.park ≠ some .tmma → c.st.park ≠ some .atTrap → sid < 49152 → f.code < 256 →
    ∃ t, exec (.lateFaultDelivery sid) s = .next t ∧
      TeamSet s t c.st.team { c.team with late := [], doomed := some (c.team.doomed.getD (0x01, f.code)) }) ∧
  (∀ (s : State) (sid : Nat) (c : Ctx) (l pos : Nat) (la : Lane) (g : Geode) (pc : Word) (f : LateFault), c.sid = sid →
    OneLane s c l pos la → HandlerAt s c pos la g pc → c.team.late = [f] → f.lane = pos → 1 ≤ f.code → f.code ≤ 0x1B →
    c.st.park ≠ some .tmma → c.st.park ≠ some .atTrap → sid < 49152 → (∀ r, c.st.region = some r → r.depth ≤ depthIn c.st) →
    ∃ t st, exec (.lateFaultDelivery sid) s = .next t ∧
      find? t.lanes pos = some { la with
        tcause := fieldsOf [(f.detail % 2 ^ 32, 32), (causeClass f.code, 16), (f.code, 0)], tpc := lateReturn c &&& 0x7FFFFFFFFFFFFF
        taddr := f.addr, priv := 1
        tinfo := fieldsOf [(1, 63), (if c.st.region = none then 1 else 0, 62), (la.priv.toNat, 59), (l, 55), (2 ^ l, 32),
          (min (f.pc.toNat - (lateReturn c).toNat) (2 ^ 32 - 1), 0)] } ∧
      find? t.streams sid = some st ∧ st.handler = true ∧ st.pc = pc ∧ st.geode = g ∧
      (∀ r, c.st.region = some r → st.stack = c.st.stack.drop (depthIn c.st - r.depth)) ∧ (c.st.region = none → st.stack = c.st.stack) ∧
      (∃ tm, find? t.teams c.st.team = some tm ∧ tm.late = [] ∧ tm.handlers = c.team.handlers + 1))

namespace Sys2Proof.Machine

/-! ### The package -/

/-- A machine as a cold reset leaves it, but for its package, time, the surroundings' choices and what the host was sent. -/
def ColdBut (s t : State) (p : Package) : Prop :=
  t = { State.reset with cycle := s.cycle, time := s.time, schedule := s.schedule, free := s.free, seq := s.seq, pkg := p, host := { State.reset.host with out := s.host.out } }

/-- Only the package changes. -/
def PackageOnly (s t : State) (p : Package) : Prop := t = { s with pkg := p }

/-- A public key that a one-time fuse of its algorithm holds unrevoked (R30). -/
def KeyGood (algorithm : Nat) (key : List Byte) : Prop :=
  ∃ k, k < 2 ∧ sha384 key = Config.fusedHash algorithm k ∧ Config.keyRevoked algorithm k = false

/-- Both keys of an image are good. -/
def KeysGood (i : BootImage) : Prop := KeyGood 0 i.edKey ∧ KeyGood 1 i.mlKey

/-- The minimum security version: as fused, or as firmware has raised it since (R30). -/
def leastVersion (p : Package) : Nat := max Config.fusedMinimum.toNat p.raised.toNat

/-- What the checks of an image find first, in the order of R33. -/
def imageCause (p : Package) (b : List Byte) (k : Nat) : Prop :=
  (Config.bootImage b = none ∧ k = 0x01) ∨ ∃ i, Config.bootImage b = some i ∧
    ((¬KeysGood i ∧ k = 0x09) ∨ (KeysGood i ∧ sha384 i.body ≠ i.digest ∧ k = 0x0A) ∨
     (KeysGood i ∧ sha384 i.body = i.digest ∧ ∃ ed ml, ed = Config.verifies 0 i.edKey i.signed i.edSig ∧ ml = Config.verifies 1 i.mlKey i.signed i.mlSig ∧
      ((ed = false ∧ ml = false ∧ k = 0x04) ∨ (ed = false ∧ ml = true ∧ k = 0x02) ∨ (ed = true ∧ ml = false ∧ k = 0x03) ∨
       (ed = true ∧ ml = true ∧ i.svn.toNat < leastVersion p ∧ k = 0x05))))

/-- An image passes every check of R30. -/
def imagePasses (p : Package) (b : List Byte) (i : BootImage) : Prop := Config.bootImage b = some i ∧ ∀ k, ¬imageCause p b k

/-- The minimum security version after firmware has set one: it never falls (R30). -/
def raisedTo (p : Package) (v : BitVec 16) : BitVec 16 := if p.raised.toNat < v.toNat then v else p.raised

/-- A UCIe edge that R15 gives up, or whose dies have no version in common (R29). -/
def EdgeFailed (e : EdgeReport) : Prop := 2 < e.bad ∨ min e.maxA e.maxB < max e.minA e.minB

/-- A failure enters recovery: STAGE 0xFF, FAIL the code, and only port 0 of PCIe stays up (R28, R31). -/
def InRecovery (p q : Package) (code : Nat) : Prop :=
  q.stage = 0xFF ∧ q.fail = BitVec.ofNat 8 code ∧ q.pcieUp = p.pcieUp &&& 1 ∧ find? q.links 1 = none ∧ q.recBusy = false ∧ q.recStatus = 0 ∧
    q.steps = p.steps ∧ q.meas0 = p.meas0 ∧ q.meas1 = p.meas1 ∧ q.meas2 = p.meas2

/-- The bring-up steps that run one after another are done in order up to `n`; step 6, the training of the PCIe ports, runs beside
them (R27). -/
def DoneBefore (p : Package) (n : Nat) : Prop :=
  n ∈ [1, 2, 3, 4, 5, 7, 8, 9] ∧ n ∉ p.steps ∧ ∀ k ∈ [1, 2, 3, 4, 5, 7, 8, 9], k < n → k ∈ p.steps

/-- What supply and reset events do (R17, R23, R26, R82). -/
def PowerEvent (s t : State) : Instr → Prop
  | .powerUp => (s.pkg.powered = true ∨ s.pkg.tripped = true → t = s) ∧
      (s.pkg.powered = false → s.pkg.tripped = false → ∃ p, ColdBut s t p ∧ p.powered = true ∧ p.steps = [] ∧ p.stage = 0 ∧
        p.fail = (if s.pkg.railFault then 0x08 else 0) ∧ p.wrst = 0 ∧ p.meas0 = 0 ∧ p.meas1 = 0 ∧ p.meas2 = 0 ∧ p.floor = 0 ∧ p.raised = s.pkg.raised)
  | .inputRemoval => ∃ p, ColdBut s t p ∧ p.powered = false ∧ p.inputOk = false ∧ p.tripped = false ∧ p.trip = s.pkg.trip ∧ p.raised = s.pkg.raised
  | .railFault => (s.pkg.powered = false → t = s) ∧
      (s.pkg.powered = true → ∃ p, ColdBut s t p ∧ p.powered = false ∧ p.railFault = true ∧ p.trip = s.pkg.trip ∧ p.raised = s.pkg.raised)
  | .warmReset => (s.pkg.powered = false → t = s) ∧
      (s.pkg.powered = true → ∃ p, (∃ c, ColdBut s { t with ctl := c } p) ∧ t.ctl = { State.reset.ctl with ueCount := s.ctl.ueCount } ∧
        p.powered = true ∧ (∀ n, n ∈ p.steps ↔ n ∈ s.pkg.steps ∧ n < 4) ∧ p.stage = (if 2 ∈ s.pkg.steps then 1 else 0) ∧
        p.wrst.toNat = min 255 (s.pkg.wrst.toNat + 1) ∧ p.meas0 = s.pkg.meas0 ∧ p.meas1 = s.pkg.meas1 ∧ p.meas2 = 0 ∧
        p.fail = s.pkg.fail ∧ p.ucideg = s.pkg.ucideg ∧ p.trip = s.pkg.trip ∧ p.raised = s.pkg.raised)
  | .perstNDeassert => t.pkg.perst = true ∧ (s.pkg.powered = false → t = { s with pkg := { s.pkg with perst := true } }) ∧
      (s.pkg.powered = true → ∃ u, exec .warmReset s = .next u ∧ t = { u with pkg := { u.pkg with perst := true } })
  | _ => False

/-- Events of supply and reset. -/
def isPowerEvent : Instr → Bool
  | .powerUp => true
  | .inputRemoval => true
  | .railFault => true
  | .warmReset => true
  | .perstNDeassert => true
  | _ => false

end Sys2Proof.Machine

/-- Power up, input removal, rail faults and resets leave what R17, R23, R26 and R82 say: a machine as after a cold reset, or what a
warm reset keeps of the package. That TRIP and FAIL stay over what R24 and R26 do not name is the model's choice (logs 36 and 38). -/
def Sys2Proof.Machine.PowerAndResetHold : Prop := ∀ (s : State) (e : Instr), isPowerEvent e = true → ∃ t, exec e s = .next t ∧ PowerEvent s t e

/-- Bring-up (R15, R27 to R31): a step ends only when powered and outside recovery, each after those before it; the loader and the
firmware run only when their images pass every check and are then measured; a failure records its code and enters recovery; firmware may
raise the minimum security version and never lowers it. -/
def Sys2Proof.Machine.BringUpHold : Prop :=
  ∀ (s : State) (edges : List EdgeReport) (phy : Bool) (b : List Byte) (v : BitVec 16), ∃ t, exec (.bringupStepDone edges phy { image := b, raise := v }) s = .next t ∧
    (s.pkg.powered = false ∨ s.pkg.stage = 0xFF → t = s) ∧
    (s.pkg.powered = true → s.pkg.stage ≠ 0xFF →
      (DoneBefore s.pkg 1 → PackageOnly s t { s.pkg with steps := s.pkg.steps ++ [1], meas0 := extendMeas s.pkg.meas0 Config.romDigest }) ∧
      (DoneBefore s.pkg 2 → ∀ img, imagePasses s.pkg b img → PackageOnly s t { s.pkg with
        steps := s.pkg.steps ++ [2], stage := 1, meas1 := extendMeas s.pkg.meas1 img.digest }) ∧
      (DoneBefore s.pkg 2 ∨ DoneBefore s.pkg 4 → ∀ k, imageCause s.pkg b k → ∃ p, PackageOnly s t p ∧ InRecovery s.pkg p k) ∧
      (DoneBefore s.pkg 3 → (∀ e ∈ edges, ¬EdgeFailed e) → PackageOnly s t { s.pkg with
        steps := s.pkg.steps ++ [3], ucideg := BitVec.ofNat 8 (min 255 (edges.map EdgeReport.bad).sum) }) ∧
      (DoneBefore s.pkg 3 → (∃ e ∈ edges, EdgeFailed e) → ∃ p, PackageOnly s t p ∧ InRecovery s.pkg p 0x06) ∧
      (DoneBefore s.pkg 4 → ∀ img, imagePasses s.pkg b img → PackageOnly s t { s.pkg with
        steps := s.pkg.steps ++ [4], stage := 2, svn := img.svn, meas2 := extendMeas s.pkg.meas2 img.digest }) ∧
      (DoneBefore s.pkg 5 → phy = false → ∃ p, PackageOnly s t p ∧ InRecovery s.pkg p 0x07) ∧
      (DoneBefore s.pkg 5 → phy = true → t.mem = [] ∧ t.poison = [] ∧ t.sealed = [] ∧ t.pkg = { s.pkg with steps := s.pkg.steps ++ [5], raised := raisedTo s.pkg v }) ∧
      (DoneBefore s.pkg 7 → (60 ∈ s.pkg.steps ∧ 61 ∈ s.pkg.steps ∧ ∀ n, n < 12 → (portOf s n).state = 0 ∨ (portOf s n).state = 5) →
        PackageOnly s t { s.pkg with steps := s.pkg.steps ++ [7], raised := raisedTo s.pkg v }) ∧
      (DoneBefore s.pkg 8 → t = { s with fab := { s.fab with routes := [] }, pkg := { s.pkg with steps := s.pkg.steps ++ [8], stage := 3, raised := raisedTo s.pkg v } }) ∧
      (DoneBefore s.pkg 9 → t.pkg = { s.pkg with steps := s.pkg.steps ++ [9], raised := raisedTo s.pkg v } ∧
        ∀ c, c < 384 → find? t.clusters c = some { look .reset s.clusters c with released := true, pushes := 0 }))

namespace Sys2Proof.Machine

/-- PCIe training may end on a port: PERST_N is deasserted, and steps 1 and 2 are done; in recovery port 0 alone trains (R27, R28). -/
def MayTrain (p : Package) (port : Nat) : Prop :=
  p.powered = true ∧ p.perst = true ∧
    ((p.stage = 0xFF ∧ port = 0) ∨ (p.stage ≠ 0xFF ∧ port < 2 ∧ 1 ∈ p.steps ∧ 2 ∈ p.steps))

/-- A trained link that R77 allows and whose partner shares version 1 (R29, R78). -/
def LinkGood (l : PcieLink) : Prop :=
  l.lanes ∈ [1, 4, 8, 16] ∧ l.rate ≤ 5 ∧ (l.rate = 5 → l.flit = true) ∧ l.minv ≤ 1 ∧ 1 ≤ l.maxv

/-- A port is up. -/
def PortUp (s : State) (port : Nat) : Prop := s.pkg.powered = true ∧ port < 2 ∧ s.pkg.pcieUp.getLsbD port = true

end Sys2Proof.Machine

/-- Training of the PCIe ports with the Terwell version and capabilities, configuration requests before and after the firmware runs, the
size of BAR4, and recovery from the image in its window (R27 to R29, R31, R32, R77, R78). What a LEN above 2^26 and a recovery after step 4
come to is the model's choice (logs 35 and 40), as is the layout of a configuration answer (log 42). -/
def Sys2Proof.Machine.PcieAndRecoveryHold : Prop :=
  (∀ (s : State) (port : Nat) (o : Option PcieLink), ∃ t, exec (.pcieTrainingDone port o) s = .next t ∧
    (¬MayTrain s.pkg port → t = s) ∧
    (MayTrain s.pkg port →
      (t.pkg.pcieUp.getLsbD port = true ↔ ∃ l, o = some l ∧ LinkGood l) ∧ t.pkg.pcieUp.getLsbD (1 - port) = s.pkg.pcieUp.getLsbD (1 - port) ∧
      (∀ l, o = some l → LinkGood l → find? t.pkg.links port = some { l with minv := 1, maxv := 1, caps := l.caps &&& 0xF }) ∧
      (∀ n, n ∈ t.pkg.steps ↔ n ∈ s.pkg.steps ∨ n = 60 + port) ∧ t.pkg.stage = s.pkg.stage ∧ t.mem = s.mem ∧ t.host = s.host)) ∧
  (∀ (s : State) (port : Nat) (ask : ConfigAsk), ∃ t, exec (.pcieConfigRequest { port := port, ask := ask }) s = .next t ∧
    (¬PortUp s port → t = s) ∧
    (PortUp s port → s.pkg.stage ≠ 3 → s.pkg.stage ≠ 0xFF → t = { s with host := { s.host with out := s.host.out ++ [.retry port] } }) ∧
    (PortUp s port → s.pkg.stage = 3 ∨ s.pkg.stage = 0xFF → ∃ ws, t = { s with host := { s.host with out := s.host.out ++ [.config port ws], bar4 := t.host.bar4 } } ∧
      (ask = .dvsec → ∃ r, ws = [1, 1, 0xF] ++ r) ∧
      (∀ n, ask = .setBarSize n → ∀ k, look 40 t.host.bar4 k = if k = port ∧ 36 ≤ n ∧ n ≤ 40 then n else look 40 s.host.bar4 k) ∧
      ((∀ n, ask ≠ .setBarSize n) → t.host.bar4 = s.host.bar4))) ∧
  (∀ (s : State) (len : BitVec 27), ∃ t, exec (.recoveryRun len) s = .next t ∧
    (s.pkg.powered = false ∨ s.pkg.stage ≠ 0xFF ∨ s.pkg.recBusy = true → t = s) ∧
    (s.pkg.powered = true → s.pkg.stage = 0xFF → s.pkg.recBusy = false →
      (0 < len.toNat → len.toNat ≤ 2 ^ 26 → PackageOnly s t { s.pkg with recLen := len, recBusy := true }) ∧
      (len = 0 ∨ 2 ^ 26 < len.toNat → PackageOnly s t { s.pkg with recLen := len, recStatus := 3, fail := 0x01 }))) ∧
  (∀ (s : State) (v : BitVec 16) (b : List Byte), b = (List.range s.pkg.recLen.toNat).map (fun a => look 0 s.pkg.window a) →
    ∃ t, exec (.recoveryCheckDone v) s = .next t ∧ (s.pkg.recBusy = false → t = s) ∧
    (s.pkg.recBusy = true →
      (∀ k, imageCause s.pkg b k → PackageOnly s t { s.pkg with recBusy := false, recStatus := 3, fail := BitVec.ofNat 8 k }) ∧
      (∀ img, imagePasses s.pkg b img → s.pkg.recoverBy = 0 → PackageOnly s t { s.pkg with
        recBusy := false, recStatus := 2, stage := 1, meas1 := extendMeas s.pkg.meas1 img.digest
        steps := [1, 2] ++ s.pkg.steps.filter (fun n => decide (n = 60)) }) ∧
      (∀ img, imagePasses s.pkg b img → s.pkg.recoverBy ≠ 0 → PackageOnly s t { s.pkg with
        recBusy := false, recStatus := 2, stage := 2, svn := img.svn, meas2 := extendMeas s.pkg.meas2 img.digest, raised := raisedTo s.pkg v
        steps := [1, 2, 3, 4] ++ s.pkg.steps.filter (fun n => decide (n = 60)) })))

/-- Power, resets, the PCIe ports and recovery. -/
def Obligations.ResetsAndRecovery : Prop :=
  Sys2Proof.Machine.PowerAndResetHold ∧ Sys2Proof.Machine.PcieAndRecoveryHold

namespace Sys2Proof.Machine

/-- The entry temperature of a throttle state (R21, R25). -/
def entryDegrees (p : Package) (k : Nat) : Nat :=
  match k with
  | 1 => p.ent1.toNat
  | 2 => p.ent2.toNat
  | _ => p.ent3.toNat

/-- Since when the hottest junction has stayed 3 °C below it. -/
def coolSince (p : Package) (k : Nat) : Option Nat :=
  match k with
  | 1 => p.cool1
  | 2 => p.cool2
  | _ => p.cool3

/-- A state's request may ease: 10 ms have passed (R21). -/
def MayEase (p : Package) (now k : Nat) : Prop := ∃ c, coolSince p k = some c ∧ c + tenMs ≤ now

/-- The request that stands out of `m`: the deepest that may not ease. -/
def Stands (p : Package) (now m n : Nat) : Prop := n ≤ m ∧ (n ≠ 0 → ¬MayEase p now n) ∧ ∀ k, n < k → k ≤ m → MayEase p now k

end Sys2Proof.Machine

/-- A sample of the junctions trips the module at 108 °C; below that the thermal request rises at once to the deepest state whose
entry temperature is exceeded and eases only after 10 ms at 3 °C below; the power request moves by one step at a window's or an
interval's end; the deepest request comes into force with a sample; writes to THRCTL and THRLIM (R19, R21, R23 to R25). -/
def Sys2Proof.Machine.ThrottleStatesHold : Prop :=
  (∀ (s : State) (temps : List Nat) (m : Nat), m = temps.foldl max 0 → ∃ t, exec (.thermalSample temps) s = .next t ∧
    (s.pkg.powered = false → t = s) ∧
    (s.pkg.powered = true → 108 ≤ m → ∃ p, ColdBut s t p ∧ p.powered = false ∧ p.tripped = true ∧ p.trip = true) ∧
    (s.pkg.powered = true → m < 108 → { t with alarms := s.alarms } = { s with pkg := { s.pkg with
        tjmax := BitVec.ofNat 8 m, cool1 := t.pkg.cool1, cool2 := t.pkg.cool2, cool3 := t.pkg.cool3, tReq := t.pkg.tReq, inForce := t.pkg.inForce } } ∧
      t.pkg.inForce.toNat = max t.pkg.tReq.toNat (max s.pkg.pReq.toNat s.pkg.floor.toNat) ∧
      (∀ k, 1 ≤ k → k ≤ 3 → coolSince t.pkg k =
        if m + 3 ≤ entryDegrees s.pkg k then (match coolSince s.pkg k with | some c => some c | none => some s.time) else none) ∧
      ∃ h, h ≤ 3 ∧ (∀ k, 1 ≤ k → k ≤ 3 → entryDegrees s.pkg k < m → k ≤ h) ∧ (h ≠ 0 → entryDegrees s.pkg h < m) ∧
        Stands t.pkg s.time (max s.pkg.tReq.toNat h) t.pkg.tReq.toNat)) ∧
  (∀ s : State, ∃ t, exec .thermalEaseExpiry s = .next t ∧ PackageOnly s t { s.pkg with tReq := t.pkg.tReq } ∧
    Stands s.pkg s.time s.pkg.tReq.toNat t.pkg.tReq.toNat) ∧
  (∀ (s : State) (w : Nat), ∃ t, exec (.powerWindowEnd w) s = .next t ∧ PackageOnly s t { s.pkg with
    pwr := BitVec.ofNat 12 (min w 4095), pReq := BitVec.ofNat 2 (if 3600 < w then min 3 (s.pkg.pReq.toNat + 1) else s.pkg.pReq.toNat)
    lowPower := s.pkg.lowPower && decide (w ≤ 3400) }) ∧
  (∀ s : State, ∃ t, exec .powerLowIntervalEnd s = .next t ∧ PackageOnly s t { s.pkg with
    pReq := BitVec.ofNat 2 (if s.pkg.lowPower then s.pkg.pReq.toNat - 1 else s.pkg.pReq.toNat), lowPower := true }) ∧
  (∀ (s : State) (v : Word), ∃ t, exec (.thrctlWrite v) s = .next t ∧ PackageOnly s t { s.pkg with
    floor := v.extractLsb' 4 2, trip := s.pkg.trip && !v.getLsbD 32 }) ∧
  (∀ (s : State) (v : Word), ∃ t e1 e2 e3, exec (.thrlimWrite v) s = .next t ∧ e3 = min (v.toNat / 2 ^ 16 % 2 ^ 8) 103 ∧
    e2 = min (min (v.toNat / 2 ^ 8 % 2 ^ 8) 100) e3 ∧ e1 = min (min (v.toNat % 2 ^ 8) 95) e2 ∧
    PackageOnly s t { s.pkg with ent1 := BitVec.ofNat 8 e1, ent2 := BitVec.ofNat 8 e2, ent3 := BitVec.ofNat 8 e3 })

/-- Bring-up and the throttle states. -/
def Obligations.BringUpAndThrottle : Prop :=
  Sys2Proof.Machine.BringUpHold ∧ Sys2Proof.Machine.ThrottleStatesHold

namespace Sys2Proof.Machine

/-! ### Ports of the Yelca Link -/

/-- Port `n` becomes `p`; alarms are set or events become due; nothing else changes. -/
structure PortSet (s t : State) (n : Nat) (p : Port) (ts : List (Nat × Instr)) (ws : List Instr) : Prop where
  rest   : t = { s with fab := t.fab, alarms := s.alarms ++ ts, work := s.work ++ ws }
  fab    : t.fab = { s.fab with ports := t.fab.ports }
  port   : portOf t n = p
  others : ∀ k, k ≠ n → portOf t k = portOf s k

/-- A port in DOWN: all it held is lost (R35, R36). -/
def downPort (p : Port) : Port := { Port.reset with enable := p.enable, malf := p.malf, packets := p.packets, tx := p.tx }

/-- Port `n` goes to DOWN as `q`; a multicast line whose copy it had not sent counts as lost on it (R75). -/
def GoesDown (s t : State) (n : Nat) (q : Port) : Prop :=
  portOf t n = q ∧ Sends s t ∧ ((∀ k ∈ (portOf s n).egress0, k.ptype ≠ 5) → PortSet s t n q [] []) ∧
    ∀ k ∈ (portOf s n).egress0, k.ptype = 5 → ∀ c, castOf t k.dst.toNat k.tag.toNat = some c → n ∉ c.wait

/-- Good lanes hold a set of `w` lanes that the width may use, 4 and 2 under a bit each (R34). -/
def LanesFor (good : BitVec 8) (w4 w2 : Bool) (w : Nat) : Prop :=
  (w = 8 ∧ good = 0xFF) ∨
  (w = 4 ∧ w4 = true ∧ (good &&& 0x0F = 0x0F ∨ good &&& 0xF0 = 0xF0)) ∨
  (w = 2 ∧ w2 = true ∧ (good &&& 0x03 = 0x03 ∨ good &&& 0x0C = 0x0C ∨ good &&& 0x30 = 0x30 ∨ good &&& 0xC0 = 0xC0))

/-- The widest such set. -/
def WidestOf (good : BitVec 8) (w4 w2 : Bool) (w : Nat) : Prop := LanesFor good w4 w2 w ∧ ∀ k, LanesFor good w4 w2 k → k ≤ w

/-- A width and rate that equalisation left open to a port: SPEED, the good lanes at that rate, and the rate in units of
56 Gb/s (R35). -/
def RateOf (p : Port) (w speed : Nat) (good : BitVec 8) (rate : Nat) : Prop :=
  ((speed = 0 ∧ good = p.good224 ∧ rate = 4) ∨ (speed = 1 ∧ p.bits.getLsbD 2 = true ∧ good = p.good112 ∧ rate = 2) ∨
    (speed = 2 ∧ p.bits.getLsbD 3 = true ∧ good = p.good56 ∧ rate = 1)) ∧ WidestOf good (p.bits.getLsbD 0) (p.bits.getLsbD 1) w

/-- Lanes of a WREQ value (R44). -/
def requestedWidth (w : BitVec 2) : Nat := if w = 1 then 8 else if w = 2 then 4 else 2

/-- The capability bits of an agreement (R29, R37). -/
def agreedCaps (v : Nat) (cap : Word) : Nat := 0x1FF &&& cap.toNat &&& (if 2 ≤ v then 0x1FF else 0x0FB)

/-- They permit the width and rate in use (R35). -/
def Permits (c : Nat) (p : Port) : Prop :=
  (p.width = 4 → c.testBit 4 = true) ∧ (p.width = 2 → c.testBit 5 = true) ∧ (p.speed = 1 → c.testBit 6 = true) ∧
    (p.speed = 2 → c.testBit 7 = true)

/-- Flits of the packet being received are still missing (R42). -/
def Partial (p : Port) : Prop :=
  p.rx ≠ [] ∧ ∃ len, pkBodyLength (parsePacket p.rx) = some len ∧
    ((parsePacket p.rx).body.length < pkKnown (parsePacket p.rx) ∨ (parsePacket p.rx).body.length < len)

/-- No whole packet waits to be handed on. -/
def NoneWhole (p : Port) : Prop := p.rx = [] ∨ Partial p

/-- A port as it stands after a packet in progress is forgotten (R45). -/
def packetForgotten (p : Port) : Port := { p with rxnext := p.rxnext - BitVec.ofNat 10 (p.rx.length / 52), rx := [], naking := false }

/-- A link-control flit that acknowledges what a port has received, or asks for a replay (R40, R43, R45). -/
def linkFlit (p : Port) (nak : Bool) (pay : List Byte) : Flit :=
  { fseq := 0, ackseq := p.rxnext - 1, ackv := true, nak := nak, kind := 3, vc := false, pay := pay }

/-- The flits that are sent again: those of `l` with the acknowledgement of the moment. -/
def sentAgain (p : Port) (l : List Held) : List Flit := l.map (fun h => { h.flit with ackseq := p.rxnext - 1 })

/-- A port that announces where it starts again: the packet in progress is forgotten (R45). -/
def announced (p : Port) : Port := { packetForgotten p with tx := p.tx ++ [linkFlit (packetForgotten p) false []] }

/-- The port of an event of training or width. -/
def trainingPort : Instr → Option Nat
  | .ylportEnable n _ => some n
  | .ylportRetrain n => some n
  | .ylportWidthRequest n _ => some n
  | .detectIdleExit n => some n
  | .partnerDetected n _ _ => some n
  | .equaliseDone n _ _ _ => some n
  | .alignDone n => some n
  | .negotiationDone n _ _ _ => some n
  | .trainingTimeout n => some n
  | .laneLoss n _ => some n
  | .widthChangeApply n => some n
  | _ => none

/-- What such an event does to its port `p` (R29, R34 to R37, R44, R45). -/
def TrainingEvent (s t : State) (n : Nat) (p : Port) : Instr → Prop
  | .ylportEnable _ en =>
    (en = false → GoesDown s t n { downPort p with enable := false }) ∧
    (en = true → p.state ≠ 0 → PortSet s t n { p with enable := true } [] []) ∧
    (en = true → p.state = 0 → PortSet s t n { p with enable := true, state := 1, since := s.time }
      [(s.time + tenMs, .detectIdleExit n), (s.time + hundredMs, .trainingTimeout n)] [])
  | .ylportRetrain _ => (p.state ≠ 5 → t = s) ∧
    (p.state = 5 → PortSet s t n { p with state := 6, since := s.time } [(s.time + hundredMs, .trainingTimeout n)] [.partnerDetected n p.lanes p.bits])
  | .ylportWidthRequest _ w =>
    (w ≠ 0 ∧ LanesFor p.laneok (p.cap.getLsbD 4) (p.cap.getLsbD 5) (requestedWidth w) →
      PortSet s t n { p with wreq := w } [] [.widthChangeApply n]) ∧
    (¬(w ≠ 0 ∧ LanesFor p.laneok (p.cap.getLsbD 4) (p.cap.getLsbD 5) (requestedWidth w)) →
      PortSet s t n { p with wreq := 0 } [] [])
  | .detectIdleExit _ => (p.state = 1 → PortSet s t n p [(s.time + tenMs, .detectIdleExit n)] []) ∧ (p.state ≠ 1 → t = s)
  | .partnerDetected _ lanes bits =>
    ((p.state = 1 ∨ p.state = 6) ∧ 2 ≤ (onesOf (lanes.setWidth 16)).length → PortSet s t n { p with state := 2, lanes := lanes, bits := bits } [] []) ∧
    (¬((p.state = 1 ∨ p.state = 6) ∧ 2 ≤ (onesOf (lanes.setWidth 16)).length) → t = s)
  | .equaliseDone _ a b c =>
    (p.state = 2 → PortSet s t n { p with state := 3, good224 := a, good112 := b, good56 := c } [] []) ∧ (p.state ≠ 2 → t = s)
  | .alignDone _ => (p.state ≠ 3 ∨ (∀ w sp g r, ¬RateOf p w sp g r) → t = s) ∧
    (p.state = 3 → (∃ w sp g r, RateOf p w sp g r) → ∃ w sp g r, RateOf p w sp g r ∧
      (∀ w' sp' g' r', RateOf p w' sp' g' r' → w' * r' < w * r ∨ (w' * r' = w * r ∧ w' ≤ w)) ∧
      PortSet s t n { p with state := 4, width := BitVec.ofNat 4 w, speed := BitVec.ofNat 2 sp, laneok := g } [] [])
  | .negotiationDone _ minv maxv cap => (p.state ≠ 4 → t = s) ∧
    (p.state = 4 →
      (maxv < 1 ∨ min 2 maxv < minv ∨ ¬Permits (agreedCaps (min 2 maxv) cap) p → GoesDown s t n (downPort p)) ∧
      (1 ≤ maxv → minv ≤ min 2 maxv → Permits (agreedCaps (min 2 maxv) cap) p → NoneWhole p →
        PortSet s t n { announced p with
          state := 5, ver := BitVec.ofNat 4 (min 2 maxv), cap := BitVec.ofNat 9 (agreedCaps (min 2 maxv) cap), resend := 0
          credit0 := Config.creditsAtStart false, credit1 := Config.creditsAtStart true
          tx := (announced p).tx ++ sentAgain (packetForgotten p) p.held, moved := if p.held = [] then p.moved else s.time }
            (if p.held = [] then [] else [(s.time + oneUs, .replayTimeout n)])
            ((if p.wreq = 0 then [] else [.widthChangeApply n]) ++ [.egressSend n false, .egressSend n true])) ∧
      (1 ≤ maxv → minv ≤ min 2 maxv → Permits (agreedCaps (min 2 maxv) cap) p → ¬NoneWhole p →
        (portOf t n).state = 5 ∧ (portOf t n).ver = BitVec.ofNat 4 (min 2 maxv) ∧ (portOf t n).cap = BitVec.ofNat 9 (agreedCaps (min 2 maxv) cap) ∧
        (portOf t n).rx = [] ∧ (portOf t n).rxnext = p.rxnext ∧ (portOf t n).held = p.held))
  | .trainingTimeout _ => (p.state = 5 ∨ p.state = 0 ∨ s.time < p.since + hundredMs → t = s) ∧
    (p.state ≠ 5 → p.state ≠ 0 → p.since + hundredMs ≤ s.time → GoesDown s t n (downPort p))
  | .laneLoss _ good => (p.state ≠ 5 → t = s) ∧
    (p.state = 5 → NoneWhole p →
      (∀ w, WidestOf good (p.cap.getLsbD 4) (p.cap.getLsbD 5) w →
        PortSet s t n { announced p with laneok := good, wreq := 0, width := BitVec.ofNat 4 w } [] []) ∧
      ((∀ w, ¬LanesFor good (p.cap.getLsbD 4) (p.cap.getLsbD 5) w) →
        PortSet s t n { announced p with laneok := good, wreq := 0, state := 6, since := s.time }
          [(s.time + hundredMs, .trainingTimeout n)] [.partnerDetected n p.lanes p.bits])) ∧
    (p.state = 5 → ¬NoneWhole p → (portOf t n).laneok = good ∧ (portOf t n).wreq = 0 ∧ (portOf t n).rx = [] ∧ (portOf t n).rxnext = p.rxnext)
  | .widthChangeApply _ => (p.wreq = 0 ∨ p.state ≠ 5 ∨ Partial p → t = s) ∧
    (p.wreq ≠ 0 → p.state = 5 → ¬Partial p →
      (LanesFor p.laneok (p.cap.getLsbD 4) (p.cap.getLsbD 5) (requestedWidth p.wreq) →
        PortSet s t n { p with width := BitVec.ofNat 4 (requestedWidth p.wreq), wreq := 0 } [] []) ∧
      (¬LanesFor p.laneok (p.cap.getLsbD 4) (p.cap.getLsbD 5) (requestedWidth p.wreq) → PortSet s t n { p with wreq := 0 } [] []))
  | _ => False

end Sys2Proof.Machine

/-- A port's states: DETECT, EQUALISE, ALIGN, NEGOTIATE, ACTIVE and RETRAIN are entered and left as R34 to R37 say, width and rate are
the best that both partners allow, a lost lane narrows the port or retrains it, and a port that comes back sends again what it holds
(R29, R44, R45). That a port retrains where good lanes form no permitted width is the model's choice (log 34). -/
def Obligations.PortTraining : Prop :=
  (∀ (s : State) (e : Instr) (n : Nat), trainingPort e = some n → n < 12 → ∃ t, exec e s = .next t ∧ TrainingEvent s t n (portOf s n) e) ∧
  (∀ (s : State) (e : Instr) (n : Nat), trainingPort e = some n → 12 ≤ n → exec e s = .next s)

namespace Sys2Proof.Machine

/-- A flit neither acknowledges nor asks for a replay. -/
def Plain (f : Flit) : Prop := f.ackv = false ∧ f.nak = false

/-- The packet whose flits have all arrived and that is well formed (R42, R53, R55). -/
def HoldsWhole (s : State) (rx : List Byte) (q : Packet) : Prop :=
  rx ≠ [] ∧ ∃ len, pkBodyLength (parsePacket rx) = some len ∧ pkKnown (parsePacket rx) ≤ (parsePacket rx).body.length ∧
    len ≤ (parsePacket rx).body.length ∧ q = { parsePacket rx with body := (parsePacket rx).body.take len } ∧
    rx.length = 52 * ((16 + len + 51) / 52) ∧ pkMalformed q = false ∧ ackMismatch s q = false

/-- The flit that returns a packet's credits (R43). -/
def creditFlit (p : Port) (q : Packet) : Flit :=
  linkFlit p false (Config.creditPayload (Config.creditsFor ((16 + q.body.length + 51) / 52)) (decide (q.ptype = 1 ∨ q.ptype = 7)))

/-- Sequence numbers are compared modulo 1,024 (R41). -/
def coveredBy (a x : BitVec 10) : Bool := decide ((a - x).toNat < 512)

/-- Some flit of the replay buffer is not acknowledged. -/
def Owes (p : Port) : Bool := p.held.any (fun h => !coveredBy p.acked h.flit.fseq)

/-- Port `q` sends again, in order, what `a` leaves open of its replay buffer (R41). -/
def Replays (p q : Port) (a : BitVec 10) : Prop :=
  ∃ l, List.Sublist l p.held ∧ (∀ h ∈ p.held, h ∈ l ↔ ¬coveredBy a h.flit.fseq) ∧ q.tx = p.tx ++ sentAgain p l

/-- What the flit in sequence that port `p` receives does once an earlier packet is dealt with (R42, R55): the port then, the alarms, the
events due, from the port `m` and the events `ws` that this leaves. -/
def FlitJoins (s t : State) (n : Nat) (f : Flit) (m : Port) (ws : List Instr) : Prop :=
  (f.kind = 1 → PortSet s t n { m with rx := f.pay, stray := false } [] ws) ∧ (f.kind = 0 → PortSet s t n { m with stray := false } [] ws)

end Sys2Proof.Machine

/-- Flits that arrive (R40 to R43, R55): 64 bytes with check bits are read back as they were built; a flit that fails its CRC is answered
with a NAK; one out of sequence is discarded; a packet is handed on when all its flits have arrived, and its credits go back; one whose
flits are missing when the next starts, or that starts with a continuation, is counted as malformed; an acknowledgement frees whole
packets, one that moves backward and a NAK have the rest sent again. -/
def Sys2Proof.Machine.FlitsReceivedHold : Prop :=
  (∀ f : Flit, f.pay.length = 52 → readFlit (flitBytes f) = some f) ∧
  (∀ (s : State) (n : Nat) (bytes : List Byte) (p : Port), n < 12 → p = portOf s n → ∃ t, exec (.flitReceive n bytes) s = .next t ∧
    (p.state ≠ 5 → t = s) ∧
    (p.state = 5 → readFlit bytes = none → PortSet s t n { p with naking := true, tx := p.tx ++ [linkFlit p true []] } [] []) ∧
    (∀ f, p.state = 5 → readFlit bytes = some f → Plain f →
      (f.kind = 0 → p.naking = true → t = s) ∧ (f.kind = 1 ∨ f.kind = 2 → f.fseq ≠ p.rxnext → t = s) ∧
      (f.kind = 3 → PortSet s t n { p with credit0 := p.credit0 + Config.creditsOf f.pay false, credit1 := p.credit1 + Config.creditsOf f.pay true } []
        [.egressSend n false, .egressSend n true]) ∧
      ((f.kind = 0 ∧ p.naking = false) ∨ (f.kind = 1 ∧ f.fseq = p.rxnext) → ∀ m, m = (if f.kind = 0 then p else { p with rxnext := p.rxnext + 1, naking := false }) →
        (p.rx = [] ∨ (f.kind = 0 ∧ Partial p) → FlitJoins s t n f m []) ∧
        (∀ q e, HoldsWhole s p.rx q → q.dst = s.fab.id → q.ptype ≠ 4 → arrivalEvent n q = some e →
          FlitJoins s t n f { m with rx := [], tx := m.tx ++ [creditFlit m q] } ((if p.wreq = 0 then [] else [.widthChangeApply n]) ++ [e])) ∧
        (f.kind = 1 → Partial p → ∃ c, FlitJoins s t n f { m with rx := [], malf := BitVec.ofNat 8 (min 255 (p.malf.toNat + 1)), tx := m.tx ++ [c] }
          (if p.wreq = 0 then [] else [.widthChangeApply n]))) ∧
      (f.kind = 2 → f.fseq = p.rxnext → ∀ m, m = { p with rxnext := p.rxnext + 1, naking := false } →
        (p.rx ≠ [] → PortSet s t n { m with rx := p.rx ++ f.pay } [] []) ∧ (p.rx = [] → p.stray = true → PortSet s t n m [] []) ∧
        (p.rx = [] → p.stray = false → PortSet s t n { m with stray := true, malf := BitVec.ofNat 8 (min 255 (p.malf.toNat + 1)) } [] []))) ∧
    (∀ f, p.state = 5 → readFlit bytes = some f → f.kind = 0 → p.rx = [] → p.stray = false →
      (f.ackv = true → f.nak = false → f.ackseq = p.acked → PortSet s t n p [] []) ∧
      (f.ackv = true → f.nak = false → f.ackseq ≠ p.acked → ∃ q ts, PortSet s t n q ts [.egressSend n false, .egressSend n true] ∧
        { q with held := p.held, tx := p.tx } = { p with acked := f.ackseq, resend := 0, moved := s.time } ∧ List.Sublist q.held p.held ∧
        (∀ h ∈ p.held, h ∈ q.held ↔ ¬(coveredBy f.ackseq h.flit.fseq ∧ coveredBy f.ackseq h.last)) ∧
        (coveredBy f.ackseq p.acked → q.tx = p.tx) ∧ (¬coveredBy f.ackseq p.acked → Replays p q f.ackseq) ∧
        ts = (if Owes q then [(s.time + oneUs, Instr.replayTimeout n)] else [])) ∧
      (f.ackv = false → f.nak = true → Owes p → p.resend < 7 → ∃ q, PortSet s t n q [(s.time + oneUs, .replayTimeout n)] [] ∧
        { q with tx := p.tx } = { p with resend := p.resend + 1, moved := s.time } ∧ Replays p q p.acked)))

/-- Flits that are sent (R36, R41 to R43, R75): a microsecond without an acknowledgement sends again what is not acknowledged, and the
eighth time in a row the port retrains; an egress queue sends its head when credits and the replay buffer have room, and with a copy of
a multicast line the wait for its answer starts. -/
def Sys2Proof.Machine.FlitsSentHold : Prop :=
  (∀ (s : State) (n : Nat) (p : Port), n < 12 → p = portOf s n → ∃ t, exec (.replayTimeout n) s = .next t ∧
    (p.state ≠ 5 ∨ ¬Owes p ∨ s.time < p.moved + oneUs → t = s) ∧
    (p.state = 5 → Owes p → p.moved + oneUs ≤ s.time → ∃ q, Replays p q p.acked ∧
      (p.resend < 7 → { q with tx := p.tx } = { p with resend := p.resend + 1, moved := s.time } ∧ PortSet s t n q [(s.time + oneUs, .replayTimeout n)] []) ∧
      (7 ≤ p.resend → { q with tx := p.tx } = { p with resend := p.resend + 1, moved := s.time, state := 6, since := s.time } ∧
        PortSet s t n q [(s.time + oneUs, .replayTimeout n), (s.time + hundredMs, .trainingTimeout n)] [.partnerDetected n p.lanes p.bits]))) ∧
  (∀ (s : State) (n : Nat) (p : Port) (k : Packet) (rest : List Packet) (l : List Held), n < 12 → p = portOf s n → l = flitsOf p k →
    ∃ t, exec (.egressSend n false) s = .next t ∧ (p.egress0 = [] → t = s) ∧
    (p.egress0 = k :: rest →
      (p.state ≠ 5 ∨ p.credit0 < Config.creditsFor l.length ∨ 512 < p.held.length + l.length → t = s) ∧
      (p.state = 5 → Config.creditsFor l.length ≤ p.credit0 → p.held.length + l.length ≤ 512 → ∀ q, q = { p with
          egress0 := rest, credit0 := p.credit0 - Config.creditsFor l.length, held := p.held ++ l, tx := p.tx ++ l.map Held.flit, packets := p.packets + 1
          txseq := p.txseq + BitVec.ofNat 10 l.length, moved := if Owes p then p.moved else s.time } →
        portOf t n = q ∧
        (k.ptype ≠ 5 → PortSet s t n q (if Owes p then [] else [(s.time + oneUs, .replayTimeout n)]) (if rest = [] then [] else [.egressSend n false])) ∧
        (k.ptype = 5 → ∀ c, castOf s k.dst.toNat k.tag.toNat = some c → n ∈ c.wait →
          (s.cycle + (k.hops.toNat + 1) * ackCycles s / 64, .multicastChildTimeout k.dst.toNat k.tag.toNat n) ∈ t.timers))))

/-- The routing and group tables are written entry by entry: MODE 3 of a routing entry stores 0 (R48, R73). -/
def Sys2Proof.Machine.FabricTablesHold : Prop :=
  (∀ (s : State) (v : Word), ∃ t, exec (.routingEntryWrite v) s = .next t ∧ t = { s with fab := { s.fab with routes := t.fab.routes } } ∧
    ∀ k, look 0 t.fab.routes k = if k = s.fab.rti.toNat then
      BitVec.ofNat 18 ((if v.toNat / 2 ^ 16 % 4 = 3 then 0 else v.toNat / 2 ^ 16 % 4) * 2 ^ 16 + v.toNat % 2 ^ 12) else look 0 s.fab.routes k) ∧
  (∀ (s : State) (v : Word), ∃ t, exec (.groupTableEntryWrite v) s = .next t ∧ t = { s with fab := { s.fab with groups := t.fab.groups } } ∧
    ∀ k, look .reset t.fab.groups k = if k = s.fab.mcgi.toNat then
      { midx := v.extractLsb' 36 12, parent := v.extractLsb' 32 4, valid := v.getLsbD 15, local_ := v.getLsbD 14, child := v.extractLsb' 0 12 }
      else look .reset s.fab.groups k)

/-- Flits on a link and the routing tables. -/
def Obligations.FlitsAndTables : Prop :=
  Sys2Proof.Machine.FlitsReceivedHold ∧ Sys2Proof.Machine.FlitsSentHold ∧ Sys2Proof.Machine.FabricTablesHold

namespace Sys2Proof.Machine

/-! ### Packets that arrive -/

/-- The packet is well-formed, for this device and of a type. -/
def Mine (s : State) (p : Packet) (ptype : BitVec 4) : Prop := pkMalformed p = false ∧ p.dst = s.fab.id ∧ p.ptype = ptype

/-- The window is granted to the packet's domain (R248, first check). -/
def Granted (e : Word) (win dom : Nat) : Prop :=
  win < 0xC00000 ∧ e.getLsbD 63 = true ∧ e.toNat / 2 ^ 44 % 4 = 0 ∧ e.toNat / 2 ^ 12 % 2 ^ 20 = 0 ∧ (e.getLsbD 59 = true ∨ e.toNat % 2 ^ 12 = dom)

/-- Whether an element of `n` bytes passes the checks of R248 on a charged window, or the reason it is rejected. -/
def GrantSays (s : State) (win dom perm off n : Nat) (key : KeySel) : Option Nat → Prop
  | some r => (¬Granted (grantOf s win) win dom ∧ r = 0) ∨ (Granted (grantOf s win) win dom ∧ (grantOf s win).getLsbD perm = false ∧ r = 1) ∨
      (Granted (grantOf s win) win dom ∧ (grantOf s win).getLsbD perm = true ∧ r = 2 ∧
        (key = .dead ∨ ∃ q ∈ s.poison, (win * 65536 + off) / 256 ≤ q ∧ q * 256 < win * 65536 + off + n))
  | none => Granted (grantOf s win) win dom ∧ (grantOf s win).getLsbD perm = true ∧ key ≠ .dead ∧
      ∀ q ∈ s.poison, ¬((win * 65536 + off) / 256 ≤ q ∧ q * 256 < win * 65536 + off + n)

/-- The response that R38 and R49 send to a packet's source, or its loss when no port leads there. -/
def Answered (u t : State) (p : Packet) (ptype : BitVec 4) (nelem : BitVec 5) (spec : Nat) (body : List Byte) : Prop :=
  (sendPacket u { ptype := ptype, dst := p.src, src := u.fab.id, hops := startHops u, nelem := nelem, resv := false, tag := p.tag
                  win := p.win, dom := p.dom, spec := BitVec.ofNat 28 spec, body := body }).getD u = t

/-- One element of an aggregated packet applied or rejected (R248, R475), with its outcome. -/
def ElementDone (p : Packet) (u : State) (e : Element) (o : Option Nat) (v : State) : Prop :=
  (∀ r, grantCheck u p.win.toNat p.dom.toNat (if p.ptype = 3 then 60 else 61) true e.off e.size = .error r → o = some r ∧ v = u) ∧
  (∀ w key b, grantCheck u p.win.toNat p.dom.toNat (if p.ptype = 3 then 60 else 61) true e.off e.size = .ok (w, key, b) → o = none ∧
    v = grantPut w p.win.toNat key e.off (spread e.size (if p.ptype = 3 then
      ramoNew e.op (gather (homeByte w key) e.size (p.win.toNat * 65536 + e.off)) e.data.toNat else e.data.toNat)))

/-- The elements of a packet in order (R56). -/
inductive ElementsDone (p : Packet) : State → List Element → List (Option Nat) → State → Prop where
  | nil (s : State) : ElementsDone p s [] [] s
  | cons (s u t : State) (e : Element) (l : List Element) (o : Option Nat) (os : List (Option Nat)) (h : ElementDone p s e o u)
      (g : ElementsDone p u l os t) : ElementsDone p s (e :: l) (o :: os) t

/-- The packet that waits and that a packet may not overtake (R51): the first of the same SRC and WIN. -/
def Behind (s : State) (p : Packet) : Option (Nat × Packet) := s.fab.waiting.find? (fun e => decide (e.2.src = p.src ∧ e.2.win = p.win))

/-- A packet waits behind that one. -/
def PutAside (s t : State) (port : Nat) (p : Packet) : Prop := t = { s with fab := { s.fab with waiting := s.fab.waiting ++ [(port, p)] } }

/-- The two doublewords of an acknowledgement of elements (R69): a bit for each applied, two bits of reason for each rejected. -/
def ElementBody (l : List (Option Nat)) (body : List Byte) : Prop :=
  body.length = 16 ∧ ∀ i, i < l.length →
    ((joinBytes (body.take 8)).testBit i = true ↔ nth none l i = none) ∧
    ∀ r, nth none l i = some r → r < 4 → joinBytes (body.drop 8) / 2 ^ (2 * i) % 4 = r

end Sys2Proof.Machine

/-- The destination's checks (R247, R248): on a window that is charged, grantCheck gives the reason of the first check that fails, or
passes; a remote load of an uncharged window reads zero. Invalidations read the table again (R249), and GRCMD is busy until its own has
run. -/
def Sys2Proof.Machine.GrantChecksHold : Prop :=
  (∀ (s : State) (win dom perm off n : Nat) (write : Bool), (grantOf s win).getLsbD 46 = false → ∀ r,
    grantCheck s win dom perm write off n = .error r ↔ GrantSays s win dom perm off n (grantKey s win) (some r)) ∧
  (∀ (s t : State) (win dom perm off n : Nat) (write : Bool) (key : KeySel) (b : Bool), (grantOf s win).getLsbD 46 = false →
    (grantCheck s win dom perm write off n = .ok (t, key, b) ↔
      GrantSays s win dom perm off n (grantKey s win) none ∧ t = s ∧ key = grantKey s win ∧ b = false)) ∧
  (∀ (s : State) (win dom perm off n : Nat), Granted (grantOf s win) win dom → (grantOf s win).getLsbD 46 = true →
    (grantOf s win).getLsbD perm = true → grantCheck s win dom perm false off n = .ok (s, grantKey s win, true)) ∧
  -- the invalidation commands read the table again (R249)
  (∀ (s : State) (win k : Nat), ∃ t, exec (.grantInvalidateOne win) s = .next t ∧ t = { s with ctl := { s.ctl with grants := t.ctl.grants } } ∧
    look 0 t.ctl.grants k = if 8 * win ≤ k ∧ k < 8 * win + 8 then homeByte s .clear (s.ctl.grtbase.toNat + k) else look 0 s.ctl.grants k) ∧
  (∀ s : State, ∃ t, exec .grantInvalidateAll s = .next t ∧ t = { s with ctl := { s.ctl with grants := t.ctl.grants } } ∧
    ∀ k, k < 8 * 0xC00000 → (∃ a, a / 256 = (s.ctl.grtbase.toNat + k) / 256 ∧
      ((∃ b, (⟨a, b⟩ : Host.Cell) ∈ s.mem) ∨ (find? s.sealed (a / 256)).isSome)) →
      look 0 t.ctl.grants k = homeByte s .clear (s.ctl.grtbase.toNat + k)) ∧
  (∀ s : State, ∃ t, exec .grantInvalidateDone s = .next t ∧
    ((∀ e ∈ s.work, e ≠ .grantInvalidateAll ∧ ∀ n, e ≠ .grantInvalidateOne n) → t = { s with ctl := { s.ctl with grcmd := { s.ctl.grcmd with busy := false } } }) ∧
    ((∃ e ∈ s.work, e = .grantInvalidateAll ∨ ∃ n, e = .grantInvalidateOne n) → t = { s with work := s.work ++ [.grantInvalidateDone] })) ∧
  -- a bit that the Z5 sets in an entry leaves what software has written beside it (R248)
  (∀ (s : State) (win bit : Nat), bit < 64 → (grantOf s win).getLsbD bit = false → s.ctl.grtbase.toNat + 8 * win + 8 ≤ localLimit →
    wordIn (orGrant s win bit) (s.ctl.grtbase.toNat + 8 * win) = wordIn s (s.ctl.grtbase.toNat + 8 * win) ||| BitVec.ofNat 64 (2 ^ bit) ∧
    (grantOf (orGrant s win bit) win).getLsbD bit = true ∧
    ∀ a, a < s.ctl.grtbase.toNat + 8 * win ∨ s.ctl.grtbase.toNat + 8 * win + 8 ≤ a → homeByte (orGrant s win bit) .clear a = homeByte s .clear a)

/-- A remote load is answered with its data, zeros from an uncharged window, or a reason; aggregated stores and atomics are applied
element by element in order and acknowledged with an outcome for each; an inbox append is answered with its status; each waits behind an
earlier packet of its SRC and WIN that waits; a packet that is not for this device is not acted on (R38, R51, R56, R69, R248, R445, R475,
R476). -/
def Sys2Proof.Machine.RemoteArrivalsHold : Prop :=
  (∀ (s : State) (p : Packet), ∃ t, exec (.remoteLoadArrival p) s = .next t ∧ (¬Mine s p 0 → t = s) ∧
    (Mine s p 0 → ∀ e, Behind s p = some e → PutAside s t e.1 p) ∧
    (Mine s p 0 → Behind s p = none → ∀ off n, off = p.spec.toNat % 2 ^ 16 → n = (if p.spec.getLsbD 16 then 8 else 4) →
      (∀ r, grantCheck s p.win.toNat p.dom.toNat 62 false off n = .error r → Answered s t p 1 0 r (List.replicate 8 0)) ∧
      (∀ u key, grantCheck s p.win.toNat p.dom.toNat 62 false off n = .ok (u, key, true) → Answered s t p 1 0 4 (List.replicate 8 0)) ∧
      (∀ u key, grantCheck s p.win.toNat p.dom.toNat 62 false off n = .ok (u, key, false) →
        Answered s t p 1 0 4 (spread 8 (gather (homeByte u key) n (p.win.toNat * 65536 + off)))))) ∧
  (∀ (s : State) (p : Packet) (e : Instr), e = .aggregatedStoreArrival p ∧ p.ptype = 2 ∨ e = .aggregatedAtomicArrival p ∧ p.ptype = 3 →
    ∃ t, exec e s = .next t ∧ (pkMalformed p = true ∨ p.dst ≠ s.fab.id → t = s) ∧
      (pkMalformed p = false → p.dst = s.fab.id → ∀ x, Behind s p = some x → PutAside s t x.1 p) ∧
      (pkMalformed p = false → p.dst = s.fab.id → Behind s p = none → ∃ u os body, ElementsDone p s (pkElements p) os u ∧ ElementBody os body ∧
        Answered u t p 7 p.nelem 0 body)) ∧
  (∀ (s : State) (p : Packet), (p.ptype ≠ 2 → exec (.aggregatedStoreArrival p) s = .next s) ∧
    (p.ptype ≠ 3 → exec (.aggregatedAtomicArrival p) s = .next s)) ∧
  (∀ (s : State) (p : Packet), ∃ t, exec (.inboxAppendArrival p) s = .next t ∧ (¬Mine s p 6 → t = s) ∧
    (Mine s p 6 → ∀ e, Behind s p = some e → PutAside s t e.1 p) ∧
    (Mine s p 6 → Behind s p = none → ∃ u k, Answered u t p 7 0 (2 ^ 26) (spread 8 k) ∧ k ≤ 3 ∧
      ((viewInbox s (joinBytes (p.body.take 8) / 2 ^ 16 % 2 ^ 16)).valid = false ∨
        (viewInbox s (joinBytes (p.body.take 8) / 2 ^ 16 % 2 ^ 16)).tag ≠ joinBytes (p.body.take 8) % 2 ^ 16 → k = 2 ∧ u = s)))

/-- The grant table and the packets it is asked about. -/
def Obligations.GrantsAndArrivals : Prop :=
  Sys2Proof.Machine.GrantChecksHold ∧ Sys2Proof.Machine.RemoteArrivalsHold

namespace Sys2Proof.Machine

/-- A part of a tile passes its checks: it lies in its window and the grant permits it (R57, R248, R515). -/
def PartPasses (s : State) (p : Packet) (u : State) (key : KeySel) : Prop :=
  ∃ b, pkPlace p + 32 * pkGranules p ≤ 65536 ∧
    grantCheck s p.win.toNat p.dom.toNat (if p.tag.getLsbD 23 then 61 else 60) true (pkPlace p) (32 * pkGranules p) = .ok (u, key, b)

/-- The rejection of a part, if any. -/
def PartRejected (s : State) (p : Packet) (r : Nat) : Prop :=
  (65536 < pkPlace p + 32 * pkGranules p ∧ r = 0) ∨ (pkPlace p + 32 * pkGranules p ≤ 65536 ∧
    grantCheck s p.win.toNat p.dom.toNat (if p.tag.getLsbD 23 then 61 else 60) true (pkPlace p) (32 * pkGranules p) = .error r)

/-- The IO die of a port. -/
def portDie (port : Nat) : Nat := if port < 6 then 0 else 1

/-- A reassembly of a source and tag on an IO die. -/
def Assembling (s : State) (io : Nat) (p : Packet) (a : Assembly) : Prop := assemblyOf s io p.src p.tag = some a

end Sys2Proof.Machine

/-- Tiles that arrive (R43, R51, R57, R66, R515): a tile of one part is applied whole or rejected; the first part of a larger one opens a
reassembly with its timeout, or waits while all 64 slots of its IO die are used; a further part joins it; a part that does not wait gives
its credits back; a reassembly that is not complete when COMAX.ACKTO has passed is dropped, every part rejected and nothing written. -/
def Sys2Proof.Machine.TileArrivalsHold : Prop :=
  (∀ (s : State) (port : Nat) (p : Packet), ∃ t, exec (.tileStoreAddArrival port p) s = .next t ∧ (¬Mine s p 4 → t = s) ∧
    (Mine s p 4 → ∃ c, PortSet s c port { portOf s port with
          tx := (portOf s port).tx ++ (if (portOf s port).state = 5 then [creditFlit (portOf s port) p] else []) } [] [] ∧
      ((∀ a, ¬Assembling s (portDie port) p a) →
        (∀ e, Behind s p = some e → PutAside s t port p) ∧
        (Behind s p = none → pkParts p = 1 → (∀ r, PartRejected c p r → ∃ body, ElementBody [some r] body ∧ Answered c t p 7 p.nelem 0 body) ∧
          (∀ u key, PartPasses c p u key → p.tag.getLsbD 23 = true → ∃ body, ElementBody [none] body ∧
            Answered (grantPut u p.win.toNat key (pkPlace p) p.body) t p 7 p.nelem 0 body)) ∧
        (Behind s p = none → pkParts p ≠ 1 → 64 ≤ (s.fab.tiles.filter (fun a => decide (a.io = portDie port))).length → PutAside s t port p) ∧
        (Behind s p = none → pkParts p ≠ 1 → (s.fab.tiles.filter (fun a => decide (a.io = portDie port))).length < 64 →
          t = { c with
            fab := { c.fab with tiles := s.fab.tiles ++ [{ io := portDie port, src := p.src, tag := p.tag, parts := [(pkPart p, p)], since := s.cycle }] }
            timers := s.timers ++ [(s.cycle + ackCycles s, .tileReassemblyTimeout (portDie port) p.src.toNat p.tag.toNat)] })) ∧
      (∀ a, Assembling s (portDie port) p a → (put a.parts (pkPart p) p).length ≠ pkParts p →
        t = { c with fab := { c.fab with tiles := s.fab.tiles.map (fun b => if b = a then { a with parts := put a.parts (pkPart p) p } else b) } }))) ∧
  (∀ (s : State) (io src tag : Nat), ∃ t, exec (.tileReassemblyTimeout io src tag) s = .next t ∧
    (assemblyOf s io (BitVec.ofNat 12 src) (BitVec.ofNat 24 tag) = none → t = s) ∧
    (∀ a, assemblyOf s io (BitVec.ofNat 12 src) (BitVec.ofNat 24 tag) = some a →
      (s.cycle < a.since + ackCycles s → t = { s with timers := s.timers ++ [(a.since + ackCycles s, .tileReassemblyTimeout io src tag)] }) ∧
      (a.since + ackCycles s ≤ s.cycle → s.fab.waiting = [] →
        t.mem = s.mem ∧ t.regs = s.regs ∧ ∀ b, b ∈ t.fab.tiles ↔ b ∈ s.fab.tiles ∧ b ≠ a)))

namespace Sys2Proof.Machine

/-- A packet in flight with what it carries. -/
def Flying (s : State) (p : InFlight → Bool) (f : InFlight) : Prop := s.fab.flights.find? p = some f

/-- It stays in flight no longer. -/
def Landed (s t : State) (f : InFlight) : Prop := t.fab.flights = s.fab.flights.erase f

/-- A timeout has passed (R70). -/
def Overdue (s : State) (f : InFlight) : Prop := ∃ d, f.due = some d ∧ d ≤ s.cycle

/-- The outstanding result of a number, of a stream. -/
def Awaits (s : State) (seq sid : Nat) (q : Pending) : Prop := findPend s seq = some (sid, q)

/-- The results of a stream after a change to one of them. -/
def PendChanged (s t : State) (sid seq : Nat) (f : Pending → Pending) : Prop :=
  (∀ k, k ≠ sid → find? t.streams k = find? s.streams k) ∧
    ∀ st, find? s.streams sid = some st → find? t.streams sid = some { st with pend := st.pend.map (fun p => if p.seq = seq then f p else p) }

end Sys2Proof.Machine

/-- Replies, acknowledgements and timeouts (R66, R68, R70, R72, R476): a load's reply gives its value or the late fault 0x19; an acknowledgement
whose every element was applied takes its elements off the count; an append's status reaches the lane that waits; what is not answered in
time counts as failed with reason 3, and its answer changes nothing any more. An answer is matched by its TAG, since a router may give it
in the place of the destination (R38, R49). -/
def Sys2Proof.Machine.RepliesAndTimeoutsHold : Prop :=
  (∀ (s : State) (p : Packet), ∃ t, exec (.loadReplyArrival p) s = .next t ∧ (¬Mine s p 1 → t = s) ∧
    (Mine s p 1 → s.fab.flights.find? (fun f => isLoad f && decide (f.tag = p.tag.toNat) && !overdue s f) = none → t = s) ∧
    (∀ f st0 seq sid q a n, Mine s p 1 → Flying s (fun f => isLoad f && decide (f.tag = p.tag.toNat) && !overdue s f) f →
      f.what = .load st0 seq → Awaits s seq sid q → q.await = .reply f.tag a n →
      Landed s t f ∧ t.work = s.work ++ [.resultWriteback sid seq] ∧ t.mem = s.mem ∧
      (p.spec.getLsbD 2 = true → PendChanged s t sid seq (fun x => { x with
        writes := x.writes.map (fun d => (d.1, BitVec.ofNat 64 (joinBytes (p.body.take 8) % 2 ^ (8 * n)))), await := .nothing })) ∧
      (p.spec.getLsbD 2 = false → PendChanged s t sid seq (fun x => { x with
        writes := [], await := .fails { lane := x.lane, code := 0x19, addr := a, detail := p.spec.toNat % 4, pc := x.pc } })))) ∧
  (∀ (s : State) (p : Packet), ∃ t, exec (.elementAckArrival p) s = .next t ∧ (¬(Mine s p 7 ∧ pkKind p = 0) → t = s) ∧
    (∀ f atomic l, Mine s p 7 → pkKind p = 0 →
      Flying s (fun f => isElements f && decide (f.tag = p.tag.toNat) && !overdue s f) f → f.what = .elements atomic l →
      f.track = .inside → (∀ i, i < l.length → (joinBytes (p.body.take 8)).testBit i = true) → Landed s t f ∧ t.mem = s.mem ∧
      ∀ k tm, find? s.teams k = some tm → find? t.teams k = some (if tm.ident = f.team then { tm with inside := tm.inside - l.length } else tm))) ∧
  (∀ (s : State) (p : Packet), ∃ t, exec (.inboxAckArrival p) s = .next t ∧ (¬(Mine s p 7 ∧ pkKind p = 1) → t = s) ∧
    (∀ f h st0 seq sid q, Mine s p 7 → pkKind p = 1 →
      Flying s (fun f => isAppend f && decide (f.tag = p.tag.toNat) && !overdue s f) f → f.what = .inbox h st0 seq →
      f.track = .inside → Awaits s seq sid q → q.await = .append f.tag → Landed s t f ∧
      PendChanged s t sid seq (fun x => { x with
        writes := x.writes.map (fun d => (d.1, BitVec.ofNat 64 (joinBytes (p.body.take 8) % 4))), await := .nothing }))) ∧
  (∀ (s : State) (tag : Nat), ∃ t, exec (.ackTimeout tag) s = .next t ∧
    ((∀ f ∈ s.fab.flights, f.tag = tag → ¬Overdue s f) → t = s) ∧
    (∀ f atomic l, Flying s (fun f => (isElements f || isAppend f) && decide (f.tag = tag) && overdue s f) f → f.what = .elements atomic l →
      f.track = .inside → Landed s t f ∧
      ∀ k tm, find? s.teams k = some tm → find? t.teams k = some (if tm.ident = f.team then { tm with inside := tm.inside - l.length } else tm)))

/-- Tiles that arrive, replies and timeouts. -/
def Obligations.TilesAndReplies : Prop :=
  Sys2Proof.Machine.TileArrivalsHold ∧ Sys2Proof.Machine.RepliesAndTimeoutsHold

namespace Sys2Proof.Machine

/-- The child ports of a group's entry that take a copy of a line: ACTIVE with the capability agreed, while hops are left (R75). -/
def TakesCopy (s : State) (p : Packet) (n : Nat) : Prop :=
  n < 12 ∧ (groupEntry s p.dst.toNat).child.getLsbD n = true ∧ p.hops ≠ 0 ∧ (portOf s n).state = 5 ∧ (portOf s n).cap.getLsbD 2 = true

/-- The wait on a child port is over (R75). -/
def ChildLate (s : State) (c : Cast) (port : Nat) : Prop := ∃ d, find? c.by_ port = some d ∧ d ≤ s.cycle

/-- A line is being acknowledged. -/
def Casting (s : State) (group tag : Nat) (c : Cast) : Prop := castOf s group tag = some c

end Sys2Proof.Machine

/-- Multicast at a router (R73 to R76): a line reaches every child port that can take it, one hop older, and a device that is no member
writes nothing; an answer or a timeout of a child that is awaited is recorded, and no other is; the subtree reports when no child is
awaited any more. COMA_DRAIN flushes every buffer (R65). -/
def Obligations.MulticastRouting : Prop :=
  (∀ (s : State) (port : Nat) (p : Packet), ∃ t, exec (.multicastLineArrival port p) s = .next t ∧
    (pkMalformed p = true ∨ p.ptype ≠ 5 ∨ (groupEntry s p.dst.toNat).valid = false → t = s) ∧
    (pkMalformed p = false → p.ptype = 5 → (groupEntry s p.dst.toNat).valid = true →
      ((groupEntry s p.dst.toNat).local_ = false → t.mem = s.mem) ∧
      (∀ n, TakesCopy s p n → { p with hops := p.hops - 1 } ∈ (portOf t n).egress0) ∧
      ((∃ n, TakesCopy s p n) → castOf s p.dst.toNat p.tag.toNat = none → ∃ c, Casting t p.dst.toNat p.tag.toNat c ∧
        ∀ n, n ∈ c.wait ↔ TakesCopy s p n))) ∧
  (∀ (s : State) (group tag port : Nat), ∃ t, exec (.multicastChildTimeout group tag port) s = .next t ∧
    (castOf s group tag = none → t = s) ∧
    (∀ c, Casting s group tag c → (port ∉ c.wait ∨ ¬ChildLate s c port → t = s) ∧
      (port ∈ c.wait → ChildLate s c port → (∃ n ∈ c.wait, n ≠ port) →
        Casting t group tag { c with wait := removeN c.wait port, entries := c.entries ++ [castEntry 3 (0xFF0 + port)] } ∧ t.mem = s.mem) ∧
      (port ∈ c.wait → ChildLate s c port → (∀ n ∈ c.wait, n = port) → castOf t group tag = none))) ∧
  (∀ (s : State) (port : Nat) (p : Packet), ∃ t, exec (.combinedAckArrival port p) s = .next t ∧
    (pkMalformed p = true ∨ p.ptype ≠ 7 ∨ pkKind p ≠ 2 ∨ castOf s p.dst.toNat p.tag.toNat = none → t = s) ∧
    (∀ c, pkMalformed p = false → p.ptype = 7 → pkKind p = 2 → Casting s p.dst.toNat p.tag.toNat c → (port ∉ c.wait ∨ ChildLate s c port → t = s) ∧
      (port ∈ c.wait → ¬ChildLate s c port → (∃ n ∈ c.wait, n ≠ port) → Casting t p.dst.toNat p.tag.toNat { c with
        entries := c.entries ++ (castEntries p).1, wait := if (castEntries p).2 then c.wait else removeN c.wait port }))) ∧
  (∀ s : State, ∃ t, exec .comaDrain s = .next t ∧ FlushedWhere s t (fun _ => True))

namespace Sys2Proof.Machine

/-! ### The host -/

/-- The module sends one message to the host; nothing else changes. -/
def Tells (s t : State) (m : HostMsg) : Prop := t = { s with host := { s.host with out := s.host.out ++ [m] } }

/-- A caller's port is down. -/
def NoLink (s : State) (c : Caller) : Prop := s.pkg.powered = false ∨ 2 ≤ c.port ∨ s.pkg.pcieUp.toNat.testBit c.port = false

/-- Bring-up has ended and the caller is the physical function (R78, R79). -/
def Physical (s : State) (c : Caller) : Prop := ¬NoLink s c ∧ s.pkg.stage = 3 ∧ c.vf = 0

/-- The module is in recovery and the caller is the physical function of port 0 (R31, R32). -/
def Recovering (s : State) (c : Caller) : Prop := ¬NoLink s c ∧ s.pkg.stage = 0xFF ∧ c.port = 0 ∧ c.vf = 0

/-- Requests of the caller are refused while bring-up goes on (R28). -/
def Refused (s : State) (c : Caller) : Prop :=
  ¬NoLink s c ∧ ((s.pkg.stage ≠ 3 ∧ s.pkg.stage ≠ 0xFF) ∨ (s.pkg.stage = 0xFF ∧ ¬(c.port = 0 ∧ c.vf = 0)))

/-- The key under which host accesses reach a window (R276). -/
def windowKey (s : State) (pa : Nat) : KeySel := grantKey s (pa / 65536)

/-- A byte that a host read of BAR4 cannot give: poison, but for a window that has not been charged, which reads as zero (R272, R283). -/
def HostBad (s : State) (a : Nat) : Prop := uncharged s (a / 65536) = false ∧ homeBad s (windowKey s a) a = true

/-- A byte as a host read of BAR4 gives it (R283). -/
def hostByte (s : State) (a : Nat) : Byte := if uncharged s (a / 65536) then 0 else homeByte s (windowKey s a) a

/-- How far the physical function's BAR4 of a port reaches in local memory (R77, R79). -/
def barReach (s : State) (c : Caller) : Nat := Nat.min localLimit (2 ^ bar4Size s c.port)

end Sys2Proof.Machine

/-- Host requests (R9, R28, R32, R79, R86, R315): a port that is down hears nothing; while bring-up goes on and at misaligned or unknown
registers the answer is Unsupported Request; BAR0 reads give the register's doubleword; BAR4 reads give local memory's bytes, zeros for an
uncharged window, or a poisoned completion, in recovery the window's; BAR4 writes of one window stand in memory; a notify page reads zero. -/
def Obligations.HostRequests : Prop :=
  (∀ (s : State) (c : Caller) (off : Nat) (v : Word), ∃ t, exec (.registerWrite c off v) s = .next t ∧ (NoLink s c → t = s) ∧
    (Refused s c ∨ (¬NoLink s c ∧ off % 8 ≠ 0) → Tells s t (.unsupported c)) ∧
    (Physical s c → off % 8 = 0 → (writePf s c off v = none → Tells s t (.unsupported c)) ∧ ∀ u, writePf s c off v = some u → t = u)) ∧
  (∀ (s : State) (c : Caller) (page off : Nat) (v : Word), ∃ t, exec (.notifyWrite c page off v) s = .next t ∧ (NoLink s c → t = s) ∧
    (Refused s c → Tells s t (.unsupported c)) ∧ (Physical s c → off % 4096 = off → off ≠ 0 → page < 65536 → t = s)) ∧
  (∀ (s : State) (c : Caller) (off len : Nat), ∃ t, exec (.bar4Read c off len) s = .next t ∧ (NoLink s c → t = s) ∧
    (Refused s c → Tells s t (.unsupported c)) ∧
    (Recovering s c → off + len ≤ 2 ^ 26 → Tells s t (.data c ((List.range len).map (fun i => look 0 s.pkg.window (off + i))) false)) ∧
    (Physical s c → barReach s c < off + len → Tells s t (.unsupported c)) ∧
    (Physical s c → off + len ≤ barReach s c →
      ((∃ i, i < len ∧ HostBad s (off + i)) → Tells s t (.data c [] true)) ∧
      ((∀ i, i < len → ¬HostBad s (off + i)) →
        ∃ l, Tells s t (.data c l false) ∧ l.length = len ∧ ∀ i, i < len → nth 0 l i = hostByte s (off + i)))) ∧
  (∀ (s : State) (c : Caller) (off : Nat) (bs : List Byte), ∃ t, exec (.bar4Write c off bs) s = .next t ∧ (NoLink s c → t = s) ∧
    (Refused s c → Tells s t (.unsupported c)) ∧
    (Recovering s c → off + bs.length ≤ 2 ^ 26 → s.pkg.recBusy = true → t = s) ∧
    (Recovering s c → off + bs.length ≤ 2 ^ 26 → s.pkg.recBusy = false → t = { s with pkg := { s.pkg with window := t.pkg.window } } ∧
      ∀ k, look 0 t.pkg.window k = if off ≤ k ∧ k < off + bs.length then nth 0 bs (k - off) else look 0 s.pkg.window k) ∧
    (Physical s c → barReach s c < off + bs.length → Tells s t (.unsupported c)) ∧
    (Physical s c → off + bs.length ≤ barReach s c → off % 65536 + bs.length ≤ 65536 → windowKey s off ≠ .dead →
      (∀ i, i < bs.length → homeByte t (windowKey s off) (off + i) = nth 0 bs i) ∧ t.regs = s.regs ∧ t.host = s.host)) ∧
  (∀ (s : State) (c : Caller) (off : Nat), Physical s c → off % 8 = 0 →
    (readPf s c off = none → Tells s (hostRead s c 0 off 8) (.unsupported c)) ∧
    ∀ w, readPf s c off = some w → Tells s (hostRead s c 0 off 8) (.data c (spread 8 w.toNat) false)) ∧
  (∀ (s : State) (c : Caller) (off len : Nat), Physical s c → off < 65536 * 4096 →
    Tells s (hostRead s c 2 off len) (.data c (List.replicate len 0) false))

namespace Sys2Proof.Machine

/-- A command of a caller ends with a status in its own register and does nothing else. -/
def QueueStatus (s t : State) (c : Caller) (n : Nat) : Prop :=
  t = { s with host := { s.host with qcmd := t.host.qcmd } } ∧ (commandAt t.host.qcmd c).status = BitVec.ofNat 3 n ∧
    ∀ k, k ≠ callerKey c → find? t.host.qcmd k = find? s.host.qcmd k

/-- A caller may name a queue, its descriptor standing in memory (R81, R85). -/
def OwnsQueue (s : State) (c : Caller) (q : Nat) : Prop := mayQueue s c q = true ∧ s.host.qtbase.toNat + 64 * q + 64 ≤ localLimit

/-- The status of a caller's queue command. -/
def queueDone (t : State) (c : Caller) (n : Nat) : Prop := (commandAt t.host.qcmd c).status = BitVec.ofNat 3 n

end Sys2Proof.Machine

/-- QCMD's operations (R83 to R85, R114): a queue that the caller does not own gives status 1; ENABLE refuses an invalid descriptor with 2
and an enabled one with 3, else sets ENABLE and starts DSEQ at 0; DISABLE, UNMAP and CLEARERR give 3 where there is nothing to do, else
clear ENABLE, the slot or ERR. -/
def Sys2Proof.Machine.QueueCommandsHold : Prop :=
  (∀ (s : State) (c : Caller) (q : Nat), ∃ t, exec (.queueEnable c q) s = .next t ∧
    (mayQueue s c q = false → QueueStatus s t c 1) ∧
    (OwnsQueue s c q → (viewQ s q).enable = true → QueueStatus s t c 3) ∧
    (OwnsQueue s c q → (viewQ s q).enable = false → qInvalid s q = true → QueueStatus s t c 2) ∧
    (OwnsQueue s c q → (viewQ s q).enable = false → qInvalid s q = false → queueDone t c 0 ∧ viewQ t q = { viewQ s q with enable := true } ∧
      (look .reset t.host.keeps q).seq = 0 ∧ t.regs = s.regs)) ∧
  (∀ (s : State) (c : Caller) (q : Nat), ∃ t, exec (.queueDisable c q) s = .next t ∧
    (mayQueue s c q = false → QueueStatus s t c 1) ∧ (OwnsQueue s c q → (viewQ s q).enable = false → QueueStatus s t c 3) ∧
    (OwnsQueue s c q → (viewQ s q).enable = true → (viewQ s q).mapped = false → queueDone t c 0 ∧
      viewQ t q = { viewQ s q with enable := false } ∧ ∀ k l, find? t.host.waits k = some l → q ∉ l)) ∧
  (∀ (s : State) (c : Caller) (q : Nat), ∃ t, exec (.queueUnmap c q) s = .next t ∧
    (mayQueue s c q = false → QueueStatus s t c 1) ∧ (OwnsQueue s c q → (viewQ s q).mapped = false → QueueStatus s t c 3) ∧
    (OwnsQueue s c q → (viewQ s q).mapped = true → queueDone t c 0 ∧
      find? t.host.slots (256 * (viewQ s q).die + (viewQ s q).slot) = none)) ∧
  (∀ (s : State) (c : Caller) (q : Nat), ∃ t, exec (.queueClearerr c q) s = .next t ∧
    (mayQueue s c q = false → QueueStatus s t c 1) ∧ (OwnsQueue s c q → (viewQ s q).err = false → QueueStatus s t c 3) ∧
    (OwnsQueue s c q → (viewQ s q).err = true → (viewQ s q).mapped = false → queueDone t c 0 ∧ viewQ t q = { viewQ s q with err := false }))

namespace Sys2Proof.Machine

/-- Only a command register's status changes. -/
def KeyStatus (s t : State) (c : Caller) (n : Nat) : Prop :=
  t = { s with host := { s.host with keycmd := t.host.keycmd } } ∧ (commandAt t.host.keycmd c).status = BitVec.ofNat 3 n

/-- The buffer that a caller's KEYBUF names. -/
def keyBuffer (s : State) (c : Caller) : Nat := (look 0 s.host.keybuf (callerKey c)).toNat

end Sys2Proof.Machine

/-- Partitions, keys, attestation and geode handles: ACTIVATE and DEACTIVATE, LOAD, which zeroes its buffer, and ERASE, both of which leave
the leaves that mapped the slot stale (DEDUCED from R99: they read as poison until they are mapped again), REPORT's refusal, and
SEAL and REVOKE end with the statuses of their rules, and take effect only with status 0 (R95, R96, R98, R100, R361, R364, R365). -/
def Sys2Proof.Machine.PartitionsAndKeysHold : Prop :=
  (∀ (s : State) (p : Nat), ∃ t, exec (.partitionActivate p) s = .next t ∧
    (16 ≤ p ∨ (partEntry s p).isSome → t = { s with host := { s.host with pcmd := { s.host.pcmd with status := 3 } } }) ∧
    (p < 16 → partEntry s p = none → (entryBad (tableEntry s p) = true ∨ entryMeets s (tableEntry s p) = true) →
      t = { s with host := { s.host with pcmd := { s.host.pcmd with status := 2 } } }) ∧
    (p < 16 → partEntry s p = none → entryBad (tableEntry s p) = false → entryMeets s (tableEntry s p) = false →
      find? t.host.parts p = some (tableEntry s p, false) ∧ (∀ k, k ≠ p → find? t.host.parts k = find? s.host.parts k) ∧
      t.host.pcmd.status = 0 ∧ t.mem = s.mem)) ∧
  (∀ (s : State) (p : Nat), ∃ t, exec (.partitionDeactivate p) s = .next t ∧
    (partEntry s p = none → t = { s with host := { s.host with pcmd := { s.host.pcmd with status := 3 } } }) ∧
    (∀ e, partEntry s p = some e →
      ((∃ i, i < (partWord e 0).toNat / 2 ^ 32 % 2 ^ 16 ∧ (viewQ s ((partWord e 0).toNat % 2 ^ 16 + i)).enable = true) →
        t = { s with host := { s.host with pcmd := { s.host.pcmd with status := 4 } } }) ∧
      ((∀ i, i < (partWord e 0).toNat / 2 ^ 32 % 2 ^ 16 → (viewQ s ((partWord e 0).toNat % 2 ^ 16 + i)).enable = false) →
        find? t.host.parts p = none ∧ find? t.sched.vaults p = none ∧ t.host.pcmd.status = 0 ∧ t.mem = s.mem))) ∧
  (∀ (s : State) (c : Caller) (k : Nat), ∃ t, exec (.keyLoad c k) s = .next t ∧ (mayKey s c k = false → KeyStatus s t c 1) ∧
    (mayKey s c k = true → keyBuffer s c + 64 ≤ localLimit →
      (∃ x, find? t.host.keys k = some x ∧ x.toNat = gather (homeByte s .clear) 64 (keyBuffer s c)) ∧
      (∀ j, j ≠ k → find? t.host.keys j = find? s.host.keys j) ∧ (commandAt t.host.keycmd c).status = 0 ∧
      (∀ i, i < 64 → homeByte t .clear (keyBuffer s c + i) = 0) ∧
      ((find? s.host.keys k).isSome → ∀ l ∈ leavesOf s k, l ∈ t.host.stale))) ∧
  (∀ (s : State) (c : Caller) (k : Nat), ∃ t, exec (.keyErase c k) s = .next t ∧ (mayKey s c k = false → KeyStatus s t c 1) ∧
    (mayKey s c k = true → find? s.host.keys k = none → KeyStatus s t c 3) ∧
    (mayKey s c k = true → (find? s.host.keys k).isSome → find? t.host.keys k = none ∧
      (∀ j, j ≠ k → find? t.host.keys j = find? s.host.keys j) ∧ (commandAt t.host.keycmd c).status = 0 ∧ t.mem = s.mem ∧
      ∀ l ∈ leavesOf s k, l ∈ t.host.stale)) ∧
  (∀ (s : State) (c : Caller) (p : Nat), ∃ t, exec (.attestationReport c p) s = .next t ∧
    (mayReport s c p = false → t = { s with host := { s.host with attcmd := t.host.attcmd } } ∧ (commandAt t.host.attcmd c).status = 1) ∧
    (mayReport s c p = true → (commandAt t.host.attcmd c).status = 0 ∧ t.regs = s.regs ∧ t.host.keys = s.host.keys)) ∧
  (∀ (s : State) (dom idx : Nat), ∃ t, exec (.handleSeal dom idx) s = .next t ∧
    (handleAddr s dom idx = none → t = { s with ctl := { s.ctl with ghcmd := { s.ctl.ghcmd with status := 1 } } }) ∧
    (∀ a, handleAddr s dom idx = some a →
      ((word (rawRead s a 8)).getLsbD 63 = true → t = { s with ctl := { s.ctl with ghcmd := { s.ctl.ghcmd with status := 3 } } }) ∧
      ((word (rawRead s a 8)).getLsbD 63 = false → requestBad s dom = true →
        t = { s with ctl := { s.ctl with ghcmd := { s.ctl.ghcmd with status := 2 } } }) ∧
      (t.ctl.ghcmd.status = 0 → t.ctl.ghcmd.status ≠ s.ctl.ghcmd.status → a + 64 ≤ localLimit → s.ctl.gharg.toNat + 64 ≤ localLimit →
        ∀ i, i < 64 → homeByte t .clear (a + i) = homeByte s .clear (s.ctl.gharg.toNat + i)))) ∧
  (∀ (s : State) (dom idx : Nat), ∃ t, exec (.handleRevoke dom idx) s = .next t ∧
    (handleAddr s dom idx = none → t = { s with ctl := { s.ctl with ghcmd := { s.ctl.ghcmd with status := 1 } } }) ∧
    (∀ a, handleAddr s dom idx = some a →
      ((word (rawRead s a 8)).getLsbD 63 = false → t = { s with ctl := { s.ctl with ghcmd := { s.ctl.ghcmd with status := 3 } } }) ∧
      ((word (rawRead s a 8)).getLsbD 63 = true → a + 8 ≤ localLimit →
        gather (homeByte t .clear) 8 a = gather (homeByte s .clear) 8 a % 2 ^ 63 ∧ t.ctl.ghcmd.status = 0)))

/-- Queue commands, partitions and keys. -/
def Obligations.QueuesAndPartitions : Prop :=
  Sys2Proof.Machine.QueueCommandsHold ∧ Sys2Proof.Machine.PartitionsAndKeysHold

namespace Sys2Proof.Machine

/-- The page at a place of the pages to be copied holds poison (R104, R105). -/
def PoisonedPage (s : State) (i : Nat) : Prop := ∃ e, s.host.check.pages[i]? = some e ∧ rangeBad s e.2.2 e.2.1 65536 = true

end Sys2Proof.Machine

/-- COMMAND_COMPLETION clears the BUSY bit of the command register at an offset and of no other, once the command's work is done; VCMD's
stays while a restore waits for a hart (R521). CHECKPOINT_START refuses an invalid descriptor with error 2 and CHECKPOINT_DONE ends no run that is not busy, waits for its
shootdowns, and tells the host its status word (R103 to R105). -/
def Obligations.CommandsAndCheckpoints : Prop :=
  (∀ (s : State) (c : Caller) (off : Nat), s.work.any (worksFor c off) = true →
    exec (.commandCompletion c off) s = .next (pushWork s (.commandCompletion c off))) ∧
  (∀ (s : State) (c : Caller) (off : Nat), s.work.any (worksFor c off) = false → ∃ t, exec (.commandCompletion c off) s = .next t ∧
    (off = 0x2000 ∨ off = 0x000 → t = { s with host := { s.host with qcmd := t.host.qcmd } } ∧ (commandAt t.host.qcmd c).busy = false) ∧
    (off = 0x2030 ∨ off = 0x010 → t = { s with host := { s.host with keycmd := t.host.keycmd } } ∧ (commandAt t.host.keycmd c).busy = false) ∧
    (off = 0x2040 ∨ off = 0x020 → t = { s with host := { s.host with attcmd := t.host.attcmd } } ∧ (commandAt t.host.attcmd c).busy = false) ∧
    (off = 0x2028 → t = { s with host := { s.host with pcmd := { s.host.pcmd with busy := false } } }) ∧
    (off = 0x4038 → t = { s with sched := { s.sched with dcmd := { s.sched.dcmd with busy := false } } }) ∧
    (off = 0x4048 → vaultWaits s = false → t = { s with sched := { s.sched with vcmd := { s.sched.vcmd with busy := false } } }) ∧
    (off = 0x4048 → vaultWaits s = true → t = { s with timers := s.timers ++ [(s.cycle + 1, .commandCompletion c off)] }) ∧
    (off = 0x7110 → t = { s with ctl := { s.ctl with ghcmd := { s.ctl.ghcmd with busy := false } } })) ∧
  (∀ s : State, ∃ t, exec .checkpointStart s = .next t ∧ t.host.check.busy = true ∧
    (ckInvalid s = true → t.host.check.err = 2 ∧ t.host.check.pages = []) ∧ (ckInvalid s = false → t.host.check.err = 0)) ∧
  (∀ (s : State) (failed : Option Nat), ∃ t, exec (.checkpointDone failed) s = .next t ∧ (s.host.check.busy = false → t = s) ∧
    (s.host.check.busy = true → (∃ i ∈ s.host.check.shoots, (find? s.ctl.shoots i).isSome) →
      t = { s with timers := s.timers ++ [(s.cycle + 1, .checkpointDone failed)] }) ∧
    (s.host.check.busy = true → (∀ i ∈ s.host.check.shoots, find? s.ctl.shoots i = none) →
      s.host.check.copied + s.host.check.pages.length < 2 ^ 60 → t.host.check.busy = false ∧
      ∃ p bytes, t.host.out.getLast? = some (.write p s.host.check.status_at bytes) ∧ bytes.length = 8 ∧
        joinBytes bytes / 2 ^ 60 = 8 + t.host.check.status.toNat) ∧
    (s.host.check.busy = true → (∀ i ∈ s.host.check.shoots, find? s.ctl.shoots i = none) →
      (s.host.check.err ≠ 0 → t.host.check.status = s.host.check.err) ∧
      (s.host.check.err = 0 →
        (t.host.check.status = 3 ↔ ∃ i, PoisonedPage s i ∧ ∀ f, failed = some f → ¬(s.host.check.copied ≤ f ∧ f < s.host.check.copied + i)) ∧
        (t.host.check.status = 0 ↔ failed = none ∧ ∀ i, ¬PoisonedPage s i))))

namespace Sys2Proof.Machine

/-! ### Pools, domains and registers that name teams -/

/-- A domain command ends with a status (R180). -/
def DomainEnds (s : State) (n : BitVec 3) : State := { s with sched := { s.sched with dcmd := { s.sched.dcmd with status := n } } }

/-- A domain's entry is valid and stands in local memory (R179). -/
def DomainHere (s : State) (dom : Nat) : Prop :=
  (wordIn s (s.sched.dtbase.toNat + 64 * dom)).getLsbD 63 = true ∧ s.sched.dtbase.toNat + 64 * dom + 64 ≤ localLimit

/-- Eight bytes of local memory written as they are (R267). -/
def PutDword (s : State) (a v : Nat) : State := homeWrite s .clear a (spread 8 v)

/-- What the engine knows of the domains' lists is taken anew, as in `t` (DEDUCED from R5 and R168). -/
def Retaken (s t : State) : State := { s with sched := { s.sched with owned := t.sched.owned } }

/-- The argument of a push is misaligned (R180). -/
def PushMisaligned (a : Word) : Prop :=
  a.toNat % 2 ^ 16 ≠ 0 ∨ a.toNat / 2 ^ 40 ≠ 0 ∨ a.toNat / 2 ^ 16 % 2 ^ 24 = 0 ∨ 0xC000000000 ≤ a.toNat

/-- A push onto the list whose head and count stand at `off` and `off + 8` of the entry (R179, R180). -/
def Pushes (e : Nat → Instr) (off : Nat) : Prop :=
  ∀ (s : State) (dom : Nat), ∃ t, exec (e dom) s = .next t ∧
    ((wordIn s (s.sched.dtbase.toNat + 64 * dom)).getLsbD 63 = false → t = DomainEnds s 1) ∧
    (DomainHere s dom → PushMisaligned s.sched.dcarg → t = DomainEnds s 2) ∧
    (DomainHere s dom → ¬PushMisaligned s.sched.dcarg → s.sched.dcarg.toNat + 8 ≤ localLimit →
      ∀ entry head count, entry = s.sched.dtbase.toNat + 64 * dom + off → head = rawRead s entry 8 → count = rawRead s (entry + 8) 8 →
        ∃ c, c / 2 ^ 40 = count / 2 ^ 40 ∧ c % 2 ^ 40 = (count + 1) % 2 ^ 40 ∧
          t = DomainEnds (Retaken (PutDword (PutDword (PutDword s s.sched.dcarg.toNat (head / 2 ^ 16 % 2 ^ 24 * 2 ^ 16)) entry s.sched.dcarg.toNat)
            (entry + 8) c) t) 0 ∧ ∀ a, find? t.sched.owned dom = some a → s.sched.dcarg.toNat ∈ a.free)

/-- A team's yield becomes pending (R151, R152). -/
def YieldDue (s : State) (cause : Nat) : Grace :=
  { cause := cause, nocan := true, units := s.sched.gunits.toNat, until_ := s.cycle + 20 * s.sched.gtime.toNat }

end Sys2Proof.Machine

/-- BPADD adds to the selected pool's balance with saturation, and what it funds is looked at again (R169, R172); the domain commands change QUOTA, the lists and USED of a valid
entry (R180); BREV makes a team's yield pending with cause 3 (R177); KILLT kills the team it names (R340). -/
def Obligations.PoolsAndDomains : Prop :=
  (∀ (s : State) (v : Word), ∃ t, exec (.poolAdd v) s = .next t ∧
    (∃ l, t = { s with sched := { s.sched with pools := t.sched.pools }, work := s.work ++ l } ∧ (∀ e ∈ l, ∃ d, e = .dispatchDecision d) ∧
      ∀ die n x, slotAt s die n = some x → n < 256 → die < 8 → .dispatchDecision die ∈ t.work) ∧
    (∀ n, n ≠ s.sched.bpidx.toNat → poolOf t n = poolOf s n) ∧
    ∀ p, p = poolOf s s.sched.bpidx.toNat →
      (v.getLsbD 63 = false → ∃ b, poolOf t s.sched.bpidx.toNat = { p with ib := b } ∧ b.toNat = min (p.ib.toNat + v.toNat % 2 ^ 48) (2 ^ 64 - 1)) ∧
      (v.getLsbD 63 = true → ∃ b, poolOf t s.sched.bpidx.toNat = { p with tb := b } ∧ b.toNat = min (p.tb.toNat + v.toNat % 2 ^ 48) (2 ^ 64 - 1))) ∧
  (∀ (s : State) (dom : Nat), ∃ t, exec (.domainSetQuota dom) s = .next t ∧
    ((wordIn s (s.sched.dtbase.toNat + 64 * dom)).getLsbD 63 = false → t = DomainEnds s 1) ∧
    (DomainHere s dom → ∃ w, w / 2 ^ 40 = rawRead s (s.sched.dtbase.toNat + 64 * dom) 8 / 2 ^ 40 ∧ w % 2 ^ 40 = s.sched.dcarg.toNat % 2 ^ 40 ∧
      t = DomainEnds (PutDword s (s.sched.dtbase.toNat + 64 * dom) w) 0)) ∧
  (∀ (s : State) (dom : Nat), ∃ t, exec (.domainSubtractUsed dom) s = .next t ∧
    ((wordIn s (s.sched.dtbase.toNat + 64 * dom)).getLsbD 63 = false → t = DomainEnds s 1) ∧
    (DomainHere s dom → ∃ w, w / 2 ^ 40 = rawRead s (s.sched.dtbase.toNat + 64 * dom + 8) 8 / 2 ^ 40 ∧
      w % 2 ^ 40 = rawRead s (s.sched.dtbase.toNat + 64 * dom + 8) 8 % 2 ^ 40 - s.sched.dcarg.toNat % 2 ^ 40 ∧
      t = DomainEnds (Retaken (PutDword s (s.sched.dtbase.toNat + 64 * dom + 8) w) t) 0)) ∧
  Pushes .domainPushPage 16 ∧ Pushes .domainPushSaveBlock 32 ∧
  (∀ (s : State) (v : Word), ∃ t, exec (.teamRevoke v) s = .next t ∧
    ((∀ tm, ¬Named s (v.toNat % 2 ^ 32) tm) → t = s) ∧
    (∀ tm, Named s (v.toNat % 2 ^ 32) tm → (tm.exempt = true → t = s) ∧
      (tm.exempt = false → tm.pend = none → t = { s with
        teams := t.teams, timers := s.timers ++ [(s.cycle + 20 * s.sched.gtime.toNat, .graceExpiry (v.toNat % 2 ^ 16))] } ∧
        ∀ k, find? t.teams k = if k = v.toNat % 2 ^ 16 then some { tm with pend := some (YieldDue s 3) } else find? s.teams k) ∧
      (tm.exempt = false → ∀ g, tm.pend = some g → t = { s with teams := t.teams } ∧
        ∀ k, find? t.teams k = if k = v.toNat % 2 ^ 16 then some { tm with pend := some { g with nocan := true } } else find? s.teams k))) ∧
  (∀ (s : State) (v : Word), ∃ t, exec (.killtWrite v) s = .next t ∧
    ((∀ tm, ¬Named s (v.toNat % 2 ^ 32) tm) → t = s) ∧
    (∀ tm, Named s (v.toNat % 2 ^ 32) tm → TeamGone (v.toNat % 2 ^ 16) tm t ∧
      ∀ k, k = look .reset s.sched.kills (tm.cluster / 48) → look .reset t.sched.kills (tm.cluster / 48) =
        if k.valid = true then { k with ovf := true }
        else { valid := true, ovf := false, kcode := 0x05, fcode := 0, team := BitVec.ofNat 32 v.toNat }))

namespace Sys2Proof.Machine

/-! ### Slots, refills and arrivals -/

/-- The queue that a die maps next (R92): the first that waits in the lowest class below its share, or else in the lowest class. -/
def MapsNext (s : State) (die q : Nat) : Prop :=
  ∃ c, c < 8 ∧ firstWaiting s die c = some q ∧
    ((classSlots s die c < shareOf s c ∧ ∀ d, d < c → firstWaiting s die d = none ∨ shareOf s d ≤ classSlots s die d) ∨
      ((∀ d, d < 8 → firstWaiting s die d = none ∨ shareOf s d ≤ classSlots s die d) ∧ ∀ d, d < c → firstWaiting s die d = none))

/-- A queue's descriptor stands in local memory (R83). -/
def DescriptorHere (s : State) (q : Nat) : Prop := s.host.qtbase.toNat + 64 * q + 64 ≤ localLimit

/-- The slot's timers: after 20 µs idle, and at the end of its quantum (R91, R92). -/
def slotTimers (s : State) (die n : Nat) : List (Nat × Instr) := [(s.cycle + 25000, .idleUnmap die n), (s.cycle + 25000, .quantumEnd die n)]

/-- Arrivals one after another. -/
inductive Arrivals : State → List Arrival → State → Prop where
  | nil (s : State) : Arrivals s [] s
  | cons (s u t : State) (r : Arrival) (l : List Arrival) (h : exec (.recordArrival r) s = .next u) (g : Arrivals u l t) : Arrivals s (r :: l) t

/-- An ENQ's status becomes due, and a record that was not taken gives its budget back (R122, R171). -/
def EnqAnswered (s t : State) (sid seq status : Nat) : Prop :=
  PendChanged s t sid seq (fun x => { x with writes := x.writes.map (fun d => (d.1, BitVec.ofNat 64 status)), await := .nothing }) ∧ .resultWriteback sid seq ∈ t.work

/-- The budget of a record that was not taken, given back to the team (R171). -/
def Refunded (s t : State) (sid ib tb : Nat) : Prop :=
  ∀ st tm, find? s.streams sid = some st → find? s.teams st.team = some tm → ∃ a b, a.toNat = min (tm.ib.toNat + ib) (2 ^ 32 - 1) ∧
    b.toNat = min (tm.tb.toNat + tb) (2 ^ 32 - 1) ∧ find? t.teams st.team = some { tm with ib := a, tb := b } ∧
    ∀ k, k ≠ st.team → find? t.teams k = find? s.teams k

/-- The engine's first fault record of a die, or its overflow (R136). -/
def Logged (s t : State) (die code : Nat) : Prop :=
  ∀ f, f = look .reset s.sched.faults die → (f.valid = true → look .reset t.sched.faults die = { f with ovf := true }) ∧
    (f.valid = false → ∃ g, look .reset t.sched.faults die = g ∧ g.valid = true ∧ g.ovf = false ∧ g.code = BitVec.ofNat 8 code)

end Sys2Proof.Machine

/-- A queue that waits is mapped into a free slot with its saved records; a slot that has nothing to dispatch, or whose quantum is over
while another waits, is unmapped; refills read the resume ring and then the ring; late returns arrive again; an interrupt's interval ends
(R81, R88, R91, R92, R111, R113, R135). -/
def Sys2Proof.Machine.SlotsAndRefillsHold : Prop :=
  (∀ (s : State) (die : Nat), ∃ t, exec (.queueMap die) s = .next t ∧
    ((∀ q, ¬MapsNext s die q) → t = s) ∧ ((∀ n, n < 256 → slotAt s die n ≠ none) → t = s) ∧
    (∀ q n l, MapsNext s die q → n < 256 → slotAt s die n = none → (∀ m, m < n → slotAt s die m ≠ none) → DescriptorHere s q →
      readRecs s q 2 5 (viewQ s q).spill (viewQ s q).spcnt 0 = some l →
      find? t.host.slots (256 * die + n) = some { queue := q, recs := l, refill := 0, deficit := 0, quantum := s.cycle + 25000, busy := s.cycle
                                                  head := s.cycle, promoted := none, unfit := none, claim := none } ∧
      (∀ k, k ≠ 256 * die + n → find? t.host.slots k = find? s.host.slots k) ∧ (viewQ t q).mapped = true ∧ (viewQ t q).slot = n ∧
      (viewQ t q).spcnt = 0 ∧ (viewQ t q).pending = false ∧ (∀ e ∈ slotTimers s die n, e ∈ t.timers) ∧ .refillStart die n ∈ t.work ∧
      (l ≠ [] → .dispatchDecision die ∈ t.work))) ∧
  (∀ (s : State) (die n : Nat), ∃ t, exec (.idleUnmap die n) s = .next t ∧ (slotAt s die n = none → t = s) ∧
    (∀ x, slotAt s die n = some x →
      (n < 256 → x.recs = [] → x.refill = 0 → x.busy + 25000 ≤ s.cycle → (∃ q, MapsNext s die q) → DescriptorHere s x.queue →
        find? t.host.slots (256 * die + n) = none ∧ (viewQ t x.queue).mapped = false ∧ (viewQ t x.queue).spcnt = 0 ∧ .queueMap die ∈ t.work))) ∧
  (∀ (s : State) (die n : Nat), (∀ e ∈ s.host.slots, e.1 = 256 * die + n → e.2.recs ≠ [] ∨ e.2.refill ≠ 0 ∨ s.cycle < e.2.busy + 25000) ∨
    (∀ q, ¬MapsNext s die q) → exec (.idleUnmap die n) s = .next s) ∧
  (∀ (s : State) (die n : Nat), ∃ t, exec (.quantumEnd die n) s = .next t ∧ (slotAt s die n = none → t = s) ∧
    (∀ x, slotAt s die n = some x → (s.cycle < x.quantum → t = s) ∧ (x.quantum ≤ s.cycle → ∀ c, c = (viewQ s x.queue).cls →
      (firstWaiting s die c ≠ none ∨ (shareOf s c < classSlots s die c ∧
          ∃ k, k < 8 ∧ k ≠ c ∧ classSlots s die k < shareOf s k ∧ firstWaiting s die k ≠ none) →
        find? t.host.slots (256 * die + n) = none ∧ .queueMap die ∈ t.work) ∧
      (firstWaiting s die c = none → (classSlots s die c ≤ shareOf s c ∨ ∀ k, k < 8 → k ≠ c →
          shareOf s k ≤ classSlots s die k ∨ firstWaiting s die k = none) →
        ∃ m, s.cycle < m ∧ m ≤ s.cycle + 25000 ∧ (m - x.quantum) % 25000 = 0 ∧ t = { s with
          host := { s.host with slots := t.host.slots }, timers := s.timers ++ [(m, .quantumEnd die n)] } ∧
          ∀ k, find? t.host.slots k = if k = 256 * die + n then some { x with quantum := m } else find? s.host.slots k)))) ∧
  (∀ (s : State) (die n : Nat), ∃ t, exec (.refillStart die n) s = .next t ∧ (slotAt s die n = none → t = s) ∧
    (∀ x v k, slotAt s die n = some x → v = viewQ s x.queue →
      k = min 8 (min (32 - x.recs.length) ((if v.hfed = true then between v.rhead v.rtail else 0) + between v.head v.tail)) →
      (x.refill ≠ 0 ∨ 24 < x.recs.length ∨ k = 0 → t = s) ∧
      (x.refill = 0 → x.recs.length ≤ 24 → k ≠ 0 → t = { s with host := { s.host with slots := t.host.slots }, work := s.work ++ [.refillLand die n] } ∧
        ∀ j, find? t.host.slots j = if j = 256 * die + n then some { x with refill := k, busy := s.cycle } else find? s.host.slots j))) ∧
  (∀ (s : State) (die n : Nat), ∃ t, exec (.refillLand die n) s = .next t ∧
    (slotAt s die n = none ∨ (∃ x, slotAt s die n = some x ∧ x.refill = 0) → t = s) ∧
    (∀ x v a b la lb, slotAt s die n = some x → x.refill ≠ 0 → v = viewQ s x.queue →
      a = (if v.hfed = true then min x.refill (between v.rhead v.rtail) else 0) → b = min (x.refill - a) (between v.head v.tail) →
      readRecs s x.queue 1 v.rlog v.rsbase a v.rhead = some la → readRecs s x.queue 0 v.logsize v.rbase b v.head = some lb →
      DescriptorHere s x.queue →
      (∃ y, find? t.host.slots (256 * die + n) = some y ∧ y.recs = x.recs ++ (la ++ lb) ∧ y.refill = 0 ∧ y.queue = x.queue) ∧
      (viewQ t x.queue).head = (v.head + b) % 2 ^ 32 ∧ (viewQ t x.queue).rhead = (v.rhead + a) % 2 ^ 32 ∧ t.teams = s.teams ∧
      ((keepOf s x.queue).late ≠ [] → .continuationRetry x.queue ∈ t.work))) ∧
  (∀ (s : State) (q : Nat), ∃ t, exec (.continuationRetry q) s = .next t ∧
    ((keepOf s q).late = [] → t = { s with host := { s.host with keeps := t.host.keeps } }) ∧
    ((∀ r ∈ (keepOf s q).late, ∀ a b c d e f, r.origin ≠ .enq a b c d e f) → ∃ u, u = { s with host := { s.host with keeps := u.host.keeps } } ∧
      keepOf u q = { keepOf s q with late := [] } ∧ Arrivals u (keepOf s q).late t)) ∧
  (∀ (s : State) (port vf vector : Nat), ∃ t, exec (.msixIntervalEnd { port := port, vf := vf } vector) s = .next t ∧
    ∀ key, key = (64 * port + vf) * 2048 + vector → (find? s.host.gated key = none → t = s) ∧
      (find? s.host.gated key = some 0 → t = { s with host := { s.host with gated := t.host.gated } } ∧ find? t.host.gated key = none) ∧
      (∀ n, find? s.host.gated key = some (n + 1) → s.host.ithr ≠ 0 → find? t.host.gated key = some 0 ∧
        (s.cycle + 1250 * s.host.ithr.toNat, .msixIntervalEnd { port := port, vf := vf } vector) ∈ t.timers))

/-- Records that arrive (R110, R113, R122, R135, R136): an ENQ is refused with status 1 by a queue that is disabled, in error or host-fed,
and with status 2 when the ring is full, its budget given back; it goes on chip while the ring is empty and fewer than 32 records are
there; a continuation of a queue that is disabled or in error is dropped with code 0x08. -/
def Sys2Proof.Machine.RecordArrivalsHold : Prop :=
  (∀ (s : State) (r : Arrival) (st0 ln seq ib tb : Nat) (priv : Bool) (sid : Nat) (p : Pending), r.origin = .enq st0 ln seq ib tb priv →
    findPend s seq = some (sid, p) → ∃ t, exec (.recordArrival r) s = .next t ∧ ∀ v, v = viewQ s r.queue →
      (v.enable = false ∨ v.err = true ∨ v.hfed = true → EnqAnswered s t sid seq 1 ∧ Refunded s t sid ib tb ∧ t.host = s.host ∧ t.mem = s.mem) ∧
      (v.enable = true → v.err = false → v.hfed = false → 2 ^ v.logsize ≤ between v.head v.tail →
        EnqAnswered s t sid seq 2 ∧ Refunded s t sid ib tb ∧ t.host.slots = s.host.slots ∧ t.mem = s.mem) ∧
      (∀ x, v.enable = true → v.err = false → v.hfed = false → v.hostq = false → v.mapped = true → slotAt s v.die v.slot = some x →
        v.head = v.tail → x.recs.length < 32 → EnqAnswered s t sid seq 0 ∧ t.teams = s.teams ∧
        .dispatchDecision v.die ∈ t.work ∧ ∃ y, slotAt t v.die v.slot = some y ∧
          y.recs = x.recs ++ [{ words := r.words, exempt := r.exempt, owner := none, again := none, grid := none }])) ∧
  (∀ (s : State) (r : Arrival) (b : Nat), r.origin = .back b → ∃ t, exec (.recordArrival r) s = .next t ∧ ∀ v, v = viewQ s r.queue →
    (v.enable = false ∨ v.err = true → find? s.sched.images b = none → bitsW (nth 0 r.words 2) 54 0 = 0 → Logged s t v.die 0x08 ∧ t.teams = s.teams ∧
      t.host.slots = s.host.slots) ∧
    (v.enable = true → v.err = false → v.hfed = true → 2 ^ v.rlog ≤ between v.rhead v.rtail →
      t = { s with host := { s.host with keeps := t.host.keeps } } ∧ (keepOf t r.queue).late = (keepOf s r.queue).late ++ [r])) ∧
  (∀ (s : State) (r : Arrival), r.origin = .join → ∃ t, exec (.recordArrival r) s = .next t ∧ ∀ v, v = viewQ s r.queue →
    (v.enable = false ∨ v.err = true ∨ v.hfed = true ∨ v.tag ≠ r.tag → Logged s t v.die 0x08 ∧ t.host = s.host ∧ t.mem = s.mem))

/-- Slots, refills and records that arrive. -/
def Obligations.SlotsAndArrivals : Prop :=
  Sys2Proof.Machine.SlotsAndRefillsHold ∧ Sys2Proof.Machine.RecordArrivalsHold

namespace Sys2Proof.Machine

/-! ### Placement and dispatch -/

/-- Two ranges of registers or units share none. -/
def NoShare (a n b m : Nat) : Prop := a + n ≤ b ∨ b + m ≤ a

/-- A placement gives a shape what it needs of a cluster in use (R118). -/
structure Placed (u : Usage) (sh : Shape) (pl : Placement) : Prop where
  lanes   : pl.pos.length = sh.regs.length ∧ pl.bases.length = sh.regs.length
  once    : pl.pos.Nodup
  free    : ∀ p ∈ pl.pos, p < 128 ∧ p ∉ u.pos
  rows    : ∀ i, i < sh.regs.length / 16 * 16 → ∃ r, r < 8 ∧ nth 0 pl.pos i = 8 * (i % 16) + r ∧ ∀ p, p < 16 → 8 * p + r ∉ u.pos
  aligned : ∀ i, i < sh.regs.length → nth 0 pl.bases i % 32 = 0 ∧ nth 0 pl.bases i + nth 0 sh.regs i ≤ 2048
  regs    : ∀ i, i < sh.regs.length → ∀ e ∈ u.regs, e.1 = nth 0 pl.pos i / 8 → NoShare (nth 0 pl.bases i) (nth 0 sh.regs i) e.2.1 e.2.2
  apart   : ∀ i j, i < j → j < sh.regs.length → nth 0 pl.pos i / 8 = nth 0 pl.pos j / 8 →
    NoShare (nth 0 pl.bases i) (nth 0 sh.regs i) (nth 0 pl.bases j) (nth 0 sh.regs j)
  units   : sh.units ≠ 0 → pl.sc + sh.units ≤ 128 ∧ ∀ e ∈ u.sc, e.2 = 0 ∨ NoShare pl.sc sh.units e.1 e.2

/-- The policy prefers one cluster to another that comes after it, or strictly to one that comes before it (R119). -/
def Prefers (s : State) (strict : Bool) (c d : Nat) : Prop :=
  (s.sched.place = 0 ∧ if strict = true then freePositions s d < freePositions s c else freePositions s d ≤ freePositions s c) ∨
  (s.sched.place = 1 ∧ if strict = true then freePositions s c < freePositions s d else freePositions s c ≤ freePositions s d) ∨
  (s.sched.place = 2 ∧ strict = false)

/-- A slot of a die whose head record can be funded and fits a cluster now, or fails its launch checks (R115, R136, R170). -/
def Candidate (s : State) (die n : Nat) (x : QSlot) : Prop := slotAt s die n = some x ∧ n < 256 ∧ slotState s (256 * die + n) x = some true

/-- A slot's priority class. -/
def slotClass (s : State) (x : QSlot) : Nat := (viewQ s x.queue).cls

/-- The mapped slots of a class, by number. -/
def slotsOfClass (s : State) (die c : Nat) : List Nat := ((dieSlots s die).filter (fun e => decide (slotClass s e.2 = c))).map Prod.fst

/-- The next slot after one, by number, wrapping (R115). -/
def NextSlot (l : List Nat) (n m : Nat) : Prop :=
  m ∈ l ∧ ((n < m ∧ ∀ k ∈ l, n < k → m ≤ k) ∨ ((∀ k ∈ l, k ≤ n) ∧ ∀ k ∈ l, m ≤ k))

/-- A slot's credit grows by its weight, to at most twice its weight; a slot that holds no records has none (R115). -/
def creditSlot (s : State) (die m : Nat) : State :=
  modSlot s die m (fun x => { x with
    deficit := if x.recs = [] then 0 else min (x.deficit + max 1 (viewQ s x.queue).weight) (2 * max 1 (viewQ s x.queue).weight) })

/-- The rotation of R115 in `k` turns, from a slot to the one that is taken. -/
inductive Rotates (die : Nat) (l good : List Nat) : Nat → State → Nat → State → Nat → Prop where
  | stop (s : State) (n : Nat) (x : QSlot) (h : n ∈ good) (g : slotAt s die n = some x) (d : 1 ≤ x.deficit) : Rotates die l good 0 s n s n
  | turn (k : Nat) (s t : State) (n m r : Nat) (h : n ∈ good → ∀ x, slotAt s die n = some x → x.deficit = 0) (g : NextSlot l n m)
      (d : Rotates die l good k (creditSlot s die m) m t r) : Rotates die l good (k + 1) s n t r

/-- Before the choice, a slot without records has its credit cleared, waits for room begin or end, claims may become due, and grids at
the heads of deques are tried again (R132). -/
structure WaitsMarked (s u : State) (die : Nat) : Prop where
  rest   : u = { s with host := { s.host with slots := u.host.slots }, timers := u.timers, work := u.work, sched := { s.sched with decided := put s.sched.decided die s.cycle } }
  slots  : ∀ k x, find? s.host.slots k = some x → ∃ d f, find? u.host.slots k = some { x with deficit := d, unfit := f } ∧
    (k / 256 = die → d = if x.recs = [] then 0 else x.deficit) ∧ (k / 256 ≠ die → d = x.deficit ∧ f = x.unfit)
  others : ∀ k, find? s.host.slots k = none → find? u.host.slots k = none

/-- A new team from a record on a cluster (R106, R107, R118, R174). -/
structure NewTeam (u t : State) (c tk : Nat) (pl : Placement) (sh : Shape) (dom home : Nat) (ws : List Word) : Prop where
  team  : ∃ tm, find? t.teams tk = some tm ∧ tm.cluster = c ∧ tm.domain = dom ∧ tm.home = home ∧ tm.words = ws ∧ tm.scBase = pl.sc ∧
    tm.scUnits = sh.units ∧ tm.ident = BitVec.ofNat 32 (((clusterAt u c).gen + 1).toNat * 65536 + tk)
  lanes : ∀ i, i < sh.regs.length → ∃ la, find? t.lanes (128 * c + nth 0 pl.pos i) = some la ∧ la.team = tk ∧ la.order = i ∧
    la.base = nth 0 pl.bases i ∧ la.alloc = nth 0 sh.regs i ∧ la.priv = 0
  start : .teamStart tk ∈ t.work

/-- The lowest free team number of a cluster (R174). -/
def NextTeam (s : State) (c tk : Nat) : Prop :=
  c < 384 ∧ 128 * c ≤ tk ∧ tk < 128 * c + 128 ∧ find? s.teams tk = none ∧ ∀ k, 128 * c ≤ k → k < tk → find? s.teams k ≠ none

/-- An ordinary record at the head: it continues no grid, builds none and comes back from no save image or kill. -/
def PlainHead (s : State) (x : QSlot) (r : Rec) (l : List Rec) : Prop :=
  x.recs = r :: l ∧ queueGrid s x.queue r = none ∧ recGrid r.words = false ∧ recEntry r.words ≠ 0xFF ∧ r.again = none

end Sys2Proof.Machine

/-- Where a team may go (R118, R119): a placement takes free positions, free aligned registers and free scratchpad, whole rows first, and
SCHX.PLACE decides among the clusters that fit. -/
def Sys2Proof.Machine.PlacementsHold : Prop :=
  (∀ (u : Usage) (sh : Shape) (pl : Placement), fitIn u sh = some pl → Placed u sh pl) ∧
  (∀ (s : State) (a b : List (Nat × Placement)) (e : Nat × Placement), (∀ f ∈ a, Prefers s true e.1 f.1) → (∀ f ∈ b, Prefers s false e.1 f.1) →
    (s.sched.place = 2 → a = []) → s.sched.place ≠ 3 → choosePlace s (a ++ e :: b) = some e)

/-- A die's engine decides at most every 4 cycles: a decision places one team of the earliest promoted candidate, or of the rotation's
choice in the highest class, and the next follows after 4 cycles; a placed head leaves its slot; a promotion is due after DAGE; a placed team's streams start (R115, R116, R140). -/
def Sys2Proof.Machine.DispatchDecisionsHold : Prop :=
  (∀ (s : State) (die d : Nat), find? s.sched.decided die = some d → s.cycle < d + 4 → ∃ t, exec (.dispatchDecision die) s = .next t ∧
    ((d + 4, .dispatchDecision die) ∈ s.timers → t = s) ∧
    ((d + 4, .dispatchDecision die) ∉ s.timers → t = { s with timers := s.timers ++ [(d + 4, .dispatchDecision die)] })) ∧
  (∀ (s : State) (die : Nat), s.host.slots.Pairwise (fun a b => a.1 < b.1) → engineGrids s die = [] →
    (∀ d, find? s.sched.decided die = some d → d + 4 ≤ s.cycle) → ∃ t u, exec (.dispatchDecision die) s = .next t ∧
    WaitsMarked s u die ∧ ((∀ n x, ¬Candidate s die n x) → t = u) ∧
    (∀ n x p, Candidate s die n x → x.promoted = some p →
      (∀ m y q, Candidate s die m y → y.promoted = some q → p < q ∨ (p = q ∧ n ≤ m)) →
      t = pushTimer (placeHead u die n) 4 (.dispatchDecision die)) ∧
    (∀ c k v n, (∀ m y, Candidate s die m y → y.promoted = none ∧ c ≤ slotClass s y) → c < 8 → k < 2048 →
      Rotates die (slotsOfClass s die c) ((slotsOfClass s die c).filter (fun m => (dieSlots s die).any (fun e => decide (e.1 = m) &&
        decide (slotState s (256 * die + m) e.2 = some true)))) k u (look 0 s.sched.cur (8 * die + c)) v n →
      t = pushTimer (placeHead (modSlot { v with sched := { v.sched with cur := put v.sched.cur (8 * die + c) n } } die n
        (fun x => { x with deficit := x.deficit - 1 })) die n) 4 (.dispatchDecision die))) ∧
  -- one team of a head record (R107, R114, R118, R136)
  (∀ (u : State) (die n : Nat) (x : QSlot) (r : Rec) (l : List Rec), slotAt u die n = some x → PlainHead u x r l → ∀ v, v = viewQ u x.queue →
    (∀ code, launchCheck u v.domain r.words = some code → (placeHead u die n).teams = u.teams ∧
      ∃ y, slotAt (placeHead u die n) die n = some y ∧ y.queue = x.queue) ∧
    (∀ c tk pl sh, launchCheck u v.domain r.words = none → choosePlace u (slotFits u (256 * die + n) x r) = some (c, pl) → NextTeam u c tk →
      sh = placeShape u v.domain r.words → sh.regs.length = recGroups r.words * sh.w → 0 < sh.regs.length →
      NewTeam u (placeHead u die n) c tk pl sh v.domain x.queue r.words ∧
      (∃ y, slotAt (placeHead u die n) die n = some y ∧ y.recs = l ∧ y.head = u.cycle ∧ y.promoted = none ∧ y.claim = none) ∧
      (keepOf (placeHead u die n) x.queue).seq = (keepOf u x.queue).seq + 1)) ∧
  (∀ (s : State) (die n : Nat), ∃ t, exec (.recordPromotion die n) s = .next t ∧ (slotAt s die n = none → t = s) ∧
    (∀ x, slotAt s die n = some x → (x.recs = [] ∨ s.sched.dage = 0 ∨ x.promoted ≠ none ∨ s.cycle < x.head + 1250 * s.sched.dage.toNat → t = s) ∧
      (x.recs ≠ [] → s.sched.dage ≠ 0 → x.promoted = none → x.head + 1250 * s.sched.dage.toNat ≤ s.cycle →
        t = { s with host := { s.host with slots := t.host.slots }, work := s.work ++ [.dispatchDecision die] } ∧
        ∀ k, find? t.host.slots k = if k = 256 * die + n then some { x with promoted := some s.cycle } else find? s.host.slots k))) ∧
  (∀ (s : State) (tk : Nat), ∃ t, exec (.teamStart tk) s = .next t ∧ find? t.sched.placing tk = none ∧ t.regs = s.regs ∧
    ∀ e ∈ look [] s.sched.placing tk, ((look [] s.sched.placing tk).map Prod.fst).Nodup → (∀ f ∈ look [] s.sched.placing tk, f.2.pend = []) →
      find? t.streams e.1 = some e.2)

/-- Placement and dispatch decisions. -/
def Obligations.Dispatching : Prop :=
  Sys2Proof.Machine.PlacementsHold ∧ Sys2Proof.Machine.DispatchDecisionsHold

namespace Sys2Proof.Machine

/-- The teams a claim would revoke are of lower class and not exempt, and without them and those already yielding the shape fits (R120). -/
def Revokes (s : State) (c cls : Nat) (sh : Shape) (l : List Nat) : Prop :=
  (∀ k ∈ l, ∃ t, (k, t) ∈ s.teams ∧ t.cluster = c ∧ cls < t.cls ∧ t.exempt = false) ∧
    (fitIn (usageOf s c (l ++ (s.teams.filter (fun e => decide (e.2.cluster = c) && !e.2.exempt && e.2.pend.isSome)).map Prod.fst)) sh).isSome = true

/-- The slot whose record claims a cluster, if any (R120). -/
def claimHolder (s : State) (c : Nat) : Option (Nat × QSlot) := first? (fun _ y => decide (y.claim = some c)) s.host.slots

/-- A grid's node has nothing left to wait for (R130). -/
def NodeReady (g : Grid) (c : Nat) : Prop :=
  g.n ≤ g.next ∧ (look .reset g.nodes c).done = false ∧ (look .reset g.nodes c).sent ≤ (look .reset g.nodes c).ended ∧
    (List.range 4).countP (fun j => decide (4 * nodeIndex g c + 1 + j < g.order.length)) ≤ (look .reset g.nodes c).kids ∧
    (nodeIndex g c = 0 → g.n ≤ (look .reset g.nodes c).ended)

/-- A cluster that may steal (R128). -/
def MaySteal (s : State) (c : Nat) : Prop := s.sched.steal = true ∧ (clusterAt s c).deque = [] ∧ (clusterAt s c).released = true

end Sys2Proof.Machine

/-- A record that has waited for room claims the cluster that costs the fewest teams (R120); a cluster places the head of its deque or leaves
it waiting, and steals the oldest record of the fullest deque (R127, R128); a node reports to its parent (R130). -/
def Obligations.ClaimsAndDeques : Prop :=
  (∀ (s : State) (c cls : Nat) (sh : Shape) (l : List Nat), claimCost s c cls sh = some l → Revokes s c cls sh l) ∧
  (∀ (s : State) (cls : Nat) (sh : Shape) (cs : List Nat) (c : Nat) (l : List Nat), cs.Pairwise (· < ·) → bestClaim s cls sh cs = some (c, l) →
    c ∈ cs ∧ claimCost s c cls sh = some l ∧ ∀ d ∈ cs, ∀ m, claimCost s d cls sh = some m → l.length < m.length ∨ (l.length = m.length ∧ c ≤ d)) ∧
  (∀ (s : State) (die n : Nat), ∃ t, exec (.clusterClaim die n) s = .next t ∧ (slotAt s die n = none → t = s) ∧
    (∀ x, slotAt s die n = some x →
      (x.recs = [] ∨ x.unfit = none ∨ x.claim ≠ none ∨ (∃ w, x.unfit = some w ∧ s.cycle < w + 1250 * s.sched.claim.toNat) → t = s) ∧
      (∀ r rs w v sh cs, x.recs = r :: rs → x.unfit = some w → x.claim = none → w + 1250 * s.sched.claim.toNat ≤ s.cycle → v = viewQ s x.queue →
        sh = placeShape s v.domain r.words →
        cs = (queueClusters s x.queue).filter (fun c => match claimHolder s c with | some e => decide (v.cls < slotClass s e.2) | none => true) →
        (bestClaim s v.cls sh cs = none → t = s) ∧
        (∀ c l, bestClaim s v.cls sh cs = some (c, l) → (∃ y, slotAt t die n = some y ∧ y.claim = some c) ∧ .dispatchDecision die ∈ t.work ∧
          (∀ e, claimHolder s c = some e → e.1 ≠ 256 * die + n → ∃ z, find? t.host.slots e.1 = some z ∧ z.claim = none ∧ z.unfit = none) ∧
          (s.sched.evict = false → t.teams = s.teams) ∧
          (s.sched.evict = true → ∀ k ∈ l, ∀ tm, find? s.teams k = some tm → ∃ tm', find? t.teams k = some tm' ∧ tm'.pend ≠ none))))) ∧
  (∀ (s : State) (c : Nat), ∃ t, exec (.dequePop c) s = .next t ∧ ((clusterAt s c).deque = [] → t = s) ∧
    (∀ r rest, (clusterAt s c).deque = r :: rest → takeDeck s c r = none → s.sched.steal = false → t = s) ∧
    (∀ r rest o pl tk sh, (clusterAt s c).deque = r :: rest → r.owner = some o → launchCheck s o.domain r.words = none → recGrid r.words = false →
      deckFits s c r = some pl → NextTeam s c tk → sh = placeShape s o.domain r.words → sh.regs.length = recGroups r.words * sh.w →
      0 < sh.regs.length →
      NewTeam s t c tk pl sh o.domain o.home r.words ∧ (clusterAt t c).deque = rest ∧ (rest ≠ [] → .dequePop c ∈ t.work))) ∧
  (∀ (s : State) (c : Nat), ∃ t, exec (.dequeSteal c) s = .next t ∧ (¬MaySteal s c → t = s) ∧ (stealVictim s c = none → t = s) ∧
    (MaySteal s c → ∀ k, stealVictim s c = some k → ∃ l r u, (clusterAt s k).deque = l ++ [r] ∧ takeDeck s c r = some u ∧
      t = pushWork (setDeque u k l) (.dequeSteal c))) ∧
  (∀ (s : State) (c k : Nat), s.sched.xsteal = false → stealVictim s c = some k → k ≠ c ∧ k / 48 = c / 48 ∧ partOfCluster s k = partOfCluster s c ∧
    ∀ j, j / 48 = c / 48 → j ≠ c → partOfCluster s j = partOfCluster s c → ∀ l r, (clusterAt s j).deque = l ++ [r] → takeDeck s c r ≠ none →
      (clusterAt s j).deque.length < (clusterAt s k).deque.length ∨ ((clusterAt s j).deque.length = (clusterAt s k).deque.length ∧ k ≤ j)) ∧
  (∀ (s : State) (id c : Nat), ∃ t, exec (.gridNodeReport id c) s = .next t ∧ (find? s.sched.grids id = none → t = s) ∧
    (∀ g, find? s.sched.grids id = some g → (¬NodeReady g c → t = s) ∧
      (NodeReady g c → nodeIndex g c ≠ 0 → ∀ p n, p = nth 0 g.order ((nodeIndex g c - 1) / 4) → n = look .reset g.nodes c → p ≠ c →
        t = { s with sched := { s.sched with grids := t.sched.grids }, work := s.work ++ [.gridNodeReport id p] } ∧
        ∃ g', find? t.sched.grids id = some g' ∧ g' = { g with nodes := g'.nodes } ∧ look .reset g'.nodes c = { n with done := true } ∧
          (∀ q, q = look .reset g.nodes p → look .reset g'.nodes p = { q with sent := q.sent + n.sent, ended := q.ended + n.ended, failed := q.failed + n.failed, ib := q.ib + n.ib, tb := q.tb + n.tb, kids := q.kids + 1 })) ∧
      (NodeReady g c → nodeIndex g c = 0 → ∀ n, n = look .reset g.nodes c →
        t = taskOver { s with sched := { s.sched with grids := del s.sched.grids id } } g.die g.domain (nth 0 g.recd.words 2) none n.ib n.tb
          (decide (0 < n.failed)) g.home g.dseq)))

namespace Sys2Proof.Machine

/-! ### Yields -/

/-- Every group of a team is parked at a continuation point, at a YIELD or has ended, and waits for no transfer (R156, R325). -/
def AllParked (s : State) (tk : Nat) : Prop :=
  ∀ e ∈ s.streams, e.2.team = tk → e.1 < 49152 → (e.2.park = some .cpt ∨ e.2.park = some .yielded) ∧ draining s e.2.group = false

/-- A team that a yield stops now (R152, R156): its yield is pending, its groups are parked or grace has ended, and nothing holds it. -/
def SaveStarts (s : State) (tk : Nat) (tm : Team) (g : Grace) : Prop :=
  find? s.teams tk = some tm ∧ tm.pend = some g ∧ tm.stopped = none ∧ tm.doomed = none ∧ awaitsArrival s tk = false ∧ find? s.sched.placing tk = none ∧
    (AllParked s tk ∨ g.units = 0 ∨ g.until_ ≤ s.cycle)

/-- A team that a yield has stopped (R159). -/
def HasStopped (s : State) (tk : Nat) (tm : Team) (g : Grace) (x : Stopped) : Prop :=
  find? s.teams tk = some tm ∧ tm.pend = some g ∧ tm.stopped = some x

/-- What a yield notes of a team as it stops it (R159, R160, R164). -/
def Noted (s : State) (tk : Nat) (tm : Team) (x : Stopped) : Prop :=
  x.ib = tm.ib.toNat ∧ x.tb = tm.tb.toNat ∧ x.addIb = 0 ∧ x.addTb = 0 ∧ (x.clean = true ↔ AllParked s tk)

/-- A budget of a continuation: the launch budget for causes 1 and 2, else what was left, and the top-ups (R160, R164). -/
def contHalf (cause launch left added : Nat) : Nat := min ((if cause ≤ 2 then launch else left) + added) (2 ^ 32 - 1)

/-- The continuation record of a team (R160, R163, R164). -/
structure Continues (tm : Team) (g : Grace) (x : Stopped) (block : Nat) (ws : List Word) : Prop where
  length : ws.length = 8
  word0  : ∀ i, i < 64 → (nth 0 ws 0).getLsbD i = if 40 ≤ i ∧ i < 48 then true else if i = 12 then false else (nth 0 tm.words 0).getLsbD i
  word1  : (nth 0 ws 1).toNat = contHalf g.cause ((nth 0 tm.words 1).toNat / 2 ^ 32) x.ib x.addIb * 2 ^ 32 +
    contHalf g.cause ((nth 0 tm.words 1).toNat % 2 ^ 32) x.tb x.addTb
  word2  : nth 0 ws 2 = if tm.node = none then nth 0 tm.words 2 else 0
  word3  : nth 0 ws 3 = nth 0 tm.words 3
  word4  : nth 0 ws 4 = BitVec.ofNat 64 block
  word5  : nth 0 ws 5 = BitVec.ofNat 64 (tm.ti * 2 ^ 32 + tm.home * 2 ^ 16 + match tm.node with | some n => n.2 | none => 0xFFFF)
  word6  : ∀ i, i < 64 → (nth 0 ws 6).getLsbD i = if 32 ≤ i ∧ i < 48 then false else tm.dseq.getLsbD i
  word7  : nth 0 ws 7 = BitVec.ofNat 64 (g.cause * 256 + if x.clean = true then 1 else 2)

/-- The lanes of a team stand in order, each with an allocation that a pipeline can hold. -/
def LanesInOrder (s : State) (tk : Nat) : Prop :=
  s.lanes.Pairwise (fun a b => a.1 ≠ b.1) ∧ (∀ e ∈ s.lanes, e.2.team = tk → e.1 < 49152 → e.2.alloc ≤ 2048) ∧
    ∀ e ∈ s.lanes, ∀ f ∈ s.lanes, e.2.team = tk → f.2.team = tk → e.1 < 49152 → f.1 < 49152 → e.2.order = f.2.order → e = f

/-- What an image keeps of a lane's registers: those live at a continuation point, or every one (R158). -/
def KeepsRegisters (s : State) (tk : Nat) (im : Image) : Prop :=
  ∀ e ∈ s.lanes, e.2.team = tk → e.1 < 49152 → ∀ st, find? s.streams e.2.stream = some st → ∀ o, o < e.2.alloc →
    (st.park ≠ some .cpt ∨ (st.wbase.toNat ≤ o ∧ o < st.wbase.toNat + st.contlive.toNat)) →
    look 0 im.regs (2048 * e.2.order + o) = look 0 s.regs (pipeOf e.1 * 2048 + e.2.base + o)

/-- The blocks of a clean yield (R166). -/
def cleanSize (s : State) (tk : Nat) : Nat :=
  1 + (((teamStreams s tk).map (fun e => (onesOf e.2.members).length * e.2.contlive.toNat * 8)).sum +
    (s.groups.countP (fun e => decide (e.2.team = tk) && decide (e.1 < 49152) && !groupEnded e.2)) * 2048 + 65535) / 65536

end Sys2Proof.Machine

/-- The end of grace starts the yield; a yield that is due stops the team and notes its budgets, and then saves it in blocks of its domain's
arena, frees it and sends its continuation home, or kills it when the arena holds too few or a late fault was found; a yield that is not
due changes nothing (R152, R156, R158, R159, R160, R163, R164, R166). -/
def Obligations.Yields : Prop :=
  (∀ (s : State) (tk : Nat), ∃ t, exec (.graceExpiry tk) s = .next t ∧
    ((∀ tm g, find? s.teams tk = some tm → tm.pend = some g → g.units ≠ 0 ∧ s.cycle < g.until_) → t = s) ∧
    (∀ tm g, find? s.teams tk = some tm → tm.pend = some g → g.units = 0 ∨ g.until_ ≤ s.cycle → t = { s with work := s.work ++ [.teamYield tk] })) ∧
  (∀ (s : State) (tk : Nat), (∀ tm g, ¬SaveStarts s tk tm g) → (∀ tm g x, ¬HasStopped s tk tm g x) → exec (.teamYield tk) s = .next s) ∧
  (∀ (s u : State) (tk : Nat) (tm tm' : Team) (g : Grace), SaveStarts s tk tm g → u = stopTeam s tk tm → find? u.teams tk = some tm' →
    ∃ t v x, exec (.teamYield tk) s = .next t ∧ Noted s tk tm x ∧ v = { u with teams := v.teams } ∧
      (∀ k, find? v.teams k = if k = tk then some { tm' with stopped := some x } else find? u.teams k) ∧
      (∀ k f, tm'.doomed = some (k, f) → t = killTeam v tk k f) ∧ (tm'.doomed = none → tm'.late ≠ [] → t = killTeam v tk 0x04 0) ∧
      (tm'.doomed = none → tm'.late = [] → t = v)) ∧
  (∀ (s : State) (tk : Nat) (tm : Team) (g : Grace) (x : Stopped), HasStopped s tk tm g x → ∃ t, exec (.teamYield tk) s = .next t ∧
    (∀ k f, tm.doomed = some (k, f) → t = killTeam s tk k f) ∧
    (tm.doomed = none → x.clean = false → saveBad s tk tm = true → t = killTeam s tk 0x02 0) ∧
    (tm.doomed = none → x.clean = true ∨ saveBad s tk tm = false → ∃ m n, m = { s with free := m.free } ∧
      (x.clean = true → (∀ e ∈ teamStreams s tk, e.2.park = some .cpt) → n = cleanSize s tk) ∧ (x.clean = false → 0 < n ∧ n ≤ 18) ∧
      (takeBlocks tm.domain n m = none → t = killTeam s tk 0x03 0) ∧
      (∀ v first rest, takeBlocks tm.domain n m = some (v, first :: rest) → TeamGone tk tm t ∧ (∃ im ws tag,
        find? t.sched.images first = some im ∧ im.blocks = first :: rest ∧
        (LanesInOrder s tk → KeepsRegisters s tk im) ∧ Continues tm g x first ws ∧
        Instr.recordArrival { queue := tm.home, tag := tag, words := ws, origin := .back first, exempt := tm.exempt } ∈ t.work))))

namespace Sys2Proof.Machine

/-! ### The vault -/

/-- A partition is active with its context in its clusters, or in the vaults (R95, R184). -/
def InClusters (s : State) (p : Nat) (e : List Word) : Prop := find? s.host.parts p = some (e, false)
def InVault (s : State) (p : Nat) (e : List Word) (x : Context) : Prop := find? s.host.parts p = some (e, true) ∧ find? s.sched.vaults p = some x

/-- Two partition entries name a cluster in common. -/
def ShareCluster (e f : List Word) : Prop := ∃ c, c < 384 ∧ partHasCluster e c = true ∧ partHasCluster f c = true

/-- A pipeline of a partition's clusters. -/
def pipeIn (e : List Word) (p : Nat) : Prop := p < 6144 ∧ partHasCluster e (p / 16) = true

/-- The command's status; nothing else changes. -/
def VaultEnds (s : State) (n : BitVec 3) : State := { s with sched := { s.sched with vcmd := { s.sched.vcmd with status := n } } }

/-- The context of halted clusters has left them for the vaults; the other clusters keep theirs (R186). -/
structure Stowed (h t : State) (p : Nat) (e : List Word) : Prop where
  there  : ∃ x, InVault t p e x ∧
    (∀ k tm, find? h.teams k = some tm → tm.cluster < 384 → partHasCluster e tm.cluster = true →
      find? x.teams k = some { tm with pend := tm.pend.map (fun g => { g with until_ := g.until_ - h.cycle }) }) ∧
    (∀ pos, pos < 49152 → partHasCluster e (clusterOf pos) = true → find? x.lanes pos = find? h.lanes pos) ∧
    (∀ a, pipeIn e (a / 2048) → look 0 x.regs a = look 0 h.regs a) ∧
    (∀ a, a / 524288 < 384 → partHasCluster e (a / 524288) = true → look 0 x.scratch a = look 0 h.scratch a) ∧
    (∀ a, pipeIn e (a / 4096) → look 0 x.tiles a = look 0 h.tiles a)
  gone   : ∀ f ∈ t.teams, f.2.cluster < 384 → partHasCluster e f.2.cluster = false
  others : ∀ k tm, find? h.teams k = some tm → (∀ f ∈ h.teams, f.1 = k → f.2.cluster < 384 → partHasCluster e f.2.cluster = false) →
    find? t.teams k = some tm
  regs   : ∀ a, a / 2048 < 6144 → look 0 t.regs a = if partHasCluster e (a / 2048 / 16) = true then 0 else look 0 h.regs a

/-- A context has moved back into its clusters (R186). -/
structure Unstowed (s t : State) (p : Nat) (e : List Word) (x : Context) : Prop where
  back    : find? t.host.parts p = some (e, false)
  empty   : find? t.sched.vaults p = none
  lanes   : x.lanes.Pairwise (fun a b => a.1 < b.1) → ∀ k la, find? x.lanes k = some la → find? t.lanes k = some la
  regs    : x.regs.Pairwise (fun a b => a.1 < b.1) → ∀ a v, find? x.regs a = some v → find? t.regs a = some v
  scratch : x.scratch.Pairwise (fun a b => a.1 < b.1) → ∀ a v, find? x.scratch a = some v → find? t.scratch a = some v
  looks   : ∀ c, c < 384 → partHasCluster e c = true → .dequePop c ∈ t.work

end Sys2Proof.Machine

/-- STOW halts a partition's clusters and moves their context into the vaults, SWAP exchanges two contexts of the same clusters and
RESTORE moves one back, each with its status when it cannot; both wait while a hart that the context needs is busy (R184 to R186; the
wait is the model's reading). -/
def Obligations.Vaults : Prop :=
  (∀ (s : State) (out : Nat), ∃ t, exec (.vaultStow out) s = .next t ∧ ((∀ e, ¬InClusters s out e) → t = VaultEnds s 1) ∧
    (∀ e, InClusters s out e →
      ((∃ f ∈ s.host.parts, f.2.2 = true ∧ ShareCluster e f.2.1) → t = VaultEnds s 4) ∧
      ((∀ f ∈ s.host.parts, f.2.2 = true → ¬ShareCluster e f.2.1) → t.sched.vcmd.status = 0 ∧
        Stowed (haltClusters s (entryClusters e)) t out e ∧ ∀ c, c < 384 → partHasCluster e c = true → .dequePop c ∈ t.work))) ∧
  (∀ (s : State) (out inn : Nat), ∃ t, exec (.vaultSwap out inn) s = .next t ∧ ((∀ e, ¬InClusters s out e) → t = VaultEnds s 1) ∧
    (∀ e, InClusters s out e → ((∀ f x, ¬InVault s inn f x) → t = VaultEnds s 2) ∧
      (∀ f x, InVault s inn f x →
        ((∃ c, c < 384 ∧ partHasCluster e c ≠ partHasCluster f c) → t = VaultEnds s 3) ∧
        ((∀ c, c < 384 → partHasCluster e c = partHasCluster f c) → ∃ u, u.sched.vcmd.status = 0 ∧
          Stowed (haltClusters s (entryClusters e)) u out e ∧
          ((∀ h ∈ x.harts, h.2.run ≠ none → (look .reset u.harts h.1).run = none) → Unstowed u t inn f x) ∧
          ((∃ h ∈ x.harts, h.2.run ≠ none ∧ (look .reset u.harts h.1).run ≠ none) →
            t = { s with timers := s.timers ++ [(s.cycle + 1, .vaultSwap out inn)] }))))) ∧
  (∀ (s : State) (inn : Nat), ∃ t, exec (.vaultRestore inn) s = .next t ∧ ((∀ f x, ¬InVault s inn f x) → t = VaultEnds s 2) ∧
    (∀ f x, InVault s inn f x →
      ((∃ g ∈ s.host.parts, g.2.2 = false ∧ ShareCluster f g.2.1) → t = VaultEnds s 5) ∧
      ((∀ g ∈ s.host.parts, g.2.2 = false → ¬ShareCluster f g.2.1) →
        ((∀ h ∈ x.harts, h.2.run ≠ none → (look .reset s.harts h.1).run = none) → t.sched.vcmd.status = 0 ∧ Unstowed s t inn f x) ∧
        ((∃ h ∈ x.harts, h.2.run ≠ none ∧ (look .reset s.harts h.1).run ≠ none) →
          t = { s with timers := s.timers ++ [(s.cycle + 1, .vaultRestore inn)] }))))

/-- What happens beside the instruction streams: a walk that ends installs the leaf it found, the scrubber counts and poisons, a stream that
waited for a role queue looks again, an engine hart starts the routine of its next kick, a load without a reply fails, a buffer at its age
limit leaves, and the second egress queue sends (R39, R61, R70, R199, R255, R273, R336, R476, R481). -/
def Obligations.Background : Prop :=
  (∀ (s : State) (tlb dom : Nat) (va : Word), ∃ t, exec (.pageWalkDone tlb dom va) s = .next t ∧ (2 ^ 55 ≤ va.toNat → t = s) ∧
    (∀ f, walk s dom va.toNat = .error f → t = s) ∧
    (∀ e, walk s dom va.toNat = .ok e → (e.pte.getLsbD 0 = false → t = s) ∧
      (va.toNat < 2 ^ 55 → e.pte.getLsbD 0 = true → Installed s t (if tlb < 384 then [tlb, 384 + tlb / 48] else [tlb]) e))) ∧
  (∀ (s : State) (q o : Nat), ∃ t, exec (.patrolScrub q o) s = .next t ∧
    (s.ctl.scrubEn = false ∨ localLimit ≤ q * 256 ∨ (o ≠ 1 ∧ o ≠ 2) → t = s) ∧
    (s.ctl.scrubEn = true → q * 256 < localLimit → (o = 1 → t = { s with ctl := { s.ctl with memce := s.ctl.memce + 1 } }) ∧
      (o = 2 → t = { s with poison := t.poison, ctl := t.ctl } ∧ (∀ k, k ∈ t.poison ↔ k ∈ s.poison ∨ k = q) ∧ t.ctl.ueValid = true ∧
        t.ctl.ueCount = (if s.ctl.ueCount = 255 then 255 else s.ctl.ueCount + 1) ∧
        t.ctl.ueSector = if s.ctl.ueValid = true then s.ctl.ueSector else BitVec.ofNat 32 q))) ∧
  (∀ (s : State) (sid : Nat), ∃ t, exec (.roleQueueRetry sid) s = .next t ∧
    ((∀ st, find? s.streams sid = some st → st.park ≠ some .roleQueue) → t = s) ∧
    (∀ st, find? s.streams sid = some st → st.park = some .roleQueue → t = { s with streams := t.streams } ∧
      ∀ k, find? t.streams k = if k = sid then some { st with park := none } else find? s.streams k)) ∧
  (∀ (s : State) (h : Nat), ∃ t, exec (.engineRoutineStart h) s = .next t ∧
    ((look .reset s.harts h).run ≠ none ∨ (look .reset s.harts h).fifo = [] → t = s) ∧
    (∀ x k rest tm word entry, x = look .reset s.harts h → x.run = none → x.fifo = k :: rest → Named s k.team.toNat tm →
      scratchBad s tm k.block 64 = false → word = gather (fun o => look 0 s.scratch (padAt tm o)) 8 (k.block + 8) →
      entry = gather (fun o => look 0 s.scratch (padAt tm o)) 8 k.block →
      (word % 8 ≠ 0 ∨ ownBytes tm < word + 32 → ∃ tm', find? t.teams (k.team.toNat % 65536) = some tm' ∧ tm'.doomed ≠ none ∧ t.scratch = s.scratch ∧
        (tm.doomed = none → tm'.doomed = some (0x06, 0)) ∧ t.streams = s.streams) ∧
      (word % 8 = 0 → word + 32 ≤ ownBytes tm → ∀ pc, entry < 256 → entryPc s tm.geode entry = some pc →
        (∃ y, find? t.harts h = some y ∧ y.fifo = rest ∧ y.run = some k ∧ y.word = word ∧
          y.value = BitVec.ofNat 64 (gather (fun o => look 0 s.scratch (padAt tm o)) 8 (k.block + 16))) ∧
        (∃ st, find? t.streams (hartPos h) = some st ∧ st.pc = pc ∧ st.hart = some h ∧ st.team = k.team.toNat % 65536 ∧ st.stack = []) ∧
        (∀ n, n < 5 → look 0 t.regs (pipeOf (hartPos h) * 2048 + 3 + n) =
          BitVec.ofNat 64 (gather (fun o => look 0 s.scratch (padAt tm o)) 8 (k.block + 24 + 8 * n))) ∧
        (∀ a, a / 2048 ≠ pipeOf (hartPos h) → look 0 t.regs a = look 0 s.regs a) ∧ t.mem = s.mem ∧ t.scratch = s.scratch ∧ t.teams = s.teams))) ∧
  (∀ (s : State) (tag : Nat), ∃ t, exec (.rldTimeout tag) s = .next t ∧
    ((∀ f ∈ s.fab.flights, isLoad f = true → f.tag = tag → ¬Overdue s f) → t = s) ∧
    (∀ f st0 seq sid q a n, Flying s (fun f => isLoad f && decide (f.tag = tag) && overdue s f) f → f.what = .load st0 seq → Awaits s seq sid q →
      q.await = .reply f.tag a n → Landed s t f ∧ t.work = s.work ++ [.resultWriteback sid seq] ∧ t.mem = s.mem ∧
      PendChanged s t sid seq (fun x => { x with
        writes := [], await := .fails { lane := x.lane, code := 0x19, addr := a, detail := 3, pc := x.pc } }))) ∧
  (∀ (s : State) (n : Nat), ∃ t, exec (.comaAgeLimit n) s = .next t ∧ (find? s.fab.buffers n = none → t = s) ∧
    (∀ b, find? s.fab.buffers n = some b → (s.cycle < b.opened + ageCycles s (rageOf s b) → t = s) ∧
      (b.opened + ageCycles s (rageOf s b) ≤ s.cycle → find? t.fab.buffers n = none ∧
        ∀ k, k ≠ n → find? t.fab.buffers k = find? s.fab.buffers k))) ∧
  (∀ (s : State) (n : Nat) (k : Packet) (rest : List Packet), n < 12 → ∃ t, exec (.egressSend n true) s = .next t ∧
    ((portOf s n).egress1 = [] → t = s) ∧
    ((portOf s n).egress1 = k :: rest →
      ((portOf s n).state ≠ 5 ∨ (portOf s n).credit1 < Config.creditsFor (flitsOf (portOf s n) k).length ∨
        512 < (portOf s n).held.length + (flitsOf (portOf s n) k).length → t = s) ∧
      ((portOf s n).state = 5 → Config.creditsFor (flitsOf (portOf s n) k).length ≤ (portOf s n).credit1 → k.ptype ≠ 5 →
        (portOf s n).held.length + (flitsOf (portOf s n) k).length ≤ 512 → PortSet s t n { portOf s n with
          egress1 := rest, credit1 := (portOf s n).credit1 - Config.creditsFor (flitsOf (portOf s n) k).length
          held := (portOf s n).held ++ flitsOf (portOf s n) k, tx := (portOf s n).tx ++ (flitsOf (portOf s n) k).map Held.flit
          packets := (portOf s n).packets + 1, moved := if Owes (portOf s n) then (portOf s n).moved else s.time
          txseq := (portOf s n).txseq + BitVec.ofNat 10 (flitsOf (portOf s n) k).length }
            (if Owes (portOf s n) then [] else [(s.time + oneUs, .replayTimeout n)]) (if rest = [] then [] else [.egressSend n true]))))

/-- What reset leaves: local memory is in its canonical form. -/
def Obligations.ResetCanonical : Prop := State.reset.MemoryCanonical

/-- The values the registers have after reset (R47, R66, R73, R91, R138, R139, R169, R187, R274, R382). -/
def Obligations.ResetValues : Prop :=
  (State.reset.fab.hopmax = 16 ∧ State.reset.fab.id = 0) ∧ (State.reset.fab.ackto = 1000 ∧ State.reset.fab.teamcap = 64 ∧ State.reset.fab.evict = 0) ∧
  (∀ k, groupEntry State.reset k = { midx := 0, parent := 0xF, valid := false, local_ := false, child := 0 }) ∧
  (∀ c, c < 8 → shareOf State.reset c = 8) ∧ (State.reset.sched.steal = true ∧ State.reset.sched.evict = true) ∧
  (State.reset.sched.dage = 100 ∧ State.reset.sched.claim = 2 ∧ State.reset.sched.xsteal = false ∧ State.reset.sched.place = 0) ∧
  (∀ n, poolOf State.reset n = { ib := 0, tb := 0, unm := true }) ∧ (State.reset.sched.gunits = 2048 ∧ State.reset.sched.gtime = 125) ∧
  (State.reset.ctl.memce = 0 ∧ State.reset.ctl.ueValid = false ∧ State.reset.ctl.ueCount = 0 ∧ State.reset.ctl.scrubEn = true ∧
    State.reset.ctl.scrubHr = 24) ∧
  (∀ k c, c < 8 → (clusterAt State.reset k).lut0.toNat / 256 ^ c % 256 = c ∧ (clusterAt State.reset k).lut1.toNat / 256 ^ c % 256 = 248 + c)
end

