-- ==== Sys2Proof/Laws/Crypto.lean ====
section
/-!
SUPPORT. The lengths of what the ciphers make: a data unit of 256 bytes stays one of 256 bytes.
-/

namespace Sys2Proof.Machine

open Sys2Proof

theorem length_xorBytes (a b : List Byte) : (xorBytes a b).length = min a.length b.length := by simp [xorBytes]

theorem length_spread (n v : Nat) : (spread n v).length = n := by
  induction n generalizing v with
  | zero => rfl
  | succ n ih => simp [spread, ih]

/-- Every word has four bytes. -/
def WordsOfFour (w : List (List Byte)) : Prop := ∀ x ∈ w, x.length = 4

theorem nth_of_four {w : List (List Byte)} (h : WordsOfFour w) : ∀ i, i < w.length → (nth [] w i).length = 4 := by
  induction w with
  | nil => intro i hi; simp at hi
  | cons a r ih =>
    intro i hi
    cases i with
    | zero => exact h a (by simp)
    | succ i => exact ih (fun x hx => h x (by simp [hx])) i (by simpa using hi)

theorem aesExpand_four (n : Nat) : ∀ (i : Nat) (w : List (List Byte)), WordsOfFour w → 8 ≤ w.length →
    WordsOfFour (aesExpand n i w) ∧ (aesExpand n i w).length = w.length + n := by
  induction n with
  | zero => intro i w h _; exact ⟨h, rfl⟩
  | succ n ih =>
    intro i w h hl
    have h0 := nth_of_four h 0 (by omega)
    have h7 := nth_of_four h 7 (by omega)
    have key : ∀ t : List Byte, t.length = 4 → WordsOfFour (aesExpand n (i + 1) (xorBytes (nth [] w 7) t :: w)) ∧
        (aesExpand n (i + 1) (xorBytes (nth [] w 7) t :: w)).length = w.length + (n + 1) := fun t ht => by
      have := ih (i + 1) (xorBytes (nth [] w 7) t :: w)
        (fun x hx => by
          rcases List.mem_cons.1 hx with rfl | hx
          · rw [length_xorBytes, h7, ht]; rfl
          · exact h x hx)
        (by simp; omega)
      exact ⟨this.1, by rw [this.2]; simp; omega⟩
    unfold aesExpand
    dsimp only
    apply key
    split
    · simp [length_xorBytes, h0]
    · split
      · simp [h0]
      · exact h0

theorem flatten_four {w : List (List Byte)} (h : WordsOfFour w) : w.flatten.length = 4 * w.length := by
  induction w with
  | nil => rfl
  | cons a r ih =>
    have ha := h a (by simp)
    have := ih (fun x hx => h x (by simp [hx]))
    simp [ha, this]; omega

theorem nth_map_range (f : Nat → List Byte) : ∀ n i, i < n → nth [] ((List.range n).map f) i = f i := by
  intro n i h
  have g : ∀ (l : List (List Byte)) (j : Nat) (hj : j < l.length), nth [] l j = l[j] := by
    intro l
    induction l with
    | nil => intro j hj; simp at hj
    | cons a r ih =>
      intro j hj
      cases j with
      | zero => rfl
      | succ j => exact ih j (by simpa using hj)
  rw [g _ i (by simpa using h)]
  simp

/-- The round keys of a 32-byte key have 16 bytes. -/
theorem length_aesKeys (key : List Byte) (hk : key.length = 32) (r : Nat) (hr : r < 15) : (nth [] (aesKeys key) r).length = 16 := by
  unfold aesKeys
  rw [nth_map_range _ 15 r hr]
  have h0 : WordsOfFour ((List.range 8).map (fun i => (key.drop (4 * i)).take 4)).reverse := by
    intro x hx
    simp only [List.mem_reverse, List.mem_map, List.mem_range] at hx
    obtain ⟨i, hi, rfl⟩ := hx
    simp [hk]; omega
  have h1 := aesExpand_four 52 8 _ h0 (by simp)
  have h2 : (aesExpand 52 8 ((List.range 8).map (fun i => (key.drop (4 * i)).take 4)).reverse).length = 60 := by rw [h1.2]; simp
  generalize aesExpand 52 8 ((List.range 8).map (fun i => (key.drop (4 * i)).take 4)).reverse = w at h1 h2
  rw [flatten_four (fun x hx => h1.1 x (List.mem_reverse.1 (List.mem_of_mem_drop (List.mem_of_mem_take hx))))]
  simp [h2]; omega

theorem length_aesMix (c b : List Byte) : (aesMix c b).length = 16 := by simp [aesMix]

theorem length_aesShift (k : Bool) (b : List Byte) : (aesShift k b).length = 16 := by simp [aesShift]

theorem length_aesEncrypt (key b : List Byte) (hk : key.length = 32) : (aesEncrypt (aesKeys key) b).length = 16 := by
  unfold aesEncrypt
  dsimp only
  rw [length_xorBytes, length_aesShift, length_aesKeys key hk 14 (by omega)]; rfl

theorem length_aesDecrypt (key b : List Byte) (hk : key.length = 32) : (aesDecrypt (aesKeys key) b).length = 16 := by
  unfold aesDecrypt
  dsimp only
  rw [length_xorBytes, length_aesKeys key hk 0 (by omega)]
  have g : ∀ (l : List (List Byte)) (a : List Byte), a.length = 16 →
      (l.foldl (fun a k => (aesShift true (aesMix [14, 11, 13, 9] (xorBytes a k))).map aesUnsub) a).length = 16 := by
    intro l
    induction l with
    | nil => intro a h; exact h
    | cons k r ih => intro a _; exact ih _ (by simp [length_aesShift])
  rw [g _ _ (by simp [length_aesShift])]; rfl

theorem length_xtsBlocks (f : List Byte → List Byte) (hf : ∀ b, (f b).length = 16) : ∀ (n : Nat) (t bs : List Byte), t.length = 16 →
    (xtsBlocks f n t bs).length = 16 * n := by
  intro n
  induction n with
  | zero => intros; rfl
  | succ n ih =>
    intro t bs ht
    rw [xtsBlocks, List.length_append, length_xorBytes, hf, ht, ih _ _ (by unfold tweakNext; exact length_spread _ _)]
    omega

theorem length_dataKey (k : BitVec 512) : (dataKey k).length = 32 := by simp [dataKey, length_spread]

theorem length_tweakKey (k : BitVec 512) : (tweakKey k).length = 32 := by simp [tweakKey, length_spread]

theorem length_garbled (w r : Option (BitVec 512)) (unit : Nat) (bs : List Byte) (h : bs.length = 256) :
    (garbled w r unit bs).length = 256 := by
  have e : ∀ (k : BitVec 512) (b : List Byte), (xtsEncrypt k unit b).length = 256 := fun k b =>
    length_xtsBlocks _ (fun b => length_aesEncrypt _ b (length_dataKey k)) 16 _ _ (length_aesEncrypt _ _ (length_tweakKey k))
  have d : ∀ (k : BitVec 512) (b : List Byte), (xtsDecrypt k unit b).length = 256 := fun k b =>
    length_xtsBlocks _ (fun b => length_aesDecrypt _ b (length_dataKey k)) 16 _ _ (length_aesEncrypt _ _ (length_tweakKey k))
  unfold garbled
  cases r with
  | some k => exact d k _
  | none => cases w with
    | some k => exact e k _
    | none => exact h

end Sys2Proof.Machine
end

