-- ==== Sys2Proof/Laws/Map.lean ====
section
/-!
SUPPORT. Sparse tables: reading after writing, writes leave other numbers alone, and every operation keeps the canonical
form.
-/

namespace Sys2Proof.Machine

variable {α : Type}

@[simp] theorem find?_nil (k : Nat) : find? ([] : SMap α) k = none := rfl

@[simp] theorem find?_put (m : SMap α) (k : Nat) (v : α) : find? (put m k v) k = some v := by
  induction m with
  | nil => simp [put, find?]
  | cons e r ih =>
    obtain ⟨j, w⟩ := e
    by_cases h : j = k
    · simp [put, find?, h]
    · by_cases g : k < j
      · simp [put, find?, h, g]
      · simp [put, find?, h, g, ih]

theorem find?_put_ne (m : SMap α) {k j : Nat} (v : α) (h : j ≠ k) : find? (put m k v) j = find? m j := by
  induction m with
  | nil => simp [put, find?, Ne.symm h]
  | cons e r ih =>
    obtain ⟨i, w⟩ := e
    by_cases a : i = k
    · have : k ≠ j := fun x => h x.symm
      simp [put, find?, a, this]
    · by_cases g : k < i
      · simp [put, find?, a, g, Ne.symm h]
      · simp [put, find?, a, g, ih]

@[simp] theorem find?_del (m : SMap α) (k : Nat) : find? (del m k) k = none := by
  induction m with
  | nil => rfl
  | cons e r ih =>
    obtain ⟨j, w⟩ := e
    by_cases h : j = k
    · simp [del, h, ih]
    · simp [del, find?, h, ih]

theorem find?_del_ne (m : SMap α) {k j : Nat} (h : j ≠ k) : find? (del m k) j = find? m j := by
  induction m with
  | nil => rfl
  | cons e r ih =>
    obtain ⟨i, w⟩ := e
    by_cases a : i = k
    · have : i ≠ j := fun x => h (x.symm.trans a)
      simp [del, find?, a, ih]
      intro x; exact absurd x.symm h
    · simp [del, find?, a, ih]

/-- What stands at a number after a write there. -/
@[simp] theorem look_keep [DecidableEq α] (d : α) (m : SMap α) (k : Nat) (v : α) : look d (keep d m k v) k = v := by
  by_cases h : v = d <;> simp [look, keep, h]

/-- A write leaves every other number alone. -/
theorem look_keep_ne [DecidableEq α] (d : α) (m : SMap α) {k j : Nat} (v : α) (h : j ≠ k) :
    look d (keep d m k v) j = look d m j := by
  by_cases g : v = d <;> simp [look, keep, g, find?_put_ne, find?_del_ne, h]

theorem look_keep_of [DecidableEq α] (d : α) (m : SMap α) (k j : Nat) (v : α) :
    look d (keep d m k v) j = if j = k then v else look d m j := by
  by_cases h : j = k
  · subst h; simp
  · simp [h, look_keep_ne]

@[simp] theorem look_put (d : α) (m : SMap α) (k : Nat) (v : α) : look d (put m k v) k = v := by simp [look]

theorem look_put_ne (d : α) (m : SMap α) {k j : Nat} (v : α) (h : j ≠ k) : look d (put m k v) j = look d m j := by
  simp [look, find?_put_ne _ _ h]

theorem find?_upd (m : SMap α) (k : Nat) (f : α → α) (j : Nat) :
    find? (upd m k f) j = if j = k then (find? m k).map f else find? m j := by
  by_cases h : j = k
  · subst h
    cases g : find? m j <;> simp [upd, g]
  · cases g : find? m k <;> simp [upd, g, h, find?_put_ne]

@[simp] theorem find?_upd_self (m : SMap α) (k : Nat) (f : α → α) : find? (upd m k f) k = (find? m k).map f := by
  simp [find?_upd]

theorem find?_upd_ne (m : SMap α) {k j : Nat} (f : α → α) (h : j ≠ k) : find? (upd m k f) j = find? m j := by
  simp [find?_upd, h]

theorem find?_each {β : Type} (f : Nat → α → β) (m : SMap α) (k : Nat) : find? (each f m) k = (find? m k).map (f k) := by
  induction m with
  | nil => rfl
  | cons e r ih =>
    obtain ⟨j, w⟩ := e
    by_cases h : j = k
    · simp [each, find?, h]
    · simp [each, find?, h, ih]

theorem find?_part (p : Nat → Bool) (m : SMap α) (k : Nat) : find? (part p m) k = if p k then find? m k else none := by
  induction m with
  | nil => simp [part, find?]
  | cons e r ih =>
    obtain ⟨j, w⟩ := e
    simp only [part] at ih
    by_cases g : p j
    · by_cases h : j = k
      · subst h; simp [part, find?, g]
      · simp [part, find?, g, h, ih]
    · by_cases h : j = k
      · subst h; simp [part, g, ih]
      · simp [part, find?, g, h, ih]

/-! ### Canonical form -/

/-- Canonical: the numbers rise strictly and no value is the default. -/
theorem canonical_iff [DecidableEq α] (d : α) (m : SMap α) :
    canonical d m = true ↔ m.Pairwise (fun a b => a.1 < b.1) ∧ ∀ e ∈ m, e.2 ≠ d := by
  induction m with
  | nil => simp [canonical]
  | cons e r ih =>
    obtain ⟨j, v⟩ := e
    cases r with
    | nil => simp [canonical]
    | cons e2 r2 =>
      obtain ⟨k, w⟩ := e2
      simp only [canonical, Bool.and_eq_true, decide_eq_true_eq, ih, List.pairwise_cons, List.mem_cons]
      constructor
      · rintro ⟨⟨h1, h2⟩, ⟨h3, h4⟩, h5⟩
        refine ⟨⟨?_, h3, h4⟩, ?_⟩
        · rintro a (rfl | ha)
          · exact h2
          · exact lt_trans h2 (h3 a ha)
        · rintro a (rfl | ha)
          · exact h1
          · exact h5 a ha
      · rintro ⟨⟨h1, h2, h3⟩, h4⟩
        exact ⟨⟨h4 _ (Or.inl rfl), h1 _ (Or.inl rfl)⟩, ⟨h2, h3⟩, fun a ha => h4 a (Or.inr ha)⟩

theorem mem_put {m : SMap α} {k : Nat} {v : α} {e : Nat × α} (h : e ∈ put m k v) : e = (k, v) ∨ e ∈ m := by
  induction m with
  | nil => simpa [put] using h
  | cons x r ih =>
    obtain ⟨j, w⟩ := x
    by_cases a : j = k
    · simp [put, a] at h
      rcases h with h | h
      · exact .inl h
      · exact .inr (List.mem_cons_of_mem _ h)
    · by_cases b : k < j
      · simpa [put, a, b] using h
      · simp [put, a, b] at h
        rcases h with h | h
        · exact .inr (by simp [h])
        · rcases ih h with g | g
          · exact .inl g
          · exact .inr (List.mem_cons_of_mem _ g)

theorem mem_del {m : SMap α} {k : Nat} {e : Nat × α} (h : e ∈ del m k) : e ∈ m := by
  induction m with
  | nil => simp [del] at h
  | cons x r ih =>
    obtain ⟨j, w⟩ := x
    by_cases a : j = k
    · exact List.mem_cons_of_mem _ (ih (by simpa [del, a] using h))
    · simp [del, a] at h
      rcases h with h | h
      · simp [h]
      · exact List.mem_cons_of_mem _ (ih h)

theorem put_rising {m : SMap α} (k : Nat) (v : α) (h : m.Pairwise (fun a b => a.1 < b.1)) :
    (put m k v).Pairwise (fun a b => a.1 < b.1) := by
  induction m with
  | nil => simp [put]
  | cons x r ih =>
    obtain ⟨j, w⟩ := x
    rw [List.pairwise_cons] at h
    by_cases a : j = k
    · subst a; simpa [put] using h
    · by_cases b : k < j
      · simp only [put, a, b, if_false, if_true, List.pairwise_cons]
        refine ⟨?_, h⟩
        rintro e he
        rcases List.mem_cons.1 he with rfl | he
        · exact b
        · exact lt_trans b (h.1 e he)
      · simp only [put, a, b, if_false, List.pairwise_cons]
        refine ⟨?_, ih h.2⟩
        intro e he
        rcases mem_put he with rfl | he
        · show j < k; omega
        · exact h.1 e he

theorem del_rising {m : SMap α} (k : Nat) (h : m.Pairwise (fun a b => a.1 < b.1)) :
    (del m k).Pairwise (fun a b => a.1 < b.1) := by
  induction m with
  | nil => simp [del]
  | cons x r ih =>
    obtain ⟨j, w⟩ := x
    rw [List.pairwise_cons] at h
    by_cases a : j = k
    · simpa [del, a] using ih h.2
    · simp only [del, a, if_false, List.pairwise_cons]
      exact ⟨fun e he => h.1 e (mem_del he), ih h.2⟩

/-- A write keeps the canonical form. -/
theorem keep_canonical [DecidableEq α] {d : α} {m : SMap α} (k : Nat) (v : α) (h : canonical d m = true) :
    canonical d (keep d m k v) = true := by
  rw [canonical_iff] at *
  by_cases g : v = d
  · simp only [keep, g, if_true]
    exact ⟨del_rising k h.1, fun e he => h.2 e (mem_del he)⟩
  · simp only [keep, g, if_false]
    refine ⟨put_rising k v h.1, fun e he => ?_⟩
    rcases mem_put he with rfl | he
    · exact g
    · exact h.2 e he

/-- A part of a table keeps the canonical form. -/
theorem part_canonical [DecidableEq α] {d : α} {m : SMap α} (p : Nat → Bool) (h : canonical d m = true) :
    canonical d (part p m) = true := by
  rw [canonical_iff] at *
  exact ⟨h.1.sublist List.filter_sublist, fun e he => h.2 e (List.mem_of_mem_filter he)⟩

/-- Canonical tables that read alike are equal. -/
theorem canonical_ext [DecidableEq α] {d : α} {m n : SMap α} (hm : canonical d m = true) (hn : canonical d n = true)
    (h : ∀ k, look d m k = look d n k) : m = n := by
  rw [canonical_iff] at hm hn
  induction m generalizing n with
  | nil =>
    cases n with
    | nil => rfl
    | cons e r =>
      obtain ⟨j, v⟩ := e
      have := h j
      simp [look, find?] at this
      exact absurd this.symm (hn.2 (j, v) (by simp))
  | cons e r ih =>
    obtain ⟨j, v⟩ := e
    have low : ∀ {l : SMap α} {i : Nat} {k : Nat}, (∀ x ∈ l, i < x.1) → k ≤ i → find? l k = none := by
      intro l i k hl hk
      induction l with
      | nil => rfl
      | cons x l ihl =>
        obtain ⟨a, b⟩ := x
        have : i < a := hl (a, b) (by simp)
        have : a ≠ k := by omega
        simp [find?, this, ihl (fun y hy => hl y (List.mem_cons_of_mem _ hy))]
    cases n with
    | nil =>
      have := h j
      simp [look, find?] at this
      exact absurd this (hm.2 (j, v) (by simp))
    | cons e2 r2 =>
      obtain ⟨k, w⟩ := e2
      have hm1 := List.pairwise_cons.1 hm.1
      have hn1 := List.pairwise_cons.1 hn.1
      have hv : v ≠ d := hm.2 (j, v) (by simp)
      have hw : w ≠ d := hn.2 (k, w) (by simp)
      have hjk : j = k := by
        rcases lt_trichotomy j k with c | c | c
        · have := h j
          rw [look, look] at this
          have kj : ¬ k = j := by omega
          simp [find?, kj, low hn1.1 (by show j ≤ k; omega)] at this
          exact absurd this hv
        · exact c
        · have := h k
          rw [look, look] at this
          have jk : ¬ j = k := by omega
          simp [find?, jk, low hm1.1 (by show k ≤ j; omega)] at this
          exact absurd this.symm hw
      subst hjk
      have hvw : v = w := by have := h j; simpa [look, find?] using this
      subst hvw
      congr 1
      apply ih ⟨hm1.2, fun e he => hm.2 e (List.mem_cons_of_mem _ he)⟩
        ⟨hn1.2, fun e he => hn.2 e (List.mem_cons_of_mem _ he)⟩
      intro i
      have := h i
      by_cases c : j = i
      · subst c
        simp [look, low hm1.1 (le_refl j), low hn1.1 (le_refl j)]
      · simpa [look, find?, c] using this

end Sys2Proof.Machine
end

