-- ==== Sys2Proof/Laws/Memory.lean ====
section
/-!
SUPPORT. Memory: every memory operation keeps the canonical form, and what is read after a write at a home.
-/

namespace Sys2Proof.Machine

open Sys2Proof

/-- A property that each step of a fold keeps holds after the fold. -/
theorem foldl_keeps {σ β : Type} (P : σ → Prop) (f : σ → β → σ) (hf : ∀ s x, P s → P (f s x)) (l : List β) :
    ∀ s, P s → P (l.foldl f s) := by
  induction l with
  | nil => intro s h; exact h
  | cons x r ih => intro s h; exact ih _ (hf s x h)

/-! ### The canonical form -/

theorem memPut_wf (bs : List Byte) : ∀ (m : List Host.Cell) (pa : Nat), Memory.wf m = true → Memory.wf (memPut m pa bs) = true := by
  induction bs with
  | nil => intro m pa h; exact h
  | cons b r ih => intro m pa h; exact ih _ _ (keep_canonical pa b h)

theorem rekey_wf (s : State) (key : KeySel) (sec : Nat) (h : Memory.wf s.mem = true) : Memory.wf (rekey s key sec).mem = true := by
  unfold rekey
  split
  · exact h
  · dsimp only
    exact memPut_wf _ _ _ h

theorem homePut_wf (s : State) (key : KeySel) (pa : Nat) (bs : List Byte) (h : Memory.wf s.mem = true) :
    Memory.wf (homePut s key pa bs).mem = true := by
  unfold homePut
  split
  · exact h
  · exact memPut_wf _ _ _ (rekey_wf _ _ _ h)

theorem homeWriteFrom_wf (n : Nat) : ∀ (s : State) (key : KeySel) (pa : Nat) (bs : List Byte), Memory.wf s.mem = true →
    Memory.wf (homeWriteFrom n s key pa bs).mem = true := by
  induction n with
  | zero => intro s key pa bs h; exact h
  | succ n ih =>
    intro s key pa bs h
    unfold homeWriteFrom
    split
    · exact h
    · exact ih _ _ _ _ (homePut_wf _ _ _ _ h)

theorem homeWrite_wf (s : State) (key : KeySel) (pa : Nat) (bs : List Byte) (h : Memory.wf s.mem = true) :
    Memory.wf (homeWrite s key pa bs).mem = true := homeWriteFrom_wf _ _ _ _ _ h

theorem rawWrite_wf (s : State) (pa n v : Nat) (h : Memory.wf s.mem = true) : Memory.wf (rawWrite s pa n v).mem = true := by
  unfold rawWrite
  split
  · exact h
  · exact homeWrite_wf _ _ _ _ h

theorem zeroRange_wf (s : State) (key : KeySel) (pa len : Nat) (h : Memory.wf s.mem = true) :
    Memory.wf (zeroRange s key pa len).mem = true := by
  unfold zeroRange
  split
  · exact h
  · dsimp only
    exact part_canonical _ h

theorem upsetMemory_wf (s : State) (u : Upset) (h : Memory.wf s.mem = true) : Memory.wf (upsetMemory s u).mem = true := by
  cases u <;> simp only [upsetMemory]
  case sector n => split <;> exact h
  case bank b n =>
    split
    · split
      · exact h
      · exact h
    · exact h
  all_goals exact h

theorem mergeSector_wf (s : State) (num i : Nat) (e : Sector) (h : Memory.wf s.mem = true) :
    Memory.wf (mergeSector s num i e).mem = true := by
  have g : Memory.wf (e.dirty.foldl (fun t o => homePut t e.key (num * 1024 + i * 256 + o) [look 0 e.data o]) s).mem = true :=
    foldl_keeps (fun t : State => Memory.wf t.mem = true) _ (fun _ _ ht => homePut_wf _ _ _ _ ht) _ _ h
  unfold mergeSector
  dsimp only
  split <;> exact g

theorem mergeLine_wf (s : State) (l : Line) (h : Memory.wf s.mem = true) : Memory.wf (mergeLine s l).mem = true :=
  foldl_keeps (fun t : State => Memory.wf t.mem = true) _ (fun _ _ ht => mergeSector_wf _ _ _ _ ht) _ _ h

theorem mergeLines_wf (s : State) (ls : List Line) (h : Memory.wf s.mem = true) : Memory.wf (ls.foldl mergeLine s).mem = true :=
  foldl_keeps (fun t : State => Memory.wf t.mem = true) _ (fun _ _ ht => mergeLine_wf _ _ ht) _ _ h

theorem writeBackBank_wf (s : State) (b : Nat) (h : Memory.wf s.mem = true) : Memory.wf (writeBackBank s b).mem = true :=
  mergeLines_wf _ _ h

theorem clearBank_wf (s : State) (b : Nat) (h : Memory.wf s.mem = true) : Memory.wf (clearBank s b).mem = true :=
  mergeLines_wf _ _ h

theorem evictSector_wf (b : Nat) (s : State) (sec : Nat) (h : Memory.wf s.mem = true) : Memory.wf (evictSector b s sec).mem = true := by
  unfold evictSector
  split
  · exact h
  · split
    · exact h
    · exact mergeSector_wf _ _ _ _ h

theorem evictRange_wf (s : State) (banks : List Nat) (pa len : Nat) (h : Memory.wf s.mem = true) :
    Memory.wf (evictRange s banks pa len).mem = true :=
  foldl_keeps (fun t : State => Memory.wf t.mem = true) _
    (fun _ _ ht => foldl_keeps (fun t : State => Memory.wf t.mem = true) _ (fun _ _ h2 => evictSector_wf _ _ _ h2) _ _ ht) _ _ h

theorem lazyMove_wf (s : State) (b num : Nat) (h : Memory.wf s.mem = true) : Memory.wf (lazyMove s b num).1.mem = true := by
  unfold lazyMove
  split
  · exact h
  · dsimp only
    split
    · exact h
    · exact foldl_keeps (fun t : State => Memory.wf t.mem = true)
        (fun t (e : Nat × Line) => setLines (mergeLine t e.2) e.1 (dropLine (linesOf t e.1) num))
        (fun _ _ ht => mergeLine_wf _ _ ht) _ _ h

theorem makeRoom_wf (s : State) (b num : Nat) (h : Memory.wf s.mem = true) : Memory.wf (makeRoom s b num).1.mem = true := by
  unfold makeRoom
  generalize leaving _ _ _ = l
  dsimp only
  split
  · exact h
  · exact mergeLine_wf { s with free := s.free + 1 } _ h

theorem placeSector_wf (s : State) (b sec : Nat) (e : Sector) (h : Memory.wf s.mem = true) :
    Memory.wf (placeSector s b sec e).mem = true := by
  unfold placeSector
  split <;> exact h

theorem touchLine_wf (s : State) (b num : Nat) (h : Memory.wf s.mem = true) : Memory.wf (touchLine s b num).mem = true := by
  unfold touchLine
  split <;> exact h

theorem ensureSector_wf (s : State) (b : Nat) (key : KeySel) (sec : Nat) (h : Memory.wf s.mem = true) :
    Memory.wf (ensureSector s b key sec).1.mem = true := by
  unfold ensureSector
  split
  · exact touchLine_wf _ _ _ h
  · dsimp only
    apply placeSector_wf
    split
    · exact lazyMove_wf _ _ _ h
    · exact makeRoom_wf _ _ _ (lazyMove_wf _ _ _ h)

theorem bankLoad_wf (s : State) (pipe : Nat) (key : KeySel) (pa n : Nat) (h : Memory.wf s.mem = true) :
    Memory.wf (bankLoad s pipe key pa n).1.mem = true := by
  have g := ensureSector_wf s (bankFor s pipe pa) key (pa / 256) h
  unfold bankLoad
  dsimp only
  split <;> exact g

theorem bankStore_wf (s : State) (pipe : Nat) (key : KeySel) (pa : Nat) (bs : List Byte) (h : Memory.wf s.mem = true) :
    Memory.wf (bankStore s pipe key pa bs).1.mem = true := by
  have g := ensureSector_wf s (bankFor s pipe pa) key (pa / 256) h
  unfold bankStore
  dsimp only
  split
  · dsimp only
    split
    · exact g
    · exact placeSector_wf _ _ _ _ g
  · exact g

theorem releaseBanks_wf (s : State) (pipe : Nat) (sc : Scope) (fused : Bool) (h : Memory.wf s.mem = true) :
    Memory.wf (releaseBanks s pipe sc fused).mem = true := by
  have g : ∀ l : List Nat, Memory.wf (l.foldl writeBackBank s).mem = true := fun l =>
    foldl_keeps (fun t : State => Memory.wf t.mem = true) _ (fun _ _ ht => writeBackBank_wf _ _ ht) l _ h
  have k := writeBackBank_wf s pipe h
  unfold releaseBanks
  split
  · split <;> first | with_reducible exact h | with_reducible exact g _
  · split
    · split
      · with_reducible exact h
      · with_reducible exact k
    · with_reducible exact k

theorem acquireBanks_wf (s : State) (pipe : Nat) (sc : Scope) (fused : Bool) (h : Memory.wf s.mem = true) :
    Memory.wf (acquireBanks s pipe sc fused).mem = true := by
  have g : ∀ l : List Nat, Memory.wf (l.foldl clearBank s).mem = true := fun l =>
    foldl_keeps (fun t : State => Memory.wf t.mem = true) _ (fun _ _ ht => clearBank_wf _ _ ht) l _ h
  have k := clearBank_wf s pipe h
  unfold acquireBanks
  split
  · split <;> first | with_reducible exact h | with_reducible exact g _
  · split
    · split
      · with_reducible exact h
      · with_reducible exact k
    · with_reducible exact k

theorem shareBank_wf (a : State × Nat × Nat) (b : Nat) (h : Memory.wf a.1.mem = true) : Memory.wf (shareBank a b).1.mem = true :=
  mergeLines_wf _ _ h

theorem switchShared_wf (s : State) (c : Nat) (h : Memory.wf s.mem = true) : Memory.wf (switchShared s c).1.mem = true := by
  unfold switchShared
  generalize (List.range 16).map (c * 16 + ·) = l
  exact foldl_keeps (fun a : State × Nat × Nat => Memory.wf a.1.mem = true) shareBank (fun a b ha => shareBank_wf a b ha)
    l (s, 0, 0) h

/-! ### Reading after writing -/

theorem look_memPut_below (d : List Byte) : ∀ (m : List Host.Cell) (pa a : Nat), a < pa → look 0 (memPut m pa d) a = look 0 m a := by
  induction d with
  | nil => intro m pa a _; rfl
  | cons b r ih =>
    intro m pa a h
    rw [memPut, ih _ _ _ (by omega)]
    exact look_keep_ne _ _ _ (by omega)

/-- Bytes written are what is read there, and every other byte is as it was. -/
theorem look_memPut (bs : List Byte) : ∀ (m : List Host.Cell) (pa a : Nat),
    look 0 (memPut m pa bs) a = if pa ≤ a ∧ a < pa + bs.length then nth 0 bs (a - pa) else look 0 m a := by
  induction bs with
  | nil => intro m pa a; simp [memPut]
  | cons b r ih =>
    intro m pa a
    rw [memPut, ih]
    by_cases h1 : pa + 1 ≤ a ∧ a < pa + 1 + r.length
    · have h2 : pa ≤ a ∧ a < pa + (b :: r).length := by simp; omega
      rw [if_pos h1, if_pos h2]
      obtain ⟨k, hk⟩ : ∃ k, a - pa = k + 1 := ⟨a - pa - 1, by omega⟩
      have : a - (pa + 1) = k := by omega
      rw [hk, this]; rfl
    · rw [if_neg h1]
      by_cases h3 : a = pa
      · subst h3
        simp [nth]
      · have h2 : ¬ (pa ≤ a ∧ a < pa + (b :: r).length) := by simp; omega
        rw [if_neg h2]
        exact look_keep_ne _ _ _ h3

/-- A write within one sector whose contents stand under the same key: the bytes written are read back, every other byte of
memory is read as before. -/
theorem memByte_homePut (s : State) (key : KeySel) (pa : Nat) (bs : List Byte) (hk : key ≠ .dead)
    (hs : look .clear s.sealed (pa / 256) = key) (a : Nat) :
    memByte (homePut s key pa bs) a = if pa ≤ a ∧ a < pa + bs.length then nth 0 bs (a - pa) else memByte s a := by
  simp only [homePut, hk, if_false, rekey, hs, if_true, memByte]
  exact look_memPut bs s.mem pa a

theorem sealed_homePut (s : State) (key : KeySel) (pa : Nat) (bs : List Byte) (hk : key ≠ .dead)
    (hs : look .clear s.sealed (pa / 256) = key) : (homePut s key pa bs).sealed = s.sealed := by
  simp [homePut, hk, rekey, hs]

end Sys2Proof.Machine
end

