-- ==== Sys2Proof/Laws/Frame.lean ====
section
/-!
SUPPORT. What the operations over memory leave unchanged: every one of them moves only memory, banks and TLBs.
-/

namespace Sys2Proof.Machine

open Sys2Proof

theorem OnlyMemory.refl (s : State) : OnlyMemory s s := ⟨rfl, rfl⟩

theorem OnlyMemory.trans {s t u : State} (h : OnlyMemory s t) (g : OnlyMemory t u) : OnlyMemory s u := by
  refine ⟨?_, ?_⟩
  · rw [g.rest, h.rest]
  · rw [g.ctl, h.ctl]

theorem OnlyMemory.streams {s t : State} (h : OnlyMemory s t) : t.streams = s.streams := by rw [h.rest]
theorem OnlyMemory.groups {s t : State} (h : OnlyMemory s t) : t.groups = s.groups := by rw [h.rest]
theorem OnlyMemory.teams {s t : State} (h : OnlyMemory s t) : t.teams = s.teams := by rw [h.rest]
theorem OnlyMemory.lanes {s t : State} (h : OnlyMemory s t) : t.lanes = s.lanes := by rw [h.rest]
theorem OnlyMemory.regs {s t : State} (h : OnlyMemory s t) : t.regs = s.regs := by rw [h.rest]

/-- A change of memory alone. -/
theorem OnlyMemory.of (s : State) (m : List Host.Cell) (p : List Nat) (q : SMap KeySel) : OnlyMemory s
    { s with mem := m, poison := p, sealed := q } := ⟨rfl, rfl⟩

/-- A fold whose every step moves only memory. -/
theorem foldl_only {β : Type} (f : State → β → State) (hf : ∀ s x, OnlyMemory s (f s x)) (l : List β) (s : State) :
    OnlyMemory s (l.foldl f s) := by
  induction l generalizing s with
  | nil => exact .refl _
  | cons x r ih => exact (hf s x).trans (ih _)

theorem rekey_only (s : State) (key : KeySel) (sec : Nat) : OnlyMemory s (rekey s key sec) := by
  unfold rekey
  split
  · exact .refl _
  · exact .of s _ s.poison _

theorem homePut_only (s : State) (key : KeySel) (pa : Nat) (bs : List Byte) : OnlyMemory s (homePut s key pa bs) := by
  unfold homePut
  split
  · exact .refl _
  · exact (rekey_only s key (pa / 256)).trans (.of _ _ _ (rekey s key (pa / 256)).sealed)

theorem homeWriteFrom_only (n : Nat) : ∀ (s : State) (key : KeySel) (pa : Nat) (bs : List Byte),
    OnlyMemory s (homeWriteFrom n s key pa bs) := by
  induction n with
  | zero => intro s key pa bs; exact .refl _
  | succ n ih =>
    intro s key pa bs
    unfold homeWriteFrom
    split
    · exact .refl _
    · exact (homePut_only _ _ _ _).trans (ih _ _ _ _)

theorem homeWrite_only (s : State) (key : KeySel) (pa : Nat) (bs : List Byte) : OnlyMemory s (homeWrite s key pa bs) :=
  homeWriteFrom_only _ _ _ _ _

theorem rawWrite_only (s : State) (pa n v : Nat) : OnlyMemory s (rawWrite s pa n v) := by
  unfold rawWrite
  split
  · exact .refl _
  · exact homeWrite_only _ _ _ _

theorem zeroRange_only (s : State) (key : KeySel) (pa len : Nat) : OnlyMemory s (zeroRange s key pa len) := by
  unfold zeroRange
  split
  · exact .refl _
  · exact .of s _ _ _

theorem setLines_only (s : State) (b : Nat) (l : List Line) : OnlyMemory s (setLines s b l) := ⟨rfl, rfl⟩

theorem mergeSector_only (s : State) (num i : Nat) (e : Sector) : OnlyMemory s (mergeSector s num i e) := by
  unfold mergeSector
  have g := foldl_only (fun (t : State) (o : Nat) => homePut t e.key (num * 1024 + i * 256 + o) [look 0 e.data o])
    (fun _ _ => homePut_only _ _ _ _) e.dirty s
  dsimp only
  split
  · exact g.trans (.of _ (State.mem _) _ (State.sealed _))
  · exact g

theorem mergeLine_only (s : State) (l : Line) : OnlyMemory s (mergeLine s l) :=
  foldl_only _ (fun _ _ => mergeSector_only _ _ _ _) _ _

theorem mergeLines_only (s : State) (ls : List Line) : OnlyMemory s (ls.foldl mergeLine s) :=
  foldl_only _ (fun _ _ => mergeLine_only _ _) _ _

theorem writeBackBank_only (s : State) (b : Nat) : OnlyMemory s (writeBackBank s b) :=
  (mergeLines_only _ _).trans (setLines_only _ _ _)

theorem clearBank_only (s : State) (b : Nat) : OnlyMemory s (clearBank s b) :=
  (mergeLines_only _ _).trans (setLines_only _ _ _)

theorem evictSector_only (b : Nat) (s : State) (sec : Nat) : OnlyMemory s (evictSector b s sec) := by
  unfold evictSector
  split
  · exact .refl _
  · split
    · exact .refl _
    · exact (mergeSector_only _ _ _ _).trans (setLines_only _ _ _)

theorem evictRange_only (s : State) (banks : List Nat) (pa len : Nat) : OnlyMemory s (evictRange s banks pa len) :=
  foldl_only _ (fun _ _ => foldl_only _ (fun _ _ => evictSector_only _ _ _) _ _) _ _

theorem countSwitch_only (s : State) (c n l : Nat) : OnlyMemory s (countSwitch s c n l) := ⟨rfl, rfl⟩

theorem lazyMove_only (s : State) (b num : Nat) : OnlyMemory s (lazyMove s b num).1 := by
  unfold lazyMove
  split
  · exact .refl _
  · dsimp only
    split
    · exact .refl _
    · exact (foldl_only (fun (t : State) (e : Nat × Line) => setLines (mergeLine t e.2) e.1 (dropLine (linesOf t e.1) num))
        (fun _ _ => (mergeLine_only _ _).trans (setLines_only _ _ _)) _ _).trans (countSwitch_only _ _ _ _)

theorem makeRoom_only (s : State) (b num : Nat) : OnlyMemory s (makeRoom s b num).1 := by
  unfold makeRoom
  generalize leaving _ _ _ = l
  dsimp only
  split
  · exact .refl _
  · refine OnlyMemory.trans (t := { s with free := s.free + 1 }) ⟨rfl, rfl⟩ ?_
    exact (mergeLine_only _ _).trans (setLines_only _ _ _)

theorem placeSector_only (s : State) (b sec : Nat) (e : Sector) : OnlyMemory s (placeSector s b sec e) := by
  unfold placeSector
  split <;> exact setLines_only _ _ _

theorem touchLine_only (s : State) (b num : Nat) : OnlyMemory s (touchLine s b num) := by
  unfold touchLine
  split
  · exact setLines_only _ _ _
  · exact .refl _

theorem ensureSector_only (s : State) (b : Nat) (key : KeySel) (sec : Nat) : OnlyMemory s (ensureSector s b key sec).1 := by
  unfold ensureSector
  split
  · exact touchLine_only _ _ _
  · dsimp only
    refine OnlyMemory.trans ?_ (placeSector_only _ _ _ _)
    split
    · exact lazyMove_only _ _ _
    · exact (lazyMove_only _ _ _).trans (makeRoom_only _ _ _)

theorem bankLoad_only (s : State) (pipe : Nat) (key : KeySel) (pa n : Nat) : OnlyMemory s (bankLoad s pipe key pa n).1 := by
  have g := ensureSector_only s (bankFor s pipe pa) key (pa / 256)
  unfold bankLoad
  dsimp only
  split <;> exact g

theorem bankStore_only (s : State) (pipe : Nat) (key : KeySel) (pa : Nat) (bs : List Byte) :
    OnlyMemory s (bankStore s pipe key pa bs).1 := by
  have g := ensureSector_only s (bankFor s pipe pa) key (pa / 256)
  unfold bankStore
  dsimp only
  split
  · dsimp only
    split
    · exact g
    · exact g.trans (placeSector_only _ _ _ _)
  · exact g

theorem releaseBanks_only (s : State) (pipe : Nat) (sc : Scope) (fused : Bool) : OnlyMemory s (releaseBanks s pipe sc fused) := by
  have g : ∀ l : List Nat, OnlyMemory s (l.foldl writeBackBank s) := fun l => foldl_only _ (fun _ _ => writeBackBank_only _ _) l _
  have k := writeBackBank_only s pipe
  unfold releaseBanks
  split
  · split <;> first | with_reducible exact .refl _ | with_reducible exact g _
  · split
    · split
      · exact .refl _
      · with_reducible exact k
    · with_reducible exact k

theorem acquireBanks_only (s : State) (pipe : Nat) (sc : Scope) (fused : Bool) : OnlyMemory s (acquireBanks s pipe sc fused) := by
  have g : ∀ l : List Nat, OnlyMemory s (l.foldl clearBank s) := fun l => foldl_only _ (fun _ _ => clearBank_only _ _) l _
  have k := clearBank_only s pipe
  unfold acquireBanks
  split
  · split <;> first | with_reducible exact .refl _ | with_reducible exact g _
  · split
    · split
      · exact .refl _
      · with_reducible exact k
    · with_reducible exact k

theorem shareBank_only (a : State × Nat × Nat) (b : Nat) : OnlyMemory a.1 (shareBank a b).1 :=
  (mergeLines_only _ _).trans (setLines_only _ _ _)

theorem shareBanks_only (l : List Nat) (a : State × Nat × Nat) : OnlyMemory a.1 (l.foldl shareBank a).1 := by
  induction l generalizing a with
  | nil => exact .refl _
  | cons x r ih => exact (shareBank_only a x).trans (ih _)

theorem switchShared_only (s : State) (c : Nat) : OnlyMemory s (switchShared s c).1 := by
  unfold switchShared
  generalize (List.range 16).map (c * 16 + ·) = l
  have g := shareBanks_only l (s, 0, 0)
  exact (g.trans (countSwitch_only _ _ _ _)).trans ⟨rfl, rfl⟩

theorem switchPrivate_only (s : State) (c : Nat) : OnlyMemory s (switchPrivate s c) := ⟨rfl, rfl⟩

/-! ### Translation -/

theorem tlbInstall_only (s : State) (e : TlbEntry) (ts : List Nat) : OnlyMemory s (tlbInstall s e ts) := ⟨rfl, rfl⟩

theorem takePage_only {s t : State} {dom page : Nat} (h : takePage s dom = .ok (t, page)) : OnlyMemory s t := by
  unfold takePage at h
  dsimp only at h
  split at h
  · cases h
  · split at h
    · cases h
    · split at h
      · cases h
      · simp only [Except.ok.injEq, Prod.mk.injEq] at h
        rw [← h.1]
        exact ((rawWrite_only _ _ _ _).trans (rawWrite_only _ _ _ _)).trans (rawWrite_only _ _ _ _)

theorem backPage_only {s t : State} {e e' : TlbEntry} (h : backPage s e = .ok (t, e')) : OnlyMemory s t := by
  unfold backPage at h
  cases hp : takePage s e.dom with
  | error x => rw [hp] at h; cases h
  | ok r =>
    obtain ⟨u, page⟩ := r
    rw [hp] at h
    simp only [Except.ok.injEq, Prod.mk.injEq] at h
    rw [← h.1]
    exact ((takePage_only hp).trans (zeroRange_only _ _ _ _)).trans (rawWrite_only _ _ _ _)

theorem leafWalked_only {s t : State} {ts : List Nat} {dom va : Nat} {need : Need} {user : Bool} {e : TlbEntry}
    (h : leafWalked s ts dom va need user = .ok (t, e)) : OnlyMemory s t := by
  unfold leafWalked at h
  split at h
  · cases h
  · split at h
    · cases h
    · split at h
      · simp only [Except.ok.injEq, Prod.mk.injEq] at h
        rw [← h.1]; exact tlbInstall_only _ _ _
      · split at h
        · cases h
        · split at h
          · cases h
          · rename_i hb
            simp only [Except.ok.injEq, Prod.mk.injEq] at h
            rw [← h.1]; exact (backPage_only hb).trans (tlbInstall_only _ _ _)

theorem leafFor_only {s t : State} {ts : List Nat} {dom va : Nat} {need : Need} {user : Bool} {e : TlbEntry}
    (h : leafFor s ts dom va need user = .ok (t, e)) : OnlyMemory s t := by
  unfold leafFor at h
  split at h
  · split at h
    · simp only [Except.ok.injEq, Prod.mk.injEq] at h
      rw [← h.1]; exact tlbInstall_only _ _ _
    · exact leafWalked_only h
  · exact leafWalked_only h

theorem setDirty_only (s : State) (ts : List Nat) (e : TlbEntry) : OnlyMemory s (setDirty s ts e).1 := by
  unfold setDirty
  split
  · exact .refl _
  · exact (rawWrite_only _ _ _ _).trans (tlbInstall_only _ _ _)

theorem translate_only {s t : State} {ts : List Nat} {dom : Nat} {va : Word} {need : Need} {user : Bool} {x : Xlat}
    (h : translate s ts dom va need user = .ok (t, x)) : OnlyMemory s t := by
  unfold translate at h
  split at h
  · cases h
  · split at h
    · cases h
    · rename_i hl
      have g := leafFor_only hl
      split at h <;> simp only [Except.ok.injEq, Prod.mk.injEq] at h <;> rw [← h.1]
      · exact g
      · exact g.trans (setDirty_only _ _ _)

theorem translateLocal_only {s t : State} {ts : List Nat} {dom : Nat} {va : Word} {need : Need} {user : Bool} {x : Xlat}
    (h : translateLocal s ts dom va need user = .ok (t, x)) : OnlyMemory s t := by
  unfold translateLocal at h
  split at h
  · cases h
  · rename_i hx
    split at h
    · cases h
    · split at h
      · cases h
      · simp only [Except.ok.injEq, Prod.mk.injEq] at h
        rw [← h.1]; exact translate_only hx

end Sys2Proof.Machine
end

