-- ==== Sys2Proof/Laws/Home.lean ====
section
/-!
SUPPORT. What the homes and the first-level banks hold after a write, a write-back, an eviction and a fill.
-/

namespace Sys2Proof.Machine

open Sys2Proof

theorem nth_take {l : List Byte} {n i : Nat} (h : i < n) : nth 0 (l.take n) i = nth 0 l i := by
  induction l generalizing n i with
  | nil => cases n <;> rfl
  | cons b r ih =>
    cases n with
    | zero => omega
    | succ n => cases i with
      | zero => rfl
      | succ i => exact ih (by omega)

theorem nth_drop {l : List Byte} (n i : Nat) : nth 0 (l.drop n) i = nth 0 l (n + i) := by
  induction l generalizing n with
  | nil => simp [nth]
  | cons b r ih =>
    cases n with
    | zero => simp
    | succ n => rw [List.drop_succ_cons, ih, show n + 1 + i = (n + i) + 1 by omega]; rfl

theorem nth_listBytes (f : Nat → Byte) : ∀ (n a i : Nat), i < n → nth 0 (listBytes f n a) i = f (a + i) := by
  intro n
  induction n with
  | zero => intro a i h; omega
  | succ n ih =>
    intro a i h
    cases i with
    | zero => rfl
    | succ i => rw [listBytes, nth, ih _ _ (by omega)]; congr 1; omega

theorem length_listBytes (f : Nat → Byte) (n a : Nat) : (listBytes f n a).length = n := by
  induction n generalizing a with
  | zero => rfl
  | succ n ih => simp [listBytes, ih]

theorem nth_spread (n : Nat) : ∀ v i, i < n → nth 0 (spread n v) i = BitVec.ofNat 8 (v / 256 ^ i) := by
  induction n with
  | zero => intro v i h; omega
  | succ n ih =>
    intro v i h
    cases i with
    | zero => simp [spread, nth]
    | succ i => rw [spread, nth, ih _ _ (by omega), Nat.div_div_eq_div_mul, pow_succ']

theorem gather_congr {f g : Nat → Byte} : ∀ (n a : Nat), (∀ i, i < n → f (a + i) = g (a + i)) → gather f n a = gather g n a := by
  intro n
  induction n with
  | zero => intros; rfl
  | succ n ih =>
    intro a h
    have h0 := h 0 (by omega)
    simp only [Nat.add_zero] at h0
    rw [gather, gather, h0, ih]
    intro i hi
    have := h (i + 1) (by omega)
    rwa [show a + (i + 1) = a + 1 + i by omega] at this

theorem gather_lt (f : Nat → Byte) (n a : Nat) : gather f n a < 256 ^ n := by
  induction n generalizing a with
  | zero => simp [gather]
  | succ n ih =>
    have := ih (a + 1)
    have h2 := (f a).isLt
    rw [gather, pow_succ]
    omega

/-- A little-endian number read back from where its bytes stand. -/
theorem gather_spread {f : Nat → Byte} (n : Nat) : ∀ (v a : Nat), (∀ i, i < n → f (a + i) = nth 0 (spread n v) i) →
    gather f n a = v % 256 ^ n := by
  induction n with
  | zero => intro v a _; simp [gather, Nat.mod_one]
  | succ n ih =>
    intro v a h
    have h0 := h 0 (by omega)
    simp only [Nat.add_zero] at h0
    rw [gather, h0, ih (v / 256)]
    · simp only [spread, nth, BitVec.toNat_ofNat]
      exact (by rw [pow_succ', Nat.mod_mul (a := 256)] : v % 256 ^ (n + 1) = v % 256 + 256 * (v / 256 % 256 ^ n)).symm
    · intro i hi
      have := h (i + 1) (by omega)
      rw [show a + (i + 1) = a + 1 + i by omega] at this
      rw [this]; rfl

theorem listBytes_congr {f g : Nat → Byte} {q : Nat} (h : ∀ x, x / 256 = q → f x = g x) : ∀ n b, (∀ i, i < n → (b + i) / 256 = q) →
    listBytes f n b = listBytes g n b := by
  intro n
  induction n with
  | zero => intros; rfl
  | succ n ih =>
    intro b hb
    rw [listBytes, listBytes, h b (by simpa using hb 0 (by omega)), ih]
    intro i hi
    have := hb (i + 1) (by omega)
    rwa [show b + (i + 1) = b + 1 + i by omega] at this

/-! ### Homes -/

theorem length_otherKey (s : State) (key : KeySel) (sec : Nat) : (otherKey s key sec).length = 256 :=
  length_garbled _ _ _ _ (length_listBytes _ _ _)

/-- What another key reads of a sector depends on that sector alone. -/
theorem otherKey_congr {s t : State} {key : KeySel} {sec : Nat} (hs : look .clear t.sealed sec = look .clear s.sealed sec)
    (hm : ∀ x, x / 256 = sec → look 0 t.mem x = look 0 s.mem x) : otherKey t key sec = otherKey s key sec := by
  unfold otherKey
  rw [hs, listBytes_congr (f := memByte t) (g := memByte s) (q := sec) hm 256 (sec * 256) (by intro i hi; omega)]

/-- Reading under a key a sector that was put under it changes nothing. -/
theorem homeByte_rekey (s : State) (key : KeySel) (sec a : Nat) : homeByte (rekey s key sec) key a = homeByte s key a := by
  unfold rekey
  split
  · rfl
  · rename_i hk
    by_cases h : a / 256 = sec
    · have e1 : look KeySel.clear (keep .clear s.sealed sec key) (a / 256) = key := by rw [h, look_keep]
      unfold homeByte
      dsimp only
      rw [if_pos e1]
      rw [if_neg (by rw [h]; exact hk), memByte]
      dsimp only
      rw [look_memPut, length_otherKey, if_pos (by omega), h]
      congr 1; omega
    · have e1 : look KeySel.clear (keep .clear s.sealed sec key) (a / 256) = look .clear s.sealed (a / 256) :=
        look_keep_ne _ _ _ h
      have e2 : ∀ x, x / 256 = a / 256 →
          look 0 (memPut s.mem (sec * 256) (otherKey s key sec)) x = look 0 s.mem x := fun x hx => by
        rw [look_memPut, length_otherKey, if_neg (by omega)]
      have e3 : otherKey { s with mem := memPut s.mem (sec * 256) (otherKey s key sec), sealed := keep .clear s.sealed sec key } key (a / 256) =
          otherKey s key (a / 256) := otherKey_congr e1 e2
      unfold homeByte
      rw [e3]
      dsimp only
      rw [e1]
      split
      · exact e2 a rfl
      · rfl

theorem sealed_rekey (s : State) (key : KeySel) (sec q : Nat) :
    look .clear (rekey s key sec).sealed q = if q = sec then key else look .clear s.sealed q := by
  unfold rekey
  split
  · rename_i h
    split
    · rename_i hq; rw [hq, h]
    · rfl
  · dsimp only
    split
    · rename_i hq; rw [hq, look_keep]
    · rename_i hq; exact look_keep_ne _ _ _ hq

/-- Memory written over within sectors that stand under the key: what the key reads. -/
theorem homeByte_put (s : State) (key : KeySel) (pa : Nat) (bs : List Byte) (p : List Nat)
    (hs : look .clear s.sealed (pa / 256) = key) (hl : pa % 256 + bs.length ≤ 256) (a : Nat) :
    homeByte { s with mem := memPut s.mem pa bs, poison := p } key a =
      if pa ≤ a ∧ a < pa + bs.length then nth 0 bs (a - pa) else homeByte s key a := by
  unfold homeByte
  by_cases h : a / 256 = pa / 256
  · rw [h, if_pos hs, if_pos hs]
    exact look_memPut bs s.mem pa a
  · have e2 : ∀ x, x / 256 = a / 256 → look 0 (memPut s.mem pa bs) x = look 0 s.mem x := fun x hx => by
      rw [look_memPut, if_neg (by omega)]
    have e3 : otherKey { s with mem := memPut s.mem pa bs, poison := p } key (a / 256) = otherKey s key (a / 256) := otherKey_congr rfl e2
    rw [if_neg (show ¬(pa ≤ a ∧ a < pa + bs.length) by omega), e3]
    dsimp only
    split
    · exact e2 a rfl
    · rfl

/-- A write within one sector: under its key the bytes written are read back, and every other byte as before. -/
theorem homeByte_homePut (s : State) (key : KeySel) (pa : Nat) (bs : List Byte) (hk : key ≠ .dead)
    (hl : pa % 256 + bs.length ≤ 256) (a : Nat) :
    homeByte (homePut s key pa bs) key a = if pa ≤ a ∧ a < pa + bs.length then nth 0 bs (a - pa) else homeByte s key a := by
  unfold homePut
  rw [if_neg hk]
  dsimp only
  rw [homeByte_put (rekey s key (pa / 256)) key pa bs _ (by rw [sealed_rekey, if_pos rfl]) hl, homeByte_rekey]

/-- A write of bytes at a home: under its key the bytes written are read back, and every other byte as before. -/
theorem homeByte_homeWriteFrom (key : KeySel) (hk : key ≠ .dead) : ∀ (n : Nat) (s : State) (pa : Nat) (bs : List Byte) (a : Nat),
    pa % 256 + bs.length ≤ 256 * n → homeByte (homeWriteFrom n s key pa bs) key a =
      if pa ≤ a ∧ a < pa + bs.length then nth 0 bs (a - pa) else homeByte s key a := by
  intro n
  induction n with
  | zero =>
    intro s pa bs a h
    have : bs.length = 0 := by omega
    rw [homeWriteFrom, if_neg (by omega)]
  | succ n ih =>
    intro s pa bs a h
    unfold homeWriteFrom
    cases bs with
    | nil => simp
    | cons b r =>
      dsimp only
      rw [ih]
      · rw [homeByte_homePut _ _ _ _ hk (by rw [List.length_take]; omega)]
        rw [List.length_drop, List.length_take]
        by_cases h1 : pa + (256 - pa % 256) ≤ a ∧ a < pa + (256 - pa % 256) + ((b :: r).length - (256 - pa % 256))
        · rw [if_pos h1, if_pos (by omega), nth_drop]
          congr 1; omega
        · rw [if_neg h1]
          by_cases h2 : pa ≤ a ∧ a < pa + min (256 - pa % 256) (b :: r).length
          · rw [if_pos h2, if_pos (by omega), nth_take (by omega)]
          · rw [if_neg h2, if_neg (by omega)]
      · rw [List.length_drop]
        have : (pa + (256 - pa % 256)) % 256 = 0 := by omega
        rw [this]; omega

theorem homeByte_homeWrite (s : State) (key : KeySel) (pa : Nat) (bs : List Byte) (hk : key ≠ .dead) (a : Nat) :
    homeByte (homeWrite s key pa bs) key a = if pa ≤ a ∧ a < pa + bs.length then nth 0 bs (a - pa) else homeByte s key a :=
  homeByte_homeWriteFrom key hk _ _ _ _ _ (by omega)

/-- A number written at a home is the number read there. -/
theorem homeRead_homeWrite (s : State) (key : KeySel) (pa n v : Nat) (hk : key ≠ .dead) :
    homeRead (homeWrite s key pa (spread n v)) key pa n = v % 256 ^ n := by
  refine gather_spread n v pa (fun i hi => ?_)
  rw [homeByte_homeWrite _ _ _ _ hk, length_spread, if_pos (by omega)]
  congr 1; omega

end Sys2Proof.Machine
end

