-- ==== Sys2Proof/Laws/Bank.lean ====
section
/-!
SUPPORT. The first-level banks: what a bank holds after a fill, a store and an eviction, and what the homes hold after a
write-back.
-/

namespace Sys2Proof.Machine

open Sys2Proof

/-! ### Write-backs -/

/-- A write within one sector leaves every other sector as it reads. -/
theorem homeByte_homePut_other (s : State) (k key : KeySel) (pa : Nat) (bs : List Byte)
    (hl : pa % 256 + bs.length ≤ 256) (a : Nat) (h : a / 256 ≠ pa / 256) :
    homeByte (homePut s k pa bs) key a = homeByte s key a := by
  unfold homePut
  split
  · rfl
  · have e1 : look KeySel.clear (rekey s k (pa / 256)).sealed (a / 256) = look .clear s.sealed (a / 256) := by
      rw [sealed_rekey, if_neg h]
    have e2 : ∀ x, x / 256 = a / 256 → look 0 (memPut (rekey s k (pa / 256)).mem pa bs) x = look 0 s.mem x := fun x hx => by
      rw [look_memPut, if_neg (by omega)]
      unfold rekey
      split
      · rfl
      · dsimp only
        rw [look_memPut, length_otherKey, if_neg (by omega)]
    have e3 : ∀ p, otherKey { rekey s k (pa / 256) with mem := memPut (rekey s k (pa / 256)).mem pa bs, poison := p } key (a / 256) =
        otherKey s key (a / 256) := fun _ => otherKey_congr e1 e2
    unfold homeByte
    rw [e3]
    unfold memByte
    dsimp only
    rw [e1, e2 a rfl]

theorem homePut_poison_rest (s : State) (k : KeySel) (pa : Nat) (bs : List Byte) (h : bs.length ≠ 256) :
    (homePut s k pa bs).poison = s.poison := by
  unfold homePut rekey
  split
  · rfl
  · dsimp only
    split <;> rfl

/-- The bytes written through a bank stand at the home after the write-back; every other byte of memory reads as before. -/
theorem homeByte_mergeSector (s : State) (num i : Nat) (e : Sector) (_hi : i < 4) (hk : e.key ≠ .dead)
    (hd : ∀ o ∈ e.dirty, o < 256) (a : Nat) :
    homeByte (mergeSector s num i e) e.key a =
      if num * 1024 + i * 256 ≤ a ∧ a - (num * 1024 + i * 256) ∈ e.dirty then look 0 e.data (a - (num * 1024 + i * 256))
      else homeByte s e.key a := by
  have key : ∀ (l : List Nat) (t : State), (∀ o ∈ l, o < 256) →
      homeByte (l.foldl (fun (t : State) o => homePut t e.key (num * 1024 + i * 256 + o) [look 0 e.data o]) t) e.key a =
        if num * 1024 + i * 256 ≤ a ∧ a - (num * 1024 + i * 256) ∈ l then look 0 e.data (a - (num * 1024 + i * 256))
        else homeByte t e.key a := by
    intro l
    induction l with
    | nil => intro t _; simp
    | cons o r ih =>
      intro t ho
      have h1 := ho o (by simp)
      rw [List.foldl_cons, ih _ (fun x hx => ho x (by simp [hx]))]
      by_cases hr : num * 1024 + i * 256 ≤ a ∧ a - (num * 1024 + i * 256) ∈ r
      · rw [if_pos hr, if_pos ⟨hr.1, by simp [hr.2]⟩]
      · rw [if_neg hr, homeByte_homePut _ _ _ _ hk (by simp only [List.length_singleton]; omega)]
        simp only [List.length_singleton]
        by_cases hq : num * 1024 + i * 256 + o ≤ a ∧ a < num * 1024 + i * 256 + o + 1
        · have : a - (num * 1024 + i * 256) = o := by omega
          have hc : num * 1024 + i * 256 ≤ a ∧ a - (num * 1024 + i * 256) ∈ o :: r := ⟨by omega, by rw [this]; exact List.mem_cons_self⟩
          rw [if_pos hq, if_pos hc, this]
          have hz : a - (num * 1024 + i * 256 + o) = 0 := Nat.sub_eq_zero_of_le (Nat.le_of_lt_succ hq.2)
          rw [hz, nth]
        · rw [if_neg hq, if_neg]
          rintro ⟨h2, h3⟩
          rcases List.mem_cons.1 h3 with h4 | h4
          · omega
          · exact hr ⟨h2, h4⟩
  have h2 := key e.dirty s hd
  unfold mergeSector
  dsimp only
  split
  · exact h2
  · exact h2

/-- A write-back of a sector leaves every other sector as it reads. -/
theorem homeByte_mergeSector_other (s : State) (num i : Nat) (e : Sector) (key : KeySel)
    (hd : ∀ o ∈ e.dirty, o < 256) (a : Nat) (h : a / 256 ≠ num * 4 + i) :
    homeByte (mergeSector s num i e) key a = homeByte s key a := by
  have f : ∀ (l : List Nat) (t : State), (∀ o ∈ l, o < 256) →
      homeByte (l.foldl (fun (t : State) o => homePut t e.key (num * 1024 + i * 256 + o) [look 0 e.data o]) t) key a =
        homeByte t key a := by
    intro l
    induction l with
    | nil => intro t _; rfl
    | cons o r ih =>
      intro t ho
      have h1 := ho o (by simp)
      rw [List.foldl_cons, ih _ (fun x hx => ho x (by simp [hx])),
        homeByte_homePut_other _ _ _ _ _ (by simp only [List.length_singleton]; omega) _ (by omega)]
  have h2 := f e.dirty s hd
  unfold mergeSector
  dsimp only
  split
  · exact h2
  · exact h2

theorem mergeSector_poison_other (s : State) (num i : Nat) (e : Sector) (q : Nat) (h : q ≠ num * 4 + i) :
    (mergeSector s num i e).poison.contains q = s.poison.contains q := by
  have f : ∀ (l : List Nat) (t : State),
      (l.foldl (fun (t : State) o => homePut t e.key (num * 1024 + i * 256 + o) [look 0 e.data o]) t).poison = t.poison := by
    intro l
    induction l with
    | nil => intro t; rfl
    | cons o r ih =>
      intro t
      rw [List.foldl_cons, ih, homePut_poison_rest _ _ _ _ (by simp)]
  have g := f e.dirty s
  have ins : ∀ (l : List Nat) (n : Nat), n ≠ q → (insertN l n).contains q = l.contains q := by
    intro l
    induction l with
    | nil => intro n hn; simp [insertN]; exact fun x => hn x.symm
    | cons m r ih =>
      intro n hn
      unfold insertN
      split
      · rfl
      · split
        · simp only [List.contains_cons, Bool.or_eq_right_iff_imp]
          intro x; simp at x; exact absurd x.symm hn
        · simp only [List.contains_cons, ih n hn]
  unfold mergeSector
  dsimp only
  split
  · rw [ins _ _ (by omega), g]
  · rw [g]

theorem mergeLine_other (s : State) (l : Line) (hs : SoundLine l) (key : KeySel) (a : Nat) (h : a / 1024 ≠ l.num) :
    homeByte (mergeLine s l) key a = homeByte s key a ∧
      (mergeLine s l).poison.contains (a / 256) = s.poison.contains (a / 256) := by
  have f : ∀ (es : List (Nat × Sector)) (t : State), (∀ e ∈ es, e ∈ l.sectors) →
      homeByte (es.foldl (fun t e => mergeSector t l.num e.1 e.2) t) key a = homeByte t key a ∧
        (es.foldl (fun t e => mergeSector t l.num e.1 e.2) t).poison.contains (a / 256) = t.poison.contains (a / 256) := by
    intro es
    induction es with
    | nil => intro t _; exact ⟨rfl, rfl⟩
    | cons e r ih =>
      intro t he
      obtain ⟨h1, h2⟩ := hs e (he e (by simp))
      obtain ⟨g1, g2⟩ := ih (mergeSector t l.num e.1 e.2) (fun x hx => he x (by simp [hx]))
      refine ⟨g1.trans (homeByte_mergeSector_other _ _ _ _ _ h2 _ (by omega)), g2.trans ?_⟩
      exact mergeSector_poison_other _ _ _ _ _ (by omega)
  exact f _ s (fun e he => (List.mem_filter.1 he).1)

/-! ### Banks -/

@[simp] theorem linesOf_setLines (s : State) (b : Nat) (l : List Line) : linesOf (setLines s b l) b = l := by
  simp [linesOf, setLines]

theorem linesOf_setLines_ne (s : State) {b c : Nat} (l : List Line) (h : c ≠ b) : linesOf (setLines s b l) c = linesOf s c := by
  simp only [linesOf, setLines]
  exact look_keep_ne _ _ _ h

theorem mergeSector_banks (s : State) (num i : Nat) (e : Sector) : (mergeSector s num i e).banks = s.banks := by
  have f : ∀ (l : List Nat) (t : State),
      (l.foldl (fun (t : State) o => homePut t e.key (num * 1024 + i * 256 + o) [look 0 e.data o]) t).banks = t.banks := by
    intro l
    induction l with
    | nil => intro t; rfl
    | cons o r ih =>
      intro t
      rw [List.foldl_cons, ih]
      unfold homePut rekey
      split
      · rfl
      · dsimp only
        split <;> rfl
  have g := f e.dirty s
  unfold mergeSector
  dsimp only
  split <;> exact g

theorem mergeLine_banks (s : State) (l : Line) : (mergeLine s l).banks = s.banks := by
  have f : ∀ (es : List (Nat × Sector)) (t : State), (es.foldl (fun t e => mergeSector t l.num e.1 e.2) t).banks = t.banks := by
    intro es
    induction es with
    | nil => intro t; rfl
    | cons e r ih => intro t; rw [List.foldl_cons, ih, mergeSector_banks]
  exact f _ s

theorem findLine_cons_self (l : Line) (r : List Line) : findLine (l :: r) l.num = some l := by simp [findLine]

theorem findLine_num {ls : List Line} {n : Nat} {l : Line} (h : findLine ls n = some l) : l.num = n ∧ l ∈ ls := by
  induction ls with
  | nil => cases h
  | cons x r ih =>
    unfold findLine at h
    split at h
    · rename_i hx
      cases h
      exact ⟨hx, by simp⟩
    · exact ⟨(ih h).1, by simp [(ih h).2]⟩

theorem findLine_none {ls : List Line} {n : Nat} (h : findLine ls n = none) : ∀ l ∈ ls, l.num ≠ n := by
  induction ls with
  | nil => intro l hl; simp at hl
  | cons x r ih =>
    unfold findLine at h
    split at h
    · cases h
    · rename_i hx
      intro l hl
      rcases List.mem_cons.1 hl with rfl | hl
      · exact hx
      · exact ih h l hl

/-- A sector put into a bank is the one the bank holds. -/
theorem sectorIn_placeSector (s : State) (b sec : Nat) (e : Sector) : sectorIn (placeSector s b sec e) b sec = some e := by
  unfold sectorIn
  cases hl : findLine (linesOf s b) (sec / 4) with
  | some l =>
    have h := (findLine_num hl).1
    have e1 : placeSector s b sec e =
        setLines s b ({ l with sectors := put l.sectors (sec % 4) e } :: dropLine (linesOf s b) (sec / 4)) := by
      unfold placeSector; rw [hl]
    rw [e1, linesOf_setLines]
    simp [findLine, h]
  | none =>
    have e1 : placeSector s b sec e = setLines s b ({ num := sec / 4, sectors := [(sec % 4, e)] } :: linesOf s b) := by
      unfold placeSector; rw [hl]
    rw [e1, linesOf_setLines]
    simp [findLine, find?]

theorem sectorIn_touchLine (s : State) (b num sec : Nat) (h : sec / 4 = num) :
    sectorIn (touchLine s b num) b sec = sectorIn s b sec := by
  unfold sectorIn
  cases hl : findLine (linesOf s b) num with
  | some l =>
    have e1 : touchLine s b num = setLines s b (l :: dropLine (linesOf s b) num) := by unfold touchLine; rw [hl]
    have := (findLine_num hl).1
    rw [e1, linesOf_setLines, h, hl]
    simp [findLine, this]
  | none =>
    have e1 : touchLine s b num = s := by unfold touchLine; rw [hl]
    rw [e1]

theorem touchLine_mem (s : State) (b num : Nat) : (touchLine s b num) = { s with banks := (touchLine s b num).banks } := by
  unfold touchLine
  split <;> rfl

theorem placeSector_mem (s : State) (b sec : Nat) (e : Sector) :
    placeSector s b sec e = { s with banks := (placeSector s b sec e).banks } := by
  unfold placeSector
  split <;> rfl

theorem ensureSector_hit {s : State} {b : Nat} {key : KeySel} {sec : Nat} {e : Sector} (h : sectorIn s b sec = some e) :
    ensureSector s b key sec = (touchLine s b (sec / 4), 0) ∧ sectorIn (touchLine s b (sec / 4)) b sec = some e := by
  constructor
  · unfold ensureSector; rw [h]
  · rw [sectorIn_touchLine _ _ _ _ rfl, h]

/-- A table built from a list of bytes holds them at their places. -/
theorem look_zipIdx (l : List Byte) : ∀ (k : Nat) (m : SMap Byte) (o : Nat),
    look 0 ((l.zipIdx k).foldl (fun m e => keep 0 m e.2 e.1) m) o =
      if k ≤ o ∧ o < k + l.length then nth 0 l (o - k) else look 0 m o := by
  induction l with
  | nil => intro k m o; simp
  | cons b r ih =>
    intro k m o
    rw [List.zipIdx_cons, List.foldl_cons, ih]
    by_cases h1 : k + 1 ≤ o ∧ o < k + 1 + r.length
    · rw [if_pos h1, if_pos (by simp only [List.length_cons]; omega), show o - k = (o - (k + 1)) + 1 by omega]; rfl
    · rw [if_neg h1]
      by_cases h2 : o = k
      · subst h2
        rw [look_keep, if_pos (by simp)]; simp [nth]
      · rw [look_keep_ne _ _ _ h2, if_neg (by simp only [List.length_cons]; omega)]

/-- The bytes of a fill are what the home reads under the key. -/
theorem fillSector_data (s : State) (key : KeySel) (sec o : Nat) (h : o < 256) :
    look 0 (fillSector s key sec).data o = homeByte s key (sec * 256 + o) := by
  unfold fillSector
  dsimp only
  split
  · rename_i hk
    have e1 : homeByte s key (sec * 256 + o) = memByte s (sec * 256 + o) := by
      unfold homeByte
      rw [show (sec * 256 + o) / 256 = sec by omega, if_pos hk]
    rw [e1]
    unfold memByte
    have f : ∀ m : SMap Byte, look 0 (each (fun _ b => b) ((part (fun a => decide (a / 256 = sec)) m).map (fun c => (c.1 % 256, c.2)))) o =
        look 0 m (sec * 256 + o) := by
      intro m
      induction m with
      | nil => rfl
      | cons x r ih =>
        obtain ⟨j, v⟩ := x
        by_cases hj : j / 256 = sec
        · simp only [part, List.filter_cons, hj, decide_true, if_true, List.map_cons, each]
          by_cases ho : j % 256 = o
          · have : j = sec * 256 + o := by omega
            simp [look, find?, this]
            rw [if_pos (by omega)]
          · have : j ≠ sec * 256 + o := by omega
            simp only [look, find?, ho, this, if_false]
            exact ih
        · have : j ≠ sec * 256 + o := by omega
          simp only [part, List.filter_cons, hj, decide_false, look, find?, this, if_false]
          exact ih
    exact f s.mem
  · rename_i hk
    have h1 : (sec * 256 + o) / 256 = sec := by omega
    have h2 : (sec * 256 + o) % 256 = o := by omega
    have h3 : homeByte s key (sec * 256 + o) = nth 0 (otherKey s key sec) o := by
      unfold homeByte
      rw [h1, h2, if_neg hk]
    have h4 := length_otherKey s key sec
    rw [h3]
    generalize otherKey s key sec = l at h4
    rw [look_zipIdx l 0 [], if_pos (by omega), Nat.sub_zero]

theorem lazyMove_none {s : State} {b num : Nat} (h : NoMove s b num) : lazyMove s b num = (s, 0) := by
  unfold lazyMove
  split
  · rfl
  · rcases h with h | h
    · contradiction
    · simp [h]

theorem makeRoom_keeps {s : State} {b num : Nat} (hl : findLine (linesOf s b) num = none) (hs : SoundBank s b) (key : KeySel)
    (a : Nat) (ha : a / 1024 = num) :
    homeByte (makeRoom s b num).1 key a = homeByte s key a ∧
      (makeRoom s b num).1.poison.contains (a / 256) = s.poison.contains (a / 256) := by
  have hsub : ∀ v ∈ leaving (sharedOn s (b / 16)) (linesOf s b) num, v ∈ linesOf s b := fun v hv => by
    unfold leaving waysOf crowded at hv
    split at hv
    · exact (List.mem_filter.1 (List.mem_of_mem_drop hv)).1
    · split at hv
      · exact (List.mem_filter.1 hv).1
      · cases hv
  unfold makeRoom
  generalize leaving (sharedOn s (b / 16)) (linesOf s b) num = l at hsub
  dsimp only
  split
  · exact ⟨rfl, rfl⟩
  · rename_i v r hv
    · have hm : v ∈ linesOf s b := hsub v (List.mem_of_mem_drop (by rw [hv]; simp))
      have h1 := mergeLine_other { s with free := s.free + 1 } v (hs v hm) key a (by rw [ha]; exact fun x => findLine_none hl v hm x.symm)
      exact h1

/-- A miss with nothing to move fills the sector from its home. -/
theorem ensureSector_miss {s : State} {b : Nat} {key : KeySel} {sec : Nat} (h : sectorIn s b sec = none)
    (hn : NoMove s b (sec / 4)) (hs : SoundBank s b) :
    ∃ t n e, ensureSector s b key sec = (placeSector t b sec e, n + 1) ∧ OnlyMemory s t ∧
      (∀ o, o < 256 → look 0 e.data o = homeByte s key (sec * 256 + o)) ∧ e.dirty = [] ∧ e.key = key ∧
      e.poison = homeBad s key (sec * 256) ∧
      (((linesOf s b).filter (fun l => decide (setFor (sharedOn s (b / 16)) l.num = setFor (sharedOn s (b / 16)) (sec / 4)))).length < 12 ∧
        (linesOf s b).length < 48 → t = s ∧ n = 0) := by
  unfold ensureSector
  rw [h]
  dsimp only
  rw [lazyMove_none hn]
  dsimp only
  have bad : ∀ t : State, t.poison.contains sec = s.poison.contains sec → homeBad t key (sec * 256) = homeBad s key (sec * 256) := by
    intro t ht
    unfold homeBad
    rw [show sec * 256 / 256 = sec by omega, ht]
  cases hl : findLine (linesOf s b) (sec / 4) with
  | some l =>
    refine ⟨s, 0, fillSector s key sec, by simp, .refl _, fun o ho => fillSector_data _ _ _ _ ho, rfl, rfl, rfl, fun _ => ⟨rfl, rfl⟩⟩
  | none =>
    refine ⟨(makeRoom s b (sec / 4)).1, (makeRoom s b (sec / 4)).2, fillSector (makeRoom s b (sec / 4)).1 key sec, by simp, makeRoom_only _ _ _, ?_, rfl, rfl, ?_, ?_⟩
    · intro o ho
      rw [fillSector_data _ _ _ _ ho]
      exact (makeRoom_keeps hl hs key _ (by omega)).1
    · refine bad _ ?_
      have := (makeRoom_keeps hl hs key (sec * 256) (by omega)).2
      rwa [show sec * 256 / 256 = sec by omega] at this
    · intro hr
      have : leaving (sharedOn s (b / 16)) (linesOf s b) (sec / 4) = [] := by
        unfold leaving waysOf
        rw [if_neg (by omega), if_neg (by omega)]
      unfold makeRoom
      simp [this]

theorem sectorPut_data (bs : List Byte) : ∀ (e : Sector) (p o : Nat),
    look 0 (sectorPut e p bs).data o = if p ≤ o ∧ o < p + bs.length then nth 0 bs (o - p) else look 0 e.data o := by
  induction bs with
  | nil => intro e p o; simp [sectorPut]
  | cons b r ih =>
    intro e p o
    rw [sectorPut, ih]
    dsimp only
    by_cases h1 : p + 1 ≤ o ∧ o < p + 1 + r.length
    · rw [if_pos h1, if_pos (by simp only [List.length_cons]; omega)]
      obtain ⟨k, hk⟩ : ∃ k, o - p = k + 1 := ⟨o - p - 1, by omega⟩
      rw [hk, show o - (p + 1) = k by omega]; rfl
    · rw [if_neg h1]
      by_cases h2 : o = p
      · subst h2
        rw [look_keep, if_pos (by simp)]; simp [nth]
      · rw [look_keep_ne _ _ _ h2, if_neg (by simp only [List.length_cons]; omega)]

theorem mem_insertN {l : List Nat} {n m : Nat} : m ∈ insertN l n ↔ m = n ∨ m ∈ l := by
  induction l with
  | nil => simp [insertN]
  | cons x r ih =>
    unfold insertN
    split
    · rename_i h; subst h; simp
    · split
      · simp
      · simp only [List.mem_cons, ih]; tauto

theorem sectorPut_rest (bs : List Byte) : ∀ (e : Sector) (p : Nat),
    (sectorPut e p bs).key = e.key ∧ (sectorPut e p bs).poison = e.poison ∧
      ∀ o, o ∈ (sectorPut e p bs).dirty ↔ o ∈ e.dirty ∨ (p ≤ o ∧ o < p + bs.length) := by
  induction bs with
  | nil => intro e p; simp [sectorPut]
  | cons b r ih =>
    intro e p
    obtain ⟨h1, h2, h3⟩ := ih { e with data := keep 0 e.data p b, dirty := insertN e.dirty p } (p + 1)
    refine ⟨h1, h2, fun o => ?_⟩
    rw [sectorPut, h3, mem_insertN]
    simp only [List.length_cons]
    constructor
    · rintro ((h | h) | h)
      · right; omega
      · exact .inl h
      · right; omega
    · rintro (h | h)
      · exact .inl (.inr h)
      · by_cases ho : o = p
        · exact .inl (.inl ho)
        · right; omega

/-! ### Whole banks written back -/

/-- The dirty sectors of some lines, as line number, index and contents. -/
def jobs (ls : List Line) : List (Nat × Nat × Sector) := ls.flatMap (fun l => (dirtySectors l).map (fun e => (l.num, e.1, e.2)))

def runJobs (L : List (Nat × Nat × Sector)) (s : State) : State := L.foldl (fun t j => mergeSector t j.1 j.2.1 j.2.2) s

theorem mergeLines_jobs (ls : List Line) : ∀ s : State, ls.foldl mergeLine s = runJobs (jobs ls) s := by
  induction ls with
  | nil => intro s; rfl
  | cons l r ih =>
    intro s
    rw [List.foldl_cons, ih]
    simp only [runJobs, jobs, List.flatMap_cons, List.foldl_append, List.foldl_map]
    rfl

theorem mem_jobs {ls : List Line} {j : Nat × Nat × Sector} (h : j ∈ jobs ls) :
    ∃ l ∈ ls, j.1 = l.num ∧ (j.2.1, j.2.2) ∈ l.sectors ∧ j.2.2.dirty ≠ [] := by
  obtain ⟨l, hl, h2⟩ := List.mem_flatMap.1 h
  obtain ⟨e, he, rfl⟩ := List.mem_map.1 h2
  have := List.mem_filter.1 he
  exact ⟨l, hl, rfl, this.1, by simpa using this.2⟩

theorem jobs_pairwise {ls : List Line} (h1 : ls.Pairwise (fun x y => x.num ≠ y.num)) (h2 : ∀ l ∈ ls, l.sectors.Pairwise (fun x y => x.1 ≠ y.1))
    (h3 : ∀ l ∈ ls, SoundLine l) : (jobs ls).Pairwise (fun x y => x.1 * 4 + x.2.1 ≠ y.1 * 4 + y.2.1) := by
  induction ls with
  | nil => exact List.Pairwise.nil
  | cons l r ih =>
    rw [List.pairwise_cons] at h1
    have e : jobs (l :: r) = (dirtySectors l).map (fun e => (l.num, e.1, e.2)) ++ jobs r := by simp [jobs]
    rw [e, List.pairwise_append]
    refine ⟨?_, ih h1.2 (fun x hx => h2 x (by simp [hx])) (fun x hx => h3 x (by simp [hx])), ?_⟩
    · rw [List.pairwise_map]
      have := (h2 l (by simp)).filter (fun e => decide (e.2.dirty ≠ []))
      refine List.Pairwise.imp ?_ this
      intro x y hxy h
      simp only at h
      omega
    · intro a ha b hb
      obtain ⟨x, hx, rfl⟩ := List.mem_map.1 ha
      obtain ⟨m, hm, g1, g2, -⟩ := mem_jobs hb
      have i1 := (h3 l (by simp) x (List.mem_filter.1 hx).1).1
      have i2 := (h3 m (by simp [hm]) _ g2).1
      have := h1.1 m hm
      simp only at *
      omega

theorem runJobs_other (key : KeySel) (a : Nat) : ∀ (L : List (Nat × Nat × Sector)) (s : State), (∀ j ∈ L, ∀ o ∈ j.2.2.dirty, o < 256) →
    (∀ j ∈ L, j.1 * 4 + j.2.1 ≠ a / 256) → homeByte (runJobs L s) key a = homeByte s key a := by
  intro L
  induction L with
  | nil => intros; rfl
  | cons j r ih =>
    intro s h1 h2
    have := ih (mergeSector s j.1 j.2.1 j.2.2) (fun x hx => h1 x (by simp [hx])) (fun x hx => h2 x (by simp [hx]))
    refine this.trans ?_
    exact homeByte_mergeSector_other _ _ _ _ _ (h1 j (by simp)) _ (fun x => h2 j (by simp) x.symm)

theorem runJobs_of (a : Nat) : ∀ (L : List (Nat × Nat × Sector)) (s : State) (j : Nat × Nat × Sector), j ∈ L →
    L.Pairwise (fun x y => x.1 * 4 + x.2.1 ≠ y.1 * 4 + y.2.1) → (∀ j ∈ L, j.2.1 < 4 ∧ ∀ o ∈ j.2.2.dirty, o < 256) →
    j.1 * 4 + j.2.1 = a / 256 → j.2.2.key ≠ .dead →
    homeByte (runJobs L s) j.2.2.key a = if a % 256 ∈ j.2.2.dirty then look 0 j.2.2.data (a % 256) else homeByte s j.2.2.key a := by
  intro L
  induction L with
  | nil => intro s j h; simp at h
  | cons x r ih =>
    intro s j hj hp hs ha hk
    rw [List.pairwise_cons] at hp
    rcases List.mem_cons.1 hj with rfl | hj
    · have e1 := runJobs_other j.2.2.key a r (mergeSector s j.1 j.2.1 j.2.2) (fun x hx => (hs x (by simp [hx])).2)
        (fun x hx => by rw [← ha]; exact fun h => hp.1 x hx h.symm)
      refine e1.trans ?_
      rw [homeByte_mergeSector _ _ _ _ (hs j (by simp)).1 hk (hs j (by simp)).2]
      have e2 : j.1 * 1024 + j.2.1 * 256 ≤ a := by omega
      have e3 : a - (j.1 * 1024 + j.2.1 * 256) = a % 256 := by omega
      rw [e3]
      by_cases hd : a % 256 ∈ j.2.2.dirty
      · rw [if_pos ⟨e2, hd⟩, if_pos hd]
      · rw [if_neg (fun x => hd x.2), if_neg hd]
    · have e1 := ih (mergeSector s x.1 x.2.1 x.2.2) j hj hp.2 (fun y hy => hs y (by simp [hy])) ha hk
      refine e1.trans ?_
      rw [homeByte_mergeSector_other _ _ _ _ _ (hs x (by simp)).2 _ (by rw [← ha]; exact fun h => hp.1 j hj h.symm)]

theorem pairwise_inj {α : Type} {f : α → Nat} : ∀ {l : List α}, l.Pairwise (fun x y => f x ≠ f y) → ∀ {x y : α}, x ∈ l → y ∈ l → f x = f y → x = y := by
  intro l
  induction l with
  | nil => intro _ x y h; simp at h
  | cons a r ih =>
    intro hp x y hx hy h
    rw [List.pairwise_cons] at hp
    rcases List.mem_cons.1 hx with hx1 | hx1 <;> rcases List.mem_cons.1 hy with hy1 | hy1
    · rw [hx1, hy1]
    · subst hx1; exact absurd h (hp.1 y hy1)
    · subst hy1; exact absurd h.symm (hp.1 x hx1)
    · exact ih hp.2 hx1 hy1 h

theorem find?_mem_pair {α : Type} {m : SMap α} {k : Nat} {v : α} (h : find? m k = some v) : (k, v) ∈ m := by
  induction m with
  | nil => cases h
  | cons x r ih =>
    obtain ⟨j, w⟩ := x
    unfold find? at h
    split at h
    · rename_i hj; cases h; subst hj; simp
    · simp [ih h]

theorem sectorIn_line {s : State} {b sec : Nat} {e : Sector} (h : sectorIn s b sec = some e) :
    ∃ l ∈ linesOf s b, l.num = sec / 4 ∧ (sec % 4, e) ∈ l.sectors := by
  unfold sectorIn at h
  split at h
  · rename_i l hl
    exact ⟨l, (findLine_num hl).2, (findLine_num hl).1, find?_mem_pair h⟩
  · cases h

/-- The lines of a bank written back, at a sector it holds. -/
theorem merged_in {s : State} {b sec : Nat} {e : Sector} (hw : WellBank s b) (h : sectorIn s b sec = some e) (hk : e.key ≠ .dead) (t : State)
    (o : Nat) (ho : o < 256) :
    homeByte ((linesOf s b).foldl mergeLine t) e.key (sec * 256 + o) =
      if o ∈ e.dirty then look 0 e.data o else homeByte t e.key (sec * 256 + o) := by
  obtain ⟨w1, w2, w3⟩ := hw
  obtain ⟨l, hl, h1, h2⟩ := sectorIn_line h
  have sd : ∀ j ∈ jobs (linesOf s b), j.2.1 < 4 ∧ ∀ o ∈ j.2.2.dirty, o < 256 := by
    intro j hj
    obtain ⟨m, hm, -, g2, -⟩ := mem_jobs hj
    exact w1 m hm _ g2
  rw [mergeLines_jobs]
  by_cases hd : e.dirty = []
  · rw [if_neg (by rw [hd]; simp)]
    refine runJobs_other _ _ _ _ (fun j hj => (sd j hj).2) ?_
    intro j hj hx
    obtain ⟨m, hm, g1, g2, g3⟩ := mem_jobs hj
    have i1 := (w1 m hm _ g2).1
    have : m.num = l.num := by simp only at i1; omega
    have : m = l := pairwise_inj (f := Line.num) w2 hm hl this
    subst this
    have : (j.2.1, j.2.2) = (sec % 4, e) := pairwise_inj (f := Prod.fst) (w3 m hm) g2 h2 (by simp only at i1 ⊢; omega)
    have : j.2.2 = e := (Prod.mk.inj this).2
    rw [this] at g3
    exact g3 hd
  · have hj : (l.num, sec % 4, e) ∈ jobs (linesOf s b) := by
      refine List.mem_flatMap.2 ⟨l, hl, List.mem_map.2 ⟨(sec % 4, e), List.mem_filter.2 ⟨h2, by simpa using hd⟩, rfl⟩⟩
    have := runJobs_of (sec * 256 + o) (jobs (linesOf s b)) t _ hj (jobs_pairwise w2 w3 w1) sd (by simp only; omega) hk
    rw [show (sec * 256 + o) % 256 = o by omega] at this
    exact this

/-- The same at a sector of which it holds nothing written. -/
theorem merged_out {s : State} {b sec : Nat} (hw : WellBank s b) (h : ∀ e, sectorIn s b sec = some e → e.dirty = []) (key : KeySel) (t : State)
    (a : Nat) (ha : a / 256 = sec) : homeByte ((linesOf s b).foldl mergeLine t) key a = homeByte t key a := by
  obtain ⟨w1, w2, w3⟩ := hw
  have sd : ∀ j ∈ jobs (linesOf s b), j.2.1 < 4 ∧ ∀ o ∈ j.2.2.dirty, o < 256 := by
    intro j hj
    obtain ⟨m, hm, -, g2, -⟩ := mem_jobs hj
    exact w1 m hm _ g2
  rw [mergeLines_jobs]
  refine runJobs_other _ _ _ _ (fun j hj => (sd j hj).2) ?_
  intro j hj hx
  obtain ⟨m, hm, g1, g2, g3⟩ := mem_jobs hj
  have i1 := (w1 m hm _ g2).1
  simp only at i1
  have e1 : m.num = sec / 4 := by omega
  have e2 : j.2.1 = sec % 4 := by omega
  have fl : ∀ ls : List Line, ls.Pairwise (fun x y => x.num ≠ y.num) → m ∈ ls → findLine ls (sec / 4) = some m := by
    intro ls
    induction ls with
    | nil => intro _ x; simp at x
    | cons y r ih =>
      intro hp hmem
      rw [List.pairwise_cons] at hp
      rcases List.mem_cons.1 hmem with rfl | hr
      · simp [findLine, e1]
      · unfold findLine
        rw [if_neg (by rw [← e1]; exact hp.1 m hr)]
        exact ih hp.2 hr
  have fs : ∀ es : SMap Sector, es.Pairwise (fun x y => x.1 ≠ y.1) → (j.2.1, j.2.2) ∈ es → find? es (sec % 4) = some j.2.2 := by
    intro es
    induction es with
    | nil => intro _ x; simp at x
    | cons y r ih =>
      intro hp hmem
      rw [List.pairwise_cons] at hp
      obtain ⟨k, v⟩ := y
      rcases List.mem_cons.1 hmem with hq | hr
      · cases hq
        simp [find?, e2]
      · unfold find?
        have := hp.1 _ hr
        simp only at this
        rw [if_neg (by rw [← e2]; exact this)]
        exact ih hp.2 hr
  have := h j.2.2 (by unfold sectorIn; rw [fl _ w2 hm]; exact fs _ (w3 m hm) g2)
  exact g3 this

end Sys2Proof.Machine
end

