-- ==== Sys2Proof/Laws/Coma.lean ====
section
/-!
SUPPORT. What the operations of the fabric leave unchanged: elements, buffers, packets, tracking blocks and multicast lines.
-/

namespace Sys2Proof.Machine

open Sys2Proof

theorem Sends.refl (s : State) : Sends s s := ⟨rfl, rfl, rfl⟩

theorem Sends.trans {s t u : State} (h : Sends s t) (g : Sends t u) : Sends s u := by
  refine ⟨?_, ?_, ?_⟩
  · rw [g.rest, h.rest]
  · rw [g.ctl, h.ctl]
  · rw [g.sched, h.sched]

theorem OnlyMemory.sends {s t : State} (h : OnlyMemory s t) : Sends s t := by
  refine ⟨by rw [h.rest], by rw [h.ctl], by rw [h.rest]⟩

theorem Sends.streams {s t : State} (h : Sends s t) : t.streams = s.streams := by rw [h.rest]
theorem Sends.lanes {s t : State} (h : Sends s t) : t.lanes = s.lanes := by rw [h.rest]
theorem Sends.groups {s t : State} (h : Sends s t) : t.groups = s.groups := by rw [h.rest]
theorem Sends.regs {s t : State} (h : Sends s t) : t.regs = s.regs := by rw [h.rest]
theorem Sends.scratch {s t : State} (h : Sends s t) : t.scratch = s.scratch := by rw [h.rest]
theorem Sends.moves {s t : State} (h : Sends s t) : t.moves = s.moves := by rw [h.rest]
theorem Sends.seq {s t : State} (h : Sends s t) : t.seq = s.seq := by rw [h.rest]
theorem Sends.cycle {s t : State} (h : Sends s t) : t.cycle = s.cycle := by rw [h.rest]

theorem foldl_sends {β : Type} (f : State → β → State) (hf : ∀ s x, Sends s (f s x)) (l : List β) (s : State) : Sends s (l.foldl f s) := by
  induction l generalizing s with
  | nil => exact .refl _
  | cons x r ih => exact (hf s x).trans (ih _)

/-- A change of teams, timers, work, the fabric. -/
theorem sends_of (s : State) (a : SMap Team) (b : List (Nat × Instr)) (c : List Instr) (d : Fabric) :
    Sends s { s with teams := a, timers := b, work := c, fab := d } := ⟨rfl, rfl, rfl⟩

theorem domWrite_sends {s t : State} {dom va : Nat} {bs : List Byte} (h : domWrite s dom va bs = some t) : OnlyMemory s t := by
  unfold domWrite at h
  split at h
  · cases h
  · rename_i hx
    split at h
    · cases h
    · cases h
      exact (translateLocal_only hx).trans (homeWrite_only _ _ _ _)

theorem bumpWord_sends (s : State) (dom addr : Nat) (f : Nat → Nat) : OnlyMemory s (bumpWord s dom addr f) := by
  unfold bumpWord
  split
  · exact .refl _
  · split
    · rename_i h; exact domWrite_sends h
    · exact .refl _

theorem modIdent_sends (s : State) (ident : BitVec 32) (f : Team → Team) : Sends s (modIdent s ident f) := ⟨rfl, rfl, rfl⟩

theorem trackUp_sends (s : State) (ident : BitVec 32) (k : Track) (n : Nat) : Sends s (trackUp s ident k n) := by
  unfold trackUp
  split
  · exact (bumpWord_sends _ _ _ _).sends
  · exact modIdent_sends _ _ _

theorem trackDown_sends (s : State) (ident : BitVec 32) (k : Track) (n : Nat) : Sends s (trackDown s ident k n) := by
  unfold trackDown
  split
  · exact (bumpWord_sends _ _ _ _).sends
  · exact modIdent_sends _ _ _

theorem trackFail_only (s : State) (k : Track) (a b c : Nat) : OnlyMemory s (trackFail s k a b c) := by
  unfold trackFail
  split
  · exact .refl _
  · dsimp only
    split
    · split
      · exact bumpWord_sends _ _ _ _
      · split
        · rename_i h; exact ((bumpWord_sends _ _ _ _).trans (domWrite_sends h)).trans (bumpWord_sends _ _ _ _)
        · exact bumpWord_sends _ _ _ _
    · exact bumpWord_sends _ _ _ _

theorem elementFail_only (s : State) (k : Track) (dev win : Nat) (atomic : Bool) (e : Element) (reason : Nat) :
    OnlyMemory s (elementFail s k dev win atomic e reason) := trackFail_only _ _ _ _ _

theorem memberFail_only (s : State) (k : Track) (g w o m r : Nat) : OnlyMemory s (memberFail s k g w o m r) := trackFail_only _ _ _ _ _

theorem failElements_sends (s : State) (ident : BitVec 32) (k : Track) (dev win : Nat) (atomic : Bool) (l : List Element) (reason : Nat) :
    Sends s (failElements s ident k dev win atomic l reason) :=
  foldl_sends _ (fun _ _ => (elementFail_only _ _ _ _ _ _ _).sends.trans (trackDown_sends _ _ _ _)) _ _

theorem pushTimer_sends (s : State) (n : Nat) (e : Instr) : Sends s (pushTimer s n e) := ⟨rfl, rfl, rfl⟩

theorem fly_sends (s : State) (ident : BitVec 32) (dev : BitVec 12) (win : BitVec 24) (k : Track) (w : Flight) (leaves : List TlbEntry)
    (timed : Option Instr) : Sends s (fly s ident dev win k w leaves timed) := by
  unfold fly
  dsimp only
  split
  · exact ⟨rfl, rfl, rfl⟩
  · exact ⟨rfl, rfl, rfl⟩

theorem modTeam_sends (s : State) (k : Nat) (f : Team → Team) : Sends s (modTeam s k f) := ⟨rfl, rfl, rfl⟩

theorem pendYield_sends (s : State) (k cause n : Nat) : Sends s (pendYield s k cause n) := by
  unfold pendYield
  split
  · exact .refl _
  · split
    · split
      · exact modTeam_sends _ _ _
      · exact .refl _
    · exact ⟨rfl, rfl, rfl⟩

theorem chargeTb_sends (s : State) (k n : Nat) : Sends s (chargeTb s k n) := by
  unfold chargeTb
  split
  · exact .refl _
  · split
    · exact .refl _
    · dsimp only
      split
      · exact (modTeam_sends _ _ _).trans (pendYield_sends _ _ _ _)
      · exact modTeam_sends _ _ _

theorem chargeSectors_sends (s : State) (c : Ctx) (n : Nat) : Sends s (chargeSectors s c n) := by
  unfold chargeSectors
  split
  · exact .refl _
  · exact chargeTb_sends _ _ _

theorem bufferLeft_sends (s : State) (n tag : Nat) : Sends s (bufferLeft s n tag) := ⟨rfl, rfl, rfl⟩

theorem enqueue_sends (s : State) (n : Nat) (p : Packet) : Sends s (enqueue s n p) := ⟨rfl, rfl, rfl⟩

theorem sendPacket_sends {s t : State} {p : Packet} (h : sendPacket s p = some t) : Sends s t := by
  unfold sendPacket at h
  split at h
  · cases h
  · split at h
    · cases h; exact enqueue_sends _ _ _
    · cases h

theorem launched_sends (s : State) (p : Packet) (i1 : BitVec 32) (d1 : BitVec 12) (w1 : BitVec 24) (k : Track) (w : Flight)
    (leaves : List TlbEntry) (e : Option Instr) (g : State → State) (hg : ∀ u, Sends u (g u)) :
    Sends s (match sendPacket s p with
      | some s3 => fly s3 i1 d1 w1 k w leaves e
      | none => g s) := by
  cases h : sendPacket s p with
  | none => exact hg s
  | some t => exact (sendPacket_sends h).trans (fly_sends t _ _ _ _ _ _ _)

theorem charged_sends (s : State) (ident : BitVec 32) :
    Sends s (match first? (fun _ t => decide (Team.ident t = ident)) s.teams with | some (k, _) => chargeTb s k 1 | none => s) := by
  cases first? (fun _ t => decide (Team.ident t = ident)) s.teams with
  | none => exact .refl _
  | some e => exact chargeTb_sends _ _ _

theorem flushBuffer_sends (s : State) (n : Nat) : Sends s (flushBuffer s n) := by
  unfold flushBuffer
  cases find? s.fab.buffers n with
  | none => exact .refl _
  | some b =>
    have h1 : Sends s (bufferLeft { s with fab := { s.fab with buffers := del s.fab.buffers n } } n (nextTag s)) := ⟨rfl, rfl, rfl⟩
    refine (h1.trans (charged_sends _ b.team)).trans ?_
    exact launched_sends _ _ _ _ _ _ _ _ _ (fun u => failElements u b.team b.track b.dev.toNat b.win.toNat b.atomic b.elems 3)
      (fun u => failElements_sends u _ _ _ _ _ _ _)

theorem flushWhere_sends (s : State) (p : Buffer → Bool) : Sends s (flushWhere s p) := foldl_sends _ (fun _ _ => flushBuffer_sends _ _) _ _

theorem flushTeam_sends (s : State) (ident : BitVec 32) : Sends s (flushTeam s ident) := flushWhere_sends _ _

theorem flushWindow_sends (s : State) (ident : BitVec 32) (dev : BitVec 12) (win : BitVec 24) : Sends s (flushWindow s ident dev win) :=
  flushWhere_sends _ _

theorem makeBuffer_sends (s : State) (t : Team) (io : Nat) : Sends s (makeBuffer s t io) := by
  unfold makeBuffer
  dsimp only
  split
  · exact flushBuffer_sends _ _
  · exact .refl _

theorem setBuffers_sends (s : State) (m : SMap Buffer) : Sends s { s with fab := { s.fab with buffers := m } } := ⟨rfl, rfl, rfl⟩

theorem openBuffer_sends (s : State) (t : Team) (io : Nat) (dev : BitVec 12) (win : BitVec 24) (atomic : Bool)
    (leaf : TlbEntry) (e : Element) : Sends s (openBuffer s t io dev win atomic leaf e) := by
  unfold openBuffer
  dsimp only
  refine (makeBuffer_sends s t io).trans (Sends.trans ?_ (pushTimer_sends _ _ _))
  exact (setBuffers_sends _ _).trans (trackUp_sends _ _ _ _)

theorem appendElement_sends (s : State) (t : Team) (n : Nat) (b : Buffer) (leaf : TlbEntry) (e : Element) :
    Sends s (appendElement s t n b leaf e) := by
  unfold appendElement
  split
  · exact (flushBuffer_sends _ _).trans (openBuffer_sends _ _ _ _ _ _ _ _)
  · dsimp only
    split
    · exact ((setBuffers_sends _ _).trans (trackUp_sends _ _ _ _)).trans (flushBuffer_sends _ _)
    · exact (setBuffers_sends _ _).trans (trackUp_sends _ _ _ _)

theorem placeElement_sends (s : State) (t : Team) (dev : BitVec 12) (win : BitVec 24) (atomic : Bool)
    (leaf : TlbEntry) (e : Element) : Sends s (placeElement s t dev win atomic leaf e) := by
  unfold placeElement
  dsimp only
  have h := flushWhere_sends s (fun b => decide (b.team = t.ident ∧ b.dev = dev ∧ b.win = win ∧ b.atomic = !atomic ∧ b.io = teamIo t))
  generalize flushWhere s (fun b => decide (b.team = t.ident ∧ b.dev = dev ∧ b.win = win ∧ b.atomic = !atomic ∧ b.io = teamIo t)) = s1 at h
  split
  · exact h.trans (openBuffer_sends _ _ _ _ _ _ _ _)
  · split
    · exact (h.trans (flushBuffer_sends _ _)).trans (openBuffer_sends _ _ _ _ _ _ _ _)
    · split
      · split
        · exact h.trans (setBuffers_sends _ _)
        · split
          · exact h.trans (setBuffers_sends _ _)
          · exact h.trans (appendElement_sends _ _ _ _ _ _)
      · exact h.trans (appendElement_sends _ _ _ _ _ _)

theorem applyLocal_only (s : State) (t : Team) (x : Xlat) (atomic : Bool) (e : Element) : OnlyMemory s (applyLocal s t x atomic e) := by
  unfold applyLocal
  dsimp only
  split
  · exact elementFail_only _ _ _ _ _ _ _
  · exact homeWrite_only _ _ _ _

theorem remoteElement_sends (s : State) (tk : Nat) (x : Xlat) (atomic : Bool) (size op : Nat) (v : Word) :
    Sends s (remoteElement s tk x atomic size op v) := by
  unfold remoteElement
  split
  · exact .refl _
  · dsimp only
    split
    · exact placeElement_sends _ _ _ _ _ _ _
    · exact (applyLocal_only _ _ _ _ _).sends

end Sys2Proof.Machine
end

