-- ==== Sys2Proof/Laws/Float.lean ====
section
/-!
SUPPORT. The arithmetic of the binary formats is correctly rounded (R371): rounding of an exact value, and from it addition,
multiplication, division, square root, fused multiply-add, integral values and scaling; comparison of decoded values.
-/

namespace Sys2Proof.Machine

open Sys2Proof

theorem powNum_real (e : Int) : (powNum e : ℝ) = (2 : ℝ) ^ e * (powDen e : ℝ) := by
  unfold powNum powDen
  rcases Int.le_total 0 e with h | h
  · obtain ⟨n, rfl⟩ := Int.eq_ofNat_of_zero_le h
    simp
  · obtain ⟨n, hn⟩ := Int.eq_ofNat_of_zero_le (Int.neg_nonneg_of_nonpos h)
    have : e = -(n : ℤ) := by omega
    subst this
    simp

theorem powDen_pos (e : Int) : (0 : ℝ) < powDen e := by unfold powDen; positivity
theorem powNum_pos (e : Int) : (0 : ℝ) < powNum e := by unfold powNum; positivity
theorem two_zpow_pos (e : Int) : (0 : ℝ) < (2 : ℝ) ^ e := by positivity

theorem log2_bounds (n : Nat) (h : n ≠ 0) : (2 : ℝ) ^ (Nat.log2 n : ℤ) ≤ n ∧ (n : ℝ) < (2 : ℝ) ^ ((Nat.log2 n : ℤ) + 1) := by
  constructor
  · rw [zpow_natCast]; exact_mod_cast Nat.log2_self_le h
  · have := Nat.lt_log2_self (n := n)
    have e : ((Nat.log2 n : ℤ) + 1) = ((Nat.log2 n + 1 : ℕ) : ℤ) := by push_cast; rfl
    rw [e, zpow_natCast]; exact_mod_cast this

/-- ⌊log2⌋ of a positive fraction. -/
theorem floorLog_spec (n d : Nat) (hn : n ≠ 0) (hd : d ≠ 0) :
    (2 : ℝ) ^ floorLog n d ≤ (n : ℝ) / d ∧ (n : ℝ) / d < (2 : ℝ) ^ (floorLog n d + 1) := by
  have dp : (0 : ℝ) < d := by exact_mod_cast Nat.pos_of_ne_zero hd
  obtain ⟨n1, n2⟩ := log2_bounds n hn
  obtain ⟨d1, d2⟩ := log2_bounds d hd
  have up : (n : ℝ) / d < (2 : ℝ) ^ ((Nat.log2 n : ℤ) - Nat.log2 d + 1) := by
    rw [div_lt_iff₀ dp]
    calc (n : ℝ) < (2 : ℝ) ^ ((Nat.log2 n : ℤ) + 1) := n2
      _ = (2 : ℝ) ^ ((Nat.log2 n : ℤ) - Nat.log2 d + 1) * (2 : ℝ) ^ (Nat.log2 d : ℤ) := by
        rw [← zpow_add₀ (by norm_num)]; congr 1; ring
      _ ≤ _ := by gcongr
  have lo : (2 : ℝ) ^ ((Nat.log2 n : ℤ) - Nat.log2 d - 1) ≤ (n : ℝ) / d := by
    rw [le_div_iff₀ dp]
    calc (2 : ℝ) ^ ((Nat.log2 n : ℤ) - Nat.log2 d - 1) * d
        ≤ (2 : ℝ) ^ ((Nat.log2 n : ℤ) - Nat.log2 d - 1) * (2 : ℝ) ^ ((Nat.log2 d : ℤ) + 1) := by gcongr
      _ = (2 : ℝ) ^ (Nat.log2 n : ℤ) := by rw [← zpow_add₀ (by norm_num)]; congr 1; ring
      _ ≤ n := n1
  set l : Int := (Nat.log2 n : ℤ) - Nat.log2 d with hl
  have key : (n * powDen l ≥ d * powNum l) ↔ (2 : ℝ) ^ l ≤ (n : ℝ) / d := by
    rw [le_div_iff₀ dp]
    have : (n * powDen l ≥ d * powNum l) ↔ (d : ℝ) * powNum l ≤ n * powDen l := by
      constructor
      · intro h; exact_mod_cast h
      · intro h; exact_mod_cast h
    rw [this, powNum_real]
    have p := powDen_pos l
    constructor
    · intro h; nlinarith
    · intro h; nlinarith
  unfold floorLog
  simp only []
  rw [← hl]
  split
  · exact ⟨key.1 ‹_›, up⟩
  · refine ⟨lo, ?_⟩
    have := mt key.2 ‹_›
    rw [sub_add_cancel]; exact not_le.1 this

theorem floorLog_unique (x : ℝ) (a b : ℤ) (a1 : (2 : ℝ) ^ a ≤ x) (b2 : x < (2 : ℝ) ^ (b + 1)) : a ≤ b := by
  have := lt_of_le_of_lt a1 b2
  have := (zpow_lt_zpow_iff_right₀ (by norm_num : (1 : ℝ) < 2)).1 this
  omega

/-- A sign as a factor. -/
def sg (neg : Bool) : ℝ := if neg then -1 else 1

theorem sg_abs (neg : Bool) : |sg neg| = 1 := by cases neg <;> simp [sg]

theorem RoundsTo_sign {mode : Rounding} (h : mode = .rne ∨ mode = .rna) (neg : Bool) {y : ℝ} {n : ℕ} (g : RoundsTo mode y n) :
    RoundsTo mode (sg neg * y) (if neg then -(n : ℤ) else n) := by
  cases neg with
  | false => simpa [sg] using g
  | true =>
    have e : sg true * y - ((-(n : ℤ) : ℤ) : ℝ) = -(y - ((n : ℤ) : ℝ)) := by simp [sg]; ring
    rcases h with rfl | rfl
    · simp only [RoundsTo, if_true] at g ⊢
      rw [e, abs_neg]
      exact ⟨g.1, fun h => by have := g.2 h; omega⟩
    · simp only [RoundsTo, if_true] at g ⊢
      rw [e, abs_neg]
      refine ⟨g.1, fun h => ?_⟩
      have := g.2 h
      simpa [sg] using this

/-- A positive real between an integer and the next, rounded: the natural number a direct mode takes. -/
theorem roundUp_spec (mode : Rounding) (hm : ∀ k, mode ≠ .sr k) (neg : Bool) (i r d : Nat) (hr : r < d) :
    RoundsTo mode (sg neg * ((i : ℝ) + (r : ℝ) / d))
      (if neg then -(((if roundUp mode neg i r d then i + 1 else i : Nat)) : ℤ) else ((if roundUp mode neg i r d then i + 1 else i : Nat) : ℤ)) := by
  have dp : (0 : ℝ) < d := by exact_mod_cast (by omega : 0 < d)
  set t : ℝ := (r : ℝ) / d with ht
  have t0 : 0 ≤ t := by positivity
  have t1 : t < 1 := by rw [ht, div_lt_one dp]; exact_mod_cast hr
  have i0 : (0 : ℝ) ≤ i := by positivity
  have half1 : (2 * r > d) ↔ 1 / 2 < t := by
    rw [ht, lt_div_iff₀ dp]
    constructor
    · intro h; have : (d : ℝ) < 2 * r := by exact_mod_cast h
      linarith
    · intro h; have : (d : ℝ) < 2 * r := by linarith
      exact_mod_cast this
  have half2 : (2 * r = d) ↔ t = 1 / 2 := by
    rw [ht, div_eq_iff dp.ne']
    constructor
    · intro h; have : (d : ℝ) = 2 * r := by exact_mod_cast h.symm
      linarith
    · intro h; have : (2 : ℝ) * r = d := by linarith
      exact_mod_cast this
  have pos : (r > 0) ↔ 0 < t := by
    rw [ht, lt_div_iff₀ dp, zero_mul]; simp
  cases mode with
  | sr k => exact absurd rfl (hm k)
  | rtz =>
    simp only [roundUp, RoundsTo]
    cases neg <;> simp [sg] <;> refine ⟨?_, ?_, ?_⟩ <;> first | (rw [abs_of_nonneg (by linarith)]; linarith) | nlinarith | skip
    all_goals (rw [show -t + -(i : ℝ) = -(i + t) by ring, abs_neg, abs_of_nonneg (by linarith)]; linarith)
  | rdn =>
    simp only [roundUp, RoundsTo]
    cases neg
    · simp [sg]; exact ⟨t0, t1⟩
    · by_cases h : r > 0
      · simp [sg, h]; have := pos.1 h; constructor <;> linarith
      · have : t = 0 := le_antisymm (not_lt.1 (mt pos.2 h)) t0
        simp [sg, h]; constructor <;> linarith
  | rup =>
    simp only [roundUp, RoundsTo]
    cases neg
    · by_cases h : r > 0
      · simp [sg, h]; have := pos.1 h; constructor <;> linarith
      · have : t = 0 := le_antisymm (not_lt.1 (mt pos.2 h)) t0
        simp [sg, h]; constructor <;> linarith
    · simp [sg]; constructor <;> linarith
  | rne =>
    refine RoundsTo_sign (Or.inl rfl) neg ?_
    simp only [RoundsTo, roundUp, Bool.or_eq_true, Bool.and_eq_true, decide_eq_true_eq, half1, half2]
    rcases lt_trichotomy t (1 / 2) with h | h | h
    · have : ¬(1 / 2 < t ∨ t = 1 / 2 ∧ i % 2 = 1) := by rintro (g | ⟨g, -⟩) <;> linarith
      rw [if_neg this]
      have e : (i : ℝ) + t - ((i : ℕ) : ℤ) = t := by push_cast; ring
      rw [e, abs_of_nonneg t0]
      exact ⟨h.le, fun g => absurd g (by linarith)⟩
    · by_cases o : i % 2 = 1
      · rw [if_pos (Or.inr ⟨h, o⟩)]
        have e : (i : ℝ) + t - ((i + 1 : ℕ) : ℤ) = -(1 / 2) := by push_cast; rw [h]; ring
        rw [e]
        refine ⟨by norm_num, fun _ => by omega⟩
      · have : ¬(1 / 2 < t ∨ t = 1 / 2 ∧ i % 2 = 1) := by
          rintro (g | ⟨-, g⟩)
          · linarith
          · exact o g
        rw [if_neg this]
        have e : (i : ℝ) + t - ((i : ℕ) : ℤ) = 1 / 2 := by push_cast; rw [h]; ring
        rw [e]
        refine ⟨by norm_num, fun _ => by omega⟩
    · rw [if_pos (Or.inl h)]
      have e : (i : ℝ) + t - ((i + 1 : ℕ) : ℤ) = -(1 - t) := by push_cast; ring
      rw [e, abs_neg, abs_of_nonneg (by linarith)]
      exact ⟨by linarith, fun g => absurd g (by linarith)⟩
  | rna =>
    refine RoundsTo_sign (Or.inr rfl) neg ?_
    have hh : (2 * r ≥ d) ↔ 1 / 2 ≤ t := by
      rw [ge_iff_le, Nat.le_iff_lt_or_eq, eq_comm (a := d), show d < 2 * r ↔ 1 / 2 < t from half1, half2]
      constructor
      · rintro (g | g) <;> linarith
      · intro g; rcases g.lt_or_eq with g | g
        · exact Or.inl g
        · exact Or.inr g.symm
    simp only [RoundsTo, roundUp, decide_eq_true_eq, hh]
    by_cases h : 1 / 2 ≤ t
    · rw [if_pos h]
      have e : (i : ℝ) + t - ((i + 1 : ℕ) : ℤ) = -(1 - t) := by push_cast; ring
      rw [e, abs_neg, abs_of_nonneg (by linarith)]
      refine ⟨by linarith, fun _ => ?_⟩
      rw [abs_of_nonneg (by linarith), abs_of_nonneg (by positivity)]
      push_cast; linarith
    · rw [if_neg h]
      have e : (i : ℝ) + t - ((i : ℕ) : ℤ) = t := by push_cast; ring
      rw [e, abs_of_nonneg t0]
      exact ⟨by linarith, fun g => absurd g (by linarith)⟩

/-- The rounding of a fraction to a multiple of a power of two. -/
theorem roundAt_spec (mode : Rounding) (hm : ∀ k, mode ≠ .sr k) (neg : Bool) (n d : Nat) (e q : Int) (hd : d ≠ 0) :
    RoundsTo mode (sg neg * ((n : ℝ) / d * (2 : ℝ) ^ e) / (2 : ℝ) ^ q)
      (if neg then -((roundAt mode neg n d e q).m : ℤ) else ((roundAt mode neg n d e q).m : ℤ)) ∧
    ((roundAt mode neg n d e q).inexact = true ↔ ((roundAt mode neg n d e q).m : ℝ) * (2 : ℝ) ^ q ≠ (n : ℝ) / d * (2 : ℝ) ^ e) := by
  set num := n * powNum (e - q) with hnum
  set den := d * powDen (e - q) with hden
  have denpos : 0 < den := by
    rw [hden]; unfold powDen; positivity
  have dr : (0 : ℝ) < den := by exact_mod_cast denpos
  have dp : (0 : ℝ) < d := by exact_mod_cast Nat.pos_of_ne_zero hd
  have split : (n : ℝ) / d * (2 : ℝ) ^ e / (2 : ℝ) ^ q = ((num / den : ℕ) : ℝ) + ((num % den : ℕ) : ℝ) / den := by
    have e1 : (num : ℝ) = den * ((num / den : ℕ) : ℝ) + ((num % den : ℕ) : ℝ) := by exact_mod_cast (Nat.div_add_mod num den).symm
    have e2 : (n : ℝ) / d * (2 : ℝ) ^ e / (2 : ℝ) ^ q = (num : ℝ) / den := by
      rw [hnum, hden]; push_cast
      rw [powNum_real, zpow_sub₀ (by norm_num)]
      have := powDen_pos (e - q)
      field_simp
    rw [e2, e1]; field_simp
  have lt : num % den < den := Nat.mod_lt _ denpos
  constructor
  · rw [show sg neg * ((n : ℝ) / d * (2 : ℝ) ^ e) / (2 : ℝ) ^ q = sg neg * ((n : ℝ) / d * (2 : ℝ) ^ e / (2 : ℝ) ^ q) by ring, split]
    have := roundUp_spec mode hm neg (num / den) (num % den) den lt
    exact this
  · have q0 := two_zpow_pos q
    have eqv : ((roundAt mode neg n d e q).m : ℝ) * (2 : ℝ) ^ q ≠ (n : ℝ) / d * (2 : ℝ) ^ e ↔
        ((roundAt mode neg n d e q).m : ℝ) ≠ ((num / den : ℕ) : ℝ) + ((num % den : ℕ) : ℝ) / den := by
      rw [← split, Ne, Ne, eq_div_iff q0.ne']
    rw [eqv]
    have hm' : (roundAt mode neg n d e q).m = if roundUp mode neg (num / den) (num % den) den then num / den + 1 else num / den := rfl
    have hi : (roundAt mode neg n d e q).inexact = decide (num % den ≠ 0) := rfl
    rw [hm', hi, decide_eq_true_eq]
    constructor
    · intro h0 heq
      have p : (0 : ℝ) < ((num % den : ℕ) : ℝ) := by exact_mod_cast Nat.pos_of_ne_zero h0
      have t0 : 0 < ((num % den : ℕ) : ℝ) / den := by positivity
      have t1 : ((num % den : ℕ) : ℝ) / den < 1 := by rw [div_lt_one dr]; exact_mod_cast lt
      split at heq
      · push_cast at heq; linarith
      · linarith
    · intro h h0
      apply h
      rw [h0]
      have : roundUp mode neg (num / den) 0 den = false := by
        cases mode <;> simp [roundUp] <;> first | omega | skip
        exact absurd rfl (hm _)
      rw [this]; simp


/-- The shape of a binary interchange format (R370). -/
structure Fmt.Ok (f : Fmt) : Prop where
  prec  : 2 ≤ f.prec
  ebits : 2 ≤ f.ebits
  bias  : f.bias + 1 = 2 ^ (f.ebits - 1)

theorem fp64_ok : fp64.Ok := ⟨by decide, by decide, by decide⟩
theorem fp32_ok : fp32.Ok := ⟨by decide, by decide, by decide⟩
theorem fp16_ok : fp16.Ok := ⟨by decide, by decide, by decide⟩
theorem bf16_ok : bf16.Ok := ⟨by decide, by decide, by decide⟩

/-- Sign, exponent and significand fields of a code put together. -/
theorem pack_fields (f : Fmt) (h : f.Ok) (neg : Bool) (E M : Nat) (hE : E < 2 ^ f.ebits) (hM : M < 2 ^ (f.prec - 1)) :
    let v := (if neg then 2 ^ (f.width - 1) else 0) + (E * 2 ^ (f.prec - 1) + M)
    bitN v (f.width - 1) = neg ∧ v / 2 ^ (f.prec - 1) % 2 ^ f.ebits = E ∧ v % 2 ^ (f.prec - 1) = M ∧ v < 2 ^ f.width := by
  have hp := h.prec
  have w : f.width - 1 = f.prec - 1 + f.ebits := by unfold Fmt.width; omega
  have w' : f.width = f.prec - 1 + f.ebits + 1 := by unfold Fmt.width; omega
  intro v
  set P := 2 ^ (f.prec - 1) with hP
  set B := 2 ^ f.ebits with hB
  have P0 : 0 < P := by positivity
  have W : 2 ^ (f.width - 1) = P * B := by rw [w, Nat.pow_add]
  have hv : v = M + P * (E + B * neg.toNat) := by
    show (if neg then 2 ^ (f.width - 1) else 0) + (E * P + M) = _
    rw [W]; cases neg <;> simp <;> ring
  have q1 : v / P = E + B * neg.toNat := by rw [hv, Nat.add_mul_div_left _ _ P0, Nat.div_eq_of_lt hM, Nat.zero_add]
  have q2 : v % P = M := by rw [hv, Nat.add_mul_mod_self_left, Nat.mod_eq_of_lt hM]
  refine ⟨?_, ?_, q2, ?_⟩
  · unfold bitN
    rw [W, ← Nat.div_div_eq_div_mul, q1, Nat.add_mul_div_left _ _ (by positivity), Nat.div_eq_of_lt hE]
    cases neg <;> simp
  · rw [q1, Nat.add_mul_mod_self_left, Nat.mod_eq_of_lt hE]
  · rw [w', Nat.pow_succ, Nat.pow_add, ← hP, ← hB, hv]
    have : E + B * neg.toNat < B * 2 := by cases neg <;> simp <;> omega
    calc M + P * (E + B * neg.toNat) < P + P * (E + B * neg.toNat) := by omega
      _ = P * (E + B * neg.toNat + 1) := by ring
      _ ≤ P * (B * 2) := Nat.mul_le_mul_left _ this
      _ = _ := by ring

/-- Decoding a finite code by its fields. -/
theorem decodeF_fin (f : Fmt) (v E M : Nat) (neg : Bool) (h1 : bitN v (f.width - 1) = neg)
    (h2 : v / 2 ^ (f.prec - 1) % 2 ^ f.ebits = E) (h3 : v % 2 ^ (f.prec - 1) = M) (hE : E ≠ 2 ^ f.ebits - 1) :
    decodeF f v = if E = 0 then .fin neg M (f.emin - ((f.prec : Int) - 1))
      else .fin neg (2 ^ (f.prec - 1) + M) ((E : Int) - (f.bias : Int) - ((f.prec : Int) - 1)) := by
  unfold decodeF
  simp only [h1, h2, h3, hE, if_false]

/-- A packed magnitude reads back as the same number. -/
theorem packFinite_spec (f : Fmt) (h : f.Ok) (neg : Bool) (m : Nat) (q : Int) (hm : m ≤ 2 ^ f.prec)
    (hq : f.emin - ((f.prec : Int) - 1) ≤ q) (hs : m < 2 ^ (f.prec - 1) → q = f.emin - ((f.prec : Int) - 1))
    (hb : (m : ℝ) * (2 : ℝ) ^ q < (2 : ℝ) ^ ((f.bias : ℤ) + 1)) :
    packFinite f neg m q < 2 ^ f.width ∧ ∃ m' e', decodeF f (packFinite f neg m q) = .fin neg m' e' ∧
      (m' : ℝ) * (2 : ℝ) ^ e' = m * (2 : ℝ) ^ q := by
  have hp := h.prec
  have he := h.ebits
  have hbias := h.bias
  have B2 : 2 ^ f.ebits = 2 * (f.bias + 1) := by
    rw [hbias, ← Nat.pow_succ']; congr 1; omega
  have P2 : 2 ^ f.prec = 2 * 2 ^ (f.prec - 1) := by rw [← Nat.pow_succ']; congr 1; omega
  have emin : f.emin = 1 - (f.bias : Int) := rfl
  unfold packFinite
  simp only []
  by_cases c1 : m < 2 ^ (f.prec - 1)
  · rw [if_pos c1]
    have key := pack_fields f h neg 0 m (by positivity) c1
    simp only [Nat.zero_mul, Nat.zero_add] at key
    obtain ⟨k1, k2, k3, k4⟩ := key
    refine ⟨k4, m, f.emin - ((f.prec : Int) - 1), ?_, by rw [hs c1]⟩
    rw [decodeF_fin f _ 0 m neg k1 k2 k3 (by omega)]; simp
  · rw [if_neg c1]
    have top : ∀ k : ℤ, (2 : ℝ) ^ (k + q) ≤ (m : ℝ) * (2 : ℝ) ^ q → k + q ≤ f.bias := by
      intro k hk
      have := lt_of_le_of_lt hk hb
      have := (zpow_lt_zpow_iff_right₀ (by norm_num : (1 : ℝ) < 2)).1 this
      omega
    by_cases c2 : m < 2 ^ f.prec
    · rw [if_pos c2]
      have tk : ((f.prec : ℤ) - 1) + q ≤ f.bias := by
        apply top
        rw [zpow_add₀ (by norm_num)]
        have : ((2 : ℝ) ^ ((f.prec : ℤ) - 1)) ≤ m := by
          rw [show ((f.prec : ℤ) - 1) = ((f.prec - 1 : ℕ) : ℤ) by omega, zpow_natCast]; exact_mod_cast (not_lt.1 c1)
        gcongr
      set E := (q + (f.prec : Int) - 1 + (f.bias : Int)).toNat with hEd
      have E1 : (E : Int) = q + (f.prec : Int) - 1 + (f.bias : Int) := by omega
      have key := pack_fields f h neg E (m - 2 ^ (f.prec - 1)) (by omega) (by omega)
      simp only [] at key
      obtain ⟨k1, k2, k3, k4⟩ := key
      refine ⟨k4, m, q, ?_, rfl⟩
      rw [decodeF_fin f _ E _ neg k1 k2 k3 (by omega), if_neg (by omega)]
      congr 1
      · omega
      · omega
    · rw [if_neg c2]
      have hm2 : m = 2 ^ f.prec := by omega
      have tk : (f.prec : ℤ) + q ≤ f.bias := by
        apply top
        rw [zpow_add₀ (by norm_num), hm2, zpow_natCast]; push_cast; exact le_refl _
      set E := (q + (f.prec : Int) + (f.bias : Int)).toNat with hEd
      have E1 : (E : Int) = q + (f.prec : Int) + (f.bias : Int) := by omega
      have key := pack_fields f h neg E 0 (by omega) (by positivity)
      simp only [Nat.add_zero] at key
      obtain ⟨k1, k2, k3, k4⟩ := key
      refine ⟨k4, 2 ^ (f.prec - 1), q + 1, ?_, ?_⟩
      · rw [decodeF_fin f _ E _ neg k1 k2 k3 (by omega), if_neg (by omega)]
        congr 1
        omega
      · rw [hm2, P2, zpow_add₀ (by norm_num)]; push_cast; ring


/-- The rounded magnitude lies next to the exact one. -/
theorem roundAt_near (mode : Rounding) (neg : Bool) (n d : Nat) (e q : Int) (hd : d ≠ 0) :
    ∃ i : ℕ, i ≤ (roundAt mode neg n d e q).m ∧ (roundAt mode neg n d e q).m ≤ i + 1 ∧
      (i : ℝ) ≤ (n : ℝ) / d * (2 : ℝ) ^ e / (2 : ℝ) ^ q ∧ (n : ℝ) / d * (2 : ℝ) ^ e / (2 : ℝ) ^ q < i + 1 := by
  set num := n * powNum (e - q) with hnum
  set den := d * powDen (e - q) with hden
  have denpos : 0 < den := by rw [hden]; unfold powDen; positivity
  have dr : (0 : ℝ) < den := by exact_mod_cast denpos
  have dp : (0 : ℝ) < d := by exact_mod_cast Nat.pos_of_ne_zero hd
  have e2 : (n : ℝ) / d * (2 : ℝ) ^ e / (2 : ℝ) ^ q = (num : ℝ) / den := by
    rw [hnum, hden]; push_cast
    rw [powNum_real, zpow_sub₀ (by norm_num)]
    have := powDen_pos (e - q)
    field_simp
  have hm' : (roundAt mode neg n d e q).m = if roundUp mode neg (num / den) (num % den) den then num / den + 1 else num / den := rfl
  refine ⟨num / den, ?_, ?_, ?_, ?_⟩
  · rw [hm']; split <;> omega
  · rw [hm']; split <;> omega
  · rw [e2, le_div_iff₀ dr]; exact_mod_cast Nat.div_mul_le_self num den
  · rw [e2, div_lt_iff₀ dr]; have := Nat.lt_mul_div_succ num denpos; rw [Nat.mul_comm] at this; exact_mod_cast this

theorem tooBig_spec (f : Fmt) (r : Rounded) :
    f.tooBig r = true ↔ (2 : ℝ) ^ ((f.bias : ℤ) + 1) ≤ (r.m : ℝ) * (2 : ℝ) ^ r.q := by
  unfold Fmt.tooBig
  by_cases h : r.m = 0
  · have := two_zpow_pos ((f.bias : ℤ) + 1)
    simp [h]; exact this
  · simp only [h, ne_eq, not_false_eq_true, decide_true, Bool.true_and, decide_eq_true_eq]
    obtain ⟨a, b⟩ := floorLog_spec r.m 1 h one_ne_zero
    simp only [Nat.cast_one, div_one] at a b
    have a' : (2 : ℝ) ^ (floorLog r.m 1 + r.q) ≤ r.m * (2 : ℝ) ^ r.q := by rw [zpow_add₀ (by norm_num)]; gcongr
    have b' : r.m * (2 : ℝ) ^ r.q < (2 : ℝ) ^ (floorLog r.m 1 + r.q + 1) := by
      rw [show floorLog r.m 1 + r.q + 1 = (floorLog r.m 1 + 1) + r.q by ring, zpow_add₀ (by norm_num)]; gcongr
    constructor
    · intro g
      refine le_trans ?_ a'
      exact (zpow_le_zpow_iff_right₀ (by norm_num)).2 (by omega)
    · intro g
      have := floorLog_unique _ _ _ g b'
      omega

theorem tiny_spec (f : Fmt) (r : Rounded) (hm : r.m ≠ 0) :
    floorLog r.m 1 + r.q < f.emin ↔ (r.m : ℝ) * (2 : ℝ) ^ r.q < (2 : ℝ) ^ f.emin := by
  obtain ⟨a, b⟩ := floorLog_spec r.m 1 hm one_ne_zero
  simp only [Nat.cast_one, div_one] at a b
  have a' : (2 : ℝ) ^ (floorLog r.m 1 + r.q) ≤ r.m * (2 : ℝ) ^ r.q := by rw [zpow_add₀ (by norm_num)]; gcongr
  have b' : r.m * (2 : ℝ) ^ r.q < (2 : ℝ) ^ (floorLog r.m 1 + r.q + 1) := by
    rw [show floorLog r.m 1 + r.q + 1 = (floorLog r.m 1 + 1) + r.q by ring, zpow_add₀ (by norm_num)]; gcongr
  constructor
  · intro g
    refine lt_of_lt_of_le b' ?_
    exact (zpow_le_zpow_iff_right₀ (by norm_num)).2 (by omega)
  · intro g
    have := lt_of_le_of_lt a' g
    exact (zpow_lt_zpow_iff_right₀ (by norm_num)).1 this

theorem roundTo_direct (f : Fmt) (mode : Rounding) (hm : ∀ k, mode ≠ .sr k) (neg : Bool) (n d : Nat) (e : Int) (hn : n ≠ 0) :
    roundTo f mode neg n d e =
      (let l := floorLog n d + e
       let p : Int := (f.prec : Int) - 1
       let q := max l f.emin - p
       let r := roundAt mode neg n d e q
       if f.tooBig r then (packOverflow f mode neg, flagOF + flagNX)
       else
         let w := roundAt mode neg n d e (l - p)
         let tiny := decide (floorLog w.m 1 + w.q < f.emin)
         (packFinite f neg r.m r.q, flagIf r.inexact flagNX + flagIf (r.inexact && tiny) flagUF)) := by
  have hq : ∀ l p : Int, (if l - p < f.emin - p then f.emin - p else l - p) = max l f.emin - p := by
    intro l p; split <;> omega
  unfold roundTo
  rw [if_neg hn]
  simp only [hq]

/-- The rounding of an exact nonzero value is correct. -/
theorem roundTo_correct (f : Fmt) (h : f.Ok) (mode : Rounding) (hm : ∀ k, mode ≠ .sr k) (neg zn : Bool) (n d : Nat) (e : Int)
    (hn : n ≠ 0) (hd : d ≠ 0) :
    Correct f mode (sg neg * ((n : ℝ) / d * (2 : ℝ) ^ e)) zn (roundTo f mode neg n d e) := by
  have dp : (0 : ℝ) < d := by exact_mod_cast Nat.pos_of_ne_zero hd
  have np : (0 : ℝ) < n := by exact_mod_cast Nat.pos_of_ne_zero hn
  have ep := two_zpow_pos e
  set y : ℝ := (n : ℝ) / d * (2 : ℝ) ^ e with hy
  have yp : 0 < y := by positivity
  have ax : |sg neg * y| = y := by rw [abs_mul, sg_abs, one_mul, abs_of_pos yp]
  have xs : ∀ b : Bool, (b = true ↔ sg neg * y < 0) ↔ b = neg := by
    intro b
    have : (sg neg * y < 0) ↔ neg = true := by
      cases neg <;> simp [sg]
      · exact yp.le
      · exact yp
    rw [this]; cases b <;> cases neg <;> simp
  have x0 : sg neg * y ≠ 0 := by intro g; rw [g] at ax; simp at ax; linarith
  refine ⟨fun g => absurd g x0, fun _ => ?_⟩
  have hp := h.prec
  set p : Int := (f.prec : Int) - 1 with hpd
  set l := floorLog n d + e with hl
  obtain ⟨f1, f2⟩ := floorLog_spec n d hn hd
  have l1 : (2 : ℝ) ^ l ≤ y := by rw [hl, zpow_add₀ (by norm_num), hy]; gcongr
  have l2 : y < (2 : ℝ) ^ (l + 1) := by
    rw [hl, show floorLog n d + e + 1 = (floorLog n d + 1) + e by ring, zpow_add₀ (by norm_num), hy]; gcongr
  set q := max l f.emin - p with hq
  obtain ⟨r1, r2⟩ := roundAt_spec mode hm neg n d e q hd
  obtain ⟨w1, w2⟩ := roundAt_spec mode hm neg n d e (l - p) hd
  rw [← hy] at r1 r2 w1 w2
  obtain ⟨i, i1, i2, i3, i4⟩ := roundAt_near mode neg n d e q hd
  obtain ⟨j, j1, j2, j3, j4⟩ := roundAt_near mode neg n d e (l - p) hd
  rw [← hy] at i3 i4 j3 j4
  set r := roundAt mode neg n d e q with hr
  set w := roundAt mode neg n d e (l - p) with hw
  have rq : r.q = q := rfl
  have wq : w.q = l - p := rfl
  have absn : ∀ m : ℕ, |((if neg then -(m : ℤ) else (m : ℤ) : ℤ) : ℝ)| = m := by
    intro m; cases neg <;> simp
  have valn : ∀ m : ℕ, ((if neg then -(m : ℤ) else (m : ℤ) : ℤ) : ℝ) = sg neg * m := by
    intro m; cases neg <;> simp [sg]
  refine ⟨l, q, _, _, by rw [ax]; exact l1, by rw [ax]; exact l2, rfl, r1, w1, ?_, ?_⟩
  all_goals rw [absn]
  · intro g
    have tb := (tooBig_spec f r).2 (by rw [rq]; exact g)
    refine ⟨neg, (xs neg).2 rfl, ?_⟩
    rw [roundTo_direct f mode hm neg n d e hn]
    simp only [← hl, ← hpd, ← hq, ← hr]
    rw [if_pos tb]
  · intro g
    have tb : ¬(f.tooBig r = true) := fun t => absurd ((tooBig_spec f r).1 t) (by rw [rq]; exact not_le.2 g)
    have val : roundTo f mode neg n d e = (packFinite f neg r.m r.q, flagIf r.inexact flagNX + flagIf (r.inexact &&
        decide (floorLog w.m 1 + w.q < f.emin)) flagUF) := by
      rw [roundTo_direct f mode hm neg n d e hn]
      simp only [← hl, ← hpd, ← hq, ← hr, ← hw]
      rw [if_neg tb]
    have up : y / (2 : ℝ) ^ q < (2 : ℝ) ^ (f.prec : ℤ) := by
      rw [div_lt_iff₀ (two_zpow_pos q), ← zpow_add₀ (by norm_num)]
      refine lt_of_lt_of_le l2 ((zpow_le_zpow_iff_right₀ (by norm_num)).2 ?_)
      omega
    have mle : r.m ≤ 2 ^ f.prec := by
      have : (i : ℝ) < (2 : ℝ) ^ (f.prec : ℤ) := lt_of_le_of_lt i3 up
      rw [zpow_natCast] at this
      have : i < 2 ^ f.prec := by exact_mod_cast this
      omega
    have small : r.m < 2 ^ (f.prec - 1) → q = f.emin - p := by
      intro g2
      by_contra g3
      have le : f.emin ≤ l := by omega
      have lo : (2 : ℝ) ^ p ≤ y / (2 : ℝ) ^ q := by
        rw [le_div_iff₀ (two_zpow_pos q), ← zpow_add₀ (by norm_num)]
        refine le_trans ((zpow_le_zpow_iff_right₀ (by norm_num)).2 ?_) l1
        omega
      have : (2 : ℝ) ^ p < i + 1 := lt_of_le_of_lt lo i4
      rw [hpd, show ((f.prec : ℤ) - 1) = ((f.prec - 1 : ℕ) : ℤ) by omega, zpow_natCast] at this
      have : 2 ^ (f.prec - 1) < i + 1 := by exact_mod_cast this
      omega
    obtain ⟨k1, m', e', k2, k3⟩ := packFinite_spec f h neg r.m q mle (by omega) small g
    have wm : w.m ≠ 0 := by
      have lo : (2 : ℝ) ^ p ≤ y / (2 : ℝ) ^ (l - p) := by
        rw [le_div_iff₀ (two_zpow_pos _), ← zpow_add₀ (by norm_num)]
        refine le_trans ((zpow_le_zpow_iff_right₀ (by norm_num)).2 ?_) l1
        omega
      have : (2 : ℝ) ^ p < j + 1 := lt_of_le_of_lt lo j4
      have one : (1 : ℝ) ≤ (2 : ℝ) ^ p := one_le_zpow₀ (by norm_num) (by omega)
      have : (0 : ℝ) < j := by linarith
      have : 0 < j := by exact_mod_cast this
      omega
    have tiny := tiny_spec f w wm
    rw [val, valn, absn]
    refine ⟨⟨neg, m', e', (xs neg).2 rfl, k1, k2, ?_⟩, ?_, ?_⟩
    · show (if neg then -1 else 1) * (m' : ℝ) * (2 : ℝ) ^ e' = _
      rw [mul_assoc, k3]; unfold sg; ring
    · intro g2
      have : ¬(r.inexact = true) := by
        rw [r2]; intro g3; apply g3
        have s0 : sg neg ≠ 0 := by cases neg <;> simp [sg]
        exact mul_left_cancel₀ s0 (by rw [← mul_assoc]; exact g2)
      simp only [Bool.not_eq_true] at this
      simp [this, flagIf]
    · intro g2
      have : r.inexact = true := by
        rw [r2]; intro g3; apply g2
        rw [mul_assoc, g3]
      rw [wq] at tiny
      simp only [this, flagIf, Bool.true_and, decide_eq_true_eq, if_true, wq]
      constructor
      · intro g3; rw [if_pos (tiny.2 g3)]; decide
      · intro g3; rw [if_neg (fun g4 => absurd (tiny.1 g4) (not_lt.2 g3))]; rfl


theorem val_fin (neg : Bool) (m : Nat) (e : Int) : FVal.val (.fin neg m e) = (signedOf neg m : ℝ) * (2 : ℝ) ^ e := by
  cases neg <;> simp [FVal.val, signedOf]

theorem dyAdd_spec (a : Int) (ea : Int) (b : Int) (eb : Int) :
    ((dyAdd a ea b eb).1 : ℝ) * (2 : ℝ) ^ (dyAdd a ea b eb).2 = (a : ℝ) * (2 : ℝ) ^ ea + (b : ℝ) * (2 : ℝ) ^ eb := by
  have pd : ∀ x : Int, 0 ≤ x → powDen x = 1 := by
    intro x hx; unfold powDen; rw [show (-x).toNat = 0 by omega, pow_zero]
  unfold dyAdd
  simp only []
  by_cases h : ea ≤ eb
  · rw [if_pos h]
    push_cast
    rw [powNum_real, powNum_real, pd _ (by omega), pd _ (by omega)]
    rw [sub_self, zpow_zero]
    have : (2 : ℝ) ^ eb = (2 : ℝ) ^ (eb - ea) * (2 : ℝ) ^ ea := by rw [← zpow_add₀ (by norm_num)]; congr 1; ring
    rw [this]; push_cast; ring
  · rw [if_neg h]
    push_cast
    rw [powNum_real, powNum_real, pd _ (by omega), pd _ (by omega)]
    rw [sub_self, zpow_zero]
    have : (2 : ℝ) ^ ea = (2 : ℝ) ^ (ea - eb) * (2 : ℝ) ^ eb := by rw [← zpow_add₀ (by norm_num)]; congr 1; ring
    rw [this]; push_cast; ring

theorem roundTo_correct0 (f : Fmt) (h : f.Ok) (mode : Rounding) (hm : ∀ k, mode ≠ .sr k) (neg : Bool) (n d : Nat) (e : Int)
    (hd : d ≠ 0) : Correct f mode (sg neg * ((n : ℝ) / d * (2 : ℝ) ^ e)) neg (roundTo f mode neg n d e) := by
  by_cases hn : n = 0
  · subst hn
    refine ⟨fun _ => by simp [roundTo], fun g => absurd (by simp) g⟩
  · exact roundTo_correct f h mode hm neg neg n d e hn hd

theorem roundDy_correct (f : Fmt) (h : f.Ok) (mode : Rounding) (hm : ∀ k, mode ≠ .sr k) (v e : Int) (zn : Bool) :
    Correct f mode ((v : ℝ) * (2 : ℝ) ^ e) zn (roundDy f mode v e zn) := by
  unfold roundDy
  by_cases hv : v = 0
  · subst hv
    refine ⟨fun _ => by simp, fun g => absurd (by simp) g⟩
  · rw [if_neg hv]
    have := roundTo_correct f h mode hm (decide (v < 0)) zn v.natAbs 1 e (by omega) one_ne_zero
    have e1 : sg (decide (v < 0)) * (((v.natAbs : ℕ) : ℝ) / (1 : ℕ) * (2 : ℝ) ^ e) = (v : ℝ) * (2 : ℝ) ^ e := by
      have : sg (decide (v < 0)) * ((v.natAbs : ℕ) : ℝ) = v := by
        rw [Nat.cast_natAbs]
        by_cases g : v < 0
        · simp [sg, g, abs_of_neg g]
        · simp [sg, g, abs_of_nonneg (not_lt.1 g)]
      rw [← this]; push_cast; ring
    rw [e1] at this
    exact this

theorem signedOf_real (neg : Bool) (m : Nat) : (signedOf neg m : ℝ) = sg neg * m := by cases neg <;> simp [sg, signedOf]

theorem sg_mul (a b : Bool) : sg a * sg b = sg (a != b) := by cases a <;> cases b <;> simp [sg]

theorem zeroSumNeg_eq (mode : Rounding) (a b : Bool) : zeroSumNeg mode a b = if a = b then a else decide (mode = .rdn) := by
  unfold zeroSumNeg
  split
  · rfl
  · cases mode <;> simp

theorem nan_pair (f : Fmt) (b : Bool) : IsNan f b (packNan f, flagIf b flagNV) := by
  unfold IsNan flagIf; rfl

theorem addV_spec (f : Fmt) (h : f.Ok) (mode : Rounding) (hm : ∀ k, mode ≠ .sr k) (x y : FVal) :
    SumIs f mode (addV f mode x y) x y := by
  cases x with
  | nan s => cases y <;> exact nan_pair f _
  | inf a =>
    cases y with
    | nan s => exact nan_pair f s
    | inf b =>
      simp only [SumIs, addV]
      split
      · rfl
      · rfl
    | fin => rfl
  | fin na ma ea =>
    cases y with
    | nan s => exact nan_pair f s
    | inf b => rfl
    | fin nb mb eb =>
      simp only [SumIs, addV]
      rw [zeroSumNeg_eq, val_fin, val_fin, ← dyAdd_spec]
      exact roundDy_correct f h mode hm _ _ _

theorem mulV_spec (f : Fmt) (h : f.Ok) (mode : Rounding) (hm : ∀ k, mode ≠ .sr k) (x y : FVal) :
    ProductIs f mode (mulV f mode x y) x y := by
  cases x with
  | nan s => cases y <;> exact nan_pair f _
  | inf a =>
    cases y with
    | nan s => exact nan_pair f s
    | inf b => rfl
    | fin b m e => simp only [ProductIs, mulV]; split <;> rfl
  | fin na ma ea =>
    cases y with
    | nan s => exact nan_pair f s
    | inf b => simp only [ProductIs, mulV]; split <;> rfl
    | fin nb mb eb =>
      simp only [ProductIs, mulV]
      have := roundTo_correct0 f h mode hm (na != nb) (ma * mb) 1 (ea + eb) one_ne_zero
      rw [val_fin, val_fin, signedOf_real, signedOf_real]
      rw [← sg_mul, zpow_add₀ (by norm_num)] at this
      convert this using 1
      push_cast; ring

theorem divV_spec (f : Fmt) (h : f.Ok) (mode : Rounding) (hm : ∀ k, mode ≠ .sr k) (x y : FVal) :
    QuotientIs f mode (divV f mode x y) x y := by
  cases x with
  | nan s => cases y <;> exact nan_pair f _
  | inf a =>
    cases y with
    | nan s => exact nan_pair f s
    | inf b => rfl
    | fin b m e => rfl
  | fin na ma ea =>
    cases y with
    | nan s => exact nan_pair f s
    | inf b => rfl
    | fin nb mb eb =>
      simp only [QuotientIs, divV]
      by_cases hb : mb = 0
      · rw [if_pos hb, if_pos hb]; split <;> rfl
      · rw [if_neg hb, if_neg hb]
        have := roundTo_correct0 f h mode hm (na != nb) ma mb (ea - eb) hb
        rw [val_fin, val_fin, signedOf_real, signedOf_real]
        rw [← sg_mul, zpow_sub₀ (by norm_num)] at this
        convert this using 1
        have : (mb : ℝ) ≠ 0 := by exact_mod_cast hb
        have s : sg nb * sg nb = 1 := by cases nb <;> simp [sg]
        have s0 : sg nb ≠ 0 := by cases nb <;> simp [sg]
        have := two_zpow_pos eb
        field_simp
        rw [show sg nb ^ 2 = 1 by rw [sq]; exact s, mul_one]

theorem fmaV_spec (f : Fmt) (h : f.Ok) (mode : Rounding) (hm : ∀ k, mode ≠ .sr k) (x y z : FVal) :
    FusedIs f mode (fmaV f mode x y z) x y z := by
  unfold FusedIs fmaV
  cases x with
  | nan s => cases y <;> cases z <;> simp [infTimesZero, FVal.isNan, FVal.signals, nan_pair]
  | inf a =>
    cases y with
    | nan s => cases z <;> simp [infTimesZero, FVal.isNan, FVal.signals, nan_pair]
    | inf b =>
      cases z with
      | nan s => simp [infTimesZero, FVal.isNan, FVal.signals, nan_pair]
      | inf c => 
        simp only [infTimesZero, FVal.isNan, FVal.sign]
        simp only [Bool.or_false, if_false, Bool.false_eq_true]
        split <;> simp [*, IsInf, IsNan]
      | fin => simp [infTimesZero, FVal.isNan, FVal.sign, IsInf]
    | fin nb mb eb =>
      cases mb with
      | zero => cases z <;> simp [infTimesZero, FVal.isNan, FVal.signals, IsNan, flagIf]
      | succ m =>
        cases z with
        | nan s => simp [infTimesZero, FVal.isNan, FVal.signals, nan_pair]
        | inf c => 
          simp only [infTimesZero, FVal.isNan, FVal.sign]
          simp
          split <;> simp [*, IsInf, IsNan]
        | fin => simp [infTimesZero, FVal.isNan, FVal.sign, IsInf]
  | fin na ma ea =>
    cases y with
    | nan s => cases z <;> simp [infTimesZero, FVal.isNan, FVal.signals, nan_pair]
    | inf b =>
      cases ma with
      | zero => cases z <;> simp [infTimesZero, FVal.isNan, FVal.signals, IsNan, flagIf]
      | succ m =>
        cases z with
        | nan s => simp [infTimesZero, FVal.isNan, FVal.signals, nan_pair]
        | inf c => 
          simp only [infTimesZero, FVal.isNan, FVal.sign]
          simp
          split <;> simp [*, IsInf, IsNan]
        | fin => simp [infTimesZero, FVal.isNan, FVal.sign, IsInf]
    | fin nb mb eb =>
      cases z with
      | nan s => simp [infTimesZero, FVal.isNan, FVal.signals, nan_pair]
      | inf c => simp [infTimesZero, FVal.isNan, IsInf]
      | fin nc mc ec =>
        simp only [infTimesZero, FVal.isNan, Bool.or_false, Bool.false_eq_true, reduceIte]
        rw [zeroSumNeg_eq]
        have := roundDy_correct f h mode hm (dyAdd (signedOf (na != nb) (ma * mb)) (ea + eb) (signedOf nc mc) ec).1
          (dyAdd (signedOf (na != nb) (ma * mb)) (ea + eb) (signedOf nc mc) ec).2 (if (na != nb) = nc then na != nb else decide (mode = .rdn))
        rw [dyAdd_spec] at this
        rw [val_fin, val_fin, val_fin]
        have e1 : (signedOf na ma : ℝ) * 2 ^ ea * ((signedOf nb mb : ℝ) * 2 ^ eb) = (signedOf (na != nb) (ma * mb) : ℝ) * (2 : ℝ) ^ (ea + eb) := by
          rw [signedOf_real, signedOf_real, signedOf_real, ← sg_mul, zpow_add₀ (by norm_num)]; push_cast; ring
        rw [e1]
        convert this using 2
        rename_i g; exact g.symm


theorem isqrtFrom_spec (n : Nat) : ∀ (b r : Nat), r * r ≤ n → n < (r + 2 ^ b) * (r + 2 ^ b) →
    isqrtFrom b n r * isqrtFrom b n r ≤ n ∧ n < (isqrtFrom b n r + 1) * (isqrtFrom b n r + 1)
  | 0, r, h1, h2 => by simpa [isqrtFrom] using ⟨h1, h2⟩
  | b + 1, r, h1, h2 => by
    unfold isqrtFrom
    split
    · refine isqrtFrom_spec n b _ ‹_› ?_
      rw [Nat.add_assoc, ← Nat.two_mul, ← Nat.pow_succ']; exact h2
    · exact isqrtFrom_spec n b r h1 (not_le.1 ‹_›)

theorem isqrt_spec (n : Nat) : isqrt n * isqrt n ≤ n ∧ n < (isqrt n + 1) * (isqrt n + 1) := by
  refine isqrtFrom_spec n _ 0 (by simp) ?_
  rw [Nat.zero_add, ← Nat.pow_add]
  refine lt_of_lt_of_le Nat.lt_log2_self (Nat.pow_le_pow_right (by decide) ?_)
  omega

/-- Two reals in the same cell of a grid. -/
def SameCell (h x y : ℝ) : Prop := ∀ K : ℤ, (K * h ≤ x ↔ K * h ≤ y) ∧ (K * h < x ↔ K * h < y)

theorem SameCell.coarser {g g' : ℤ} {x y : ℝ} (h : SameCell ((2 : ℝ) ^ g) x y) (hg : g ≤ g') : SameCell ((2 : ℝ) ^ g') x y := by
  intro K
  have := h (K * 2 ^ (g' - g).toNat)
  have e : ((K * 2 ^ (g' - g).toNat : ℤ) : ℝ) * (2 : ℝ) ^ g = K * (2 : ℝ) ^ g' := by
    push_cast
    rw [← zpow_natCast (2 : ℝ), mul_assoc, ← zpow_add₀ (by norm_num)]
    congr 2; omega
  rwa [e] at this

theorem SameCell.scale {h x y c : ℝ} (s : SameCell h x y) (hc : 0 < c) : SameCell (h / c) (x / c) (y / c) := by
  intro K
  have := s K
  rw [← mul_div_assoc]
  constructor
  · rw [div_le_div_iff_of_pos_right hc, div_le_div_iff_of_pos_right hc]; exact this.1
  · rw [div_lt_div_iff_of_pos_right hc, div_lt_div_iff_of_pos_right hc]; exact this.2

theorem SameCell.ge {x y : ℝ} (s : SameCell (1 / 2) x y) {t : ℝ} (K : ℤ) (ht : t = K * (1 / 2)) : (t ≤ x ↔ t ≤ y) := by
  rw [ht]; exact (s K).1
theorem SameCell.gt {x y : ℝ} (s : SameCell (1 / 2) x y) {t : ℝ} (K : ℤ) (ht : t = K * (1 / 2)) : (t < x ↔ t < y) := by
  rw [ht]; exact (s K).2
theorem SameCell.le {x y : ℝ} (s : SameCell (1 / 2) x y) {t : ℝ} (K : ℤ) (ht : t = K * (1 / 2)) : (x ≤ t ↔ y ≤ t) := by
  rw [← not_lt, ← not_lt, s.gt K ht]
theorem SameCell.lt {x y : ℝ} (s : SameCell (1 / 2) x y) {t : ℝ} (K : ℤ) (ht : t = K * (1 / 2)) : (x < t ↔ y < t) := by
  rw [← not_le, ← not_le, s.ge K ht]
theorem SameCell.eq {x y : ℝ} (s : SameCell (1 / 2) x y) {t : ℝ} (K : ℤ) (ht : t = K * (1 / 2)) : (x = t ↔ y = t) := by
  rw [le_antisymm_iff, le_antisymm_iff, s.le K ht, s.ge K ht]

/-- Positive reals in the same cell of halves round to the same integer. -/
theorem SameCell.rounds {x y : ℝ} (s : SameCell (1 / 2) x y) (hx : 0 < x) (hy : 0 < y) {mode : Rounding} {n : ℤ}
    (h : RoundsTo mode x n) : RoundsTo mode y n := by
  have k0 : (n : ℝ) = ((2 * n : ℤ) : ℝ) * (1 / 2) := by push_cast; ring
  have k1 : (n : ℝ) + 1 / 2 = ((2 * n + 1 : ℤ) : ℝ) * (1 / 2) := by push_cast; ring
  have k2 : (n : ℝ) - 1 / 2 = ((2 * n - 1 : ℤ) : ℝ) * (1 / 2) := by push_cast; ring
  have k3 : (n : ℝ) + 1 = ((2 * n + 2 : ℤ) : ℝ) * (1 / 2) := by push_cast; ring
  have k4 : (n : ℝ) - 1 = ((2 * n - 2 : ℤ) : ℝ) * (1 / 2) := by push_cast; ring
  have near : ∀ z : ℝ, |z - n| ≤ 1 / 2 ↔ ((n : ℝ) - 1 / 2 ≤ z ∧ z ≤ n + 1 / 2) := by
    intro z; rw [abs_le]; constructor <;> rintro ⟨a, b⟩ <;> constructor <;> linarith
  have tie : ∀ z : ℝ, |z - n| = 1 / 2 ↔ (z = (n : ℝ) - 1 / 2 ∨ z = n + 1 / 2) := by
    intro z; rw [abs_eq (by norm_num)]
    constructor
    · rintro (a | a)
      · right; linarith
      · left; linarith
    · rintro (a | a)
      · right; linarith
      · left; linarith
  cases mode with
  | sr k => exact h
  | rdn => exact ⟨(s.ge _ k0).1 h.1, (s.lt _ k3).1 h.2⟩
  | rup => exact ⟨(s.gt _ k4).1 h.1, (s.le _ k0).1 h.2⟩
  | rne =>
    simp only [RoundsTo] at h ⊢
    rw [near, tie, s.ge _ k2, s.le _ k1, s.eq _ k2, s.eq _ k1, ← near, ← tie] at h
    exact h
  | rna =>
    simp only [RoundsTo] at h ⊢
    rw [near, tie, s.ge _ k2, s.le _ k1, s.eq _ k2, s.eq _ k1, ← near, ← tie] at h
    refine ⟨h.1, fun g => ?_⟩
    have := h.2 g
    have n0 : (0 : ℝ) ≤ n := by
      by_contra c
      have c : (n : ℝ) < 0 := not_le.1 c
      have : n ≤ -1 := by have : n < 0 := by exact_mod_cast c
                          omega
      have : (n : ℝ) ≤ -1 := by exact_mod_cast this
      have := (near y).1 h.1
      linarith
    rw [abs_of_nonneg n0, abs_of_pos hx] at this
    rw [abs_of_nonneg n0, abs_of_pos hy]
    exact (s.le _ k0).1 this
  | rtz =>
    simp only [RoundsTo] at h ⊢
    have n0 : (0 : ℝ) ≤ n := by
      have := h.2.2
      by_contra c; have c : (n : ℝ) < 0 := not_le.1 c
      nlinarith
    rw [abs_of_nonneg n0, abs_of_pos hx] at h
    rw [abs_of_nonneg n0, abs_of_pos hy]
    exact ⟨(s.ge _ k0).1 h.1, (s.lt _ k3).1 h.2.1, by positivity⟩

/-- A correct rounding is that of every positive real in the same fine cell. -/
theorem Correct.cell {f : Fmt} (hf : f.Ok) {mode : Rounding} {x y : ℝ} {zn : Bool} {r : FpResult} {g b : ℤ} (h : Correct f mode x zn r)
    (hx : 0 < x) (hy : 0 < y) (s : SameCell ((2 : ℝ) ^ g) x y) (hb : (2 : ℝ) ^ b ≤ x) (hg : g + (f.prec : ℤ) + 1 ≤ b) :
    Correct f mode y zn r := by
  refine ⟨fun e => absurd e hy.ne', fun _ => ?_⟩
  obtain ⟨l, q, n, w, l1, l2, hq, rn, rw', ov, fi⟩ := h.2 hx.ne'
  rw [abs_of_pos hx] at l1 l2
  have bl : b ≤ l := floorLog_unique x b l hb l2
  have hp := hf.prec
  have half : ∀ t : ℤ, g + 1 ≤ t → SameCell (1 / 2) (x / (2 : ℝ) ^ t) (y / (2 : ℝ) ^ t) := by
    intro t ht
    have := (s.coarser (g' := t - 1) (by omega)).scale (two_zpow_pos t)
    rw [← zpow_sub₀ (by norm_num), show t - 1 - t = -1 by ring] at this
    rw [show (1 : ℝ) / 2 = (2 : ℝ) ^ (-1 : ℤ) by norm_num]; exact this
  have sl : SameCell ((2 : ℝ) ^ l) x y := s.coarser (by omega)
  have one := sl 1
  have two := sl 2
  have sq : SameCell ((2 : ℝ) ^ q) x y := s.coarser (by omega)
  have eqn : (n * (2 : ℝ) ^ q = x) ↔ (n * (2 : ℝ) ^ q = y) := by
    have := sq n
    rw [le_antisymm_iff, le_antisymm_iff, this.1, ← not_lt (a := (n : ℝ) * (2 : ℝ) ^ q) (b := x), ← not_lt (a := (n : ℝ) * (2 : ℝ) ^ q) (b := y)] 
    rw [this.2]
  have px : ∀ z : ℝ, 0 < z → ∀ b : Bool, (b = true ↔ z < 0) ↔ b = false := by
    intro z hz b; have : ¬ z < 0 := not_lt.2 hz.le
    simp [this]
  refine ⟨l, q, n, w, ?_, ?_, hq, ?_, ?_, ?_, ?_⟩
  · rw [abs_of_pos hy]; simpa using one.1.1 (by simpa using l1)
  · rw [abs_of_pos hy, zpow_add₀ (by norm_num), zpow_one, mul_comm]
    have := two.1.not.1 (not_le.2 (by rw [zpow_add₀ (by norm_num), zpow_one, mul_comm] at l2; exact_mod_cast l2))
    exact_mod_cast not_le.1 this
  · exact (half q (by omega)).rounds (by positivity) (by positivity) rn
  · exact (half _ (by omega)).rounds (by positivity) (by positivity) rw'
  · intro c
    obtain ⟨neg, a1, a2⟩ := ov c
    exact ⟨neg, (px y hy neg).2 ((px x hx neg).1 a1), a2⟩
  · intro c
    obtain ⟨⟨neg, m, e, a1, a2⟩, c2, c3⟩ := fi c
    exact ⟨⟨neg, m, e, (px y hy neg).2 ((px x hx neg).1 a1), a2⟩, fun d => c2 (eqn.2 d), fun d => c3 (fun d' => d (eqn.1 d'))⟩

theorem sqrtV_spec (f : Fmt) (h : f.Ok) (mode : Rounding) (hm : ∀ k, mode ≠ .sr k) (x : FVal) :
    RootIs f mode (sqrtV f mode x) x := by
  cases x with
  | nan s => exact nan_pair f s
  | inf a => cases a <;> rfl
  | fin neg m e =>
    simp only [RootIs, sqrtV]
    by_cases m0 : m = 0
    · rw [if_pos m0, if_pos m0]
    rw [if_neg m0, if_neg m0]
    cases neg with
    | true => rfl
    | false =>
      simp only [Bool.false_eq_true, if_false]
      set k : Nat := 2 * f.prec + 4 with hk
      set par : Nat := (e % 2).toNat with hpar
      set n := m * 2 ^ par * 2 ^ (2 * k) with hn
      set r := isqrt n with hr
      obtain ⟨r1, r2⟩ := isqrt_spec n
      rw [← hr] at r1 r2
      set st := (if r * r = n then 0 else 1) with hst
      set g : ℤ := (e - (par : ℤ)) / 2 - (k : ℤ) with hg
      have par2 : (par : ℤ) = e % 2 := by omega
      have n0 : 2 ^ (2 * k) ≤ n := by
        rw [hn]; exact Nat.le_mul_of_pos_left _ (by positivity)
      have rk : 2 ^ k ≤ r := by
        by_contra c
        have c : r + 1 ≤ 2 ^ k := by omega
        have : (r + 1) * (r + 1) ≤ 2 ^ k * 2 ^ k := Nat.mul_le_mul c c
        rw [← Nat.pow_add, ← Nat.two_mul] at this
        omega
      have root : Real.sqrt (FVal.val (.fin false m e)) = Real.sqrt n * (2 : ℝ) ^ g := by
        have : FVal.val (.fin false m e) = (n : ℝ) * ((2 : ℝ) ^ g) ^ 2 := by
          rw [val_fin, signedOf_real]
          simp only [sg, hn]
          push_cast
          rw [← zpow_natCast (2 : ℝ) par, ← zpow_natCast (2 : ℝ) (2 * k), ← zpow_natCast ((2 : ℝ) ^ g) 2, ← zpow_mul]
          have : (2 : ℝ) ^ e = (2 : ℝ) ^ (par : ℤ) * (2 : ℝ) ^ ((2 * k : ℕ) : ℤ) * (2 : ℝ) ^ (g * (2 : ℕ)) := by
            rw [← zpow_add₀ (by norm_num), ← zpow_add₀ (by norm_num)]; congr 1; push_cast; omega
          rw [this]; simp; ring
        rw [this, Real.sqrt_mul (by positivity), Real.sqrt_sq (by positivity)]
      have rpos : 0 < r := lt_of_lt_of_le (by positivity) rk
      have corr := roundTo_correct f h mode hm false false (2 * r + st) 1 (g - 1) (by omega) one_ne_zero
      have yv : sg false * (((2 * r + st : ℕ) : ℝ) / ((1 : ℕ) : ℝ) * (2 : ℝ) ^ (g - 1)) = ((r : ℝ) + (st : ℝ) / 2) * (2 : ℝ) ^ g := by
        rw [zpow_sub₀ (by norm_num)]; simp [sg]; ring
      rw [yv] at corr
      rw [root]
      have rp : (0 : ℝ) < r := by
        have : 0 < r := lt_of_lt_of_le (by positivity) rk
        exact_mod_cast this
      have np : (0 : ℝ) < n := by
        have : 0 < n := lt_of_lt_of_le (by positivity) n0
        exact_mod_cast this
      have sp : 0 < Real.sqrt n := Real.sqrt_pos.2 np
      have gp := two_zpow_pos g
      refine corr.cell h (g := g) (b := (k : ℤ) + g) (by positivity) (by positivity) ?_ ?_ (by omega)
      · intro K
        rw [mul_le_mul_iff_left₀ gp, mul_le_mul_iff_left₀ gp, mul_lt_mul_iff_left₀ gp, mul_lt_mul_iff_left₀ gp]
        have st01 : st = 0 ∨ st = 1 := by rw [hst]; split <;> simp
        have s1 : (r : ℝ) ≤ Real.sqrt n := Real.le_sqrt_of_sq_le (by rw [sq]; exact_mod_cast r1)
        have s2 : Real.sqrt n < r + 1 := by rw [Real.sqrt_lt' (by positivity), sq]; exact_mod_cast r2
        have seq : st = 0 → Real.sqrt n = r := by
          intro z
          have : r * r = n := by by_contra c; rw [hst, if_neg c] at z; exact absurd z (by decide)
          rw [← this]; push_cast; exact Real.sqrt_mul_self rp.le
        have sne : st = 1 → (r : ℝ) < Real.sqrt n := by
          intro z
          refine lt_of_le_of_ne s1 (fun c => ?_)
          have : (r : ℝ) * r = n := by rw [c]; exact Real.mul_self_sqrt np.le
          have : r * r = n := by exact_mod_cast this
          rw [hst, if_pos this] at z; exact absurd z (by decide)
        rcases st01 with z | z
        · rw [seq z, z]; simp
        · have a := sne z
          rw [z]; push_cast
          constructor
          · constructor
            · intro c
              have : (K : ℝ) < (r : ℤ) + 1 := by push_cast; linarith
              have : K < (r : ℤ) + 1 := by exact_mod_cast this
              have : K ≤ (r : ℤ) := by omega
              have : (K : ℝ) ≤ (r : ℤ) := by exact_mod_cast this
              push_cast at this; linarith
            · intro c
              have : (K : ℝ) < (r : ℤ) + 1 := by push_cast; linarith
              have : K < (r : ℤ) + 1 := by exact_mod_cast this
              have : K ≤ (r : ℤ) := by omega
              have : (K : ℝ) ≤ (r : ℤ) := by exact_mod_cast this
              push_cast at this; linarith
          · constructor
            · intro c
              have : (K : ℝ) < (r : ℤ) + 1 := by push_cast; linarith
              have : K < (r : ℤ) + 1 := by exact_mod_cast this
              have : K ≤ (r : ℤ) := by omega
              have : (K : ℝ) ≤ (r : ℤ) := by exact_mod_cast this
              push_cast at this; linarith
            · intro c
              have : (K : ℝ) < (r : ℤ) + 1 := by push_cast; linarith
              have : K < (r : ℤ) + 1 := by exact_mod_cast this
              have : K ≤ (r : ℤ) := by omega
              have : (K : ℝ) ≤ (r : ℤ) := by exact_mod_cast this
              push_cast at this; linarith
      · rw [zpow_add₀ (by norm_num), zpow_natCast]
        have : ((2 ^ k : ℕ) : ℝ) ≤ r := by exact_mod_cast rk
        push_cast at this
        have : (0 : ℝ) ≤ (st : ℝ) / 2 := by positivity
        nlinarith


theorem cmpV_fin (na : Bool) (ma : Nat) (ea : Int) (nb : Bool) (mb : Nat) (eb : Int) :
    (cmpV (.fin na ma ea) (.fin nb mb eb) < 0 ↔ FVal.val (.fin na ma ea) < FVal.val (.fin nb mb eb)) ∧
    (cmpV (.fin na ma ea) (.fin nb mb eb) = 0 ↔ FVal.val (.fin na ma ea) = FVal.val (.fin nb mb eb)) := by
  have key := dyAdd_spec (signedOf na ma) ea (-(signedOf nb mb)) eb
  have p := two_zpow_pos (dyAdd (signedOf na ma) ea (-(signedOf nb mb)) eb).2
  have diff : ((dyAdd (signedOf na ma) ea (-(signedOf nb mb)) eb).1 : ℝ) * (2 : ℝ) ^ (dyAdd (signedOf na ma) ea (-(signedOf nb mb)) eb).2 =
      FVal.val (.fin na ma ea) - FVal.val (.fin nb mb eb) := by
    rw [key, val_fin, val_fin]; push_cast; ring
  obtain ⟨v, hv⟩ : ∃ v, v = (dyAdd (signedOf na ma) ea (-(signedOf nb mb)) eb).1 := ⟨_, rfl⟩
  rw [← hv] at diff
  have neg : v < 0 ↔ FVal.val (.fin na ma ea) < FVal.val (.fin nb mb eb) := by
    rw [← sub_neg (a := FVal.val _), ← diff]
    constructor
    · intro g; have : (v : ℝ) < 0 := by exact_mod_cast g
      exact mul_neg_of_neg_of_pos this p
    · intro g
      by_contra c
      have : (0 : ℝ) ≤ v := by exact_mod_cast not_lt.1 c
      nlinarith
  have zer : v = 0 ↔ FVal.val (.fin na ma ea) = FVal.val (.fin nb mb eb) := by
    rw [← sub_eq_zero (a := FVal.val _), ← diff, mul_eq_zero]
    constructor
    · intro g; left; exact_mod_cast g
    · rintro (g | g)
      · exact_mod_cast g
      · exact absurd g p.ne'
  have body : cmpV (.fin na ma ea) (.fin nb mb eb) = if v < 0 then -1 else if v = 0 then 0 else 1 := by rw [hv]; rfl
  rw [body, ← neg, ← zer]
  clear hv
  rcases lt_trichotomy v 0 with h | h | h
  · simp [h]; omega
  · simp [h]
  · have h1 : ¬v < 0 := by omega
    have h2 : v ≠ 0 := by omega
    simp [h1, h2]

theorem cmpV_lt {x y : FVal} (hx : x.isNan = false) (hy : y.isNan = false) : cmpV x y < 0 ↔ valLt x y := by
  cases x with
  | nan s => simp [FVal.isNan] at hx
  | inf a =>
    cases y with
    | nan s => simp [FVal.isNan] at hy
    | inf b => cases a <;> cases b <;> simp [cmpV, valLt]
    | fin => cases a <;> simp [cmpV, valLt]
  | fin na ma ea =>
    cases y with
    | nan s => simp [FVal.isNan] at hy
    | inf b => cases b <;> simp [cmpV, valLt]
    | fin nb mb eb => exact (cmpV_fin na ma ea nb mb eb).1

theorem cmpV_eq {x y : FVal} (hx : x.isNan = false) (hy : y.isNan = false) : cmpV x y = 0 ↔ valEq x y := by
  cases x with
  | nan s => simp [FVal.isNan] at hx
  | inf a =>
    cases y with
    | nan s => simp [FVal.isNan] at hy
    | inf b => cases a <;> cases b <;> simp [cmpV, valEq]
    | fin => cases a <;> simp [cmpV, valEq]
  | fin na ma ea =>
    cases y with
    | nan s => simp [FVal.isNan] at hy
    | inf b => cases b <;> simp [cmpV, valEq]
    | fin nb mb eb => exact (cmpV_fin na ma ea nb mb eb).2

theorem holdsEq_iff (x y : FVal) : holdsEq x y = true ↔ valEq x y := by
  unfold holdsEq ordered
  cases hx : x.isNan
  · cases hy : y.isNan
    · simp [cmpV_eq hx hy]
    · cases y <;> simp [FVal.isNan] at hy
      cases x <;> simp [valEq]
  · cases x <;> simp [FVal.isNan] at hx
    simp [valEq]

theorem valLt_nan (x y : FVal) (h : x.isNan = true ∨ y.isNan = true) : ¬valLt x y ∧ ¬valEq x y := by
  cases x <;> cases y <;> simp [FVal.isNan] at h <;> simp [valLt, valEq]

theorem holdsLt_iff (x y : FVal) : holdsLt x y = true ↔ valLt x y := by
  unfold holdsLt ordered
  cases hx : x.isNan
  · cases hy : y.isNan
    · simp [cmpV_lt hx hy]
    · simp [valLt_nan x y (Or.inr hy)]
  · simp [valLt_nan x y (Or.inl hx)]

theorem holdsLe_iff (x y : FVal) : holdsLe x y = true ↔ (valLt x y ∨ valEq x y) := by
  unfold holdsLe ordered
  cases hx : x.isNan
  · cases hy : y.isNan
    · simp [← cmpV_lt hx hy, ← cmpV_eq hx hy]; omega
    · simp [valLt_nan x y (Or.inr hy)]
  · simp [valLt_nan x y (Or.inl hx)]

theorem valEq_symm {x y : FVal} (h : valEq x y) : valEq y x := by
  cases x <;> cases y <;> simp_all [valEq]

theorem valLt_asymm {x y : FVal} (h : valLt x y) : ¬valLt y x ∧ ¬valEq x y ∧ ¬valEq y x := by
  cases x <;> cases y <;> simp_all [valLt, valEq]
  refine ⟨h.le, h.ne, h.ne'⟩

theorem valLt_total {x y : FVal} (hx : x.isNan = false) (hy : y.isNan = false) : valLt x y ∨ valEq x y ∨ valLt y x := by
  cases x with
  | nan s => simp [FVal.isNan] at hx
  | inf a =>
    cases y with
    | nan s => simp [FVal.isNan] at hy
    | inf b => cases a <;> cases b <;> simp [valLt, valEq]
    | fin => cases a <;> simp [valLt, valEq]
  | fin na ma ea =>
    cases y with
    | nan s => simp [FVal.isNan] at hy
    | inf b => cases b <;> simp [valLt, valEq]
    | fin nb mb eb => exact lt_trichotomy (FVal.val (.fin na ma ea)) (FVal.val (.fin nb mb eb))

theorem minMaxV_spec (f : Fmt) (big : Bool) (a b : Nat) : MinMaxIs f big a b (minMaxV f big a b) := by
  unfold MinMaxIs minMaxV
  simp only []
  set x := decodeF f a
  set y := decodeF f b
  refine ⟨?_, ?_⟩
  · unfold flagIf; repeat' split
    all_goals rfl
  · cases hx : x.isNan
    · cases hy : y.isNan
      · simp only [Bool.false_and, Bool.false_eq_true, if_false]
        have lt := cmpV_lt hx hy
        have eq := cmpV_eq hx hy
        by_cases c0 : cmpV x y = 0
        · have e := eq.1 c0
          have nl : ¬valLt x y ∧ ¬valLt y x := ⟨fun h => (valLt_asymm h).2.1 e, fun h => (valLt_asymm h).2.2 e⟩
          simp only [c0, if_true]
          cases hs : x.sign <;> cases ht : y.sign <;> cases big <;> simp [below, nl, hs, ht]
        · have ne : ¬valEq x y := fun h => c0 (eq.2 h)
          have ne' : ¬valEq y x := fun h => ne (valEq_symm h)
          simp only [c0, if_false]
          by_cases c : cmpV x y < 0
          · have l := lt.1 c
            have l' := (valLt_asymm l).1
            cases big <;> simp [below, c, l, l', ne, ne']
          · have l : ¬valLt x y := fun h => c (lt.2 h)
            have l' : valLt y x := by
              rcases valLt_total hx hy with h | h | h
              · exact absurd h l
              · exact absurd h ne
              · exact h
            cases big <;> simp [below, c, l, l', ne, ne']
      · simp
    · cases hy : y.isNan <;> simp

theorem classBits_spec (f : Fmt) (v : Nat) : classBits f v = classOfCode f v := by
  unfold classBits classOfCode decodeF
  simp only []
  congr 1
  by_cases c1 : v / 2 ^ (f.prec - 1) % 2 ^ f.ebits = 2 ^ f.ebits - 1
  · rw [if_pos c1, if_pos c1]
    by_cases c2 : v % 2 ^ (f.prec - 1) = 0
    · rw [if_pos c2, if_pos c2]
    · rw [if_neg c2, if_neg c2]
      cases bitN v (f.prec - 2) <;> rfl
  · rw [if_neg c1, if_neg c1]
    by_cases c3 : v / 2 ^ (f.prec - 1) % 2 ^ f.ebits = 0
    · rw [if_pos c3, if_pos c3]
      simp only [c3, if_true]
    · rw [if_neg c3, if_neg c3]
      simp [c3]


theorem decodeF_bounds (f : Fmt) (h : f.Ok) {v : Nat} {neg : Bool} {m : Nat} {e : Int} (hd : decodeF f v = .fin neg m e) :
    m < 2 ^ f.prec ∧ f.emin - ((f.prec : Int) - 1) ≤ e ∧ e ≤ (f.bias : Int) - ((f.prec : Int) - 1) := by
  have hp := h.prec
  have he := h.ebits
  have hbias := h.bias
  have B2 : 2 ^ f.ebits = 2 * (f.bias + 1) := by
    rw [hbias, ← Nat.pow_succ']; congr 1; omega
  have B4 : 2 ≤ f.bias + 1 := by
    rw [hbias]; calc 2 = 2 ^ 1 := rfl
      _ ≤ _ := Nat.pow_le_pow_right (by decide) (by omega)
  have P2 : 2 ^ f.prec = 2 * 2 ^ (f.prec - 1) := by rw [← Nat.pow_succ']; congr 1; omega
  have emin : f.emin = 1 - (f.bias : Int) := rfl
  have hM : v % 2 ^ (f.prec - 1) < 2 ^ (f.prec - 1) := Nat.mod_lt _ (by positivity)
  have hE : v / 2 ^ (f.prec - 1) % 2 ^ f.ebits < 2 ^ f.ebits := Nat.mod_lt _ (by positivity)
  by_cases c : v / 2 ^ (f.prec - 1) % 2 ^ f.ebits = 2 ^ f.ebits - 1
  · unfold decodeF at hd
    simp only [c, if_true] at hd
    split at hd <;> simp at hd
  · rw [decodeF_fin f v _ _ _ rfl rfl rfl c] at hd
    split at hd
    · cases hd; omega
    · cases hd; omega

theorem toNat_pow (k : ℕ) : (2 : ℝ) ^ (k : ℤ) = ((2 ^ k : ℕ) : ℝ) := by rw [zpow_natCast]; push_cast; rfl

theorem signedOf_eq (neg : Bool) (m : Nat) : signedOf neg m = if neg then -(m : ℤ) else m := by cases neg <;> rfl

/-- A multiple of the grid rounds to itself. -/
theorem RoundsTo.exact {mode : Rounding} {x : ℝ} {n k : ℤ} (h : RoundsTo mode x n) (hx : x = k) : n = k := by
  subst hx
  cases mode with
  | sr => exact h.elim
  | rdn =>
    have a : n ≤ k := by exact_mod_cast h.1
    have b : k < n + 1 := by exact_mod_cast h.2
    omega
  | rup =>
    have a : n - 1 < k := by exact_mod_cast h.1
    have b : k ≤ n := by exact_mod_cast h.2
    omega
  | rne =>
    have := abs_le.1 h.1
    have a : (k : ℝ) - n < 1 := by linarith
    have b : (-1 : ℝ) < (k : ℝ) - n := by linarith
    have a : k - n < 1 := by exact_mod_cast a
    have b : -1 < k - n := by exact_mod_cast b
    omega
  | rna =>
    have := abs_le.1 h.1
    have a : (k : ℝ) - n < 1 := by linarith
    have b : (-1 : ℝ) < (k : ℝ) - n := by linarith
    have a : k - n < 1 := by exact_mod_cast a
    have b : -1 < k - n := by exact_mod_cast b
    omega
  | rtz =>
    obtain ⟨a, b, c⟩ := h
    have a : |n| ≤ |k| := by exact_mod_cast a
    have b : |k| < |n| + 1 := by exact_mod_cast b
    have c : 0 ≤ k * n := by exact_mod_cast c
    have e : |n| = |k| := by omega
    rcases abs_eq_abs.1 e with g | g
    · exact g
    · subst g
      have : k * k ≤ 0 := by nlinarith
      have : k = 0 := by nlinarith [mul_self_nonneg k]
      subst this; rfl

/-- An exact nonzero value of the format's grid below the overflow bound is packed as itself. -/
theorem roundTo_exact (f : Fmt) (h : f.Ok) (neg : Bool) (m : Nat) (e : Int)
    (hb : (m : ℝ) * (2 : ℝ) ^ e < (2 : ℝ) ^ ((f.bias : ℤ) + 1)) (he : f.emin - ((f.prec : Int) - 1) ≤ e)
    (hg : m ≤ 2 ^ f.prec) :
    (roundTo f .rtz neg m 1 e).1 < 2 ^ f.width ∧ ∃ m' e', decodeF f (roundTo f .rtz neg m 1 e).1 = .fin neg m' e' ∧
      (m' : ℝ) * (2 : ℝ) ^ e' = m * (2 : ℝ) ^ e := by
  by_cases hm0 : m = 0
  · subst hm0
    have key := pack_fields f h neg 0 0 (by positivity) (by positivity)
    simp only [Nat.zero_mul, Nat.add_zero] at key
    obtain ⟨k1, k2, k3, k4⟩ := key
    have B : 2 ≤ 2 ^ f.ebits := by
      calc 2 = 2 ^ 1 := rfl
        _ ≤ _ := Nat.pow_le_pow_right (by decide) (by have := h.ebits; omega)
    have z : (roundTo f .rtz neg 0 1 e).1 = if neg then 2 ^ (f.width - 1) else 0 := by simp [roundTo, packZero]
    rw [z]
    exact ⟨k4, 0, _, by rw [decodeF_fin f _ 0 0 neg k1 k2 k3 (by omega), if_pos rfl], by simp⟩
  · have hp := h.prec
    have mp : (0 : ℝ) < m := by exact_mod_cast Nat.pos_of_ne_zero hm0
    have ep := two_zpow_pos e
    have corr := roundTo_correct f h .rtz (by simp) neg neg m 1 e hm0 one_ne_zero
    rw [Nat.cast_one, div_one] at corr
    have x0 : sg neg * ((m : ℝ) * (2 : ℝ) ^ e) ≠ 0 := by
      have : sg neg ≠ 0 := by cases neg <;> simp [sg]
      positivity
    obtain ⟨l, q, n, w, l1, l2, hq, rn, -, ov, fi⟩ := corr.2 x0
    have ax : |sg neg * ((m : ℝ) * (2 : ℝ) ^ e)| = m * (2 : ℝ) ^ e := by
      rw [abs_mul, sg_abs, one_mul, abs_of_pos (by positivity)]
    rw [ax] at l1 l2
    -- the value is a multiple of 2^q
    have lq : l ≤ (f.prec : ℤ) + e ∧ (l = (f.prec : ℤ) + e → m = 2 ^ f.prec) := by
      have m2 : (m : ℝ) ≤ (2 : ℝ) ^ (f.prec : ℤ) := by rw [toNat_pow]; exact_mod_cast hg
      constructor
      · have : (2 : ℝ) ^ l ≤ (2 : ℝ) ^ ((f.prec : ℤ) + e) := by
          rw [zpow_add₀ (by norm_num)]; refine l1.trans ?_; gcongr
        exact (zpow_le_zpow_iff_right₀ (by norm_num)).1 this
      · intro g
        rw [g, zpow_add₀ (by norm_num)] at l1
        have := le_of_mul_le_mul_right l1 ep
        rw [toNat_pow] at this
        have : 2 ^ f.prec ≤ m := by exact_mod_cast this
        omega
    have grid : ∃ k : ℤ, sg neg * ((m : ℝ) * (2 : ℝ) ^ e) / (2 : ℝ) ^ q = k := by
      by_cases c : q ≤ e
      · refine ⟨signedOf neg m * 2 ^ (e - q).toNat, ?_⟩
        push_cast
        rw [signedOf_real, mul_div_assoc, mul_div_assoc, ← zpow_sub₀ (by norm_num), ← zpow_natCast, Int.toNat_of_nonneg (by omega)]
        ring
      · have : l = (f.prec : ℤ) + e := by omega
        have hm2 := lq.2 this
        refine ⟨signedOf neg (2 ^ (f.prec - 1)), ?_⟩
        rw [signedOf_real, hm2]
        have q1 : q = e + 1 := by omega
        rw [q1, show f.prec = f.prec - 1 + 1 by omega, Nat.pow_succ, zpow_add₀ (by norm_num)]
        push_cast
        simp
        field_simp
    obtain ⟨k, hk⟩ := grid
    have nk := rn.exact hk
    have q0 := two_zpow_pos q
    have nq : (n : ℝ) * (2 : ℝ) ^ q = sg neg * ((m : ℝ) * (2 : ℝ) ^ e) := by rw [nk, ← hk]; field_simp
    have small : |(n : ℝ)| * (2 : ℝ) ^ q < (2 : ℝ) ^ ((f.bias : ℤ) + 1) := by
      rw [← abs_of_pos q0, ← abs_mul, nq, ax]; exact hb
    obtain ⟨⟨ng, m', e', a1, a2, a3, a4⟩, -, -⟩ := fi small
    have : ng = neg := by
      have : (sg neg * ((m : ℝ) * (2 : ℝ) ^ e) < 0) ↔ neg = true := by
        have : (0 : ℝ) < m * (2 : ℝ) ^ e := by positivity
        cases neg <;> simp [sg]
        · exact this.le
        · exact this
      rw [this] at a1
      cases ng <;> cases neg <;> simp_all
    subst this
    refine ⟨a2, m', e', a3, ?_⟩
    rw [nq, val_fin, signedOf_real] at a4
    have : sg ng ≠ 0 := by cases ng <;> simp [sg]
    exact mul_left_cancel₀ this (by rw [← mul_assoc]; exact a4)

theorem rintV_spec (f : Fmt) (h : f.Ok) (hpb : f.prec ≤ f.bias) (mode : Rounding) (hm : ∀ k, mode ≠ .sr k) (v : Nat) :
    IntegralIs f mode (rintV f mode (decodeF f v)) (decodeF f v) := by
  cases hd : decodeF f v with
  | nan s => exact nan_pair f s
  | inf a => rfl
  | fin neg m e =>
    obtain ⟨b1, b2, b3⟩ := decodeF_bounds f h hd
    have hp := h.prec
    simp only [IntegralIs, rintV]
    by_cases m0 : m = 0
    · rw [if_pos m0]
      subst m0
      have z := roundTo_exact f h neg 0 0 (by simp; exact (two_zpow_pos _)) (by unfold Fmt.emin; omega) (by positivity)
      have e0 : (roundTo f .rtz neg 0 1 0).1 = packZero f neg := by simp [roundTo]
      rw [e0] at z
      obtain ⟨z1, m', e', z2, z3⟩ := z
      refine ⟨0, ?_, ⟨m', e', z2, ?_⟩, z1, fun _ => rfl, fun g => absurd (by simp [FVal.val]) g⟩
      · have : FVal.val (.fin neg 0 e) = 0 := by simp [FVal.val]
        rw [this]
        cases mode with
        | sr k => exact absurd rfl (hm k)
        | _ => simp [RoundsTo]
      · rw [val_fin, signedOf_real, mul_assoc, z3]; simp
    · rw [if_neg m0]
      obtain ⟨r1, r2⟩ := roundAt_spec mode hm neg m 1 e 0 one_ne_zero
      obtain ⟨i, i1, i2, i3, i4⟩ := roundAt_near mode neg m 1 e 0 one_ne_zero
      have hi : integral mode neg m e = roundAt mode neg m 1 e 0 := rfl
      rw [← hi] at r1 r2 i1 i2
      set r := integral mode neg m e with hr
      simp only [Nat.cast_one, div_one, zpow_zero, mul_one] at r1 r2 i3 i4
      have vx : FVal.val (.fin neg m e) = sg neg * ((m : ℝ) * (2 : ℝ) ^ e) := by rw [val_fin, signedOf_real]; ring
      rw [← vx] at r1
      have s0 : sg neg ≠ 0 := by cases neg <;> simp [sg]
      have iff : ((r.m : ℝ) = m * (2 : ℝ) ^ e) ↔ FVal.val (.fin neg m e) = ((if neg then -(r.m : ℤ) else (r.m : ℤ) : ℤ) : ℝ) := by
        rw [vx, ← signedOf_eq, signedOf_real]
        constructor
        · intro g; rw [g]
        · intro g; exact (mul_left_cancel₀ s0 g).symm
      -- the rounded magnitude is representable
      have rep : (roundTo f .rtz neg r.m 1 0).1 < 2 ^ f.width ∧ ∃ m' e', decodeF f (roundTo f .rtz neg r.m 1 0).1 = .fin neg m' e' ∧
          (m' : ℝ) * (2 : ℝ) ^ e' = r.m := by
        have mlt : (m : ℝ) < (2 : ℝ) ^ (f.prec : ℤ) := by rw [toNat_pow]; exact_mod_cast b1
        by_cases c : 0 ≤ e
        · have ex : (r.m : ℝ) = m * (2 : ℝ) ^ e := by
            have := r1.exact (k := signedOf neg m * 2 ^ e.toNat) (by
              push_cast; rw [vx, signedOf_real, ← zpow_natCast, Int.toNat_of_nonneg c]; ring)
            rw [iff, vx, this]; push_cast; rw [signedOf_real, ← zpow_natCast, Int.toNat_of_nonneg c]; ring
          have hb : (m : ℝ) * (2 : ℝ) ^ e < (2 : ℝ) ^ ((f.bias : ℤ) + 1) := by
            calc (m : ℝ) * (2 : ℝ) ^ e < (2 : ℝ) ^ (f.prec : ℤ) * (2 : ℝ) ^ e := by gcongr
              _ = (2 : ℝ) ^ ((f.prec : ℤ) + e) := by rw [zpow_add₀ (by norm_num)]
              _ ≤ _ := (zpow_le_zpow_iff_right₀ (by norm_num)).2 (by omega)
          have same : roundTo f .rtz neg r.m 1 0 = roundTo f .rtz neg m 1 e := by
            have nat : r.m = m * 2 ^ e.toNat := by
              have : (r.m : ℝ) = ((m * 2 ^ e.toNat : ℕ) : ℝ) := by
                rw [ex]; push_cast; rw [← zpow_natCast, Int.toNat_of_nonneg c]
              exact_mod_cast this
            have rm0 : r.m ≠ 0 := by rw [nat]; positivity
            rw [roundTo_direct f .rtz (by simp) neg _ _ _ rm0, roundTo_direct f .rtz (by simp) neg _ _ _ m0]
            have fl : floorLog r.m 1 + 0 = floorLog m 1 + e := by
              obtain ⟨a1, a2⟩ := floorLog_spec r.m 1 rm0 one_ne_zero
              obtain ⟨c1, c2⟩ := floorLog_spec m 1 m0 one_ne_zero
              simp only [Nat.cast_one, div_one] at a1 a2 c1 c2
              have d1 : (2 : ℝ) ^ (floorLog m 1 + e) ≤ r.m := by rw [ex, zpow_add₀ (by norm_num)]; gcongr
              have d2 : (r.m : ℝ) < (2 : ℝ) ^ (floorLog m 1 + e + 1) := by
                rw [ex, show floorLog m 1 + e + 1 = floorLog m 1 + 1 + e by ring, zpow_add₀ (by norm_num)]; gcongr
              have := floorLog_unique _ _ _ a1 d2
              have := floorLog_unique _ _ _ d1 a2
              omega
            have ra : ∀ q, roundAt .rtz neg r.m 1 0 q = roundAt .rtz neg m 1 e q := by
              intro q
              have : ∀ q : ℤ, ∃ t : ℕ, 0 < t ∧ r.m * powNum (0 - q) * (1 * powDen (e - q)) = m * powNum (e - q) * (1 * powDen (0 - q)) := by
                intro q
                refine ⟨1, by decide, ?_⟩
                have : ((r.m * powNum (0 - q) * (1 * powDen (e - q)) : ℕ) : ℝ) = ((m * powNum (e - q) * (1 * powDen (0 - q)) : ℕ) : ℝ) := by
                  push_cast; rw [powNum_real, powNum_real, ex, zpow_sub₀ (by norm_num), zpow_sub₀ (by norm_num)]; simp; ring
                exact_mod_cast this
              obtain ⟨-, -, cross⟩ := this q
              have d1 : 0 < 1 * powDen (0 - q) := by unfold powDen; positivity
              have d2 : 0 < 1 * powDen (e - q) := by unfold powDen; positivity
              unfold roundAt
              simp only []
              have hdiv : r.m * powNum (0 - q) / (1 * powDen (0 - q)) = m * powNum (e - q) / (1 * powDen (e - q)) := by
                rw [← Nat.mul_div_mul_right _ _ d2, cross, Nat.mul_comm (1 * powDen (0 - q)), Nat.mul_div_mul_right _ _ d1]
              have hmod : (r.m * powNum (0 - q) % (1 * powDen (0 - q)) = 0) ↔ (m * powNum (e - q) % (1 * powDen (e - q)) = 0) := by
                rw [← Nat.dvd_iff_mod_eq_zero, ← Nat.dvd_iff_mod_eq_zero, ← Nat.mul_dvd_mul_iff_right d2, cross,
                  Nat.mul_comm (1 * powDen (0 - q)), Nat.mul_dvd_mul_iff_right d1]
              simp only [roundUp, hdiv, Bool.false_eq_true, if_false, ne_eq, hmod]
            simp only [fl, ra]
          rw [same]
          obtain ⟨k1, m', e', k2, k3⟩ := roundTo_exact f h neg m e hb b2 b1.le
          exact ⟨k1, m', e', k2, by rw [k3, ex]⟩
        · have : (m : ℝ) * (2 : ℝ) ^ e < (2 : ℝ) ^ ((f.prec : ℤ)) := by
            have : (2 : ℝ) ^ e ≤ 1 := zpow_le_one_of_nonpos₀ (by norm_num) (by omega)
            have mp : (0 : ℝ) ≤ m := by positivity
            nlinarith
          have : (i : ℝ) < (2 : ℝ) ^ (f.prec : ℤ) := lt_of_le_of_lt i3 this
          rw [toNat_pow] at this
          have il : i < 2 ^ f.prec := by exact_mod_cast this
          have rl : r.m ≤ 2 ^ f.prec := by omega
          have hb : (r.m : ℝ) * (2 : ℝ) ^ (0 : ℤ) < (2 : ℝ) ^ ((f.bias : ℤ) + 1) := by
            rw [zpow_zero, mul_one]
            calc (r.m : ℝ) ≤ (2 : ℝ) ^ (f.prec : ℤ) := by rw [toNat_pow]; exact_mod_cast rl
              _ < _ := (zpow_lt_zpow_iff_right₀ (by norm_num)).2 (by omega)
          obtain ⟨k1, m', e', k2, k3⟩ := roundTo_exact f h neg r.m 0 hb (by unfold Fmt.emin; omega) rl
          exact ⟨k1, m', e', k2, by rw [k3]; simp⟩
      obtain ⟨k1, m', e', k2, k3⟩ := rep
      refine ⟨_, r1, ⟨m', e', k2, ?_⟩, k1, ?_, ?_⟩
      · rw [val_fin, signedOf_real, mul_assoc, k3, ← signedOf_eq, signedOf_real]
      · intro g
        have : ¬(r.inexact = true) := by rw [r2]; simp only [ne_eq, not_not]; exact iff.2 g
        simp only [Bool.not_eq_true] at this
        simp [this, flagIf]
      · intro g
        have : r.inexact = true := by rw [r2]; exact fun c => g (iff.1 c)
        simp [this, flagIf]


theorem roundTo_high (f : Fmt) (h : f.Ok) (mode : Rounding) (hm : ∀ k, mode ≠ .sr k) (neg : Bool) (m : Nat) (e : Int) (hm0 : m ≠ 0)
    (he : (f.bias : ℤ) + 2 ≤ e) : roundTo f mode neg m 1 e = (packOverflow f mode neg, flagOF + flagNX) := by
  have hp := h.prec
  obtain ⟨a1, a2⟩ := floorLog_spec m 1 hm0 one_ne_zero
  simp only [Nat.cast_one, div_one] at a1 a2
  have m1 : (1 : ℝ) ≤ m := by exact_mod_cast Nat.pos_of_ne_zero hm0
  have l0 : 0 ≤ floorLog m 1 := floorLog_unique _ 0 _ (by simpa using m1) a2
  have emin : f.emin = 1 - (f.bias : Int) := rfl
  rw [roundTo_direct f mode hm neg _ _ _ hm0]
  simp only []
  rw [if_pos]
  obtain ⟨i, i1, i2, i3, i4⟩ := roundAt_near mode neg m 1 e (max (floorLog m 1 + e) f.emin - ((f.prec : ℤ) - 1)) one_ne_zero
  set q := max (floorLog m 1 + e) f.emin - ((f.prec : ℤ) - 1) with hq
  rw [tooBig_spec]
  have rq : (roundAt mode neg m 1 e q).q = q := rfl
  rw [rq]
  have qe : q = floorLog m 1 + e - ((f.prec : ℤ) - 1) := by omega
  have ey : (2 : ℝ) ^ ((f.prec : ℤ) - 1) ≤ (m : ℝ) / (1 : ℕ) * (2 : ℝ) ^ e / (2 : ℝ) ^ q := by
    rw [le_div_iff₀ (two_zpow_pos q), ← zpow_add₀ (by norm_num), qe,
      show (f.prec : ℤ) - 1 + (floorLog m 1 + e - ((f.prec : ℤ) - 1)) = floorLog m 1 + e by ring, zpow_add₀ (by norm_num)]
    simp only [Nat.cast_one, div_one]; gcongr
  have b1 : (2 : ℝ) ^ ((f.prec : ℤ) - 1) < i + 1 := lt_of_le_of_lt ey i4
  rw [show ((f.prec : ℤ) - 1) = ((f.prec - 1 : ℕ) : ℤ) by omega, toNat_pow] at b1
  have b2 : 2 ^ (f.prec - 1) < i + 1 := by exact_mod_cast b1
  have b3 : 2 ^ (f.prec - 1) ≤ (roundAt mode neg m 1 e q).m := by omega
  have b4 : (2 : ℝ) ^ ((f.prec : ℤ) - 1) ≤ ((roundAt mode neg m 1 e q).m : ℝ) := by
    rw [show ((f.prec : ℤ) - 1) = ((f.prec - 1 : ℕ) : ℤ) by omega, toNat_pow]; exact_mod_cast b3
  calc (2 : ℝ) ^ ((f.bias : ℤ) + 1) ≤ (2 : ℝ) ^ ((f.prec : ℤ) - 1 + q) := (zpow_le_zpow_iff_right₀ (by norm_num)).2 (by omega)
    _ = (2 : ℝ) ^ ((f.prec : ℤ) - 1) * (2 : ℝ) ^ q := by rw [zpow_add₀ (by norm_num)]
    _ ≤ _ := by gcongr

/-- Rounding of a magnitude far below the smallest subnormal. -/
theorem roundTo_low (f : Fmt) (h : f.Ok) (mode : Rounding) (hm : ∀ k, mode ≠ .sr k) (neg : Bool) (m : Nat) (e e' : Int) (hm0 : m ≠ 0)
    (hlt : m < 2 ^ f.prec) (he : e + 2 * (f.prec : ℤ) + 2 ≤ f.emin) (he' : e' + 2 * (f.prec : ℤ) + 2 ≤ f.emin) :
    roundTo f mode neg m 1 e = roundTo f mode neg m 1 e' := by
  have hp := h.prec
  obtain ⟨a1, a2⟩ := floorLog_spec m 1 hm0 one_ne_zero
  simp only [Nat.cast_one, div_one] at a1 a2
  have m1 : (1 : ℝ) ≤ m := by exact_mod_cast Nat.pos_of_ne_zero hm0
  have mlt : (m : ℝ) < (2 : ℝ) ^ (f.prec : ℤ) := by rw [toNat_pow]; exact_mod_cast hlt
  have l1 : floorLog m 1 < f.prec := (zpow_lt_zpow_iff_right₀ (by norm_num)).1 (lt_of_le_of_lt a1 mlt)
  have emin : f.emin = 1 - (f.bias : Int) := rfl
  set q : ℤ := f.emin - ((f.prec : ℤ) - 1) with hq
  have shape : ∀ e : ℤ, e + 2 * (f.prec : ℤ) + 2 ≤ f.emin → roundTo f mode neg m 1 e =
      (packFinite f neg (if roundUp mode neg 0 1 3 then 1 else 0) q, flagNX + flagUF) := by
    intro e he
    rw [roundTo_direct f mode hm neg _ _ _ hm0]
    simp only []
    have mq : max (floorLog m 1 + e) f.emin - ((f.prec : ℤ) - 1) = q := by omega
    rw [mq]
    -- the exact magnitude is below a quarter of the grid
    have num : powNum (e - q) = 1 := by unfold powNum; rw [show (e - q).toNat = 0 by omega, pow_zero]
    set den := 1 * powDen (e - q) with hden
    have big : 4 * m < den := by
      have : 2 ^ (f.prec + 2) ≤ den := by
        rw [hden, Nat.one_mul]; unfold powDen
        exact Nat.pow_le_pow_right (by decide) (by omega)
      have : 2 ^ (f.prec + 2) = 4 * 2 ^ f.prec := by rw [Nat.pow_add]; ring
      omega
    have mpos : 0 < m := Nat.pos_of_ne_zero hm0
    have dv : m * powNum (e - q) / den = 0 := by rw [num, Nat.mul_one]; exact Nat.div_eq_of_lt (by omega)
    have md : m * powNum (e - q) % den = m := by rw [num, Nat.mul_one]; exact Nat.mod_eq_of_lt (by omega)
    have up : roundUp mode neg 0 m den = roundUp mode neg 0 1 3 := by
      cases mode with
      | sr k => exact absurd rfl (hm k)
      | rne =>
        have x1 : ¬(2 * m > den) := by omega
        have x2 : ¬(2 * m = den) := by omega
        simp [roundUp, x1, x2]
      | rna =>
        have x1 : ¬(den ≤ 2 * m) := by omega
        simp [roundUp, x1]
      | rtz => rfl
      | rdn => simp [roundUp, mpos]
      | rup => simp [roundUp, mpos]
    have ra : roundAt mode neg m 1 e q = { m := if roundUp mode neg 0 1 3 then 1 else 0, q := q, inexact := true, up := roundUp mode neg 0 1 3 } := by
      unfold roundAt
      simp only [← hden, dv, md, up]
      simp [hm0]
    rw [ra]
    have nb : ¬(f.tooBig { m := if roundUp mode neg 0 1 3 then 1 else 0, q := q, inexact := true, up := roundUp mode neg 0 1 3 } = true) := by
      rw [tooBig_spec]
      simp only []
      have : (((if roundUp mode neg 0 1 3 then 1 else 0 : ℕ)) : ℝ) ≤ 1 := by split <;> simp
      have q1 : (2 : ℝ) ^ q < (2 : ℝ) ^ ((f.bias : ℤ) + 1) := (zpow_lt_zpow_iff_right₀ (by norm_num)).2 (by omega)
      have := two_zpow_pos q
      push Not
      nlinarith
    rw [if_neg nb]
    obtain ⟨j, j1, j2, j3, j4⟩ := roundAt_near mode neg m 1 e (floorLog m 1 + e - ((f.prec : ℤ) - 1)) one_ne_zero
    set w := roundAt mode neg m 1 e (floorLog m 1 + e - ((f.prec : ℤ) - 1)) with hw
    have wq : w.q = floorLog m 1 + e - ((f.prec : ℤ) - 1) := rfl
    have wlt : (w.m : ℝ) ≤ (2 : ℝ) ^ ((f.prec : ℤ)) := by
      have : (m : ℝ) / (1 : ℕ) * (2 : ℝ) ^ e / (2 : ℝ) ^ (floorLog m 1 + e - ((f.prec : ℤ) - 1)) < (2 : ℝ) ^ (f.prec : ℤ) := by
        rw [div_lt_iff₀ (two_zpow_pos _), ← zpow_add₀ (by norm_num),
          show (f.prec : ℤ) + (floorLog m 1 + e - ((f.prec : ℤ) - 1)) = floorLog m 1 + 1 + e by ring, zpow_add₀ (by norm_num)]
        simp only [Nat.cast_one, div_one]; gcongr
      have : (j : ℝ) < (2 : ℝ) ^ (f.prec : ℤ) := lt_of_le_of_lt j3 this
      rw [toNat_pow] at this ⊢
      have : j < 2 ^ f.prec := by exact_mod_cast this
      exact_mod_cast (by omega : w.m ≤ 2 ^ f.prec)
    have w0 : w.m ≠ 0 := by
      have : (2 : ℝ) ^ ((f.prec : ℤ) - 1) ≤ (m : ℝ) / (1 : ℕ) * (2 : ℝ) ^ e / (2 : ℝ) ^ (floorLog m 1 + e - ((f.prec : ℤ) - 1)) := by
        rw [le_div_iff₀ (two_zpow_pos _), ← zpow_add₀ (by norm_num),
          show (f.prec : ℤ) - 1 + (floorLog m 1 + e - ((f.prec : ℤ) - 1)) = floorLog m 1 + e by ring, zpow_add₀ (by norm_num)]
        simp only [Nat.cast_one, div_one]; gcongr
      have b1 : (2 : ℝ) ^ ((f.prec : ℤ) - 1) < j + 1 := lt_of_le_of_lt this j4
      have one : (1 : ℝ) ≤ (2 : ℝ) ^ ((f.prec : ℤ) - 1) := one_le_zpow₀ (by norm_num) (by omega)
      have : (0 : ℝ) < j := by linarith
      have : 0 < j := by exact_mod_cast this
      omega
    have tiny : floorLog w.m 1 + w.q < f.emin := by
      rw [tiny_spec f w w0, wq]
      calc (w.m : ℝ) * (2 : ℝ) ^ (floorLog m 1 + e - ((f.prec : ℤ) - 1)) ≤ (2 : ℝ) ^ (f.prec : ℤ) * (2 : ℝ) ^ (floorLog m 1 + e - ((f.prec : ℤ) - 1)) := by gcongr
        _ = (2 : ℝ) ^ (f.prec + (floorLog m 1 + e - ((f.prec : ℤ) - 1))) := by rw [zpow_add₀ (by norm_num)]
        _ < _ := (zpow_lt_zpow_iff_right₀ (by norm_num)).2 (by omega)
    simp only [flagIf, Bool.true_and, decide_eq_true_eq, if_true, tiny]
  rw [shape e he, shape e' he']

theorem scaleF_spec (mode : Rounding) (hm : ∀ k, mode ≠ .sr k) (v : Nat) (n : Int) :
    ScaledIs fp32 mode (scaleF mode (decodeF fp32 v) n) n (decodeF fp32 v) := by
  cases hd : decodeF fp32 v with
  | nan s => exact nan_pair fp32 s
  | inf a => rfl
  | fin neg m e =>
    obtain ⟨b1, b2, b3⟩ := decodeF_bounds fp32 fp32_ok hd
    have c1 : fp32.prec = 24 := rfl
    have c2 : fp32.bias = 127 := rfl
    have c3 : fp32.emin = -126 := rfl
    rw [c1, c3] at b2
    rw [c1, c2] at b3
    push_cast at b2 b3
    simp only [ScaledIs, scaleF]
    have vx : FVal.val (.fin neg m e) * (2 : ℝ) ^ n = sg neg * ((m : ℝ) / ((1 : ℕ) : ℝ) * (2 : ℝ) ^ (e + n)) := by
      rw [val_fin, signedOf_real, zpow_add₀ (by norm_num)]; push_cast; ring
    rw [vx]
    by_cases m0 : m = 0
    · rw [if_pos m0]; subst m0
      exact ⟨fun _ => rfl, fun g => absurd (by simp) g⟩
    · rw [if_neg m0]
      have corr := roundTo_correct0 fp32 fp32_ok mode hm neg m 1 (e + n) one_ne_zero
      by_cases h1 : n > 1000
      · rw [if_pos h1, roundTo_high fp32 fp32_ok mode hm neg m (e + 1000) m0 (by rw [c2]; omega),
          ← roundTo_high fp32 fp32_ok mode hm neg m (e + n) m0 (by rw [c2]; omega)]
        exact corr
      · rw [if_neg h1]
        by_cases h2 : n < -1000
        · rw [if_pos h2, roundTo_low fp32 fp32_ok mode hm neg m (e + -1000) (e + n) m0 b1 (by rw [c1, c3]; omega) (by rw [c1, c3]; omega)]
          exact corr
        · rw [if_neg h2]; exact corr


end Sys2Proof.Machine
end

