-- ==== Sys2Proof/Laws/State.lean ====
section
/-!
SUPPORT. The shared updates of State: what each makes of the field it writes, and that it leaves every other field alone.
-/

namespace Sys2Proof.Machine

open Sys2Proof

/-! ### modStream -/

@[simp] theorem modStream_cycle (s : State) (sid : Nat) (f : Stream → Stream) : (modStream s sid f).cycle = s.cycle := rfl
@[simp] theorem modStream_time (s : State) (sid : Nat) (f : Stream → Stream) : (modStream s sid f).time = s.time := rfl
@[simp] theorem modStream_schedule (s : State) (sid : Nat) (f : Stream → Stream) : (modStream s sid f).schedule = s.schedule := rfl
@[simp] theorem modStream_work (s : State) (sid : Nat) (f : Stream → Stream) : (modStream s sid f).work = s.work := rfl
@[simp] theorem modStream_timers (s : State) (sid : Nat) (f : Stream → Stream) : (modStream s sid f).timers = s.timers := rfl
@[simp] theorem modStream_alarms (s : State) (sid : Nat) (f : Stream → Stream) : (modStream s sid f).alarms = s.alarms := rfl
@[simp] theorem modStream_issuer (s : State) (sid : Nat) (f : Stream → Stream) : (modStream s sid f).issuer = s.issuer := rfl
@[simp] theorem modStream_slate (s : State) (sid : Nat) (f : Stream → Stream) : (modStream s sid f).slate = s.slate := rfl
@[simp] theorem modStream_free (s : State) (sid : Nat) (f : Stream → Stream) : (modStream s sid f).free = s.free := rfl
@[simp] theorem modStream_seq (s : State) (sid : Nat) (f : Stream → Stream) : (modStream s sid f).seq = s.seq := rfl
@[simp] theorem modStream_mem (s : State) (sid : Nat) (f : Stream → Stream) : (modStream s sid f).mem = s.mem := rfl
@[simp] theorem modStream_poison (s : State) (sid : Nat) (f : Stream → Stream) : (modStream s sid f).poison = s.poison := rfl
@[simp] theorem modStream_sealed (s : State) (sid : Nat) (f : Stream → Stream) : (modStream s sid f).sealed = s.sealed := rfl
@[simp] theorem modStream_banks (s : State) (sid : Nat) (f : Stream → Stream) : (modStream s sid f).banks = s.banks := rfl
@[simp] theorem modStream_regs (s : State) (sid : Nat) (f : Stream → Stream) : (modStream s sid f).regs = s.regs := rfl
@[simp] theorem modStream_scratch (s : State) (sid : Nat) (f : Stream → Stream) : (modStream s sid f).scratch = s.scratch := rfl
@[simp] theorem modStream_scErr (s : State) (sid : Nat) (f : Stream → Stream) : (modStream s sid f).scErr = s.scErr := rfl
@[simp] theorem modStream_tiles (s : State) (sid : Nat) (f : Stream → Stream) : (modStream s sid f).tiles = s.tiles := rfl
@[simp] theorem modStream_tileErr (s : State) (sid : Nat) (f : Stream → Stream) : (modStream s sid f).tileErr = s.tileErr := rfl
@[simp] theorem modStream_owners (s : State) (sid : Nat) (f : Stream → Stream) : (modStream s sid f).owners = s.owners := rfl
@[simp] theorem modStream_restore (s : State) (sid : Nat) (f : Stream → Stream) : (modStream s sid f).restore = s.restore := rfl
@[simp] theorem modStream_lanes (s : State) (sid : Nat) (f : Stream → Stream) : (modStream s sid f).lanes = s.lanes := rfl
@[simp] theorem modStream_streams (s : State) (sid : Nat) (f : Stream → Stream) : (modStream s sid f).streams = upd s.streams sid f := rfl
@[simp] theorem modStream_groups (s : State) (sid : Nat) (f : Stream → Stream) : (modStream s sid f).groups = s.groups := rfl
@[simp] theorem modStream_teams (s : State) (sid : Nat) (f : Stream → Stream) : (modStream s sid f).teams = s.teams := rfl
@[simp] theorem modStream_clusters (s : State) (sid : Nat) (f : Stream → Stream) : (modStream s sid f).clusters = s.clusters := rfl
@[simp] theorem modStream_harts (s : State) (sid : Nat) (f : Stream → Stream) : (modStream s sid f).harts = s.harts := rfl
@[simp] theorem modStream_meets (s : State) (sid : Nat) (f : Stream → Stream) : (modStream s sid f).meets = s.meets := rfl
@[simp] theorem modStream_moves (s : State) (sid : Nat) (f : Stream → Stream) : (modStream s sid f).moves = s.moves := rfl
@[simp] theorem modStream_pkg (s : State) (sid : Nat) (f : Stream → Stream) : (modStream s sid f).pkg = s.pkg := rfl
@[simp] theorem modStream_fab (s : State) (sid : Nat) (f : Stream → Stream) : (modStream s sid f).fab = s.fab := rfl
@[simp] theorem modStream_host (s : State) (sid : Nat) (f : Stream → Stream) : (modStream s sid f).host = s.host := rfl
@[simp] theorem modStream_sched (s : State) (sid : Nat) (f : Stream → Stream) : (modStream s sid f).sched = s.sched := rfl
@[simp] theorem modStream_ctl (s : State) (sid : Nat) (f : Stream → Stream) : (modStream s sid f).ctl = s.ctl := rfl

/-! ### modLane -/

@[simp] theorem modLane_cycle (s : State) (pos : Nat) (f : Lane → Lane) : (modLane s pos f).cycle = s.cycle := rfl
@[simp] theorem modLane_time (s : State) (pos : Nat) (f : Lane → Lane) : (modLane s pos f).time = s.time := rfl
@[simp] theorem modLane_schedule (s : State) (pos : Nat) (f : Lane → Lane) : (modLane s pos f).schedule = s.schedule := rfl
@[simp] theorem modLane_work (s : State) (pos : Nat) (f : Lane → Lane) : (modLane s pos f).work = s.work := rfl
@[simp] theorem modLane_timers (s : State) (pos : Nat) (f : Lane → Lane) : (modLane s pos f).timers = s.timers := rfl
@[simp] theorem modLane_alarms (s : State) (pos : Nat) (f : Lane → Lane) : (modLane s pos f).alarms = s.alarms := rfl
@[simp] theorem modLane_issuer (s : State) (pos : Nat) (f : Lane → Lane) : (modLane s pos f).issuer = s.issuer := rfl
@[simp] theorem modLane_slate (s : State) (pos : Nat) (f : Lane → Lane) : (modLane s pos f).slate = s.slate := rfl
@[simp] theorem modLane_free (s : State) (pos : Nat) (f : Lane → Lane) : (modLane s pos f).free = s.free := rfl
@[simp] theorem modLane_seq (s : State) (pos : Nat) (f : Lane → Lane) : (modLane s pos f).seq = s.seq := rfl
@[simp] theorem modLane_mem (s : State) (pos : Nat) (f : Lane → Lane) : (modLane s pos f).mem = s.mem := rfl
@[simp] theorem modLane_poison (s : State) (pos : Nat) (f : Lane → Lane) : (modLane s pos f).poison = s.poison := rfl
@[simp] theorem modLane_sealed (s : State) (pos : Nat) (f : Lane → Lane) : (modLane s pos f).sealed = s.sealed := rfl
@[simp] theorem modLane_banks (s : State) (pos : Nat) (f : Lane → Lane) : (modLane s pos f).banks = s.banks := rfl
@[simp] theorem modLane_regs (s : State) (pos : Nat) (f : Lane → Lane) : (modLane s pos f).regs = s.regs := rfl
@[simp] theorem modLane_scratch (s : State) (pos : Nat) (f : Lane → Lane) : (modLane s pos f).scratch = s.scratch := rfl
@[simp] theorem modLane_scErr (s : State) (pos : Nat) (f : Lane → Lane) : (modLane s pos f).scErr = s.scErr := rfl
@[simp] theorem modLane_tiles (s : State) (pos : Nat) (f : Lane → Lane) : (modLane s pos f).tiles = s.tiles := rfl
@[simp] theorem modLane_tileErr (s : State) (pos : Nat) (f : Lane → Lane) : (modLane s pos f).tileErr = s.tileErr := rfl
@[simp] theorem modLane_owners (s : State) (pos : Nat) (f : Lane → Lane) : (modLane s pos f).owners = s.owners := rfl
@[simp] theorem modLane_restore (s : State) (pos : Nat) (f : Lane → Lane) : (modLane s pos f).restore = s.restore := rfl
@[simp] theorem modLane_lanes (s : State) (pos : Nat) (f : Lane → Lane) : (modLane s pos f).lanes = upd s.lanes pos f := rfl
@[simp] theorem modLane_streams (s : State) (pos : Nat) (f : Lane → Lane) : (modLane s pos f).streams = s.streams := rfl
@[simp] theorem modLane_groups (s : State) (pos : Nat) (f : Lane → Lane) : (modLane s pos f).groups = s.groups := rfl
@[simp] theorem modLane_teams (s : State) (pos : Nat) (f : Lane → Lane) : (modLane s pos f).teams = s.teams := rfl
@[simp] theorem modLane_clusters (s : State) (pos : Nat) (f : Lane → Lane) : (modLane s pos f).clusters = s.clusters := rfl
@[simp] theorem modLane_harts (s : State) (pos : Nat) (f : Lane → Lane) : (modLane s pos f).harts = s.harts := rfl
@[simp] theorem modLane_meets (s : State) (pos : Nat) (f : Lane → Lane) : (modLane s pos f).meets = s.meets := rfl
@[simp] theorem modLane_moves (s : State) (pos : Nat) (f : Lane → Lane) : (modLane s pos f).moves = s.moves := rfl
@[simp] theorem modLane_pkg (s : State) (pos : Nat) (f : Lane → Lane) : (modLane s pos f).pkg = s.pkg := rfl
@[simp] theorem modLane_fab (s : State) (pos : Nat) (f : Lane → Lane) : (modLane s pos f).fab = s.fab := rfl
@[simp] theorem modLane_host (s : State) (pos : Nat) (f : Lane → Lane) : (modLane s pos f).host = s.host := rfl
@[simp] theorem modLane_sched (s : State) (pos : Nat) (f : Lane → Lane) : (modLane s pos f).sched = s.sched := rfl
@[simp] theorem modLane_ctl (s : State) (pos : Nat) (f : Lane → Lane) : (modLane s pos f).ctl = s.ctl := rfl

/-! ### modTeam -/

@[simp] theorem modTeam_cycle (s : State) (t : Nat) (f : Team → Team) : (modTeam s t f).cycle = s.cycle := rfl
@[simp] theorem modTeam_time (s : State) (t : Nat) (f : Team → Team) : (modTeam s t f).time = s.time := rfl
@[simp] theorem modTeam_schedule (s : State) (t : Nat) (f : Team → Team) : (modTeam s t f).schedule = s.schedule := rfl
@[simp] theorem modTeam_work (s : State) (t : Nat) (f : Team → Team) : (modTeam s t f).work = s.work := rfl
@[simp] theorem modTeam_timers (s : State) (t : Nat) (f : Team → Team) : (modTeam s t f).timers = s.timers := rfl
@[simp] theorem modTeam_alarms (s : State) (t : Nat) (f : Team → Team) : (modTeam s t f).alarms = s.alarms := rfl
@[simp] theorem modTeam_issuer (s : State) (t : Nat) (f : Team → Team) : (modTeam s t f).issuer = s.issuer := rfl
@[simp] theorem modTeam_slate (s : State) (t : Nat) (f : Team → Team) : (modTeam s t f).slate = s.slate := rfl
@[simp] theorem modTeam_free (s : State) (t : Nat) (f : Team → Team) : (modTeam s t f).free = s.free := rfl
@[simp] theorem modTeam_seq (s : State) (t : Nat) (f : Team → Team) : (modTeam s t f).seq = s.seq := rfl
@[simp] theorem modTeam_mem (s : State) (t : Nat) (f : Team → Team) : (modTeam s t f).mem = s.mem := rfl
@[simp] theorem modTeam_poison (s : State) (t : Nat) (f : Team → Team) : (modTeam s t f).poison = s.poison := rfl
@[simp] theorem modTeam_sealed (s : State) (t : Nat) (f : Team → Team) : (modTeam s t f).sealed = s.sealed := rfl
@[simp] theorem modTeam_banks (s : State) (t : Nat) (f : Team → Team) : (modTeam s t f).banks = s.banks := rfl
@[simp] theorem modTeam_regs (s : State) (t : Nat) (f : Team → Team) : (modTeam s t f).regs = s.regs := rfl
@[simp] theorem modTeam_scratch (s : State) (t : Nat) (f : Team → Team) : (modTeam s t f).scratch = s.scratch := rfl
@[simp] theorem modTeam_scErr (s : State) (t : Nat) (f : Team → Team) : (modTeam s t f).scErr = s.scErr := rfl
@[simp] theorem modTeam_tiles (s : State) (t : Nat) (f : Team → Team) : (modTeam s t f).tiles = s.tiles := rfl
@[simp] theorem modTeam_tileErr (s : State) (t : Nat) (f : Team → Team) : (modTeam s t f).tileErr = s.tileErr := rfl
@[simp] theorem modTeam_owners (s : State) (t : Nat) (f : Team → Team) : (modTeam s t f).owners = s.owners := rfl
@[simp] theorem modTeam_restore (s : State) (t : Nat) (f : Team → Team) : (modTeam s t f).restore = s.restore := rfl
@[simp] theorem modTeam_lanes (s : State) (t : Nat) (f : Team → Team) : (modTeam s t f).lanes = s.lanes := rfl
@[simp] theorem modTeam_streams (s : State) (t : Nat) (f : Team → Team) : (modTeam s t f).streams = s.streams := rfl
@[simp] theorem modTeam_groups (s : State) (t : Nat) (f : Team → Team) : (modTeam s t f).groups = s.groups := rfl
@[simp] theorem modTeam_teams (s : State) (t : Nat) (f : Team → Team) : (modTeam s t f).teams = upd s.teams t f := rfl
@[simp] theorem modTeam_clusters (s : State) (t : Nat) (f : Team → Team) : (modTeam s t f).clusters = s.clusters := rfl
@[simp] theorem modTeam_harts (s : State) (t : Nat) (f : Team → Team) : (modTeam s t f).harts = s.harts := rfl
@[simp] theorem modTeam_meets (s : State) (t : Nat) (f : Team → Team) : (modTeam s t f).meets = s.meets := rfl
@[simp] theorem modTeam_moves (s : State) (t : Nat) (f : Team → Team) : (modTeam s t f).moves = s.moves := rfl
@[simp] theorem modTeam_pkg (s : State) (t : Nat) (f : Team → Team) : (modTeam s t f).pkg = s.pkg := rfl
@[simp] theorem modTeam_fab (s : State) (t : Nat) (f : Team → Team) : (modTeam s t f).fab = s.fab := rfl
@[simp] theorem modTeam_host (s : State) (t : Nat) (f : Team → Team) : (modTeam s t f).host = s.host := rfl
@[simp] theorem modTeam_sched (s : State) (t : Nat) (f : Team → Team) : (modTeam s t f).sched = s.sched := rfl
@[simp] theorem modTeam_ctl (s : State) (t : Nat) (f : Team → Team) : (modTeam s t f).ctl = s.ctl := rfl

/-! ### modGroup -/

@[simp] theorem modGroup_cycle (s : State) (g : Nat) (f : Group → Group) : (modGroup s g f).cycle = s.cycle := rfl
@[simp] theorem modGroup_time (s : State) (g : Nat) (f : Group → Group) : (modGroup s g f).time = s.time := rfl
@[simp] theorem modGroup_schedule (s : State) (g : Nat) (f : Group → Group) : (modGroup s g f).schedule = s.schedule := rfl
@[simp] theorem modGroup_work (s : State) (g : Nat) (f : Group → Group) : (modGroup s g f).work = s.work := rfl
@[simp] theorem modGroup_timers (s : State) (g : Nat) (f : Group → Group) : (modGroup s g f).timers = s.timers := rfl
@[simp] theorem modGroup_alarms (s : State) (g : Nat) (f : Group → Group) : (modGroup s g f).alarms = s.alarms := rfl
@[simp] theorem modGroup_issuer (s : State) (g : Nat) (f : Group → Group) : (modGroup s g f).issuer = s.issuer := rfl
@[simp] theorem modGroup_slate (s : State) (g : Nat) (f : Group → Group) : (modGroup s g f).slate = s.slate := rfl
@[simp] theorem modGroup_free (s : State) (g : Nat) (f : Group → Group) : (modGroup s g f).free = s.free := rfl
@[simp] theorem modGroup_seq (s : State) (g : Nat) (f : Group → Group) : (modGroup s g f).seq = s.seq := rfl
@[simp] theorem modGroup_mem (s : State) (g : Nat) (f : Group → Group) : (modGroup s g f).mem = s.mem := rfl
@[simp] theorem modGroup_poison (s : State) (g : Nat) (f : Group → Group) : (modGroup s g f).poison = s.poison := rfl
@[simp] theorem modGroup_sealed (s : State) (g : Nat) (f : Group → Group) : (modGroup s g f).sealed = s.sealed := rfl
@[simp] theorem modGroup_banks (s : State) (g : Nat) (f : Group → Group) : (modGroup s g f).banks = s.banks := rfl
@[simp] theorem modGroup_regs (s : State) (g : Nat) (f : Group → Group) : (modGroup s g f).regs = s.regs := rfl
@[simp] theorem modGroup_scratch (s : State) (g : Nat) (f : Group → Group) : (modGroup s g f).scratch = s.scratch := rfl
@[simp] theorem modGroup_scErr (s : State) (g : Nat) (f : Group → Group) : (modGroup s g f).scErr = s.scErr := rfl
@[simp] theorem modGroup_tiles (s : State) (g : Nat) (f : Group → Group) : (modGroup s g f).tiles = s.tiles := rfl
@[simp] theorem modGroup_tileErr (s : State) (g : Nat) (f : Group → Group) : (modGroup s g f).tileErr = s.tileErr := rfl
@[simp] theorem modGroup_owners (s : State) (g : Nat) (f : Group → Group) : (modGroup s g f).owners = s.owners := rfl
@[simp] theorem modGroup_restore (s : State) (g : Nat) (f : Group → Group) : (modGroup s g f).restore = s.restore := rfl
@[simp] theorem modGroup_lanes (s : State) (g : Nat) (f : Group → Group) : (modGroup s g f).lanes = s.lanes := rfl
@[simp] theorem modGroup_streams (s : State) (g : Nat) (f : Group → Group) : (modGroup s g f).streams = s.streams := rfl
@[simp] theorem modGroup_groups (s : State) (g : Nat) (f : Group → Group) : (modGroup s g f).groups = upd s.groups g f := rfl
@[simp] theorem modGroup_teams (s : State) (g : Nat) (f : Group → Group) : (modGroup s g f).teams = s.teams := rfl
@[simp] theorem modGroup_clusters (s : State) (g : Nat) (f : Group → Group) : (modGroup s g f).clusters = s.clusters := rfl
@[simp] theorem modGroup_harts (s : State) (g : Nat) (f : Group → Group) : (modGroup s g f).harts = s.harts := rfl
@[simp] theorem modGroup_meets (s : State) (g : Nat) (f : Group → Group) : (modGroup s g f).meets = s.meets := rfl
@[simp] theorem modGroup_moves (s : State) (g : Nat) (f : Group → Group) : (modGroup s g f).moves = s.moves := rfl
@[simp] theorem modGroup_pkg (s : State) (g : Nat) (f : Group → Group) : (modGroup s g f).pkg = s.pkg := rfl
@[simp] theorem modGroup_fab (s : State) (g : Nat) (f : Group → Group) : (modGroup s g f).fab = s.fab := rfl
@[simp] theorem modGroup_host (s : State) (g : Nat) (f : Group → Group) : (modGroup s g f).host = s.host := rfl
@[simp] theorem modGroup_sched (s : State) (g : Nat) (f : Group → Group) : (modGroup s g f).sched = s.sched := rfl
@[simp] theorem modGroup_ctl (s : State) (g : Nat) (f : Group → Group) : (modGroup s g f).ctl = s.ctl := rfl

/-! ### pushWork -/

@[simp] theorem pushWork_cycle (s : State) (e : Instr) : (pushWork s e).cycle = s.cycle := rfl
@[simp] theorem pushWork_time (s : State) (e : Instr) : (pushWork s e).time = s.time := rfl
@[simp] theorem pushWork_schedule (s : State) (e : Instr) : (pushWork s e).schedule = s.schedule := rfl
@[simp] theorem pushWork_work (s : State) (e : Instr) : (pushWork s e).work = s.work ++ [e] := rfl
@[simp] theorem pushWork_timers (s : State) (e : Instr) : (pushWork s e).timers = s.timers := rfl
@[simp] theorem pushWork_alarms (s : State) (e : Instr) : (pushWork s e).alarms = s.alarms := rfl
@[simp] theorem pushWork_issuer (s : State) (e : Instr) : (pushWork s e).issuer = s.issuer := rfl
@[simp] theorem pushWork_slate (s : State) (e : Instr) : (pushWork s e).slate = s.slate := rfl
@[simp] theorem pushWork_free (s : State) (e : Instr) : (pushWork s e).free = s.free := rfl
@[simp] theorem pushWork_seq (s : State) (e : Instr) : (pushWork s e).seq = s.seq := rfl
@[simp] theorem pushWork_mem (s : State) (e : Instr) : (pushWork s e).mem = s.mem := rfl
@[simp] theorem pushWork_poison (s : State) (e : Instr) : (pushWork s e).poison = s.poison := rfl
@[simp] theorem pushWork_sealed (s : State) (e : Instr) : (pushWork s e).sealed = s.sealed := rfl
@[simp] theorem pushWork_banks (s : State) (e : Instr) : (pushWork s e).banks = s.banks := rfl
@[simp] theorem pushWork_regs (s : State) (e : Instr) : (pushWork s e).regs = s.regs := rfl
@[simp] theorem pushWork_scratch (s : State) (e : Instr) : (pushWork s e).scratch = s.scratch := rfl
@[simp] theorem pushWork_scErr (s : State) (e : Instr) : (pushWork s e).scErr = s.scErr := rfl
@[simp] theorem pushWork_tiles (s : State) (e : Instr) : (pushWork s e).tiles = s.tiles := rfl
@[simp] theorem pushWork_tileErr (s : State) (e : Instr) : (pushWork s e).tileErr = s.tileErr := rfl
@[simp] theorem pushWork_owners (s : State) (e : Instr) : (pushWork s e).owners = s.owners := rfl
@[simp] theorem pushWork_restore (s : State) (e : Instr) : (pushWork s e).restore = s.restore := rfl
@[simp] theorem pushWork_lanes (s : State) (e : Instr) : (pushWork s e).lanes = s.lanes := rfl
@[simp] theorem pushWork_streams (s : State) (e : Instr) : (pushWork s e).streams = s.streams := rfl
@[simp] theorem pushWork_groups (s : State) (e : Instr) : (pushWork s e).groups = s.groups := rfl
@[simp] theorem pushWork_teams (s : State) (e : Instr) : (pushWork s e).teams = s.teams := rfl
@[simp] theorem pushWork_clusters (s : State) (e : Instr) : (pushWork s e).clusters = s.clusters := rfl
@[simp] theorem pushWork_harts (s : State) (e : Instr) : (pushWork s e).harts = s.harts := rfl
@[simp] theorem pushWork_meets (s : State) (e : Instr) : (pushWork s e).meets = s.meets := rfl
@[simp] theorem pushWork_moves (s : State) (e : Instr) : (pushWork s e).moves = s.moves := rfl
@[simp] theorem pushWork_pkg (s : State) (e : Instr) : (pushWork s e).pkg = s.pkg := rfl
@[simp] theorem pushWork_fab (s : State) (e : Instr) : (pushWork s e).fab = s.fab := rfl
@[simp] theorem pushWork_host (s : State) (e : Instr) : (pushWork s e).host = s.host := rfl
@[simp] theorem pushWork_sched (s : State) (e : Instr) : (pushWork s e).sched = s.sched := rfl
@[simp] theorem pushWork_ctl (s : State) (e : Instr) : (pushWork s e).ctl = s.ctl := rfl

/-! ### pushTimer -/

@[simp] theorem pushTimer_cycle (s : State) (dt : Nat) (e : Instr) : (pushTimer s dt e).cycle = s.cycle := rfl
@[simp] theorem pushTimer_time (s : State) (dt : Nat) (e : Instr) : (pushTimer s dt e).time = s.time := rfl
@[simp] theorem pushTimer_schedule (s : State) (dt : Nat) (e : Instr) : (pushTimer s dt e).schedule = s.schedule := rfl
@[simp] theorem pushTimer_work (s : State) (dt : Nat) (e : Instr) : (pushTimer s dt e).work = s.work := rfl
@[simp] theorem pushTimer_timers (s : State) (dt : Nat) (e : Instr) : (pushTimer s dt e).timers = s.timers ++ [(s.cycle + dt, e)] := rfl
@[simp] theorem pushTimer_alarms (s : State) (dt : Nat) (e : Instr) : (pushTimer s dt e).alarms = s.alarms := rfl
@[simp] theorem pushTimer_issuer (s : State) (dt : Nat) (e : Instr) : (pushTimer s dt e).issuer = s.issuer := rfl
@[simp] theorem pushTimer_slate (s : State) (dt : Nat) (e : Instr) : (pushTimer s dt e).slate = s.slate := rfl
@[simp] theorem pushTimer_free (s : State) (dt : Nat) (e : Instr) : (pushTimer s dt e).free = s.free := rfl
@[simp] theorem pushTimer_seq (s : State) (dt : Nat) (e : Instr) : (pushTimer s dt e).seq = s.seq := rfl
@[simp] theorem pushTimer_mem (s : State) (dt : Nat) (e : Instr) : (pushTimer s dt e).mem = s.mem := rfl
@[simp] theorem pushTimer_poison (s : State) (dt : Nat) (e : Instr) : (pushTimer s dt e).poison = s.poison := rfl
@[simp] theorem pushTimer_sealed (s : State) (dt : Nat) (e : Instr) : (pushTimer s dt e).sealed = s.sealed := rfl
@[simp] theorem pushTimer_banks (s : State) (dt : Nat) (e : Instr) : (pushTimer s dt e).banks = s.banks := rfl
@[simp] theorem pushTimer_regs (s : State) (dt : Nat) (e : Instr) : (pushTimer s dt e).regs = s.regs := rfl
@[simp] theorem pushTimer_scratch (s : State) (dt : Nat) (e : Instr) : (pushTimer s dt e).scratch = s.scratch := rfl
@[simp] theorem pushTimer_scErr (s : State) (dt : Nat) (e : Instr) : (pushTimer s dt e).scErr = s.scErr := rfl
@[simp] theorem pushTimer_tiles (s : State) (dt : Nat) (e : Instr) : (pushTimer s dt e).tiles = s.tiles := rfl
@[simp] theorem pushTimer_tileErr (s : State) (dt : Nat) (e : Instr) : (pushTimer s dt e).tileErr = s.tileErr := rfl
@[simp] theorem pushTimer_owners (s : State) (dt : Nat) (e : Instr) : (pushTimer s dt e).owners = s.owners := rfl
@[simp] theorem pushTimer_restore (s : State) (dt : Nat) (e : Instr) : (pushTimer s dt e).restore = s.restore := rfl
@[simp] theorem pushTimer_lanes (s : State) (dt : Nat) (e : Instr) : (pushTimer s dt e).lanes = s.lanes := rfl
@[simp] theorem pushTimer_streams (s : State) (dt : Nat) (e : Instr) : (pushTimer s dt e).streams = s.streams := rfl
@[simp] theorem pushTimer_groups (s : State) (dt : Nat) (e : Instr) : (pushTimer s dt e).groups = s.groups := rfl
@[simp] theorem pushTimer_teams (s : State) (dt : Nat) (e : Instr) : (pushTimer s dt e).teams = s.teams := rfl
@[simp] theorem pushTimer_clusters (s : State) (dt : Nat) (e : Instr) : (pushTimer s dt e).clusters = s.clusters := rfl
@[simp] theorem pushTimer_harts (s : State) (dt : Nat) (e : Instr) : (pushTimer s dt e).harts = s.harts := rfl
@[simp] theorem pushTimer_meets (s : State) (dt : Nat) (e : Instr) : (pushTimer s dt e).meets = s.meets := rfl
@[simp] theorem pushTimer_moves (s : State) (dt : Nat) (e : Instr) : (pushTimer s dt e).moves = s.moves := rfl
@[simp] theorem pushTimer_pkg (s : State) (dt : Nat) (e : Instr) : (pushTimer s dt e).pkg = s.pkg := rfl
@[simp] theorem pushTimer_fab (s : State) (dt : Nat) (e : Instr) : (pushTimer s dt e).fab = s.fab := rfl
@[simp] theorem pushTimer_host (s : State) (dt : Nat) (e : Instr) : (pushTimer s dt e).host = s.host := rfl
@[simp] theorem pushTimer_sched (s : State) (dt : Nat) (e : Instr) : (pushTimer s dt e).sched = s.sched := rfl
@[simp] theorem pushTimer_ctl (s : State) (dt : Nat) (e : Instr) : (pushTimer s dt e).ctl = s.ctl := rfl

/-! ### setLines -/

@[simp] theorem setLines_cycle (s : State) (b : Nat) (l : List Line) : (setLines s b l).cycle = s.cycle := rfl
@[simp] theorem setLines_time (s : State) (b : Nat) (l : List Line) : (setLines s b l).time = s.time := rfl
@[simp] theorem setLines_schedule (s : State) (b : Nat) (l : List Line) : (setLines s b l).schedule = s.schedule := rfl
@[simp] theorem setLines_work (s : State) (b : Nat) (l : List Line) : (setLines s b l).work = s.work := rfl
@[simp] theorem setLines_timers (s : State) (b : Nat) (l : List Line) : (setLines s b l).timers = s.timers := rfl
@[simp] theorem setLines_alarms (s : State) (b : Nat) (l : List Line) : (setLines s b l).alarms = s.alarms := rfl
@[simp] theorem setLines_issuer (s : State) (b : Nat) (l : List Line) : (setLines s b l).issuer = s.issuer := rfl
@[simp] theorem setLines_slate (s : State) (b : Nat) (l : List Line) : (setLines s b l).slate = s.slate := rfl
@[simp] theorem setLines_free (s : State) (b : Nat) (l : List Line) : (setLines s b l).free = s.free := rfl
@[simp] theorem setLines_seq (s : State) (b : Nat) (l : List Line) : (setLines s b l).seq = s.seq := rfl
@[simp] theorem setLines_mem (s : State) (b : Nat) (l : List Line) : (setLines s b l).mem = s.mem := rfl
@[simp] theorem setLines_poison (s : State) (b : Nat) (l : List Line) : (setLines s b l).poison = s.poison := rfl
@[simp] theorem setLines_sealed (s : State) (b : Nat) (l : List Line) : (setLines s b l).sealed = s.sealed := rfl
@[simp] theorem setLines_banks (s : State) (b : Nat) (l : List Line) : (setLines s b l).banks = keep [] s.banks b l := rfl
@[simp] theorem setLines_regs (s : State) (b : Nat) (l : List Line) : (setLines s b l).regs = s.regs := rfl
@[simp] theorem setLines_scratch (s : State) (b : Nat) (l : List Line) : (setLines s b l).scratch = s.scratch := rfl
@[simp] theorem setLines_scErr (s : State) (b : Nat) (l : List Line) : (setLines s b l).scErr = s.scErr := rfl
@[simp] theorem setLines_tiles (s : State) (b : Nat) (l : List Line) : (setLines s b l).tiles = s.tiles := rfl
@[simp] theorem setLines_tileErr (s : State) (b : Nat) (l : List Line) : (setLines s b l).tileErr = s.tileErr := rfl
@[simp] theorem setLines_owners (s : State) (b : Nat) (l : List Line) : (setLines s b l).owners = s.owners := rfl
@[simp] theorem setLines_restore (s : State) (b : Nat) (l : List Line) : (setLines s b l).restore = s.restore := rfl
@[simp] theorem setLines_lanes (s : State) (b : Nat) (l : List Line) : (setLines s b l).lanes = s.lanes := rfl
@[simp] theorem setLines_streams (s : State) (b : Nat) (l : List Line) : (setLines s b l).streams = s.streams := rfl
@[simp] theorem setLines_groups (s : State) (b : Nat) (l : List Line) : (setLines s b l).groups = s.groups := rfl
@[simp] theorem setLines_teams (s : State) (b : Nat) (l : List Line) : (setLines s b l).teams = s.teams := rfl
@[simp] theorem setLines_clusters (s : State) (b : Nat) (l : List Line) : (setLines s b l).clusters = s.clusters := rfl
@[simp] theorem setLines_harts (s : State) (b : Nat) (l : List Line) : (setLines s b l).harts = s.harts := rfl
@[simp] theorem setLines_meets (s : State) (b : Nat) (l : List Line) : (setLines s b l).meets = s.meets := rfl
@[simp] theorem setLines_moves (s : State) (b : Nat) (l : List Line) : (setLines s b l).moves = s.moves := rfl
@[simp] theorem setLines_pkg (s : State) (b : Nat) (l : List Line) : (setLines s b l).pkg = s.pkg := rfl
@[simp] theorem setLines_fab (s : State) (b : Nat) (l : List Line) : (setLines s b l).fab = s.fab := rfl
@[simp] theorem setLines_host (s : State) (b : Nat) (l : List Line) : (setLines s b l).host = s.host := rfl
@[simp] theorem setLines_sched (s : State) (b : Nat) (l : List Line) : (setLines s b l).sched = s.sched := rfl
@[simp] theorem setLines_ctl (s : State) (b : Nat) (l : List Line) : (setLines s b l).ctl = s.ctl := rfl

/-! ### tilePut -/

@[simp] theorem tilePut_cycle (s : State) (p t e : Nat) (v : BitVec 32) : (tilePut s p t e v).cycle = s.cycle := rfl
@[simp] theorem tilePut_time (s : State) (p t e : Nat) (v : BitVec 32) : (tilePut s p t e v).time = s.time := rfl
@[simp] theorem tilePut_schedule (s : State) (p t e : Nat) (v : BitVec 32) : (tilePut s p t e v).schedule = s.schedule := rfl
@[simp] theorem tilePut_work (s : State) (p t e : Nat) (v : BitVec 32) : (tilePut s p t e v).work = s.work := rfl
@[simp] theorem tilePut_timers (s : State) (p t e : Nat) (v : BitVec 32) : (tilePut s p t e v).timers = s.timers := rfl
@[simp] theorem tilePut_alarms (s : State) (p t e : Nat) (v : BitVec 32) : (tilePut s p t e v).alarms = s.alarms := rfl
@[simp] theorem tilePut_issuer (s : State) (p t e : Nat) (v : BitVec 32) : (tilePut s p t e v).issuer = s.issuer := rfl
@[simp] theorem tilePut_slate (s : State) (p t e : Nat) (v : BitVec 32) : (tilePut s p t e v).slate = s.slate := rfl
@[simp] theorem tilePut_free (s : State) (p t e : Nat) (v : BitVec 32) : (tilePut s p t e v).free = s.free := rfl
@[simp] theorem tilePut_seq (s : State) (p t e : Nat) (v : BitVec 32) : (tilePut s p t e v).seq = s.seq := rfl
@[simp] theorem tilePut_mem (s : State) (p t e : Nat) (v : BitVec 32) : (tilePut s p t e v).mem = s.mem := rfl
@[simp] theorem tilePut_poison (s : State) (p t e : Nat) (v : BitVec 32) : (tilePut s p t e v).poison = s.poison := rfl
@[simp] theorem tilePut_sealed (s : State) (p t e : Nat) (v : BitVec 32) : (tilePut s p t e v).sealed = s.sealed := rfl
@[simp] theorem tilePut_banks (s : State) (p t e : Nat) (v : BitVec 32) : (tilePut s p t e v).banks = s.banks := rfl
@[simp] theorem tilePut_regs (s : State) (p t e : Nat) (v : BitVec 32) : (tilePut s p t e v).regs = s.regs := rfl
@[simp] theorem tilePut_scratch (s : State) (p t e : Nat) (v : BitVec 32) : (tilePut s p t e v).scratch = s.scratch := rfl
@[simp] theorem tilePut_scErr (s : State) (p t e : Nat) (v : BitVec 32) : (tilePut s p t e v).scErr = s.scErr := rfl
@[simp] theorem tilePut_tiles (s : State) (p t e : Nat) (v : BitVec 32) : (tilePut s p t e v).tiles = keep 0 s.tiles (tileKey p t e) v := rfl
@[simp] theorem tilePut_tileErr (s : State) (p t e : Nat) (v : BitVec 32) : (tilePut s p t e v).tileErr = s.tileErr := rfl
@[simp] theorem tilePut_owners (s : State) (p t e : Nat) (v : BitVec 32) : (tilePut s p t e v).owners = s.owners := rfl
@[simp] theorem tilePut_restore (s : State) (p t e : Nat) (v : BitVec 32) : (tilePut s p t e v).restore = s.restore := rfl
@[simp] theorem tilePut_lanes (s : State) (p t e : Nat) (v : BitVec 32) : (tilePut s p t e v).lanes = s.lanes := rfl
@[simp] theorem tilePut_streams (s : State) (p t e : Nat) (v : BitVec 32) : (tilePut s p t e v).streams = s.streams := rfl
@[simp] theorem tilePut_groups (s : State) (p t e : Nat) (v : BitVec 32) : (tilePut s p t e v).groups = s.groups := rfl
@[simp] theorem tilePut_teams (s : State) (p t e : Nat) (v : BitVec 32) : (tilePut s p t e v).teams = s.teams := rfl
@[simp] theorem tilePut_clusters (s : State) (p t e : Nat) (v : BitVec 32) : (tilePut s p t e v).clusters = s.clusters := rfl
@[simp] theorem tilePut_harts (s : State) (p t e : Nat) (v : BitVec 32) : (tilePut s p t e v).harts = s.harts := rfl
@[simp] theorem tilePut_meets (s : State) (p t e : Nat) (v : BitVec 32) : (tilePut s p t e v).meets = s.meets := rfl
@[simp] theorem tilePut_moves (s : State) (p t e : Nat) (v : BitVec 32) : (tilePut s p t e v).moves = s.moves := rfl
@[simp] theorem tilePut_pkg (s : State) (p t e : Nat) (v : BitVec 32) : (tilePut s p t e v).pkg = s.pkg := rfl
@[simp] theorem tilePut_fab (s : State) (p t e : Nat) (v : BitVec 32) : (tilePut s p t e v).fab = s.fab := rfl
@[simp] theorem tilePut_host (s : State) (p t e : Nat) (v : BitVec 32) : (tilePut s p t e v).host = s.host := rfl
@[simp] theorem tilePut_sched (s : State) (p t e : Nat) (v : BitVec 32) : (tilePut s p t e v).sched = s.sched := rfl
@[simp] theorem tilePut_ctl (s : State) (p t e : Nat) (v : BitVec 32) : (tilePut s p t e v).ctl = s.ctl := rfl

/-! ### setFifo -/

@[simp] theorem setFifo_cycle (s : State) (line : Nat) (l : List Reserve) : (setFifo s line l).cycle = s.cycle := rfl
@[simp] theorem setFifo_time (s : State) (line : Nat) (l : List Reserve) : (setFifo s line l).time = s.time := rfl
@[simp] theorem setFifo_schedule (s : State) (line : Nat) (l : List Reserve) : (setFifo s line l).schedule = s.schedule := rfl
@[simp] theorem setFifo_work (s : State) (line : Nat) (l : List Reserve) : (setFifo s line l).work = s.work := rfl
@[simp] theorem setFifo_timers (s : State) (line : Nat) (l : List Reserve) : (setFifo s line l).timers = s.timers := rfl
@[simp] theorem setFifo_alarms (s : State) (line : Nat) (l : List Reserve) : (setFifo s line l).alarms = s.alarms := rfl
@[simp] theorem setFifo_issuer (s : State) (line : Nat) (l : List Reserve) : (setFifo s line l).issuer = s.issuer := rfl
@[simp] theorem setFifo_slate (s : State) (line : Nat) (l : List Reserve) : (setFifo s line l).slate = s.slate := rfl
@[simp] theorem setFifo_free (s : State) (line : Nat) (l : List Reserve) : (setFifo s line l).free = s.free := rfl
@[simp] theorem setFifo_seq (s : State) (line : Nat) (l : List Reserve) : (setFifo s line l).seq = s.seq := rfl
@[simp] theorem setFifo_mem (s : State) (line : Nat) (l : List Reserve) : (setFifo s line l).mem = s.mem := rfl
@[simp] theorem setFifo_poison (s : State) (line : Nat) (l : List Reserve) : (setFifo s line l).poison = s.poison := rfl
@[simp] theorem setFifo_sealed (s : State) (line : Nat) (l : List Reserve) : (setFifo s line l).sealed = s.sealed := rfl
@[simp] theorem setFifo_banks (s : State) (line : Nat) (l : List Reserve) : (setFifo s line l).banks = s.banks := rfl
@[simp] theorem setFifo_regs (s : State) (line : Nat) (l : List Reserve) : (setFifo s line l).regs = s.regs := rfl
@[simp] theorem setFifo_scratch (s : State) (line : Nat) (l : List Reserve) : (setFifo s line l).scratch = s.scratch := rfl
@[simp] theorem setFifo_scErr (s : State) (line : Nat) (l : List Reserve) : (setFifo s line l).scErr = s.scErr := rfl
@[simp] theorem setFifo_tiles (s : State) (line : Nat) (l : List Reserve) : (setFifo s line l).tiles = s.tiles := rfl
@[simp] theorem setFifo_tileErr (s : State) (line : Nat) (l : List Reserve) : (setFifo s line l).tileErr = s.tileErr := rfl
@[simp] theorem setFifo_owners (s : State) (line : Nat) (l : List Reserve) : (setFifo s line l).owners = s.owners := rfl
@[simp] theorem setFifo_restore (s : State) (line : Nat) (l : List Reserve) : (setFifo s line l).restore = s.restore := rfl
@[simp] theorem setFifo_lanes (s : State) (line : Nat) (l : List Reserve) : (setFifo s line l).lanes = s.lanes := rfl
@[simp] theorem setFifo_streams (s : State) (line : Nat) (l : List Reserve) : (setFifo s line l).streams = s.streams := rfl
@[simp] theorem setFifo_groups (s : State) (line : Nat) (l : List Reserve) : (setFifo s line l).groups = s.groups := rfl
@[simp] theorem setFifo_teams (s : State) (line : Nat) (l : List Reserve) : (setFifo s line l).teams = s.teams := rfl
@[simp] theorem setFifo_clusters (s : State) (line : Nat) (l : List Reserve) : (setFifo s line l).clusters = s.clusters := rfl
@[simp] theorem setFifo_harts (s : State) (line : Nat) (l : List Reserve) : (setFifo s line l).harts = s.harts := rfl
@[simp] theorem setFifo_meets (s : State) (line : Nat) (l : List Reserve) : (setFifo s line l).meets = s.meets := rfl
@[simp] theorem setFifo_moves (s : State) (line : Nat) (l : List Reserve) : (setFifo s line l).moves = s.moves := rfl
@[simp] theorem setFifo_pkg (s : State) (line : Nat) (l : List Reserve) : (setFifo s line l).pkg = s.pkg := rfl
@[simp] theorem setFifo_fab (s : State) (line : Nat) (l : List Reserve) : (setFifo s line l).fab = s.fab := rfl
@[simp] theorem setFifo_host (s : State) (line : Nat) (l : List Reserve) : (setFifo s line l).host = s.host := rfl
@[simp] theorem setFifo_sched (s : State) (line : Nat) (l : List Reserve) : (setFifo s line l).sched = s.sched := rfl
@[simp] theorem setFifo_ctl (s : State) (line : Nat) (l : List Reserve) : (setFifo s line l).ctl = { s.ctl with resv := keep [] s.ctl.resv line l } := rfl

/-! ### addMove -/

@[simp] theorem addMove_cycle (s : State) (m : Transfer) : (addMove s m).cycle = s.cycle := rfl
@[simp] theorem addMove_time (s : State) (m : Transfer) : (addMove s m).time = s.time := rfl
@[simp] theorem addMove_schedule (s : State) (m : Transfer) : (addMove s m).schedule = s.schedule := rfl
@[simp] theorem addMove_work (s : State) (m : Transfer) : (addMove s m).work = s.work := rfl
@[simp] theorem addMove_timers (s : State) (m : Transfer) : (addMove s m).timers = s.timers := rfl
@[simp] theorem addMove_alarms (s : State) (m : Transfer) : (addMove s m).alarms = s.alarms := rfl
@[simp] theorem addMove_issuer (s : State) (m : Transfer) : (addMove s m).issuer = s.issuer := rfl
@[simp] theorem addMove_slate (s : State) (m : Transfer) : (addMove s m).slate = s.slate := rfl
@[simp] theorem addMove_free (s : State) (m : Transfer) : (addMove s m).free = s.free := rfl
@[simp] theorem addMove_seq (s : State) (m : Transfer) : (addMove s m).seq = s.seq + 1 := rfl
@[simp] theorem addMove_mem (s : State) (m : Transfer) : (addMove s m).mem = s.mem := rfl
@[simp] theorem addMove_poison (s : State) (m : Transfer) : (addMove s m).poison = s.poison := rfl
@[simp] theorem addMove_sealed (s : State) (m : Transfer) : (addMove s m).sealed = s.sealed := rfl
@[simp] theorem addMove_banks (s : State) (m : Transfer) : (addMove s m).banks = s.banks := rfl
@[simp] theorem addMove_regs (s : State) (m : Transfer) : (addMove s m).regs = s.regs := rfl
@[simp] theorem addMove_scratch (s : State) (m : Transfer) : (addMove s m).scratch = s.scratch := rfl
@[simp] theorem addMove_scErr (s : State) (m : Transfer) : (addMove s m).scErr = s.scErr := rfl
@[simp] theorem addMove_tiles (s : State) (m : Transfer) : (addMove s m).tiles = s.tiles := rfl
@[simp] theorem addMove_tileErr (s : State) (m : Transfer) : (addMove s m).tileErr = s.tileErr := rfl
@[simp] theorem addMove_owners (s : State) (m : Transfer) : (addMove s m).owners = s.owners := rfl
@[simp] theorem addMove_restore (s : State) (m : Transfer) : (addMove s m).restore = s.restore := rfl
@[simp] theorem addMove_lanes (s : State) (m : Transfer) : (addMove s m).lanes = s.lanes := rfl
@[simp] theorem addMove_streams (s : State) (m : Transfer) : (addMove s m).streams = s.streams := rfl
@[simp] theorem addMove_groups (s : State) (m : Transfer) : (addMove s m).groups = s.groups := rfl
@[simp] theorem addMove_teams (s : State) (m : Transfer) : (addMove s m).teams = s.teams := rfl
@[simp] theorem addMove_clusters (s : State) (m : Transfer) : (addMove s m).clusters = s.clusters := rfl
@[simp] theorem addMove_harts (s : State) (m : Transfer) : (addMove s m).harts = s.harts := rfl
@[simp] theorem addMove_meets (s : State) (m : Transfer) : (addMove s m).meets = s.meets := rfl
@[simp] theorem addMove_moves (s : State) (m : Transfer) : (addMove s m).moves = put s.moves s.seq m := rfl
@[simp] theorem addMove_pkg (s : State) (m : Transfer) : (addMove s m).pkg = s.pkg := rfl
@[simp] theorem addMove_fab (s : State) (m : Transfer) : (addMove s m).fab = s.fab := rfl
@[simp] theorem addMove_host (s : State) (m : Transfer) : (addMove s m).host = s.host := rfl
@[simp] theorem addMove_sched (s : State) (m : Transfer) : (addMove s m).sched = s.sched := rfl
@[simp] theorem addMove_ctl (s : State) (m : Transfer) : (addMove s m).ctl = s.ctl := rfl

end Sys2Proof.Machine
end

