-- ==== Sys2Proof/Laws/Issue.lean ====
section
/-!
SUPPORT. The issue of an instruction word: what stands before an effect, what an ALU result and a long-latency result write,
and from these one lemma for each shape of instruction.
-/

namespace Sys2Proof.Machine

open Sys2Proof

/-! ### Contexts -/

theorem ctxOf_eq_some {s : State} {sid : Nat} {c : Ctx} :
    ctxOf s sid = some c ↔ c.sid = sid ∧ find? s.streams sid = some c.st ∧ find? s.teams c.st.team = some c.team ∧
      find? s.groups c.st.group = some c.grp := by
  unfold ctxOf
  cases h : find? s.streams sid with
  | none => simp
  | some st =>
    cases h1 : find? s.teams st.team with
    | none =>
      simp [h1]
      rintro - rfl h; simp [h] at h1
    | some tm =>
      cases h2 : find? s.groups st.group with
      | none =>
        simp [h1, h2]
        rintro - rfl - h; simp [h] at h2
      | some g =>
        simp only [h1, h2, Option.some.injEq]
        constructor
        · rintro rfl; exact ⟨rfl, rfl, h1, h2⟩
        · rintro ⟨rfl, rfl, h3, h4⟩
          rw [h1] at h3; rw [h2] at h4
          cases c; simp_all

/-- Lane indices of a context's lanes are below 16. -/
theorem lanesIn_lt {g : Group} {m : BitVec 16} {e : Nat × Nat} (h : e ∈ lanesIn g m) : e.1 < 16 := by
  simp only [lanesIn, List.mem_map, onesOf, List.mem_filter, List.mem_range] at h
  obtain ⟨l, ⟨h1, -⟩, rfl⟩ := h
  exact h1

/-- The lanes of a mask stand in ascending order of their index. -/
theorem lanesIn_rising (g : Group) (m : BitVec 16) : (lanesIn g m).Pairwise (fun a b => a.1 < b.1) := by
  simp only [lanesIn, List.pairwise_map, onesOf]
  exact (List.pairwise_lt_range (n := 16)).sublist List.filter_sublist

theorem lanes_inj {g : Group} {m : BitVec 16} {e e' : Nat × Nat} (h : e ∈ lanesIn g m) (h' : e' ∈ lanesIn g m) (heq : e.1 = e'.1) :
    e = e' := by
  simp only [lanesIn, List.mem_map] at h h'
  obtain ⟨l, -, rfl⟩ := h
  obtain ⟨l', -, rfl⟩ := h'
  simp only at heq
  subst heq; rfl

/-! ### Before an effect -/

/-- What the charge of an issue may change: the team's ib and grace, and a timer. -/
structure ChargeOnly (s t : State) (k : Nat) : Prop where
  rest  : t = { s with teams := t.teams, timers := t.timers }
  teams : ∀ j, j ≠ k → find? t.teams j = find? s.teams j
  team  : ∀ tm, find? s.teams k = some tm → ∃ tm', find? t.teams k = some tm' ∧ { tm' with ib := tm.ib, pend := tm.pend } = tm

theorem ChargeOnly.refl (s : State) (k : Nat) : ChargeOnly s s k := ⟨rfl, fun _ _ => rfl, fun tm h => ⟨tm, h, rfl⟩⟩

theorem modTeam_chargeOnly {s : State} {k : Nat} {f : Team → Team} (hf : ∀ x, { f x with ib := x.ib, pend := x.pend } = x) :
    ChargeOnly s (modTeam s k f) k := by
  refine ⟨rfl, fun j h => ?_, fun tm h => ?_⟩
  · simp [find?_upd_ne _ _ h]
  · exact ⟨f tm, by simp [h], hf tm⟩

theorem ChargeOnly.trans {s t u : State} {k : Nat} (h : ChargeOnly s t k) (g : ChargeOnly t u k) : ChargeOnly s u k := by
  refine ⟨?_, fun j hj => (g.teams j hj).trans (h.teams j hj), fun tm ht => ?_⟩
  · rw [g.rest, h.rest]
  · obtain ⟨tm1, h1, e1⟩ := h.team tm ht
    obtain ⟨tm2, h2, e2⟩ := g.team tm1 h1
    refine ⟨tm2, h2, ?_⟩
    rw [← e1, ← e2]

theorem pushTimer_chargeOnly (s : State) (dt : Nat) (e : Instr) (k : Nat) : ChargeOnly s (pushTimer s dt e) k :=
  ⟨rfl, fun _ _ => rfl, fun tm h => ⟨tm, h, rfl⟩⟩

theorem pendYield_chargeOnly (s : State) (k cause n : Nat) : ChargeOnly s (pendYield s k cause n) k := by
  unfold pendYield
  split
  · exact .refl _ _
  · split
    · split
      · exact modTeam_chargeOnly (fun _ => rfl)
      · exact .refl _ _
    · exact ChargeOnly.trans (t := modTeam s k _) (modTeam_chargeOnly (by intro x; rfl)) (pushTimer_chargeOnly _ _ _ _)

theorem chargeIb_chargeOnly (s : State) (k n : Nat) : ChargeOnly s (chargeIb s k n) k := by
  unfold chargeIb
  split
  · exact .refl _ _
  · split
    · exact .refl _ _
    · split
      · exact modTeam_chargeOnly (fun _ => rfl)
      · dsimp only
        split
        · exact ChargeOnly.trans (t := modTeam s k _) (modTeam_chargeOnly (by intro x; rfl)) (pendYield_chargeOnly _ _ _ _)
        · exact modTeam_chargeOnly (fun _ => rfl)

theorem chargeOnce_chargeOnly (s : State) (c : Ctx) (n : Nat) : ChargeOnly s (chargeOnce s c n) c.st.team := by
  unfold chargeOnce chargeIssue
  split
  · exact .refl _ _
  · split
    · exact .refl _ _
    · exact chargeIb_chargeOnly _ _ _

theorem chargeIssue_chargeOnly (s : State) (c : Ctx) (n : Nat) : ChargeOnly s (chargeIssue s c n) c.st.team := by
  unfold chargeIssue
  split
  · exact .refl _ _
  · exact chargeIb_chargeOnly _ _ _

/-- A column of queues from which the entries of some lanes left. -/
theorem look_pops (ls : List (Nat × Nat)) (q : Nat) (hn : ls.Pairwise (fun a b => a.1 < b.1)) (hl : ∀ e ∈ ls, e.1 < 16) :
    ∀ (m : SMap (List Word)) (p l : Nat), l < 16 →
      look [] (ls.foldl (fun m e => keep [] m (16 * q + e.1) ((look [] m (16 * q + e.1)).drop 1)) m) (16 * p + l)
        = if p = q ∧ l ∈ ls.map Prod.fst then (look [] m (16 * p + l)).drop 1 else look [] m (16 * p + l) := by
  induction ls with
  | nil => intro m p l _; simp
  | cons e r ih =>
    intro m p l h16
    rw [List.pairwise_cons] at hn
    have he : e.1 < 16 := hl e (by simp)
    rw [List.foldl_cons, ih hn.2 (fun x hx => hl x (List.mem_cons_of_mem _ hx)) _ _ _ h16, look_keep_of]
    by_cases hp : p = q
    · subst hp
      by_cases h1 : l = e.1
      · subst h1
        have : e.1 ∉ r.map Prod.fst := by
          intro hm
          obtain ⟨x, hx, h2⟩ := List.mem_map.1 hm
          have := hn.1 x hx
          omega
        simp [this]
      · have h2 : ¬ (16 * p + l = 16 * p + e.1) := by omega
        simp only [h1, h2, if_false, List.map_cons, List.mem_cons, false_or]
    · have h2 : ¬ (16 * p + l = 16 * q + e.1) := by omega
      simp [hp, h2]

/-- The places of a column in the scratchpad move with its pops. -/
theorem queueWord_pops (ls : List (Nat × Nat)) (q : Nat) : ∀ (m : SMap Nat) (k : Nat), ∃ n,
    look 0 (ls.foldl (fun m e => keep 0 m (16 * q + e.1) (look 0 m (16 * q + e.1) + 1)) m) k = look 0 m k + n := by
  induction ls with
  | nil => intro m k; exact ⟨0, rfl⟩
  | cons e r ih =>
    intro m k
    obtain ⟨n, hn⟩ := ih (keep 0 m (16 * q + e.1) (look 0 m (16 * q + e.1) + 1)) k
    rw [List.foldl_cons, hn, look_keep_of]
    split
    · rename_i h; exact ⟨1 + n, by rw [h]; omega⟩
    · exact ⟨n, rfl⟩

/-- What a team is after its active lanes have popped a queue. -/
def poppedTeam (c : Ctx) (s : State) (q : Nat) (tm : Team) : Team :=
  { popColumns c q tm with
    doomed := if popBad s c q then (match tm.doomed with | some d => some d | none => some (0x02, 0)) else tm.doomed }

theorem popQueue_spec {c : Ctx} {s : State} {tm : Team} (q : Nat) (h : find? s.teams c.st.team = some tm) :
    popQueue c s q = { s with teams := (popQueue c s q).teams } ∧
      (∀ k, k ≠ c.st.team → find? (popQueue c s q).teams k = find? s.teams k) ∧
      find? (popQueue c s q).teams c.st.team = some (poppedTeam c s q tm) := by
  unfold popQueue poppedTeam
  dsimp only
  split
  · refine ⟨rfl, fun k hk => ?_, ?_⟩
    · simp [doom, find?_upd_ne _ _ hk]
    · simp only [doom, modTeam_teams, find?_upd_self, h]; rfl
  · refine ⟨rfl, fun k hk => ?_, ?_⟩
    · simp [find?_upd_ne _ _ hk]
    · simp only [modTeam_teams, find?_upd_self, h]; rfl

theorem popBad_sound {c : Ctx} {s : State} {tm : Team} (q : Nat) (h : find? s.teams c.st.team = some tm)
    (g : ∀ q l j, queueWord tm q l j ∉ s.scErr) : popBad s c q = false := by
  unfold popBad
  rw [h]
  simp only [List.any_eq_false]
  intro e _
  simpa using g q e.1 0

theorem popQueues_spec (c : Ctx) (qs : List Nat) : ∀ (s : State) (tm : Team), find? s.teams c.st.team = some tm →
    let t := qs.foldl (popQueue c) s
    t = { s with teams := t.teams } ∧ (∀ k, k ≠ c.st.team → find? t.teams k = find? s.teams k) ∧
      ∃ tm', find? t.teams c.st.team = some tm' ∧ { tm' with queues := tm.queues, popped := tm.popped, doomed := tm.doomed } = tm ∧
        (∀ q l, l < 16 → column tm' q l = if l ∈ c.lanes.map Prod.fst then
          (column tm q l).drop ((qs.filter (fun n => decide (n = q))).length) else column tm q l) ∧
        ((∀ q l j, queueWord tm q l j ∉ s.scErr) → tm'.doomed = tm.doomed) := by
  induction qs with
  | nil => intro s tm h; exact ⟨rfl, fun _ _ => rfl, tm, h, rfl, fun q l _ => by simp, fun _ => rfl⟩
  | cons q r ih =>
    intro s tm h
    obtain ⟨b1, b2, b3⟩ := popQueue_spec q h
    obtain ⟨a1, a2, tm', a3, a4, a5, a6⟩ := ih _ _ b3
    have bs : (popQueue c s q).scErr = s.scErr := by rw [b1]
    refine ⟨?_, ?_, tm', a3, ?_, ?_, ?_⟩
    · rw [List.foldl_cons]
      obtain ⟨x, hx⟩ : ∃ x, popQueue c s q = { s with teams := x } := ⟨_, b1⟩
      rw [hx] at a1 ⊢
      exact a1
    · intro k hk
      rw [List.foldl_cons, a2 k hk, b2 k hk]
    · exact congrArg (fun x : Team => { x with queues := tm.queues, popped := tm.popped, doomed := tm.doomed }) a4
    · intro p l hl
      rw [a5 p l hl]
      simp only [column, poppedTeam, popColumns]
      rw [look_pops c.lanes q (lanesIn_rising _ _) (fun e he => lanesIn_lt he) _ _ _ hl]
      by_cases hm : l ∈ c.lanes.map Prod.fst
      · by_cases hp : p = q
        · subst hp
          simp only [hm, and_self, if_true, List.filter_cons, decide_true, List.length_cons, List.drop_drop]
          congr 1; omega
        · have : ¬ q = p := fun x => hp x.symm
          simp [hm, hp, this]
      · simp [hm]
    · intro g
      have hb : popBad s c q = false := popBad_sound q h g
      have hd : (poppedTeam c s q tm).doomed = tm.doomed := by unfold poppedTeam; simp [hb]
      rw [a6 ?_, hd]
      intro p l j
      rw [bs]
      obtain ⟨n, hn⟩ := queueWord_pops c.lanes q tm.popped (16 * p + l)
      have : queueWord (poppedTeam c s q tm) p l j = queueWord tm p l (n + j) := by
        unfold queueWord poppedTeam popColumns
        dsimp only
        rw [hn, Nat.add_assoc (look 0 tm.popped (16 * p + l)) n j]; rfl
      rw [this]
      exact g _ _ _

theorem rest_trans {s w u v : State} (h : w = { s with teams := w.teams, timers := w.timers })
    (g : u = { w with teams := u.teams }) (k : v = { u with streams := v.streams }) :
    v = { s with streams := v.streams, teams := v.teams, timers := v.timers } ∧ u.streams = s.streams ∧ u.groups = s.groups := by
  obtain ⟨a, b, rfl⟩ : ∃ a b, w = { s with teams := a, timers := b } := ⟨_, _, h⟩
  obtain ⟨x, rfl⟩ : ∃ x, u = { s with teams := x, timers := b } := ⟨_, g⟩
  obtain ⟨y, rfl⟩ : ∃ y, v = { s with teams := x, timers := b, streams := y } := ⟨_, k⟩
  exact ⟨rfl, rfl, rfl⟩

theorem team_trans {x y z : Team} (h : { y with ib := x.ib, pend := x.pend } = x) (g : { z with queues := y.queues, popped := y.popped, doomed := y.doomed } = y) :
    { z with ib := x.ib, pend := x.pend, queues := x.queues, popped := x.popped, doomed := x.doomed } = x ∧ y.queues = x.queues ∧ y.doomed = x.doomed ∧
      ∀ q l j, queueWord y q l j = queueWord x q l j := by
  obtain ⟨a, b, rfl⟩ : ∃ a b, y = { x with ib := a, pend := b } :=
    ⟨_, _, congrArg (fun t : Team => { t with ib := y.ib, pend := y.pend }) h⟩
  obtain ⟨q, p, d, rfl⟩ : ∃ q p d, z = { x with ib := a, pend := b, queues := q, popped := p, doomed := d } :=
    ⟨_, _, _, congrArg (fun t : Team => { t with queues := z.queues, popped := z.popped, doomed := z.doomed }) g⟩
  exact ⟨rfl, rfl, rfl, fun _ _ _ => rfl⟩

/-- What stands before the effect of an instruction that issues. -/
theorem beforeEffect_spec {s : State} {c : Ctx} (h : ctxOf s c.sid = some c) (o : Operands) (n : Nat) :
    ∃ c', Before s (beforeEffect s c o n) c c' o := by
  obtain ⟨-, hs, ht, hg⟩ := ctxOf_eq_some.1 h
  have ch := chargeOnce_chargeOnly s c n
  obtain ⟨tm1, h1, e1⟩ := ch.team _ ht
  obtain ⟨a1, a2, tm2, a3, a4, a5, a6⟩ := popQueues_spec c (popsOf o) (chargeOnce s c n) tm1 h1
  replace a1 : popQueues (chargeOnce s c n) c o =
      { chargeOnce s c n with teams := (popQueues (chargeOnce s c n) c o).teams } := a1
  replace a2 : ∀ k, k ≠ c.st.team → find? (popQueues (chargeOnce s c n) c o).teams k = find? (chargeOnce s c n).teams k := a2
  replace a3 : find? (popQueues (chargeOnce s c n) c o).teams c.st.team = some tm2 := a3
  have ce : (chargeOnce s c n).scErr = s.scErr := by rw [ch.rest]
  have rr := rest_trans ch.rest a1 (v := beforeEffect s c o n) rfl
  have es := rr.2.1
  have eg := rr.2.2
  let st' : Stream := { c.st with
    lowRun := countLow c c.st
    haltIn := c.st.haltIn.map (· - 1)
    skid := if c.st.haltIn.isSome then c.st.skid + 1 else c.st.skid
    noJoin := false
    paid := none }
  refine ⟨{ sid := c.sid, st := st', team := tm2, grp := c.grp }, ?_⟩
  refine ⟨?_, ?_, ?_, ?_, rfl, rfl, rfl, ?_, ?_, ?_⟩
  · exact rr.1
  · intro k hk
    simp only [beforeEffect, countIssue, modStream_streams, find?_upd_ne _ _ hk, es]
  · intro k hk
    simp only [beforeEffect, countIssue, modStream_teams]
    rw [a2 k hk, ch.teams k hk]
  · rw [ctxOf_eq_some]
    refine ⟨rfl, ?_, ?_, ?_⟩
    · simp only [beforeEffect, countIssue, modStream_streams, find?_upd_self, es, hs]; rfl
    · simpa only [beforeEffect, countIssue, modStream_teams] using a3
    · simpa only [beforeEffect, countIssue, modStream_groups, eg] using hg
  · exact (team_trans e1 a4).1
  · intro g
    rw [a6 (fun q l j => by rw [ce, (team_trans e1 a4).2.2.2 q l j]; exact g q l j)]
    exact (team_trans e1 a4).2.2.1
  · intro q l hl
    have e2 := (team_trans e1 a4).2.1
    have := a5 q l hl
    simpa only [popCountOf, column, e2] using this

/-! ### The effect -/

/-- What the results of an instruction that only computes may change, against the state and the context of its effect. -/
structure Effected (b u : State) (c : Ctx) (d : Option RegName) (flags : Bool) : Prop where
  rest   : u = { b with regs := u.regs, streams := u.streams, teams := u.teams, seq := u.seq, scErr := u.scErr }
  errors : ∀ e ∈ u.scErr, e ∈ b.scErr
  clears : (∀ n, d ≠ some (.q n)) → u.scErr = b.scErr
  others : ∀ k, k ≠ c.sid → find? u.streams k = find? b.streams k
  stream : ∃ st, find? u.streams c.sid = some st ∧ { st with k := c.st.k, fcsr := c.st.fcsr, pend := c.st.pend } = c.st ∧
    (flags = false → st.fcsr = c.st.fcsr) ∧ (∀ n : Nat, (∀ m, d = some (.k m) → m.val ≠ n) → look 0 st.k n = look 0 c.st.k n)
  regs   : ∀ p, (∀ n, d = some (.x n) → ∀ e ∈ c.lanes, regPlace b c.st e.2 n.val ≠ p) → look 0 u.regs p = look 0 b.regs p
  teams  : ∀ k, k ≠ c.st.team → find? u.teams k = find? b.teams k
  team   : ∃ tm, find? u.teams c.st.team = some tm ∧ { tm with queues := c.team.queues } = c.team

theorem Effected.refl {b : State} {c : Ctx} (h : ctxOf b c.sid = some c) (d : Option RegName) : Effected b b c d false := by
  obtain ⟨-, hs, ht, -⟩ := ctxOf_eq_some.1 h
  exact ⟨rfl, fun _ h => h, fun _ => rfl, fun _ _ => rfl, ⟨_, hs, rfl, fun _ => rfl, fun _ _ => rfl⟩, fun _ _ => rfl, fun _ _ => rfl, ⟨_, ht, rfl⟩⟩

theorem Effected.lanes_eq {b u : State} {c : Ctx} {d : Option RegName} {fl : Bool} (h : Effected b u c d fl) : u.lanes = b.lanes := by
  have := congrArg State.lanes h.rest
  exact this

theorem Effected.place {b u : State} {c : Ctx} {d : Option RegName} {fl : Bool} (h : Effected b u c d fl) (pos n : Nat) :
    regPlace u c.st pos n = regPlace b c.st pos n := by
  simp only [regPlace, laneOf, h.lanes_eq]

/-- A change of the issuing stream's uniform registers, flags and outstanding results. -/
theorem Effected.modStream {b u : State} {c : Ctx} {d : Option RegName} {fl gl : Bool} (h : Effected b u c d fl)
    (f : Stream → Stream) (hf : ∀ x : Stream, { f x with k := x.k, fcsr := x.fcsr, pend := x.pend } = x)
    (hg : gl = false → fl = false ∧ ∀ x, (f x).fcsr = x.fcsr)
    (hk : ∀ x, ∀ n : Nat, (∀ m, d = some (.k m) → m.val ≠ n) → look 0 (f x).k n = look 0 x.k n) :
    Effected b (modStream u c.sid f) c d gl := by
  obtain ⟨st, h1, h2, h3, h4⟩ := h.stream
  refine ⟨?_, h.errors, h.clears, fun k hk => ?_, ⟨f st, ?_, ?_, ?_, ?_⟩, h.regs, h.teams, h.team⟩
  · obtain ⟨a1, a2, a3, a4, a5, rfl⟩ : ∃ a1 a2 a3 a4 a5, u = { b with regs := a1, streams := a2, teams := a3, seq := a4, scErr := a5 } :=
      ⟨u.regs, u.streams, u.teams, u.seq, u.scErr, h.rest⟩
    rfl
  · simp [find?_upd_ne _ _ hk, h.others k hk]
  · simp [h1]
  · have e := hf st
    have : ({ f st with k := c.st.k, fcsr := c.st.fcsr, pend := c.st.pend } : Stream) =
        { st with k := c.st.k, fcsr := c.st.fcsr, pend := c.st.pend } :=
      congrArg (fun x : Stream => { x with k := c.st.k, fcsr := c.st.fcsr, pend := c.st.pend }) e
    exact this.trans h2
  · intro hz
    rw [(hg hz).2, h3 (hg hz).1]
  · intro n hn
    rw [hk st n hn, h4 n hn]

theorem Effected.setRegs {b u : State} {c : Ctx} {d : Option RegName} {fl : Bool} (h : Effected b u c d fl) (m : SMap Word)
    (hm : ∀ p, (∀ n, d = some (.x n) → ∀ e ∈ c.lanes, regPlace b c.st e.2 n.val ≠ p) → look 0 m p = look 0 u.regs p) :
    Effected b { u with regs := m } c d fl := by
  refine ⟨?_, h.errors, h.clears, h.others, h.stream, fun p hp => (hm p hp).trans (h.regs p hp), h.teams, h.team⟩
  obtain ⟨a1, a2, a3, a4, a5, rfl⟩ : ∃ a1 a2 a3 a4 a5, u = { b with regs := a1, streams := a2, teams := a3, seq := a4, scErr := a5 } :=
    ⟨_, _, _, _, _, h.rest⟩
  rfl

theorem Effected.setSeq {b u : State} {c : Ctx} {d : Option RegName} {fl : Bool} (h : Effected b u c d fl) (n : Nat) :
    Effected b { u with seq := n } c d fl := by
  refine ⟨?_, h.errors, h.clears, h.others, h.stream, h.regs, h.teams, h.team⟩
  obtain ⟨a1, a2, a3, a4, a5, rfl⟩ : ∃ a1 a2 a3 a4 a5, u = { b with regs := a1, streams := a2, teams := a3, seq := a4, scErr := a5 } :=
    ⟨_, _, _, _, _, h.rest⟩
  rfl

theorem Effected.push {b u : State} {c : Ctx} {n : Fin 8} {fl : Bool} (h : Effected b u c (some (.q n)) fl) (q l : Nat) (v : Word) :
    Effected b (pushColumn u c.st.team q l v) c (some (.q n)) fl := by
  obtain ⟨tm, h1, h2⟩ := h.team
  refine ⟨?_, fun e he => h.errors e ?_, fun hn => absurd rfl (hn n), h.others, h.stream, h.regs, fun k hk => ?_,
    ⟨{ tm with queues := keep [] tm.queues (16 * q + l) (column tm q l ++ [v]) }, ?_, h2⟩⟩
  · obtain ⟨a1, a2, a3, a4, a5, rfl⟩ : ∃ a1 a2 a3 a4 a5, u = { b with regs := a1, streams := a2, teams := a3, seq := a4, scErr := a5 } :=
      ⟨_, _, _, _, _, h.rest⟩
    rfl
  · unfold pushColumn at he
    dsimp only at he
    split at he
    · exact (List.mem_filter.1 he).1
    · exact he
  · simp [pushColumn, find?_upd_ne _ _ hk, h.teams k hk]
  · simp [pushColumn, h1]

theorem Effected.writeLane {b u : State} {c : Ctx} {d : RegName} {fl : Bool} (h : Effected b u c (some d) fl) {ln pos : Nat}
    (he : (ln, pos) ∈ c.lanes) (v : Word) : Effected b (writeLane u c ln pos d v) c (some d) fl := by
  cases d with
  | x n =>
    refine (h.modStream (fun st => { st with pend := overtake (.reg (regPlace u c.st pos n.val)) st.pend }) (fun _ => rfl)
      (fun hz => ⟨hz, fun _ => rfl⟩) (fun _ _ _ => rfl)).setRegs _ (fun p hp => ?_)
    refine look_keep_ne _ _ _ (fun hq => hp n rfl _ he ?_)
    rw [← h.place]; exact hq.symm
  | k n =>
    unfold Machine.writeLane
    dsimp only
    split
    · refine (h.modStream (fun st => { st with pend := overtake (.k n.val) st.pend }) (fun _ => rfl)
        (fun hz => ⟨hz, fun _ => rfl⟩) (fun _ _ _ => rfl)).modStream (fun st => { st with k := keep 0 st.k n.val v }) (fun _ => rfl)
        (fun hz => ⟨hz, fun _ => rfl⟩) (fun x m hm => ?_)
      exact look_keep_ne _ _ _ (fun hq => hm n rfl hq.symm)
    · exact h
  | q n => exact h.push _ _ _
  | zr => exact h
  | ln => exact h
  | gi => exact h
  | ti => exact h
  | ib => exact h
  | tb => exact h
  | cy => exact h

theorem Effected.writeLanes {b : State} {c : Ctx} {d : RegName} {fl : Bool} : ∀ (vs : List (Nat × Nat × Word)) {u : State}
    (_ : Effected b u c (some d) fl) (_ : ∀ v ∈ vs, (v.1, v.2.1) ∈ c.lanes), Effected b (writeLanes u c d vs) c (some d) fl
  | [], _, h, _ => h
  | v :: r, _, h, hv => Effected.writeLanes r (h.writeLane (hv v (by simp)) v.2.2) (fun x hx => hv x (List.mem_cons_of_mem _ hx))

theorem Effected.issueResult {b u : State} {c : Ctx} {d : Option RegName} {fl : Bool} (h : Effected b u c d fl) (pos : Nat)
    (ws : List (Dest × Word)) (a : Await) : Effected b (issueResult u c pos ws a) c d fl :=
  (h.modStream (fun st => { st with
    pend := ws.foldl (fun l w => overtake w.1 l) st.pend ++
      [{ seq := u.seq, lane := pos, writes := ws, await := a, pc := c.st.pc }] }) (fun _ => rfl)
    (fun hz => ⟨hz, fun _ => rfl⟩) (fun _ _ _ => rfl)).setSeq _

theorem Effected.writeLaters {b : State} {c : Ctx} {d : RegName} {fl : Bool} : ∀ (vs : List (Nat × Nat × Word)) {u : State}
    (_ : Effected b u c (some d) fl), Effected b (writeLaters u c d vs) c (some d) fl
  | [], _, h => h
  | _ :: r, _, h => Effected.writeLaters r (h.issueResult _ _ _)

theorem Effected.flags {b u : State} {c : Ctx} {d : Option RegName} {fl : Bool} (h : Effected b u c d fl) (n : Nat) :
    Effected b (raiseFlags u c.sid n) c d true :=
  h.modStream (fun st => { st with fcsr := st.fcsr ||| BitVec.ofNat 8 (n % 32) }) (fun _ => rfl) (by intro hz; cases hz)
    (fun _ _ _ => rfl)

/-! ### Where results stand -/

theorem writeLane_regs_of_ne {u : State} {c : Ctx} {d : RegName} {ln pos p : Nat} {v : Word}
    (h : ∀ n, d = .x n → regPlace u c.st pos n.val ≠ p) : look 0 (writeLane u c ln pos d v).regs p = look 0 u.regs p := by
  cases d with
  | x n => exact look_keep_ne _ _ _ (fun hq => h n rfl hq.symm)
  | k n => unfold writeLane; dsimp only; split <;> rfl
  | q n => rfl
  | zr => rfl
  | ln => rfl
  | gi => rfl
  | ti => rfl
  | ib => rfl
  | tb => rfl
  | cy => rfl

theorem writeLanes_regs_of_ne {b : State} {c : Ctx} {d : RegName} {fl : Bool} {p : Nat} : ∀ (vs : List (Nat × Nat × Word)) {u : State}
    (_ : Effected b u c (some d) fl) (_ : ∀ v ∈ vs, (v.1, v.2.1) ∈ c.lanes)
    (_ : ∀ n, d = .x n → ∀ v ∈ vs, regPlace b c.st v.2.1 n.val ≠ p), look 0 (writeLanes u c d vs).regs p = look 0 u.regs p
  | [], _, _, _, _ => rfl
  | v :: r, u, h, hv, hp => by
    refine (writeLanes_regs_of_ne r (h.writeLane (hv v (by simp)) v.2.2) (fun x hx => hv x (List.mem_cons_of_mem _ hx))
      (fun n hn x hx => hp n hn x (List.mem_cons_of_mem _ hx))).trans (writeLane_regs_of_ne (fun n hn => ?_))
    rw [h.place]; exact hp n hn v (by simp)

/-- The value in a lane's windowed register when no other lane's stands at its place. -/
theorem writeLanes_reg {b : State} {c : Ctx} {n : Fin 96} {fl : Bool} {ln pos : Nat} {w : Word} :
    ∀ (vs : List (Nat × Nat × Word)) {u : State} (_ : Effected b u c (some (.x n)) fl) (_ : ∀ v ∈ vs, (v.1, v.2.1) ∈ c.lanes)
      (_ : vs.Pairwise (fun x y => x.1 < y.1)) (_ : (ln, pos, w) ∈ vs)
      (_ : ∀ v ∈ vs, v.1 ≠ ln → regPlace b c.st v.2.1 n.val ≠ regPlace b c.st pos n.val),
      look 0 (writeLanes u c (.x n) vs).regs (regPlace b c.st pos n.val) = w := by
  intro vs
  induction vs with
  | nil => intro u _ _ _ hm; exact absurd hm (by simp)
  | cons v r ih =>
    intro u h hv hn hm ho
    rw [List.pairwise_cons] at hn
    have h1 := h.writeLane (hv v (by simp)) v.2.2
    rcases List.mem_cons.1 hm with rfl | hm
    · refine (writeLanes_regs_of_ne r h1 (fun x hx => hv x (List.mem_cons_of_mem _ hx)) (fun m hm' x hx => ?_)).trans ?_
      · cases hm'
        have := hn.1 x hx
        exact ho x (List.mem_cons_of_mem _ hx) (by simp only at this; omega)
      · rw [← h.place]; exact look_keep 0 _ _ _
    · exact ih h1 (fun x hx => hv x (List.mem_cons_of_mem _ hx)) hn.2 hm
        (fun x hx => ho x (List.mem_cons_of_mem _ hx))

/-- Writing a uniform register from lanes that are not the lowest active one changes nothing. -/
theorem writeLanes_k_rest {c : Ctx} {n : Fin 16} : ∀ (vs : List (Nat × Nat × Word)) (u : State) (_ : ∀ v ∈ vs, v.1 ≠ c.first.1),
    writeLanes u c (.k n) vs = u
  | [], _, _ => rfl
  | v :: r, u, h => by
    have : writeLane u c v.1 v.2.1 (.k n) v.2.2 = u := by
      unfold writeLane; simp [h v (by simp)]
    show writeLanes (writeLane u c v.1 v.2.1 (.k n) v.2.2) c (.k n) r = u
    rw [this]
    exact writeLanes_k_rest r u (fun x hx => h x (List.mem_cons_of_mem _ hx))

/-- The value in a uniform register: that of the lowest active lane. -/
theorem writeLanes_k {b : State} {c : Ctx} {n : Fin 16} {fl : Bool} {ln pos : Nat} {w : Word} :
    ∀ (vs : List (Nat × Nat × Word)) {u : State} (_ : Effected b u c (some (.k n)) fl) (_ : ∀ v ∈ vs, (v.1, v.2.1) ∈ c.lanes)
      (_ : vs.Pairwise (fun x y => x.1 < y.1)) (_ : (ln, pos, w) ∈ vs) (_ : ln = c.first.1),
      ∃ st, find? (writeLanes u c (.k n) vs).streams c.sid = some st ∧ look 0 st.k n.val = w := by
  intro vs
  induction vs with
  | nil => intro u _ _ _ hm; exact absurd hm (by simp)
  | cons v r ih =>
    intro u h hv hn hm hf
    rw [List.pairwise_cons] at hn
    have h1 := h.writeLane (hv v (by simp)) v.2.2
    rcases List.mem_cons.1 hm with rfl | hm
    · show ∃ st, find? (writeLanes (writeLane u c ln pos (.k n) w) c (.k n) r).streams c.sid = some st ∧ _
      rw [writeLanes_k_rest r _ (fun x hx => by have := hn.1 x hx; simp only at this; omega)]
      obtain ⟨st, e1, -⟩ := h.stream
      refine ⟨{ st with pend := overtake (.k n.val) st.pend, k := keep 0 st.k n.val w }, ?_, look_keep 0 _ _ _⟩
      unfold writeLane
      simp [hf, writeDest, e1]
    · exact ih h1 (fun x hx => hv x (List.mem_cons_of_mem _ hx)) hn.2 hm hf

theorem column_pushColumn {u : State} {t q l p m : Nat} {v : Word} {tm : Team} (h : find? u.teams t = some tm) (hl : l < 16) (hm : m < 16) :
    ∃ tm', find? (pushColumn u t q l v).teams t = some tm' ∧
      column tm' p m = if p = q ∧ m = l then column tm p m ++ [v] else column tm p m := by
  refine ⟨_, by simp [pushColumn, h]; rfl, ?_⟩
  simp only [column, look_keep_of]
  by_cases h1 : p = q ∧ m = l
  · obtain ⟨rfl, rfl⟩ := h1; simp
  · have : ¬ (16 * p + m = 16 * q + l) := by omega
    simp [h1, this]

/-- Lanes that do not push leave a column as it is. -/
theorem writeLanes_column_rest {b : State} {c : Ctx} {n : Fin 8} {fl : Bool} {l : Nat} (hl : l < 16) :
    ∀ (vs : List (Nat × Nat × Word)) {u : State} {tm : Team} (_ : Effected b u c (some (.q n)) fl)
      (_ : ∀ v ∈ vs, (v.1, v.2.1) ∈ c.lanes) (_ : ∀ v ∈ vs, v.1 ≠ l) (_ : find? u.teams c.st.team = some tm),
      ∃ tm', find? (writeLanes u c (.q n) vs).teams c.st.team = some tm' ∧ column tm' n.val l = column tm n.val l
  | [], u, tm, _, _, _, ht => ⟨tm, ht, rfl⟩
  | v :: r, u, tm, h, hv, hne, ht => by
    obtain ⟨tm1, e1, e2⟩ := column_pushColumn (q := n.val) (p := n.val) (v := v.2.2) ht (lanesIn_lt (hv v (by simp))) hl
    obtain ⟨tm2, e3, e4⟩ := writeLanes_column_rest hl r (h.writeLane (hv v (by simp)) v.2.2)
      (fun x hx => hv x (List.mem_cons_of_mem _ hx)) (fun x hx => hne x (List.mem_cons_of_mem _ hx)) e1
    refine ⟨tm2, e3, e4.trans (e2.trans ?_)⟩
    have : ¬ (l = v.1) := fun x => hne v (by simp) x.symm
    simp [this]

/-- A lane's value at the tail of its column. -/
theorem writeLanes_column {b : State} {c : Ctx} {n : Fin 8} {fl : Bool} {ln pos : Nat} {w : Word} :
    ∀ (vs : List (Nat × Nat × Word)) {u : State} {tm : Team} (_ : Effected b u c (some (.q n)) fl)
      (_ : ∀ v ∈ vs, (v.1, v.2.1) ∈ c.lanes) (_ : vs.Pairwise (fun x y => x.1 < y.1)) (_ : (ln, pos, w) ∈ vs)
      (_ : find? u.teams c.st.team = some tm),
      ∃ tm', find? (writeLanes u c (.q n) vs).teams c.st.team = some tm' ∧ column tm' n.val ln = column tm n.val ln ++ [w] := by
  intro vs
  induction vs with
  | nil => intro u tm _ _ _ hm; exact absurd hm (by simp)
  | cons v r ih =>
    intro u tm h hv hn hm ht
    rw [List.pairwise_cons] at hn
    have h16 : ln < 16 := lanesIn_lt (hv _ hm)
    have h1 := h.writeLane (hv v (by simp)) v.2.2
    obtain ⟨tm1, e1, e2⟩ := column_pushColumn (q := n.val) (p := n.val) (v := v.2.2) ht (lanesIn_lt (hv v (by simp))) h16
    rcases List.mem_cons.1 hm with rfl | hm
    · obtain ⟨tm2, e3, e4⟩ := writeLanes_column_rest h16 r h1 (fun x hx => hv x (List.mem_cons_of_mem _ hx))
        (fun x hx => by have := hn.1 x hx; simp only at this; omega) e1
      exact ⟨tm2, e3, e4.trans (by simpa using e2)⟩
    · obtain ⟨tm2, e3, e4⟩ := ih h1 (fun x hx => hv x (List.mem_cons_of_mem _ hx)) hn.2 hm e1
      refine ⟨tm2, e3, e4.trans ?_⟩
      have := hn.1 _ hm
      have : ¬ (ln = v.1) := by simp only at this; omega
      rw [e2]; simp [this]

/-! ### Outstanding results -/

theorem resultTo_place {s t : State} {c c' : Ctx} {ln pos : Nat} {d : RegName} {v : Word}
    (hp : ∀ n, regPlace t c'.st pos n = regPlace s c.st pos n) (hf : c'.first = c.first) :
    resultTo t c' ln pos d v = resultTo s c ln pos d v := by
  cases d <;> simp [resultTo, destOf, hp, hf]

theorem mem_overtake {d : Dest} {l : List Pending} {p : Pending} (h : p ∈ l) (hd : ∀ w ∈ p.writes, w.1 ≠ d) : p ∈ overtake d l := by
  refine List.mem_map.2 ⟨p, h, ?_⟩
  have : p.writes.filter (fun w => decide (w.1 ≠ d)) = p.writes := List.filter_eq_self.2 (fun w hw => by simpa using hd w hw)
  simp only [this]

theorem mem_overtakes {p : Pending} : ∀ (ws : List (Dest × Word)) (l : List Pending) (_ : p ∈ l)
    (_ : ∀ x ∈ ws, ∀ w ∈ p.writes, w.1 ≠ x.1), p ∈ ws.foldl (fun l w => overtake w.1 l) l
  | [], _, h, _ => h
  | x :: r, _, h, hd => mem_overtakes r _ (mem_overtake h (hd x (by simp))) (fun y hy => hd y (List.mem_cons_of_mem _ hy))

theorem issueResult_stream {u : State} {c : Ctx} {st : Stream} {pos : Nat} {ws : List (Dest × Word)} {a : Await}
    (h : find? u.streams c.sid = some st) :
    find? (issueResult u c pos ws a).streams c.sid = some { st with
      pend := ws.foldl (fun l w => overtake w.1 l) st.pend ++
        [{ seq := u.seq, lane := pos, writes := ws, await := a, pc := c.st.pc }] } := by
  simp [issueResult, h]

/-- An outstanding result stays when no later write goes to its places. -/
theorem writeLaters_keep {b : State} {c : Ctx} {d : RegName} {p : Pending} : ∀ (vs : List (Nat × Nat × Word)) {u : State} {fl : Bool}
    {st : Stream} (_ : Effected b u c (some d) fl) (_ : find? u.streams c.sid = some st) (_ : p ∈ st.pend)
    (_ : ∀ v ∈ vs, ∀ x ∈ resultTo b c v.1 v.2.1 d v.2.2, ∀ w ∈ p.writes, w.1 ≠ x.1),
    ∃ st', find? (writeLaters u c d vs).streams c.sid = some st' ∧ p ∈ st'.pend
  | [], u, fl, st, _, hs, hp, _ => ⟨st, hs, hp⟩
  | v :: r, u, fl, st, h, hs, hp, hd => by
    refine writeLaters_keep r (h.issueResult v.2.1 _ .nothing) (issueResult_stream hs) ?_ (fun x hx => hd x (List.mem_cons_of_mem _ hx))
    rw [resultTo_place (s := b) (c := c) (fun n => h.place _ n) rfl]
    exact List.mem_append_left _ (mem_overtakes _ _ hp (hd v (by simp)))

/-- Each lane's long-latency result is outstanding after the issue. -/
theorem writeLaters_out {b : State} {c : Ctx} {d : RegName} {ln pos : Nat} {w : Word} :
    ∀ (vs : List (Nat × Nat × Word)) {u : State} {fl : Bool} (_ : Effected b u c (some d) fl) (_ : vs.Pairwise (fun x y => x.1 < y.1))
      (_ : (ln, pos, w) ∈ vs)
      (_ : ∀ n, d = .x n → ∀ v ∈ vs, v.1 ≠ ln → regPlace b c.st v.2.1 n.val ≠ regPlace b c.st pos n.val),
      ∃ st, find? (writeLaters u c d vs).streams c.sid = some st ∧ ∃ p ∈ st.pend, p.lane = pos ∧ p.await = .nothing ∧
        p.writes = resultTo b c ln pos d w := by
  intro vs
  induction vs with
  | nil => intro u fl _ _ hm; exact absurd hm (by simp)
  | cons v r ih =>
    intro u fl h hn hm ho
    rw [List.pairwise_cons] at hn
    rcases List.mem_cons.1 hm with rfl | hm
    · obtain ⟨st, hs, -⟩ := h.stream
      have e1 := issueResult_stream (pos := pos) (ws := resultTo u c ln pos d w) (a := .nothing) hs
      obtain ⟨st', e2, e3⟩ := writeLaters_keep (d := d) r (h.issueResult pos (resultTo u c ln pos d w) .nothing) e1
        (List.mem_append_right _ (List.mem_singleton.2 rfl)) (by
          intro x hx y hy z hz
          have hlt := hn.1 x hx
          rw [resultTo_place (s := b) (c := c) (fun n => h.place _ n) rfl] at hz
          cases d with
          | x n =>
            simp only [resultTo, destOf, List.mem_singleton] at hy hz
            subst hy; subst hz
            have := ho n rfl x (List.mem_cons_of_mem _ hx) (by simp only at hlt; omega)
            simp only [ne_eq, Dest.reg.injEq]; exact fun q => this q.symm
          | k n =>
            simp only [resultTo] at hy hz
            split at hy
            · split at hz
              · simp only at hlt; omega
              · cases hz
            · cases hy
          | q n => cases hy
          | zr => cases hy
          | ln => cases hy
          | gi => cases hy
          | ti => cases hy
          | ib => cases hy
          | tb => cases hy
          | cy => cases hy)
      refine ⟨st', e2, _, e3, rfl, rfl, ?_⟩
      exact resultTo_place (s := b) (c := c) (fun n => h.place _ n) rfl
    · exact ih (h.issueResult _ _ _) hn.2 hm (fun n hx x hx' => ho n hx x (List.mem_cons_of_mem _ hx'))

/-! ### Shapes -/

theorem windowed_source_mem {o : Operands} {extra : List Nat} {n : Nat} (h : n ∈ windowed { o with dst := none } []) :
    n ∈ windowed o extra := by
  simp only [windowed, List.mem_filter, List.mem_append, List.not_mem_nil, or_false] at h ⊢
  tauto

theorem windowed_dst_mem {o : Operands} {extra : List Nat} {n : Nat} (h : n ∈ windowed { dst := o.dst } extra) :
    n ∈ windowed o extra := by
  simp only [windowed, List.mem_filter, List.mem_append, List.flatMap_nil, List.not_mem_nil, false_or, or_false] at h ⊢
  tauto

theorem allocFaults_sub {s : State} {c : Ctx} {a b : List Nat} (h : ∀ n ∈ a, n ∈ b) (hb : allocFaults s c b = []) :
    allocFaults s c a = [] := by
  unfold allocFaults at hb ⊢
  generalize (if c.lanes = [] then [c.first] else c.lanes) = ls at hb ⊢
  rw [List.filterMap_eq_nil_iff] at hb ⊢
  intro e he
  have h1 := hb e he
  have h2 : b.find? (fun f => decide (c.st.wbase.toNat + f ≥ (laneOf s e.2).alloc)) = none := by
    generalize b.find? _ = x at h1 ⊢
    cases x with
    | none => rfl
    | some y => cases h1
  have h3 : a.find? (fun f => decide (c.st.wbase.toNat + f ≥ (laneOf s e.2).alloc)) = none := by
    rw [List.find?_eq_none] at h2 ⊢
    exact fun x hx => h2 x (h x hx)
  rw [h3]

theorem Issues.illegalHere {s : State} {c : Ctx} {i : Instr} {maj f : Nat} (h : Issues s c i) (ho : opcode i = some (maj, f)) :
    illegalHere c maj f (operands i) = false := by
  have := h.legal
  simpa only [ho] using this

/-- An instruction word that issues and is ready to act runs its effect between the charge and the advance of the pc. -/
theorem issueWith_go {s : State} {c : Ctx} {i : Instr} {maj f : Nat} {sw : Bool} {o : Operands} {extra : List Nat}
    {plan : State → Ctx → List Vals → Plan} {eff : State → Ctx → State} (h : Issues s c i) (ho : opcode i = some (maj, f))
    (hr : operands i = o) (hx : extraRegs i = extra) (hp : plan s c (c.lanes.map (laneVals s c o)) = .go eff) :
    issueWith s maj f sw o extra plan =
      .next (switchPoint (advance (runEffect (beforeEffect s c o (chargeUnits maj f)) c.sid eff) c.sid) c.sid sw) := by
  subst hr; subst hx
  have a1 : allocFaults s c (windowed { operands i with dst := none } []) = [] :=
    allocFaults_sub (fun n hn => windowed_source_mem hn) h.alloc
  have a2 : allocFaults s c (windowed { dst := (operands i).dst } (extraRegs i)) = [] :=
    allocFaults_sub (fun n hn => windowed_dst_mem hn) h.alloc
  simp [issueWith, h.issuer, h.ctx, issueAt, h.illegalHere ho, a1, a2, h.roles, planFaults, hp]

/-- The same for an effect that sets the pc itself. -/
theorem issueWith_own {s : State} {c : Ctx} {i : Instr} {maj f : Nat} {sw : Bool} {o : Operands} {extra : List Nat}
    {plan : State → Ctx → List Vals → Plan} {eff : State → Ctx → State} (h : Issues s c i) (ho : opcode i = some (maj, f))
    (hr : operands i = o) (hx : extraRegs i = extra) (hp : plan s c (c.lanes.map (laneVals s c o)) = .own eff) :
    issueWith s maj f sw o extra plan =
      .next (switchPoint (runEffect (beforeEffect s c o (chargeUnits maj f)) c.sid eff) c.sid sw) := by
  subst hr; subst hx
  have a1 : allocFaults s c (windowed { operands i with dst := none } []) = [] :=
    allocFaults_sub (fun n hn => windowed_source_mem hn) h.alloc
  have a2 : allocFaults s c (windowed { dst := (operands i).dst } (extraRegs i)) = [] :=
    allocFaults_sub (fun n hn => windowed_dst_mem hn) h.alloc
  simp [issueWith, h.issuer, h.ctx, issueAt, h.illegalHere ho, a1, a2, h.roles, planFaults, hp]

theorem Before.mask {s b : State} {c c' : Ctx} {o : Operands} (h : Before s b c c' o) : c'.st.mask = c.st.mask := by
  rw [← h.stream]

theorem Before.lanes {s b : State} {c c' : Ctx} {o : Operands} (h : Before s b c c' o) : c'.lanes = c.lanes := by
  simp only [Ctx.lanes, h.grp, h.mask]

theorem Before.first {s b : State} {c c' : Ctx} {o : Operands} (h : Before s b c c' o) : c'.first = c.first := by
  have : c'.st.members = c.st.members := by rw [← h.stream]
  simp only [Ctx.first, h.lanes, h.grp, h.sid, this]

theorem Before.place {s b : State} {c c' : Ctx} {o : Operands} (h : Before s b c c' o) (pos n : Nat) :
    regPlace b c'.st pos n = regPlace s c.st pos n := by
  have h1 : c'.st.wbase = c.st.wbase := by rw [← h.stream]
  have h2 : b.lanes = s.lanes := by have := congrArg State.lanes h.rest; exact this
  simp only [regPlace, laneOf, h1, h2]

theorem modStream_state (u : State) (sid : Nat) (f : Stream → Stream) :
    modStream u sid f = { u with streams := (modStream u sid f).streams } := rfl

/-- The end of an issue: the pc advances, and at a switch point the stream may park. -/
theorem endIssue_spec {u : State} {sid : Nat} {st : Stream} {sw : Bool} (h : find? u.streams sid = some st) :
    ∃ p st', switchPoint (advance u sid) sid sw = { u with streams := p } ∧ (∀ k, k ≠ sid → find? p k = find? u.streams k) ∧
      find? p sid = some st' ∧ st'.pc = st.pc + 4 ∧ { st' with pc := st.pc, park := st.park } = st ∧ (sw = false → st'.park = st.park) := by
  let st1 : Stream := { st with pc := st.pc + 4 }
  have h1 : find? (advance u sid).streams sid = some st1 := by simp [advance, h, st1]
  have h2 : ∀ k, k ≠ sid → find? (advance u sid).streams k = find? u.streams k := fun k hk => by simp [advance, find?_upd_ne _ _ hk]
  unfold switchPoint
  cases sw with
  | false => exact ⟨_, st1, rfl, h2, h1, rfl, rfl, fun _ => rfl⟩
  | true =>
    by_cases hq : st.pend ≠ [] ∧ st.park = none
    · refine ⟨_, { st1 with park := some .results }, rfl, fun k hk => ?_, ?_, rfl, rfl, fun hz => by cases hz⟩
      · exact (find?_upd_ne _ _ hk).trans (h2 k hk)
      · rw [find?_upd_self, h1]
        exact congrArg some (if_pos hq)
    · refine ⟨_, st1, rfl, fun k hk => ?_, ?_, rfl, rfl, fun hz => by cases hz⟩
      · exact (find?_upd_ne _ _ hk).trans (h2 k hk)
      · rw [find?_upd_self, h1]
        exact congrArg some (if_neg hq)

/-- From before the charge to after the advance, for an effect that only computes. -/
theorem computes {s b u : State} {c c' : Ctx} {o : Operands} {d : Option RegName} {fl sw : Bool} (hb : Before s b c c' o)
    (hu : Effected b u c' d fl) : OnlyComputes s (switchPoint (advance u c.sid) c.sid sw) c d fl := by
  obtain ⟨st, h1, h2, h3, h4⟩ := hu.stream
  rw [hb.sid] at h1
  obtain ⟨p, st', e1, e2, e3, e4, e5, -⟩ := endIssue_spec (sw := sw) h1
  rw [e1]
  obtain ⟨b1, b2, b3, rfl⟩ : ∃ b1 b2 b3, b = { s with streams := b1, teams := b2, timers := b3 } := ⟨_, _, _, hb.rest⟩
  obtain ⟨a1, a2, a3, a4, a5, rfl⟩ : ∃ a1 a2 a3 a4 a5,
      u = { s with timers := b3, regs := a1, streams := a2, teams := a3, seq := a4, scErr := a5 } := ⟨_, _, _, _, _, hu.rest⟩
  have hteam : c'.st.team = c.st.team := by rw [← hb.stream]
  have kk : c'.st.k = c.st.k := by rw [← hb.stream]
  refine ⟨rfl, hu.errors, hu.clears, fun k hk => ?_, ⟨st', e3, ?_, ?_, ?_, ?_⟩, fun q hq => ?_, fun k hk => ?_, ?_⟩
  · exact (e2 k hk).trans ((hu.others k (hb.sid ▸ hk)).trans (hb.others k hk))
  · have : c'.st.pc = c.st.pc := by rw [← hb.stream]
    have q2 : st.pc = c'.st.pc := by rw [← h2]
    rw [e4, q2, this]
  · have x1 : ({ st' with pc := c.st.pc, k := c.st.k, fcsr := c.st.fcsr, pend := c.st.pend, park := c.st.park, lowRun := c.st.lowRun
                          haltIn := c.st.haltIn, skid := c.st.skid, noJoin := c.st.noJoin, paid := c.st.paid } : Stream) =
        { st with pc := c.st.pc, k := c.st.k, fcsr := c.st.fcsr, pend := c.st.pend, park := c.st.park, lowRun := c.st.lowRun
                  haltIn := c.st.haltIn, skid := c.st.skid, noJoin := c.st.noJoin, paid := c.st.paid } :=
      congrArg (fun x : Stream => { x with pc := c.st.pc, k := c.st.k, fcsr := c.st.fcsr, pend := c.st.pend, park := c.st.park
                                           lowRun := c.st.lowRun, haltIn := c.st.haltIn, skid := c.st.skid, noJoin := c.st.noJoin, paid := c.st.paid }) e5
    have x2 : ({ st with pc := c.st.pc, k := c.st.k, fcsr := c.st.fcsr, pend := c.st.pend, park := c.st.park, lowRun := c.st.lowRun
                         haltIn := c.st.haltIn, skid := c.st.skid, noJoin := c.st.noJoin, paid := c.st.paid } : Stream) =
        { c'.st with pc := c.st.pc, k := c.st.k, fcsr := c.st.fcsr, pend := c.st.pend, park := c.st.park, lowRun := c.st.lowRun
                     haltIn := c.st.haltIn, skid := c.st.skid, noJoin := c.st.noJoin, paid := c.st.paid } :=
      congrArg (fun x : Stream => { x with pc := c.st.pc, k := c.st.k, fcsr := c.st.fcsr, pend := c.st.pend, park := c.st.park
                                           lowRun := c.st.lowRun, haltIn := c.st.haltIn, skid := c.st.skid, noJoin := c.st.noJoin, paid := c.st.paid }) h2
    have x3 : ({ c'.st with pc := c.st.pc, k := c.st.k, fcsr := c.st.fcsr, pend := c.st.pend, park := c.st.park, lowRun := c.st.lowRun
                            haltIn := c.st.haltIn, skid := c.st.skid, noJoin := c.st.noJoin, paid := c.st.paid } : Stream) = c.st :=
      congrArg (fun x : Stream => { x with pc := c.st.pc, k := c.st.k, fcsr := c.st.fcsr, pend := c.st.pend, park := c.st.park }) hb.stream
    exact x1.trans (x2.trans x3)
  · intro hz
    have q1 : st'.fcsr = st.fcsr := by rw [← e5]
    have q3 : c'.st.fcsr = c.st.fcsr := by rw [← hb.stream]
    rw [q1, h3 hz, q3]
  · intro n hn
    have q1 : st'.k = st.k := by rw [← e5]
    rw [q1, h4 n hn, kk]
  · refine hu.regs q (fun n hn e he => ?_)
    rw [hb.place]; exact hq n hn e (hb.lanes ▸ he)
  · exact (hu.teams k (hteam ▸ hk)).trans (hb.teams k hk)
  · obtain ⟨tm, g1, g2⟩ := hu.team
    refine ⟨tm, hteam ▸ g1, ?_, fun q => ?_⟩
    · have x1 : ({ tm with ib := c.team.ib, pend := c.team.pend, queues := c.team.queues, popped := c.team.popped, doomed := c.team.doomed } : Team) =
          { c'.team with ib := c.team.ib, pend := c.team.pend, queues := c.team.queues, popped := c.team.popped, doomed := c.team.doomed } :=
        congrArg (fun x : Team => { x with ib := c.team.ib, pend := c.team.pend, queues := c.team.queues, popped := c.team.popped
                                           doomed := c.team.doomed }) g2
      exact x1.trans hb.team
    · have x2 : tm.doomed = c'.team.doomed := by rw [← g2]
      rw [x2, hb.kept q]

/-- The results list of per-lane values. -/
theorem lanes_results {c : Ctx} {vs : List (Nat × Nat × Word)} {g : Nat × Nat → Word}
    (hv : vs = c.lanes.map (fun e => (e.1, e.2, g e))) :
    (∀ v ∈ vs, (v.1, v.2.1) ∈ c.lanes) ∧ vs.Pairwise (fun x y => x.1 < y.1) ∧ ∀ e ∈ c.lanes, (e.1, e.2, g e) ∈ vs := by
  subst hv
  refine ⟨fun v hv => ?_, ?_, fun e he => List.mem_map_of_mem he⟩
  · obtain ⟨e, he, rfl⟩ := List.mem_map.1 hv; exact he
  · rw [List.pairwise_map]; exact lanesIn_rising _ _

/-- What results of ALU class leave. -/
theorem results_hold {s b u : State} {c c' : Ctx} {i : Instr} {d : RegName} {sw : Bool} {vs : List (Nat × Nat × Word)}
    {g : Nat × Nat → Word} (hb : Before s b c c' (operands i)) (hv : vs = c.lanes.map (fun e => (e.1, e.2, g e)))
    (hr : u.regs = (writeLanes b c' d vs).regs) (ht : u.teams = (writeLanes b c' d vs).teams)
    (hk : ∀ st, find? (writeLanes b c' d vs).streams c.sid = some st → ∃ st', find? u.streams c.sid = some st' ∧ st'.k = st.k) :
    ∀ e ∈ c.lanes, Holds s (switchPoint (advance u c.sid) c.sid sw) c i d e (g e) := by
  intro e he
  obtain ⟨v1, v2, v3⟩ := lanes_results hv
  have hc' : ctxOf b c'.sid = some c' := by rw [hb.sid]; exact hb.ctx
  have e0 := Effected.refl hc' (some d)
  have v1' : ∀ v ∈ vs, (v.1, v.2.1) ∈ c'.lanes := fun v hv => hb.lanes ▸ v1 v hv
  have hregs : (switchPoint (advance u c.sid) c.sid sw).regs = u.regs := by unfold switchPoint; split <;> rfl
  have hteams : (switchPoint (advance u c.sid) c.sid sw).teams = u.teams := by unfold switchPoint; split <;> rfl
  have hteam : c'.st.team = c.st.team := by rw [← hb.stream]
  cases d with
  | x n =>
    intro hown
    rw [hregs, hr, show regPlace s c.st e.2 n.val = regPlace b c'.st e.2 n.val from (hb.place _ _).symm]
    refine writeLanes_reg vs e0 v1' v2 (v3 e he) (fun v hv hne => ?_)
    simp only [hb.place]
    exact hown (v.1, v.2.1) (v1 v hv) (fun h => hne (congrArg Prod.fst h))
  | k n =>
    intro hf
    obtain ⟨st, g1, g2⟩ := writeLanes_k vs e0 v1' v2 (v3 e he) (by rw [hb.first]; exact hf)
    rw [hb.sid] at g1
    obtain ⟨st1, g3, g4⟩ := hk st g1
    obtain ⟨p, st', e1, -, e3, -, e5, -⟩ := endIssue_spec (sw := sw) g3
    refine ⟨st', by rw [e1]; exact e3, ?_⟩
    have q1 : st'.k = st1.k := by rw [← e5]
    rw [q1, g4, g2]
  | q n =>
    obtain ⟨-, -, ht0, -⟩ := ctxOf_eq_some.1 hc'
    obtain ⟨tm', g1, g2⟩ := writeLanes_column vs e0 v1' v2 (v3 e he) ht0
    refine ⟨tm', by rw [hteams, ht, ← hteam]; exact g1, ?_⟩
    rw [g2, hb.columns n.val e.1 (lanesIn_lt he), if_pos (List.mem_map_of_mem he)]
  | zr => trivial
  | ln => trivial
  | gi => trivial
  | ti => trivial
  | ib => trivial
  | tb => trivial
  | cy => trivial

/-- What long-latency results leave. -/
theorem results_out {s b u : State} {c c' : Ctx} {i : Instr} {d : RegName} {sw : Bool} {vs : List (Nat × Nat × Word)}
    {g : Nat × Nat → Word} (hb : Before s b c c' (operands i)) (hv : vs = c.lanes.map (fun e => (e.1, e.2, g e)))
    (hk : ∀ st, find? (writeLaters b c' d vs).streams c.sid = some st → ∃ st', find? u.streams c.sid = some st' ∧ st'.pend = st.pend) :
    ∀ e ∈ c.lanes, Outstanding s (switchPoint (advance u c.sid) c.sid sw) c d e (g e) := by
  intro e he hown
  obtain ⟨v1, v2, v3⟩ := lanes_results hv
  have hc' : ctxOf b c'.sid = some c' := by rw [hb.sid]; exact hb.ctx
  have e0 := Effected.refl hc' (some d)
  obtain ⟨st, g1, p, g2, g3, g4, g5⟩ := writeLaters_out vs e0 v2 (v3 e he) (fun n hn v hv hne => by
    simp only [hb.place]
    exact hown n hn (v.1, v.2.1) (v1 v hv) (fun h => hne (congrArg Prod.fst h)))
  rw [hb.sid] at g1
  obtain ⟨st1, h1, h2⟩ := hk st g1
  obtain ⟨q, st', e1, -, e3, -, e5, -⟩ := endIssue_spec (sw := sw) h1
  have q1 : st'.pend = st1.pend := by rw [← e5]
  refine ⟨st', by rw [e1]; exact e3, p, by rw [q1, h2]; exact g2, g3, g4, ?_⟩
  rw [g5]; exact resultTo_place (fun n => hb.place _ n) hb.first

theorem runEffect_eq {b : State} {sid : Nat} {c : Ctx} {eff : State → Ctx → State} (h : ctxOf b sid = some c) :
    runEffect b sid eff = eff b c := by simp [runEffect, h]

theorem laneVals_ln (s : State) (c : Ctx) (o : Operands) (e : Nat × Nat) : (laneVals s c o e).ln = e.1 := rfl
theorem laneVals_pos (s : State) (c : Ctx) (o : Operands) (e : Nat × Nat) : (laneVals s c o e).pos = e.2 := rfl

theorem map_results (s : State) (c : Ctx) (i : Instr) (fn : Vals → Word) :
    (c.lanes.map (laneVals s c (operands i))).map (fun v => (v.ln, v.pos, fn v)) =
      c.lanes.map (fun e => (e.1, e.2, fn (valsOf s c i e))) := by
  rw [List.map_map]; rfl

/-- An instruction of ALU class answers a state with every active lane's result. -/
theorem issueAlu_spec {s : State} {c : Ctx} {i : Instr} {maj f : Nat} {sw : Bool} {o : Operands} {d : RegName} {fn : Vals → Word}
    (h : Issues s c i) (ho : opcode i = some (maj, f)) (hr : operands i = o) (hx : extraRegs i = []) :
    ∃ t, issueAlu s maj f sw o d fn = .next t ∧ OnlyComputes s t c (some d) false ∧
      ∀ e ∈ c.lanes, Holds s t c i d e (fn (valsOf s c i e)) := by
  subst hr
  obtain ⟨hsid, -, -, -⟩ := ctxOf_eq_some.1 h.ctx
  obtain ⟨c', hb⟩ := beforeEffect_spec h.ctx (operands i) (chargeUnits maj f)
  have hc' : ctxOf (beforeEffect s c (operands i) (chargeUnits maj f)) c'.sid = some c' := by rw [hb.sid]; exact hb.ctx
  refine ⟨_, issueWith_go h ho rfl hx rfl, ?_, ?_⟩
  · rw [runEffect_eq hb.ctx]
    refine computes hb (Effected.writeLanes _ (Effected.refl hc' _) (fun v hv => ?_))
    rw [map_results] at hv
    obtain ⟨e, he, rfl⟩ := List.mem_map.1 hv
    rw [hb.lanes]; exact he
  · rw [runEffect_eq hb.ctx]
    exact results_hold hb (map_results s c i fn) rfl rfl (fun st hst => ⟨st, hst, rfl⟩)

/-- An instruction with a long-latency result answers a state in which every active lane's is outstanding. -/
theorem issueLanes_spec {s : State} {c : Ctx} {i : Instr} {maj f : Nat} {sw : Bool} {o : Operands} {d : RegName}
    {fn : List Vals → List (Nat × Nat × Word)} {g : Nat × Nat → Word} (h : Issues s c i) (ho : opcode i = some (maj, f))
    (hr : operands i = o) (hx : extraRegs i = []) (hg : fn (c.lanes.map (valsOf s c i)) = c.lanes.map (fun e => (e.1, e.2, g e))) :
    ∃ t, issueLanes s maj f sw o d fn = .next t ∧ OnlyComputes s t c (some d) false ∧
      ∀ e ∈ c.lanes, Outstanding s t c d e (g e) := by
  subst hr
  obtain ⟨c', hb⟩ := beforeEffect_spec h.ctx (operands i) (chargeUnits maj f)
  have hc' : ctxOf (beforeEffect s c (operands i) (chargeUnits maj f)) c'.sid = some c' := by rw [hb.sid]; exact hb.ctx
  refine ⟨_, issueWith_go h ho rfl hx rfl, ?_, ?_⟩
  · rw [runEffect_eq hb.ctx]
    exact computes hb (Effected.writeLaters _ (Effected.refl hc' _))
  · rw [runEffect_eq hb.ctx]
    exact results_out hb hg (fun st hst => ⟨st, hst, rfl⟩)

theorem issueLong_spec {s : State} {c : Ctx} {i : Instr} {maj f : Nat} {sw : Bool} {o : Operands} {d : RegName} {fn : Vals → Word}
    (h : Issues s c i) (ho : opcode i = some (maj, f)) (hr : operands i = o) (hx : extraRegs i = []) :
    ∃ t, issueLong s maj f sw o d fn = .next t ∧ OnlyComputes s t c (some d) false ∧
      ∀ e ∈ c.lanes, Outstanding s t c d e (fn (valsOf s c i e)) := by
  have hg : (fun vs : List Vals => vs.map (fun v => (v.ln, v.pos, fn v))) (c.lanes.map (valsOf s c i)) =
      c.lanes.map (fun e => (e.1, e.2, fn (valsOf s c i e))) := map_results s c i fn
  have := issueLanes_spec (sw := sw) (d := d) h ho hr hx hg
  exact this

theorem raiseFlags_stream {u : State} {sid n : Nat} {st : Stream} (h : find? u.streams sid = some st) :
    find? (raiseFlags u sid n).streams sid = some { st with fcsr := st.fcsr ||| BitVec.ofNat 8 (n % 32) } := by
  simp [raiseFlags, h]

theorem raised {u : State} {sid sid' n : Nat} {st : Stream} (e : sid' = sid) (h : find? u.streams sid = some st) :
    ∃ st', find? (raiseFlags u sid' n).streams sid = some st' ∧ st'.k = st.k := by
  subst e; exact ⟨_, raiseFlags_stream h, rfl⟩

theorem raisedPend {u : State} {sid sid' n : Nat} {st : Stream} (e : sid' = sid) (h : find? u.streams sid = some st) :
    ∃ st', find? (raiseFlags u sid' n).streams sid = some st' ∧ st'.pend = st.pend := by
  subst e; exact ⟨_, raiseFlags_stream h, rfl⟩

theorem flags_raised {s b u : State} {c c' : Ctx} {o : Operands} {d : Option RegName} {n : Nat} {sw : Bool} (hb : Before s b c c' o)
    (hu : Effected b u c' d false) : FlagsRaised (switchPoint (advance (raiseFlags u c'.sid n) c.sid) c.sid sw) c n := by
  obtain ⟨st, h1, -, h3, -⟩ := hu.stream
  have h2 := raiseFlags_stream (n := n) h1
  rw [hb.sid] at h2 ⊢
  obtain ⟨q, st', e1, -, e3, -, e5, -⟩ := endIssue_spec (sw := sw) h2
  refine ⟨st', by rw [e1]; exact e3, ?_⟩
  have q1 : st'.fcsr = st.fcsr ||| BitVec.ofNat 8 (n % 32) := by have := congrArg Stream.fcsr e5; exact this
  have q2 : c'.st.fcsr = c.st.fcsr := by rw [← hb.stream]
  rw [q1, h3 rfl, q2]

theorem Before.fcsr {s b : State} {c c' : Ctx} {o : Operands} (h : Before s b c c' o) : c'.st.fcsr = c.st.fcsr := by
  rw [← h.stream]

/-- A floating-point instruction of ALU class. -/
theorem issueFp_spec {s : State} {c : Ctx} {i : Instr} {maj f : Nat} {sw : Bool} {o : Operands} {d : RegName}
    {fn : Stream → Vals → Word × Nat} (h : Issues s c i) (ho : opcode i = some (maj, f)) (hr : operands i = o) (hx : extraRegs i = [])
    (hf : ∀ a b : Stream, a.fcsr = b.fcsr → fn a = fn b) :
    ∃ t, issueFp s maj f sw o d fn = .next t ∧ OnlyComputes s t c (some d) true ∧
      (∀ e ∈ c.lanes, Holds s t c i d e (fn c.st (valsOf s c i e)).1) ∧
      FlagsRaised t c (flagsAll (c.lanes.map (fun e => (fn c.st (valsOf s c i e)).2))) := by
  subst hr
  obtain ⟨c', hb⟩ := beforeEffect_spec h.ctx (operands i) (chargeUnits maj f)
  have hc' : ctxOf (beforeEffect s c (operands i) (chargeUnits maj f)) c'.sid = some c' := by rw [hb.sid]; exact hb.ctx
  have hst := hf _ _ hb.fcsr
  have hmap := map_results s c i (fun v => (fn c.st v).1)
  have hflags : (c.lanes.map (laneVals s c (operands i))).map (fun v => (fn c.st v).2) =
      c.lanes.map (fun e => (fn c.st (valsOf s c i e)).2) := by rw [List.map_map]; rfl
  have hu : Effected (beforeEffect s c (operands i) (chargeUnits maj f)) (writeLanes (beforeEffect s c (operands i) (chargeUnits maj f)) c' d
      ((c.lanes.map (laneVals s c (operands i))).map (fun v => (v.ln, v.pos, (fn c.st v).1)))) c' (some d) false := by
    refine Effected.writeLanes _ (Effected.refl hc' _) (fun v hv => ?_)
    rw [hmap] at hv
    obtain ⟨e, he, rfl⟩ := List.mem_map.1 hv
    rw [hb.lanes]; exact he
  refine ⟨_, issueWith_go h ho rfl hx rfl, ?_, ?_, ?_⟩
  · rw [runEffect_eq hb.ctx, hst]
    exact computes hb (hu.flags _)
  · rw [runEffect_eq hb.ctx, hst]
    refine results_hold hb hmap rfl rfl (fun st hst => raised hb.sid hst)
  · rw [runEffect_eq hb.ctx, hst, ← hflags]
    exact flags_raised hb hu

/-- A floating-point instruction with a long-latency result. -/
theorem issueFpLanes_spec {s : State} {c : Ctx} {i : Instr} {maj f : Nat} {sw : Bool} {o : Operands} {d : RegName}
    {vals : Stream → List Vals → List (Nat × Nat × Word)} {flags : Stream → List Vals → Nat} {g : Nat × Nat → Word}
    (h : Issues s c i) (ho : opcode i = some (maj, f)) (hr : operands i = o) (hx : extraRegs i = [])
    (hf : ∀ a b : Stream, a.fcsr = b.fcsr → vals a = vals b ∧ flags a = flags b)
    (hg : vals c.st (c.lanes.map (valsOf s c i)) = c.lanes.map (fun e => (e.1, e.2, g e))) :
    ∃ t, issueWith s maj f sw o [] (fun _ _ vs => .go (fun t c =>
        raiseFlags (writeLaters t c d (vals c.st vs)) c.sid (flags c.st vs))) = .next t ∧ OnlyComputes s t c (some d) true ∧
      (∀ e ∈ c.lanes, Outstanding s t c d e (g e)) ∧ FlagsRaised t c (flags c.st (c.lanes.map (valsOf s c i))) := by
  subst hr
  obtain ⟨c', hb⟩ := beforeEffect_spec h.ctx (operands i) (chargeUnits maj f)
  have hc' : ctxOf (beforeEffect s c (operands i) (chargeUnits maj f)) c'.sid = some c' := by rw [hb.sid]; exact hb.ctx
  have hst := hf _ _ hb.fcsr
  have hu : Effected (beforeEffect s c (operands i) (chargeUnits maj f)) (writeLaters (beforeEffect s c (operands i) (chargeUnits maj f)) c' d
      (vals c.st (c.lanes.map (valsOf s c i)))) c' (some d) false := Effected.writeLaters _ (Effected.refl hc' _)
  refine ⟨_, issueWith_go h ho rfl hx rfl, ?_, ?_, ?_⟩
  · rw [runEffect_eq hb.ctx, hst.1, hst.2]
    exact computes hb (hu.flags _)
  · rw [runEffect_eq hb.ctx, hst.1, hst.2]
    exact results_out hb hg (fun st hst => raisedPend hb.sid hst)
  · rw [runEffect_eq hb.ctx, hst.1, hst.2]
    exact flags_raised hb hu

theorem issueFpLong_spec {s : State} {c : Ctx} {i : Instr} {maj f : Nat} {sw : Bool} {o : Operands} {d : RegName}
    {fn : Stream → Vals → Word × Nat} (h : Issues s c i) (ho : opcode i = some (maj, f)) (hr : operands i = o) (hx : extraRegs i = [])
    (hf : ∀ a b : Stream, a.fcsr = b.fcsr → fn a = fn b) :
    ∃ t, issueFpLong s maj f sw o d fn = .next t ∧ OnlyComputes s t c (some d) true ∧
      (∀ e ∈ c.lanes, Outstanding s t c d e (fn c.st (valsOf s c i e)).1) ∧
      FlagsRaised t c (flagsAll (c.lanes.map (fun e => (fn c.st (valsOf s c i e)).2))) := by
  have hg : (fun (st : Stream) (vs : List Vals) => vs.map (fun v => (v.ln, v.pos, (fn st v).1))) c.st (c.lanes.map (valsOf s c i)) =
      c.lanes.map (fun e => (e.1, e.2, (fn c.st (valsOf s c i e)).1)) := map_results s c i (fun v => (fn c.st v).1)
  have := issueFpLanes_spec (sw := sw) (d := d) (vals := fun st vs => vs.map (fun v => (v.ln, v.pos, (fn st v).1)))
    (g := fun e => (fn c.st (valsOf s c i e)).1) (flags := fun st vs => flagsAll (vs.map (fun v => (fn st v).2))) h ho hr hx
    (fun a b hab => by simp only [hf a b hab, and_self]) hg
  have e : flagsAll ((c.lanes.map (valsOf s c i)).map (fun v => (fn c.st v).2)) =
      flagsAll (c.lanes.map (fun e => (fn c.st (valsOf s c i e)).2)) := by rw [List.map_map]; rfl
  rw [← e]; exact this

end Sys2Proof.Machine
end

