-- ==== Sys2Proof/Laws/Mask.lean ====
section
/-!
SUPPORT. The bits of a lane mask.
-/

namespace Sys2Proof.Machine

open Sys2Proof

theorem inMask_eq (m : BitVec 16) (l : Nat) : inMask m l = m.getLsbD l := by
  unfold inMask bitN BitVec.getLsbD
  rw [Nat.testBit_eq_decide_div_mod_eq]

theorem inMask_or (a b : BitVec 16) (l : Nat) : inMask (a ||| b) l = (inMask a l || inMask b l) := by simp [inMask_eq]

theorem inMask_and (a b : BitVec 16) (l : Nat) : inMask (a &&& b) l = (inMask a l && inMask b l) := by simp [inMask_eq]

theorem inMask_not (a : BitVec 16) {l : Nat} (h : l < 16) : inMask (~~~a) l = !inMask a l := by simp [inMask_eq, h]

theorem inMask_zero (l : Nat) : inMask 0 l = false := by simp [inMask_eq]

theorem inMask_lt {m : BitVec 16} {l : Nat} (h : inMask m l = true) : l < 16 := by
  rw [inMask_eq] at h
  by_contra hc
  rw [BitVec.getLsbD_of_ge _ _ (by omega)] at h; cases h

theorem inMask_bit {i l : Nat} (hl : l < 16) : inMask (BitVec.ofNat 16 (2 ^ i)) l = decide (i = l) := by
  rw [inMask_eq, BitVec.getLsbD_ofNat, Nat.testBit_two_pow]
  simp [hl]

theorem inMask_foldl (ls : List Nat) {l : Nat} (hl : l < 16) : ∀ m : BitVec 16,
    inMask (ls.foldl (fun m i => m ||| BitVec.ofNat 16 (2 ^ i)) m) l = (inMask m l || decide (l ∈ ls)) := by
  induction ls with
  | nil => intro m; simp
  | cons x r ih =>
    intro m
    rw [List.foldl_cons, ih, inMask_or, inMask_bit hl]
    by_cases h : x = l
    · simp [h]
    · have : ¬ l = x := fun q => h q.symm
      simp [h, this]

theorem inMask_maskOf (ls : List Nat) {l : Nat} (hl : l < 16) : inMask (maskOf ls) l = decide (l ∈ ls) := by
  rw [maskOf, inMask_foldl ls hl, inMask_zero]; simp

theorem mem_onesOf {m : BitVec 16} {l : Nat} : l ∈ onesOf m ↔ inMask m l = true := by
  simp only [onesOf, List.mem_filter, List.mem_range]
  exact ⟨fun h => h.2, fun h => ⟨inMask_lt h, h⟩⟩

theorem mask_zero_iff (m : BitVec 16) : m = 0 ↔ ∀ l, l < 16 → ¬(inMask m l = true) := by
  constructor
  · rintro rfl l -; rw [inMask_zero]; simp
  · intro h
    apply BitVec.eq_of_getLsbD_eq
    intro i hi
    have := h i hi
    rw [inMask_eq] at this
    simpa using this

end Sys2Proof.Machine
end

