-- ==== Sys2Proof/Laws/PerInstr.lean ====
section
/-!
SUPPORT. Per instruction: the word that the encoder writes stands in 32 bits and carries the major opcode of the opcode map in its bits
30 to 24 (R341, R349); an event has no word.
-/

namespace Sys2Proof.Laws.MajorOpcode

open Sys2Proof Sys2Proof.Machine

/-- The instruction's word, if it has one, carries its major opcode. -/
def Statement (i : Instr) : Prop :=
  match encode i with
  | some w => w < 2 ^ 32 ∧ (opcode i).map Prod.fst = some (w / 2 ^ 24 % 2 ^ 7)
  | none => opcode i = none

/-- Fields below bit 24 leave the major opcode as it is written. -/
theorem asm_major {sw : Bool} {m : Nat} {l : List (Nat × Nat)} (hm : m < 2 ^ 7) (hl : place l < 2 ^ 24) :
    asm sw m l < 2 ^ 32 ∧ asm sw m l / 2 ^ 24 % 2 ^ 7 = m := by
  unfold asm
  split <;> omega

/-- A register's number takes seven bits. -/
theorem fieldOf_lt (r : RegName) : fieldOf r < 128 := by
  cases r <;> simp only [fieldOf] <;> omega

/-- A scope's number. -/
theorem scopeNum_lt (s : Scope) : scopeNum s < 5 := by cases s <;> decide

theorem powerUp : Statement .powerUp := rfl
theorem inputRemoval : Statement .inputRemoval := rfl
theorem railFault : Statement .railFault := rfl
theorem warmReset : Statement .warmReset := rfl
theorem perstNDeassert : Statement .perstNDeassert := rfl
theorem bringupStepDone (edges : List EdgeReport) (phyOk : Bool) (boot : BootReport) : Statement (.bringupStepDone edges phyOk boot) := rfl
theorem pcieTrainingDone (port : Nat) (link : Option PcieLink) : Statement (.pcieTrainingDone port link) := rfl
theorem pcieConfigRequest (r : ConfigRequest) : Statement (.pcieConfigRequest r) := rfl
theorem recoveryRun (len : BitVec 27) : Statement (.recoveryRun len) := rfl
theorem recoveryCheckDone (raise : BitVec 16) : Statement (.recoveryCheckDone raise) := rfl
theorem thermalSample (temps : List Nat) : Statement (.thermalSample temps) := rfl
theorem powerWindowEnd (watts : Nat) : Statement (.powerWindowEnd watts) := rfl
theorem powerLowIntervalEnd : Statement .powerLowIntervalEnd := rfl
theorem thermalEaseExpiry : Statement .thermalEaseExpiry := rfl
theorem thrctlWrite (v : Word) : Statement (.thrctlWrite v) := rfl
theorem thrlimWrite (v : Word) : Statement (.thrlimWrite v) := rfl
theorem registerWrite (caller : Caller) (off : Nat) (v : Word) : Statement (.registerWrite caller off v) := rfl
theorem ylportEnable (port : Nat) (en : Bool) : Statement (.ylportEnable port en) := rfl
theorem ylportRetrain (port : Nat) : Statement (.ylportRetrain port) := rfl
theorem ylportWidthRequest (port : Nat) (w : BitVec 2) : Statement (.ylportWidthRequest port w) := rfl
theorem detectIdleExit (port : Nat) : Statement (.detectIdleExit port) := rfl
theorem partnerDetected (port : Nat) (lanes : BitVec 8) (bits : BitVec 4) : Statement (.partnerDetected port lanes bits) := rfl
theorem equaliseDone (port : Nat) (good224 : BitVec 8) (good112 : BitVec 8) (good56 : BitVec 8) : Statement (.equaliseDone port good224 good112 good56) := rfl
theorem alignDone (port : Nat) : Statement (.alignDone port) := rfl
theorem negotiationDone (port : Nat) (minv : Nat) (maxv : Nat) (cap : Word) : Statement (.negotiationDone port minv maxv cap) := rfl
theorem trainingTimeout (port : Nat) : Statement (.trainingTimeout port) := rfl
theorem flitReceive (port : Nat) (bytes : List Byte) : Statement (.flitReceive port bytes) := rfl
theorem replayTimeout (port : Nat) : Statement (.replayTimeout port) := rfl
theorem laneLoss (port : Nat) (good : BitVec 8) : Statement (.laneLoss port good) := rfl
theorem widthChangeApply (port : Nat) : Statement (.widthChangeApply port) := rfl
theorem egressSend (port : Nat) (vc : Bool) : Statement (.egressSend port vc) := rfl
theorem remoteLoadArrival (p : Packet) : Statement (.remoteLoadArrival p) := rfl
theorem aggregatedStoreArrival (p : Packet) : Statement (.aggregatedStoreArrival p) := rfl
theorem aggregatedAtomicArrival (p : Packet) : Statement (.aggregatedAtomicArrival p) := rfl
theorem tileStoreAddArrival (port : Nat) (p : Packet) : Statement (.tileStoreAddArrival port p) := rfl
theorem tileReassemblyTimeout (io : Nat) (src : Nat) (tag : Nat) : Statement (.tileReassemblyTimeout io src tag) := rfl
theorem multicastLineArrival (port : Nat) (p : Packet) : Statement (.multicastLineArrival port p) := rfl
theorem multicastChildTimeout (group : Nat) (tag : Nat) (port : Nat) : Statement (.multicastChildTimeout group tag port) := rfl
theorem combinedAckArrival (port : Nat) (p : Packet) : Statement (.combinedAckArrival port p) := rfl
theorem inboxAppendArrival (p : Packet) : Statement (.inboxAppendArrival p) := rfl
theorem loadReplyArrival (p : Packet) : Statement (.loadReplyArrival p) := rfl
theorem elementAckArrival (p : Packet) : Statement (.elementAckArrival p) := rfl
theorem inboxAckArrival (p : Packet) : Statement (.inboxAckArrival p) := rfl
theorem ackTimeout (tag : Nat) : Statement (.ackTimeout tag) := rfl
theorem rldTimeout (tag : Nat) : Statement (.rldTimeout tag) := rfl
theorem comaAgeLimit (buffer : Nat) : Statement (.comaAgeLimit buffer) := rfl
theorem comaDrain : Statement .comaDrain := rfl
theorem routingEntryWrite (v : Word) : Statement (.routingEntryWrite v) := rfl
theorem groupTableEntryWrite (v : Word) : Statement (.groupTableEntryWrite v) := rfl
theorem notifyWrite (caller : Caller) (page : Nat) (off : Nat) (v : Word) : Statement (.notifyWrite caller page off v) := rfl
theorem bar4Write (caller : Caller) (off : Nat) (bytes : List Byte) : Statement (.bar4Write caller off bytes) := rfl
theorem bar4Read (caller : Caller) (off : Nat) (len : Nat) : Statement (.bar4Read caller off len) := rfl
theorem queueEnable (caller : Caller) (q : Nat) : Statement (.queueEnable caller q) := rfl
theorem queueDisable (caller : Caller) (q : Nat) : Statement (.queueDisable caller q) := rfl
theorem queueUnmap (caller : Caller) (q : Nat) : Statement (.queueUnmap caller q) := rfl
theorem queueClearerr (caller : Caller) (q : Nat) : Statement (.queueClearerr caller q) := rfl
theorem queueMap (die : Nat) : Statement (.queueMap die) := rfl
theorem idleUnmap (die : Nat) (slot : Nat) : Statement (.idleUnmap die slot) := rfl
theorem quantumEnd (die : Nat) (slot : Nat) : Statement (.quantumEnd die slot) := rfl
theorem msixIntervalEnd (caller : Caller) (vector : Nat) : Statement (.msixIntervalEnd caller vector) := rfl
theorem partitionActivate (part : Nat) : Statement (.partitionActivate part) := rfl
theorem partitionDeactivate (part : Nat) : Statement (.partitionDeactivate part) := rfl
theorem keyLoad (caller : Caller) (slot : Nat) : Statement (.keyLoad caller slot) := rfl
theorem keyErase (caller : Caller) (slot : Nat) : Statement (.keyErase caller slot) := rfl
theorem attestationReport (caller : Caller) (part : Nat) : Statement (.attestationReport caller part) := rfl
theorem checkpointStart : Statement .checkpointStart := rfl
theorem checkpointDone (failed : Option Nat) : Statement (.checkpointDone failed) := rfl
theorem recordArrival (r : Arrival) : Statement (.recordArrival r) := rfl
theorem refillStart (die : Nat) (slot : Nat) : Statement (.refillStart die slot) := rfl
theorem refillLand (die : Nat) (slot : Nat) : Statement (.refillLand die slot) := rfl
theorem continuationRetry (q : Nat) : Statement (.continuationRetry q) := rfl
theorem dispatchDecision (die : Nat) : Statement (.dispatchDecision die) := rfl
theorem teamStart (team : Nat) : Statement (.teamStart team) := rfl
theorem recordPromotion (die : Nat) (slot : Nat) : Statement (.recordPromotion die slot) := rfl
theorem clusterClaim (die : Nat) (slot : Nat) : Statement (.clusterClaim die slot) := rfl
theorem dequePop (cluster : Nat) : Statement (.dequePop cluster) := rfl
theorem dequeSteal (cluster : Nat) : Statement (.dequeSteal cluster) := rfl
theorem gridNodeReport (grid : Nat) (cluster : Nat) : Statement (.gridNodeReport grid cluster) := rfl
theorem graceExpiry (team : Nat) : Statement (.graceExpiry team) := rfl
theorem teamYield (team : Nat) : Statement (.teamYield team) := rfl
theorem teamRevoke (v : Word) : Statement (.teamRevoke v) := rfl
theorem poolAdd (v : Word) : Statement (.poolAdd v) := rfl
theorem domainSetQuota (dom : Nat) : Statement (.domainSetQuota dom) := rfl
theorem domainPushPage (dom : Nat) : Statement (.domainPushPage dom) := rfl
theorem domainPushSaveBlock (dom : Nat) : Statement (.domainPushSaveBlock dom) := rfl
theorem domainSubtractUsed (dom : Nat) : Statement (.domainSubtractUsed dom) := rfl
theorem vaultStow (out : Nat) : Statement (.vaultStow out) := rfl
theorem vaultSwap (out : Nat) (inn : Nat) : Statement (.vaultSwap out inn) := rfl
theorem vaultRestore (inn : Nat) : Statement (.vaultRestore inn) := rfl
theorem fuseTimeout (id : Nat) : Statement (.fuseTimeout id) := rfl
theorem fuseRendezvousComplete (id : Nat) : Statement (.fuseRendezvousComplete id) := rfl
theorem automaticSplit (stream : Nat) : Statement (.automaticSplit stream) := rfl
theorem implicitRejoin (group : Nat) : Statement (.implicitRejoin group) := rfl
theorem rejoinTimeout (group : Nat) : Statement (.rejoinTimeout group) := rfl
theorem roleQueueRetry (stream : Nat) : Statement (.roleQueueRetry stream) := rfl
theorem resultWriteback (stream : Nat) (seq : Nat) : Statement (.resultWriteback stream seq) := rfl
theorem pageWalkDone (tlb : Nat) (dom : Nat) (va : Word) : Statement (.pageWalkDone tlb dom va) := rfl
theorem grantInvalidateOne (win : Nat) : Statement (.grantInvalidateOne win) := rfl
theorem grantInvalidateAll : Statement .grantInvalidateAll := rfl
theorem grantInvalidateDone : Statement .grantInvalidateDone := rfl
theorem shootdownDone (id : Nat) : Statement (.shootdownDone id) := rfl
theorem patrolScrub (sector : Nat) (outcome : Nat) : Statement (.patrolScrub sector outcome) := rfl
theorem reservationGrant (line : Nat) : Statement (.reservationGrant line) := rfl
theorem reservationTimeout (line : Nat) (owner : Nat) : Statement (.reservationTimeout line owner) := rfl
theorem waitaWake (stream : Nat) (seq : Nat) : Statement (.waitaWake stream seq) := rfl
theorem waitaTimeout (stream : Nat) (seq : Nat) : Statement (.waitaTimeout stream seq) := rfl
theorem ldsLanded (id : Nat) : Statement (.ldsLanded id) := rfl
theorem tileTransferDone (id : Nat) : Statement (.tileTransferDone id) := rfl
theorem engineRoutineStart (hart : Nat) : Statement (.engineRoutineStart hart) := rfl
theorem tmmaEngineStep (stream : Nat) : Statement (.tmmaEngineStep stream) := rfl
theorem tileClaimRetry (stream : Nat) : Statement (.tileClaimRetry stream) := rfl
theorem lateFaultDelivery (stream : Nat) : Statement (.lateFaultDelivery stream) := rfl
theorem killtWrite (v : Word) : Statement (.killtWrite v) := rfl
theorem handleSeal (dom : Nat) (idx : Nat) : Statement (.handleSeal dom idx) := rfl
theorem handleRevoke (dom : Nat) (idx : Nat) : Statement (.handleRevoke dom idx) := rfl
theorem msgrecvTimeout (stream : Nat) (seq : Nat) : Statement (.msgrecvTimeout stream seq) := rfl
theorem commandCompletion (caller : Caller) (off : Nat) : Statement (.commandCompletion caller off) := rfl
theorem add (sw : Bool) (d : RegName) (a : RegName) (b : RegName) : Statement (.add sw d a b) := by
  have h := asm_major (sw := sw) (m := 0x01) (l := [(17, fieldOf d), (10, fieldOf a), (3, fieldOf b)]) (by omega) (by simp only [place]; have := fieldOf_lt d; have := fieldOf_lt a; have := fieldOf_lt b; omega)
  exact ⟨h.1, congrArg some h.2.symm⟩
theorem sub (sw : Bool) (d : RegName) (a : RegName) (b : RegName) : Statement (.sub sw d a b) := by
  have h := asm_major (sw := sw) (m := 0x01) (l := [(17, fieldOf d), (10, fieldOf a), (3, fieldOf b), (0, 1)]) (by omega) (by simp only [place]; have := fieldOf_lt d; have := fieldOf_lt a; have := fieldOf_lt b; omega)
  exact ⟨h.1, congrArg some h.2.symm⟩
theorem minS (sw : Bool) (d : RegName) (a : RegName) (b : RegName) : Statement (.minS sw d a b) := by
  have h := asm_major (sw := sw) (m := 0x01) (l := [(17, fieldOf d), (10, fieldOf a), (3, fieldOf b), (0, 2)]) (by omega) (by simp only [place]; have := fieldOf_lt d; have := fieldOf_lt a; have := fieldOf_lt b; omega)
  exact ⟨h.1, congrArg some h.2.symm⟩
theorem maxS (sw : Bool) (d : RegName) (a : RegName) (b : RegName) : Statement (.maxS sw d a b) := by
  have h := asm_major (sw := sw) (m := 0x01) (l := [(17, fieldOf d), (10, fieldOf a), (3, fieldOf b), (0, 3)]) (by omega) (by simp only [place]; have := fieldOf_lt d; have := fieldOf_lt a; have := fieldOf_lt b; omega)
  exact ⟨h.1, congrArg some h.2.symm⟩
theorem minN (sw : Bool) (d : RegName) (a : RegName) (b : RegName) : Statement (.minN sw d a b) := by
  have h := asm_major (sw := sw) (m := 0x01) (l := [(17, fieldOf d), (10, fieldOf a), (3, fieldOf b), (0, 4)]) (by omega) (by simp only [place]; have := fieldOf_lt d; have := fieldOf_lt a; have := fieldOf_lt b; omega)
  exact ⟨h.1, congrArg some h.2.symm⟩
theorem maxN (sw : Bool) (d : RegName) (a : RegName) (b : RegName) : Statement (.maxN sw d a b) := by
  have h := asm_major (sw := sw) (m := 0x01) (l := [(17, fieldOf d), (10, fieldOf a), (3, fieldOf b), (0, 5)]) (by omega) (by simp only [place]; have := fieldOf_lt d; have := fieldOf_lt a; have := fieldOf_lt b; omega)
  exact ⟨h.1, congrArg some h.2.symm⟩
theorem addsS (sw : Bool) (d : RegName) (a : RegName) (b : RegName) : Statement (.addsS sw d a b) := by
  have h := asm_major (sw := sw) (m := 0x01) (l := [(17, fieldOf d), (10, fieldOf a), (3, fieldOf b), (0, 6)]) (by omega) (by simp only [place]; have := fieldOf_lt d; have := fieldOf_lt a; have := fieldOf_lt b; omega)
  exact ⟨h.1, congrArg some h.2.symm⟩
theorem subsS (sw : Bool) (d : RegName) (a : RegName) (b : RegName) : Statement (.subsS sw d a b) := by
  have h := asm_major (sw := sw) (m := 0x01) (l := [(17, fieldOf d), (10, fieldOf a), (3, fieldOf b), (0, 7)]) (by omega) (by simp only [place]; have := fieldOf_lt d; have := fieldOf_lt a; have := fieldOf_lt b; omega)
  exact ⟨h.1, congrArg some h.2.symm⟩
theorem mul (sw : Bool) (d : RegName) (a : RegName) (b : RegName) : Statement (.mul sw d a b) := by
  have h := asm_major (sw := sw) (m := 0x02) (l := [(17, fieldOf d), (10, fieldOf a), (3, fieldOf b)]) (by omega) (by simp only [place]; have := fieldOf_lt d; have := fieldOf_lt a; have := fieldOf_lt b; omega)
  exact ⟨h.1, congrArg some h.2.symm⟩
theorem mulhS (sw : Bool) (d : RegName) (a : RegName) (b : RegName) : Statement (.mulhS sw d a b) := by
  have h := asm_major (sw := sw) (m := 0x02) (l := [(17, fieldOf d), (10, fieldOf a), (3, fieldOf b), (0, 1)]) (by omega) (by simp only [place]; have := fieldOf_lt d; have := fieldOf_lt a; have := fieldOf_lt b; omega)
  exact ⟨h.1, congrArg some h.2.symm⟩
theorem mulhN (sw : Bool) (d : RegName) (a : RegName) (b : RegName) : Statement (.mulhN sw d a b) := by
  have h := asm_major (sw := sw) (m := 0x02) (l := [(17, fieldOf d), (10, fieldOf a), (3, fieldOf b), (0, 2)]) (by omega) (by simp only [place]; have := fieldOf_lt d; have := fieldOf_lt a; have := fieldOf_lt b; omega)
  exact ⟨h.1, congrArg some h.2.symm⟩
theorem mac (sw : Bool) (d : RegName) (a : RegName) (b : RegName) : Statement (.mac sw d a b) := by
  have h := asm_major (sw := sw) (m := 0x02) (l := [(17, fieldOf d), (10, fieldOf a), (3, fieldOf b), (0, 3)]) (by omega) (by simp only [place]; have := fieldOf_lt d; have := fieldOf_lt a; have := fieldOf_lt b; omega)
  exact ⟨h.1, congrArg some h.2.symm⟩
theorem divS (sw : Bool) (d : RegName) (a : RegName) (b : RegName) : Statement (.divS sw d a b) := by
  have h := asm_major (sw := sw) (m := 0x02) (l := [(17, fieldOf d), (10, fieldOf a), (3, fieldOf b), (0, 4)]) (by omega) (by simp only [place]; have := fieldOf_lt d; have := fieldOf_lt a; have := fieldOf_lt b; omega)
  exact ⟨h.1, congrArg some h.2.symm⟩
theorem divN (sw : Bool) (d : RegName) (a : RegName) (b : RegName) : Statement (.divN sw d a b) := by
  have h := asm_major (sw := sw) (m := 0x02) (l := [(17, fieldOf d), (10, fieldOf a), (3, fieldOf b), (0, 5)]) (by omega) (by simp only [place]; have := fieldOf_lt d; have := fieldOf_lt a; have := fieldOf_lt b; omega)
  exact ⟨h.1, congrArg some h.2.symm⟩
theorem remS (sw : Bool) (d : RegName) (a : RegName) (b : RegName) : Statement (.remS sw d a b) := by
  have h := asm_major (sw := sw) (m := 0x02) (l := [(17, fieldOf d), (10, fieldOf a), (3, fieldOf b), (0, 6)]) (by omega) (by simp only [place]; have := fieldOf_lt d; have := fieldOf_lt a; have := fieldOf_lt b; omega)
  exact ⟨h.1, congrArg some h.2.symm⟩
theorem remN (sw : Bool) (d : RegName) (a : RegName) (b : RegName) : Statement (.remN sw d a b) := by
  have h := asm_major (sw := sw) (m := 0x02) (l := [(17, fieldOf d), (10, fieldOf a), (3, fieldOf b), (0, 7)]) (by omega) (by simp only [place]; have := fieldOf_lt d; have := fieldOf_lt a; have := fieldOf_lt b; omega)
  exact ⟨h.1, congrArg some h.2.symm⟩
theorem and (sw : Bool) (d : RegName) (a : RegName) (b : RegName) : Statement (.and sw d a b) := by
  have h := asm_major (sw := sw) (m := 0x03) (l := [(17, fieldOf d), (10, fieldOf a), (3, fieldOf b)]) (by omega) (by simp only [place]; have := fieldOf_lt d; have := fieldOf_lt a; have := fieldOf_lt b; omega)
  exact ⟨h.1, congrArg some h.2.symm⟩
theorem or (sw : Bool) (d : RegName) (a : RegName) (b : RegName) : Statement (.or sw d a b) := by
  have h := asm_major (sw := sw) (m := 0x03) (l := [(17, fieldOf d), (10, fieldOf a), (3, fieldOf b), (0, 1)]) (by omega) (by simp only [place]; have := fieldOf_lt d; have := fieldOf_lt a; have := fieldOf_lt b; omega)
  exact ⟨h.1, congrArg some h.2.symm⟩
theorem xor (sw : Bool) (d : RegName) (a : RegName) (b : RegName) : Statement (.xor sw d a b) := by
  have h := asm_major (sw := sw) (m := 0x03) (l := [(17, fieldOf d), (10, fieldOf a), (3, fieldOf b), (0, 2)]) (by omega) (by simp only [place]; have := fieldOf_lt d; have := fieldOf_lt a; have := fieldOf_lt b; omega)
  exact ⟨h.1, congrArg some h.2.symm⟩
theorem andn (sw : Bool) (d : RegName) (a : RegName) (b : RegName) : Statement (.andn sw d a b) := by
  have h := asm_major (sw := sw) (m := 0x03) (l := [(17, fieldOf d), (10, fieldOf a), (3, fieldOf b), (0, 3)]) (by omega) (by simp only [place]; have := fieldOf_lt d; have := fieldOf_lt a; have := fieldOf_lt b; omega)
  exact ⟨h.1, congrArg some h.2.symm⟩
theorem orn (sw : Bool) (d : RegName) (a : RegName) (b : RegName) : Statement (.orn sw d a b) := by
  have h := asm_major (sw := sw) (m := 0x03) (l := [(17, fieldOf d), (10, fieldOf a), (3, fieldOf b), (0, 4)]) (by omega) (by simp only [place]; have := fieldOf_lt d; have := fieldOf_lt a; have := fieldOf_lt b; omega)
  exact ⟨h.1, congrArg some h.2.symm⟩
theorem xnor (sw : Bool) (d : RegName) (a : RegName) (b : RegName) : Statement (.xnor sw d a b) := by
  have h := asm_major (sw := sw) (m := 0x03) (l := [(17, fieldOf d), (10, fieldOf a), (3, fieldOf b), (0, 5)]) (by omega) (by simp only [place]; have := fieldOf_lt d; have := fieldOf_lt a; have := fieldOf_lt b; omega)
  exact ⟨h.1, congrArg some h.2.symm⟩
theorem bsel (sw : Bool) (d : RegName) (a : RegName) (b : RegName) : Statement (.bsel sw d a b) := by
  have h := asm_major (sw := sw) (m := 0x03) (l := [(17, fieldOf d), (10, fieldOf a), (3, fieldOf b), (0, 6)]) (by omega) (by simp only [place]; have := fieldOf_lt d; have := fieldOf_lt a; have := fieldOf_lt b; omega)
  exact ⟨h.1, congrArg some h.2.symm⟩
theorem shl (sw : Bool) (d : RegName) (a : RegName) (b : RegName) : Statement (.shl sw d a b) := by
  have h := asm_major (sw := sw) (m := 0x04) (l := [(17, fieldOf d), (10, fieldOf a), (3, fieldOf b)]) (by omega) (by simp only [place]; have := fieldOf_lt d; have := fieldOf_lt a; have := fieldOf_lt b; omega)
  exact ⟨h.1, congrArg some h.2.symm⟩
theorem shr (sw : Bool) (d : RegName) (a : RegName) (b : RegName) : Statement (.shr sw d a b) := by
  have h := asm_major (sw := sw) (m := 0x04) (l := [(17, fieldOf d), (10, fieldOf a), (3, fieldOf b), (0, 1)]) (by omega) (by simp only [place]; have := fieldOf_lt d; have := fieldOf_lt a; have := fieldOf_lt b; omega)
  exact ⟨h.1, congrArg some h.2.symm⟩
theorem sar (sw : Bool) (d : RegName) (a : RegName) (b : RegName) : Statement (.sar sw d a b) := by
  have h := asm_major (sw := sw) (m := 0x04) (l := [(17, fieldOf d), (10, fieldOf a), (3, fieldOf b), (0, 2)]) (by omega) (by simp only [place]; have := fieldOf_lt d; have := fieldOf_lt a; have := fieldOf_lt b; omega)
  exact ⟨h.1, congrArg some h.2.symm⟩
theorem rol (sw : Bool) (d : RegName) (a : RegName) (b : RegName) : Statement (.rol sw d a b) := by
  have h := asm_major (sw := sw) (m := 0x04) (l := [(17, fieldOf d), (10, fieldOf a), (3, fieldOf b), (0, 3)]) (by omega) (by simp only [place]; have := fieldOf_lt d; have := fieldOf_lt a; have := fieldOf_lt b; omega)
  exact ⟨h.1, congrArg some h.2.symm⟩
theorem ror (sw : Bool) (d : RegName) (a : RegName) (b : RegName) : Statement (.ror sw d a b) := by
  have h := asm_major (sw := sw) (m := 0x04) (l := [(17, fieldOf d), (10, fieldOf a), (3, fieldOf b), (0, 4)]) (by omega) (by simp only [place]; have := fieldOf_lt d; have := fieldOf_lt a; have := fieldOf_lt b; omega)
  exact ⟨h.1, congrArg some h.2.symm⟩
theorem clz (sw : Bool) (d : RegName) (a : RegName) : Statement (.clz sw d a) := by
  have h := asm_major (sw := sw) (m := 0x05) (l := [(17, fieldOf d), (10, fieldOf a), (3, 120)]) (by omega) (by simp only [place]; have := fieldOf_lt d; have := fieldOf_lt a; omega)
  exact ⟨h.1, congrArg some h.2.symm⟩
theorem ctz (sw : Bool) (d : RegName) (a : RegName) : Statement (.ctz sw d a) := by
  have h := asm_major (sw := sw) (m := 0x05) (l := [(17, fieldOf d), (10, fieldOf a), (0, 1), (3, 120)]) (by omega) (by simp only [place]; have := fieldOf_lt d; have := fieldOf_lt a; omega)
  exact ⟨h.1, congrArg some h.2.symm⟩
theorem popc (sw : Bool) (d : RegName) (a : RegName) : Statement (.popc sw d a) := by
  have h := asm_major (sw := sw) (m := 0x05) (l := [(17, fieldOf d), (10, fieldOf a), (0, 2), (3, 120)]) (by omega) (by simp only [place]; have := fieldOf_lt d; have := fieldOf_lt a; omega)
  exact ⟨h.1, congrArg some h.2.symm⟩
theorem brev (sw : Bool) (d : RegName) (a : RegName) : Statement (.brev sw d a) := by
  have h := asm_major (sw := sw) (m := 0x05) (l := [(17, fieldOf d), (10, fieldOf a), (0, 3), (3, 120)]) (by omega) (by simp only [place]; have := fieldOf_lt d; have := fieldOf_lt a; omega)
  exact ⟨h.1, congrArg some h.2.symm⟩
theorem bswap (sw : Bool) (d : RegName) (a : RegName) : Statement (.bswap sw d a) := by
  have h := asm_major (sw := sw) (m := 0x05) (l := [(17, fieldOf d), (10, fieldOf a), (0, 4), (3, 120)]) (by omega) (by simp only [place]; have := fieldOf_lt d; have := fieldOf_lt a; omega)
  exact ⟨h.1, congrArg some h.2.symm⟩
theorem sext (sw : Bool) (d : RegName) (a : RegName) (b : RegName) : Statement (.sext sw d a b) := by
  have h := asm_major (sw := sw) (m := 0x05) (l := [(17, fieldOf d), (10, fieldOf a), (3, fieldOf b), (0, 5)]) (by omega) (by simp only [place]; have := fieldOf_lt d; have := fieldOf_lt a; have := fieldOf_lt b; omega)
  exact ⟨h.1, congrArg some h.2.symm⟩
theorem zext (sw : Bool) (d : RegName) (a : RegName) (b : RegName) : Statement (.zext sw d a b) := by
  have h := asm_major (sw := sw) (m := 0x05) (l := [(17, fieldOf d), (10, fieldOf a), (3, fieldOf b), (0, 6)]) (by omega) (by simp only [place]; have := fieldOf_lt d; have := fieldOf_lt a; have := fieldOf_lt b; omega)
  exact ⟨h.1, congrArg some h.2.symm⟩
theorem cmpEq (sw : Bool) (d : RegName) (a : RegName) (b : RegName) : Statement (.cmpEq sw d a b) := by
  have h := asm_major (sw := sw) (m := 0x06) (l := [(17, fieldOf d), (10, fieldOf a), (3, fieldOf b)]) (by omega) (by simp only [place]; have := fieldOf_lt d; have := fieldOf_lt a; have := fieldOf_lt b; omega)
  exact ⟨h.1, congrArg some h.2.symm⟩
theorem cmpNe (sw : Bool) (d : RegName) (a : RegName) (b : RegName) : Statement (.cmpNe sw d a b) := by
  have h := asm_major (sw := sw) (m := 0x06) (l := [(17, fieldOf d), (10, fieldOf a), (3, fieldOf b), (0, 1)]) (by omega) (by simp only [place]; have := fieldOf_lt d; have := fieldOf_lt a; have := fieldOf_lt b; omega)
  exact ⟨h.1, congrArg some h.2.symm⟩
theorem cmpLtS (sw : Bool) (d : RegName) (a : RegName) (b : RegName) : Statement (.cmpLtS sw d a b) := by
  have h := asm_major (sw := sw) (m := 0x06) (l := [(17, fieldOf d), (10, fieldOf a), (3, fieldOf b), (0, 2)]) (by omega) (by simp only [place]; have := fieldOf_lt d; have := fieldOf_lt a; have := fieldOf_lt b; omega)
  exact ⟨h.1, congrArg some h.2.symm⟩
theorem cmpLeS (sw : Bool) (d : RegName) (a : RegName) (b : RegName) : Statement (.cmpLeS sw d a b) := by
  have h := asm_major (sw := sw) (m := 0x06) (l := [(17, fieldOf d), (10, fieldOf a), (3, fieldOf b), (0, 3)]) (by omega) (by simp only [place]; have := fieldOf_lt d; have := fieldOf_lt a; have := fieldOf_lt b; omega)
  exact ⟨h.1, congrArg some h.2.symm⟩
theorem cmpLtN (sw : Bool) (d : RegName) (a : RegName) (b : RegName) : Statement (.cmpLtN sw d a b) := by
  have h := asm_major (sw := sw) (m := 0x06) (l := [(17, fieldOf d), (10, fieldOf a), (3, fieldOf b), (0, 4)]) (by omega) (by simp only [place]; have := fieldOf_lt d; have := fieldOf_lt a; have := fieldOf_lt b; omega)
  exact ⟨h.1, congrArg some h.2.symm⟩
theorem cmpLeN (sw : Bool) (d : RegName) (a : RegName) (b : RegName) : Statement (.cmpLeN sw d a b) := by
  have h := asm_major (sw := sw) (m := 0x06) (l := [(17, fieldOf d), (10, fieldOf a), (3, fieldOf b), (0, 5)]) (by omega) (by simp only [place]; have := fieldOf_lt d; have := fieldOf_lt a; have := fieldOf_lt b; omega)
  exact ⟨h.1, congrArg some h.2.symm⟩
theorem cmpTst (sw : Bool) (d : RegName) (a : RegName) (b : RegName) : Statement (.cmpTst sw d a b) := by
  have h := asm_major (sw := sw) (m := 0x06) (l := [(17, fieldOf d), (10, fieldOf a), (3, fieldOf b), (0, 6)]) (by omega) (by simp only [place]; have := fieldOf_lt d; have := fieldOf_lt a; have := fieldOf_lt b; omega)
  exact ⟨h.1, congrArg some h.2.symm⟩
theorem csel (sw : Bool) (d : RegName) (a : RegName) (b : RegName) : Statement (.csel sw d a b) := by
  have h := asm_major (sw := sw) (m := 0x07) (l := [(17, fieldOf d), (10, fieldOf a), (3, fieldOf b)]) (by omega) (by simp only [place]; have := fieldOf_lt d; have := fieldOf_lt a; have := fieldOf_lt b; omega)
  exact ⟨h.1, congrArg some h.2.symm⟩
theorem addw (sw : Bool) (d : RegName) (a : RegName) (b : RegName) : Statement (.addw sw d a b) := by
  have h := asm_major (sw := sw) (m := 0x08) (l := [(17, fieldOf d), (10, fieldOf a), (3, fieldOf b)]) (by omega) (by simp only [place]; have := fieldOf_lt d; have := fieldOf_lt a; have := fieldOf_lt b; omega)
  exact ⟨h.1, congrArg some h.2.symm⟩
theorem subw (sw : Bool) (d : RegName) (a : RegName) (b : RegName) : Statement (.subw sw d a b) := by
  have h := asm_major (sw := sw) (m := 0x08) (l := [(17, fieldOf d), (10, fieldOf a), (3, fieldOf b), (0, 1)]) (by omega) (by simp only [place]; have := fieldOf_lt d; have := fieldOf_lt a; have := fieldOf_lt b; omega)
  exact ⟨h.1, congrArg some h.2.symm⟩
theorem mulw (sw : Bool) (d : RegName) (a : RegName) (b : RegName) : Statement (.mulw sw d a b) := by
  have h := asm_major (sw := sw) (m := 0x08) (l := [(17, fieldOf d), (10, fieldOf a), (3, fieldOf b), (0, 2)]) (by omega) (by simp only [place]; have := fieldOf_lt d; have := fieldOf_lt a; have := fieldOf_lt b; omega)
  exact ⟨h.1, congrArg some h.2.symm⟩
theorem shlw (sw : Bool) (d : RegName) (a : RegName) (b : RegName) : Statement (.shlw sw d a b) := by
  have h := asm_major (sw := sw) (m := 0x08) (l := [(17, fieldOf d), (10, fieldOf a), (3, fieldOf b), (0, 3)]) (by omega) (by simp only [place]; have := fieldOf_lt d; have := fieldOf_lt a; have := fieldOf_lt b; omega)
  exact ⟨h.1, congrArg some h.2.symm⟩
theorem shrw (sw : Bool) (d : RegName) (a : RegName) (b : RegName) : Statement (.shrw sw d a b) := by
  have h := asm_major (sw := sw) (m := 0x08) (l := [(17, fieldOf d), (10, fieldOf a), (3, fieldOf b), (0, 4)]) (by omega) (by simp only [place]; have := fieldOf_lt d; have := fieldOf_lt a; have := fieldOf_lt b; omega)
  exact ⟨h.1, congrArg some h.2.symm⟩
theorem sarw (sw : Bool) (d : RegName) (a : RegName) (b : RegName) : Statement (.sarw sw d a b) := by
  have h := asm_major (sw := sw) (m := 0x08) (l := [(17, fieldOf d), (10, fieldOf a), (3, fieldOf b), (0, 5)]) (by omega) (by simp only [place]; have := fieldOf_lt d; have := fieldOf_lt a; have := fieldOf_lt b; omega)
  exact ⟨h.1, congrArg some h.2.symm⟩
theorem addi (sw : Bool) (d : RegName) (a : RegName) (imm : BitVec 10) : Statement (.addi sw d a imm) := by
  have h := asm_major (sw := sw) (m := 0x09) (l := [(17, fieldOf d), (10, fieldOf a), (0, imm.toNat)]) (by omega) (by simp only [place]; have := fieldOf_lt d; have := fieldOf_lt a; have := imm.isLt; omega)
  exact ⟨h.1, congrArg some h.2.symm⟩
theorem andi (sw : Bool) (d : RegName) (a : RegName) (imm : BitVec 10) : Statement (.andi sw d a imm) := by
  have h := asm_major (sw := sw) (m := 0x0A) (l := [(17, fieldOf d), (10, fieldOf a), (0, imm.toNat)]) (by omega) (by simp only [place]; have := fieldOf_lt d; have := fieldOf_lt a; have := imm.isLt; omega)
  exact ⟨h.1, congrArg some h.2.symm⟩
theorem ori (sw : Bool) (d : RegName) (a : RegName) (imm : BitVec 10) : Statement (.ori sw d a imm) := by
  have h := asm_major (sw := sw) (m := 0x0B) (l := [(17, fieldOf d), (10, fieldOf a), (0, imm.toNat)]) (by omega) (by simp only [place]; have := fieldOf_lt d; have := fieldOf_lt a; have := imm.isLt; omega)
  exact ⟨h.1, congrArg some h.2.symm⟩
theorem xori (sw : Bool) (d : RegName) (a : RegName) (imm : BitVec 10) : Statement (.xori sw d a imm) := by
  have h := asm_major (sw := sw) (m := 0x0C) (l := [(17, fieldOf d), (10, fieldOf a), (0, imm.toNat)]) (by omega) (by simp only [place]; have := fieldOf_lt d; have := fieldOf_lt a; have := imm.isLt; omega)
  exact ⟨h.1, congrArg some h.2.symm⟩
theorem shli (sw : Bool) (d : RegName) (a : RegName) (n : BitVec 6) : Statement (.shli sw d a n) := by
  have h := asm_major (sw := sw) (m := 0x0D) (l := [(17, fieldOf d), (10, fieldOf a), (0, n.toNat)]) (by omega) (by simp only [place]; have := fieldOf_lt d; have := fieldOf_lt a; have := n.isLt; omega)
  exact ⟨h.1, congrArg some h.2.symm⟩
theorem shri (sw : Bool) (d : RegName) (a : RegName) (n : BitVec 6) : Statement (.shri sw d a n) := by
  have h := asm_major (sw := sw) (m := 0x0D) (l := [(17, fieldOf d), (10, fieldOf a), (0, n.toNat), (7, 1)]) (by omega) (by simp only [place]; have := fieldOf_lt d; have := fieldOf_lt a; have := n.isLt; omega)
  exact ⟨h.1, congrArg some h.2.symm⟩
theorem sari (sw : Bool) (d : RegName) (a : RegName) (n : BitVec 6) : Statement (.sari sw d a n) := by
  have h := asm_major (sw := sw) (m := 0x0D) (l := [(17, fieldOf d), (10, fieldOf a), (0, n.toNat), (7, 2)]) (by omega) (by simp only [place]; have := fieldOf_lt d; have := fieldOf_lt a; have := n.isLt; omega)
  exact ⟨h.1, congrArg some h.2.symm⟩
theorem roli (sw : Bool) (d : RegName) (a : RegName) (n : BitVec 6) : Statement (.roli sw d a n) := by
  have h := asm_major (sw := sw) (m := 0x0D) (l := [(17, fieldOf d), (10, fieldOf a), (0, n.toNat), (7, 3)]) (by omega) (by simp only [place]; have := fieldOf_lt d; have := fieldOf_lt a; have := n.isLt; omega)
  exact ⟨h.1, congrArg some h.2.symm⟩
theorem rori (sw : Bool) (d : RegName) (a : RegName) (n : BitVec 6) : Statement (.rori sw d a n) := by
  have h := asm_major (sw := sw) (m := 0x0D) (l := [(17, fieldOf d), (10, fieldOf a), (0, n.toNat), (7, 4)]) (by omega) (by simp only [place]; have := fieldOf_lt d; have := fieldOf_lt a; have := n.isLt; omega)
  exact ⟨h.1, congrArg some h.2.symm⟩
theorem cmpiEq (sw : Bool) (d : RegName) (a : RegName) (imm : BitVec 7) : Statement (.cmpiEq sw d a imm) := by
  have h := asm_major (sw := sw) (m := 0x0E) (l := [(17, fieldOf d), (10, fieldOf a), (0, imm.toNat)]) (by omega) (by simp only [place]; have := fieldOf_lt d; have := fieldOf_lt a; have := imm.isLt; omega)
  exact ⟨h.1, congrArg some h.2.symm⟩
theorem cmpiNe (sw : Bool) (d : RegName) (a : RegName) (imm : BitVec 7) : Statement (.cmpiNe sw d a imm) := by
  have h := asm_major (sw := sw) (m := 0x0E) (l := [(17, fieldOf d), (10, fieldOf a), (0, imm.toNat), (7, 1)]) (by omega) (by simp only [place]; have := fieldOf_lt d; have := fieldOf_lt a; have := imm.isLt; omega)
  exact ⟨h.1, congrArg some h.2.symm⟩
theorem cmpiLtS (sw : Bool) (d : RegName) (a : RegName) (imm : BitVec 7) : Statement (.cmpiLtS sw d a imm) := by
  have h := asm_major (sw := sw) (m := 0x0E) (l := [(17, fieldOf d), (10, fieldOf a), (0, imm.toNat), (7, 2)]) (by omega) (by simp only [place]; have := fieldOf_lt d; have := fieldOf_lt a; have := imm.isLt; omega)
  exact ⟨h.1, congrArg some h.2.symm⟩
theorem cmpiLeS (sw : Bool) (d : RegName) (a : RegName) (imm : BitVec 7) : Statement (.cmpiLeS sw d a imm) := by
  have h := asm_major (sw := sw) (m := 0x0E) (l := [(17, fieldOf d), (10, fieldOf a), (0, imm.toNat), (7, 3)]) (by omega) (by simp only [place]; have := fieldOf_lt d; have := fieldOf_lt a; have := imm.isLt; omega)
  exact ⟨h.1, congrArg some h.2.symm⟩
theorem cmpiLtN (sw : Bool) (d : RegName) (a : RegName) (imm : BitVec 7) : Statement (.cmpiLtN sw d a imm) := by
  have h := asm_major (sw := sw) (m := 0x0E) (l := [(17, fieldOf d), (10, fieldOf a), (0, imm.toNat), (7, 4)]) (by omega) (by simp only [place]; have := fieldOf_lt d; have := fieldOf_lt a; have := imm.isLt; omega)
  exact ⟨h.1, congrArg some h.2.symm⟩
theorem cmpiLeN (sw : Bool) (d : RegName) (a : RegName) (imm : BitVec 7) : Statement (.cmpiLeN sw d a imm) := by
  have h := asm_major (sw := sw) (m := 0x0E) (l := [(17, fieldOf d), (10, fieldOf a), (0, imm.toNat), (7, 5)]) (by omega) (by simp only [place]; have := fieldOf_lt d; have := fieldOf_lt a; have := imm.isLt; omega)
  exact ⟨h.1, congrArg some h.2.symm⟩
theorem cmpiTst (sw : Bool) (d : RegName) (a : RegName) (imm : BitVec 7) : Statement (.cmpiTst sw d a imm) := by
  have h := asm_major (sw := sw) (m := 0x0E) (l := [(17, fieldOf d), (10, fieldOf a), (0, imm.toNat), (7, 6)]) (by omega) (by simp only [place]; have := fieldOf_lt d; have := fieldOf_lt a; have := imm.isLt; omega)
  exact ⟨h.1, congrArg some h.2.symm⟩
theorem li (sw : Bool) (d : RegName) (imm : BitVec 17) : Statement (.li sw d imm) := by
  have h := asm_major (sw := sw) (m := 0x0F) (l := [(17, fieldOf d), (0, imm.toNat)]) (by omega) (by simp only [place]; have := fieldOf_lt d; have := imm.isLt; omega)
  exact ⟨h.1, congrArg some h.2.symm⟩
theorem lix (sw : Bool) (d : RegName) (imm : BitVec 17) : Statement (.lix sw d imm) := by
  have h := asm_major (sw := sw) (m := 0x10) (l := [(17, fieldOf d), (0, imm.toNat)]) (by omega) (by simp only [place]; have := fieldOf_lt d; have := imm.isLt; omega)
  exact ⟨h.1, congrArg some h.2.symm⟩
theorem addpc (sw : Bool) (d : RegName) (imm : BitVec 17) : Statement (.addpc sw d imm) := by
  have h := asm_major (sw := sw) (m := 0x11) (l := [(17, fieldOf d), (0, imm.toNat)]) (by omega) (by simp only [place]; have := fieldOf_lt d; have := imm.isLt; omega)
  exact ⟨h.1, congrArg some h.2.symm⟩
theorem lea1 (sw : Bool) (d : RegName) (a : RegName) (b : RegName) : Statement (.lea1 sw d a b) := by
  have h := asm_major (sw := sw) (m := 0x12) (l := [(17, fieldOf d), (10, fieldOf a), (3, fieldOf b)]) (by omega) (by simp only [place]; have := fieldOf_lt d; have := fieldOf_lt a; have := fieldOf_lt b; omega)
  exact ⟨h.1, congrArg some h.2.symm⟩
theorem lea2 (sw : Bool) (d : RegName) (a : RegName) (b : RegName) : Statement (.lea2 sw d a b) := by
  have h := asm_major (sw := sw) (m := 0x12) (l := [(17, fieldOf d), (10, fieldOf a), (3, fieldOf b), (0, 1)]) (by omega) (by simp only [place]; have := fieldOf_lt d; have := fieldOf_lt a; have := fieldOf_lt b; omega)
  exact ⟨h.1, congrArg some h.2.symm⟩
theorem lea4 (sw : Bool) (d : RegName) (a : RegName) (b : RegName) : Statement (.lea4 sw d a b) := by
  have h := asm_major (sw := sw) (m := 0x12) (l := [(17, fieldOf d), (10, fieldOf a), (3, fieldOf b), (0, 2)]) (by omega) (by simp only [place]; have := fieldOf_lt d; have := fieldOf_lt a; have := fieldOf_lt b; omega)
  exact ⟨h.1, congrArg some h.2.symm⟩
theorem lea8 (sw : Bool) (d : RegName) (a : RegName) (b : RegName) : Statement (.lea8 sw d a b) := by
  have h := asm_major (sw := sw) (m := 0x12) (l := [(17, fieldOf d), (10, fieldOf a), (3, fieldOf b), (0, 3)]) (by omega) (by simp only [place]; have := fieldOf_lt d; have := fieldOf_lt a; have := fieldOf_lt b; omega)
  exact ⟨h.1, congrArg some h.2.symm⟩
theorem lea16 (sw : Bool) (d : RegName) (a : RegName) (b : RegName) : Statement (.lea16 sw d a b) := by
  have h := asm_major (sw := sw) (m := 0x12) (l := [(17, fieldOf d), (10, fieldOf a), (3, fieldOf b), (0, 4)]) (by omega) (by simp only [place]; have := fieldOf_lt d; have := fieldOf_lt a; have := fieldOf_lt b; omega)
  exact ⟨h.1, congrArg some h.2.symm⟩
theorem paddB (sw : Bool) (d : RegName) (a : RegName) (b : RegName) : Statement (.paddB sw d a b) := by
  have h := asm_major (sw := sw) (m := 0x13) (l := [(17, fieldOf d), (10, fieldOf a), (3, fieldOf b)]) (by omega) (by simp only [place]; have := fieldOf_lt d; have := fieldOf_lt a; have := fieldOf_lt b; omega)
  exact ⟨h.1, congrArg some h.2.symm⟩
theorem paddH (sw : Bool) (d : RegName) (a : RegName) (b : RegName) : Statement (.paddH sw d a b) := by
  have h := asm_major (sw := sw) (m := 0x13) (l := [(17, fieldOf d), (10, fieldOf a), (3, fieldOf b), (0, 1)]) (by omega) (by simp only [place]; have := fieldOf_lt d; have := fieldOf_lt a; have := fieldOf_lt b; omega)
  exact ⟨h.1, congrArg some h.2.symm⟩
theorem paddW (sw : Bool) (d : RegName) (a : RegName) (b : RegName) : Statement (.paddW sw d a b) := by
  have h := asm_major (sw := sw) (m := 0x13) (l := [(17, fieldOf d), (10, fieldOf a), (3, fieldOf b), (0, 2)]) (by omega) (by simp only [place]; have := fieldOf_lt d; have := fieldOf_lt a; have := fieldOf_lt b; omega)
  exact ⟨h.1, congrArg some h.2.symm⟩
theorem psubB (sw : Bool) (d : RegName) (a : RegName) (b : RegName) : Statement (.psubB sw d a b) := by
  have h := asm_major (sw := sw) (m := 0x13) (l := [(17, fieldOf d), (10, fieldOf a), (3, fieldOf b), (0, 3)]) (by omega) (by simp only [place]; have := fieldOf_lt d; have := fieldOf_lt a; have := fieldOf_lt b; omega)
  exact ⟨h.1, congrArg some h.2.symm⟩
theorem psubH (sw : Bool) (d : RegName) (a : RegName) (b : RegName) : Statement (.psubH sw d a b) := by
  have h := asm_major (sw := sw) (m := 0x13) (l := [(17, fieldOf d), (10, fieldOf a), (3, fieldOf b), (0, 4)]) (by omega) (by simp only [place]; have := fieldOf_lt d; have := fieldOf_lt a; have := fieldOf_lt b; omega)
  exact ⟨h.1, congrArg some h.2.symm⟩
theorem psubW (sw : Bool) (d : RegName) (a : RegName) (b : RegName) : Statement (.psubW sw d a b) := by
  have h := asm_major (sw := sw) (m := 0x13) (l := [(17, fieldOf d), (10, fieldOf a), (3, fieldOf b), (0, 5)]) (by omega) (by simp only [place]; have := fieldOf_lt d; have := fieldOf_lt a; have := fieldOf_lt b; omega)
  exact ⟨h.1, congrArg some h.2.symm⟩
theorem paddsB (sw : Bool) (d : RegName) (a : RegName) (b : RegName) : Statement (.paddsB sw d a b) := by
  have h := asm_major (sw := sw) (m := 0x13) (l := [(17, fieldOf d), (10, fieldOf a), (3, fieldOf b), (0, 6)]) (by omega) (by simp only [place]; have := fieldOf_lt d; have := fieldOf_lt a; have := fieldOf_lt b; omega)
  exact ⟨h.1, congrArg some h.2.symm⟩
theorem paddsH (sw : Bool) (d : RegName) (a : RegName) (b : RegName) : Statement (.paddsH sw d a b) := by
  have h := asm_major (sw := sw) (m := 0x13) (l := [(17, fieldOf d), (10, fieldOf a), (3, fieldOf b), (0, 7)]) (by omega) (by simp only [place]; have := fieldOf_lt d; have := fieldOf_lt a; have := fieldOf_lt b; omega)
  exact ⟨h.1, congrArg some h.2.symm⟩
theorem pmulH (sw : Bool) (d : RegName) (a : RegName) (b : RegName) : Statement (.pmulH sw d a b) := by
  have h := asm_major (sw := sw) (m := 0x14) (l := [(17, fieldOf d), (10, fieldOf a), (3, fieldOf b)]) (by omega) (by simp only [place]; have := fieldOf_lt d; have := fieldOf_lt a; have := fieldOf_lt b; omega)
  exact ⟨h.1, congrArg some h.2.symm⟩
theorem pmulW (sw : Bool) (d : RegName) (a : RegName) (b : RegName) : Statement (.pmulW sw d a b) := by
  have h := asm_major (sw := sw) (m := 0x14) (l := [(17, fieldOf d), (10, fieldOf a), (3, fieldOf b), (0, 1)]) (by omega) (by simp only [place]; have := fieldOf_lt d; have := fieldOf_lt a; have := fieldOf_lt b; omega)
  exact ⟨h.1, congrArg some h.2.symm⟩
theorem pdotBS (sw : Bool) (d : RegName) (a : RegName) (b : RegName) : Statement (.pdotBS sw d a b) := by
  have h := asm_major (sw := sw) (m := 0x14) (l := [(17, fieldOf d), (10, fieldOf a), (3, fieldOf b), (0, 2)]) (by omega) (by simp only [place]; have := fieldOf_lt d; have := fieldOf_lt a; have := fieldOf_lt b; omega)
  exact ⟨h.1, congrArg some h.2.symm⟩
theorem pdotBN (sw : Bool) (d : RegName) (a : RegName) (b : RegName) : Statement (.pdotBN sw d a b) := by
  have h := asm_major (sw := sw) (m := 0x14) (l := [(17, fieldOf d), (10, fieldOf a), (3, fieldOf b), (0, 3)]) (by omega) (by simp only [place]; have := fieldOf_lt d; have := fieldOf_lt a; have := fieldOf_lt b; omega)
  exact ⟨h.1, congrArg some h.2.symm⟩
theorem pdotHS (sw : Bool) (d : RegName) (a : RegName) (b : RegName) : Statement (.pdotHS sw d a b) := by
  have h := asm_major (sw := sw) (m := 0x14) (l := [(17, fieldOf d), (10, fieldOf a), (3, fieldOf b), (0, 4)]) (by omega) (by simp only [place]; have := fieldOf_lt d; have := fieldOf_lt a; have := fieldOf_lt b; omega)
  exact ⟨h.1, congrArg some h.2.symm⟩
theorem pmaxHS (sw : Bool) (d : RegName) (a : RegName) (b : RegName) : Statement (.pmaxHS sw d a b) := by
  have h := asm_major (sw := sw) (m := 0x14) (l := [(17, fieldOf d), (10, fieldOf a), (3, fieldOf b), (0, 5)]) (by omega) (by simp only [place]; have := fieldOf_lt d; have := fieldOf_lt a; have := fieldOf_lt b; omega)
  exact ⟨h.1, congrArg some h.2.symm⟩
theorem pminHS (sw : Bool) (d : RegName) (a : RegName) (b : RegName) : Statement (.pminHS sw d a b) := by
  have h := asm_major (sw := sw) (m := 0x14) (l := [(17, fieldOf d), (10, fieldOf a), (3, fieldOf b), (0, 6)]) (by omega) (by simp only [place]; have := fieldOf_lt d; have := fieldOf_lt a; have := fieldOf_lt b; omega)
  exact ⟨h.1, congrArg some h.2.symm⟩
theorem packlo (sw : Bool) (d : RegName) (a : RegName) (b : RegName) : Statement (.packlo sw d a b) := by
  have h := asm_major (sw := sw) (m := 0x15) (l := [(17, fieldOf d), (10, fieldOf a), (3, fieldOf b)]) (by omega) (by simp only [place]; have := fieldOf_lt d; have := fieldOf_lt a; have := fieldOf_lt b; omega)
  exact ⟨h.1, congrArg some h.2.symm⟩
theorem packhi (sw : Bool) (d : RegName) (a : RegName) (b : RegName) : Statement (.packhi sw d a b) := by
  have h := asm_major (sw := sw) (m := 0x15) (l := [(17, fieldOf d), (10, fieldOf a), (3, fieldOf b), (0, 1)]) (by omega) (by simp only [place]; have := fieldOf_lt d; have := fieldOf_lt a; have := fieldOf_lt b; omega)
  exact ⟨h.1, congrArg some h.2.symm⟩
theorem shufb (sw : Bool) (d : RegName) (a : RegName) (b : RegName) : Statement (.shufb sw d a b) := by
  have h := asm_major (sw := sw) (m := 0x15) (l := [(17, fieldOf d), (10, fieldOf a), (3, fieldOf b), (0, 2)]) (by omega) (by simp only [place]; have := fieldOf_lt d; have := fieldOf_lt a; have := fieldOf_lt b; omega)
  exact ⟨h.1, congrArg some h.2.symm⟩
theorem faddS (sw : Bool) (d : RegName) (a : RegName) (b : RegName) : Statement (.faddS sw d a b) := by
  have h := asm_major (sw := sw) (m := 0x20) (l := [(17, fieldOf d), (10, fieldOf a), (3, fieldOf b)]) (by omega) (by simp only [place]; have := fieldOf_lt d; have := fieldOf_lt a; have := fieldOf_lt b; omega)
  exact ⟨h.1, congrArg some h.2.symm⟩
theorem fsubS (sw : Bool) (d : RegName) (a : RegName) (b : RegName) : Statement (.fsubS sw d a b) := by
  have h := asm_major (sw := sw) (m := 0x20) (l := [(17, fieldOf d), (10, fieldOf a), (3, fieldOf b), (0, 1)]) (by omega) (by simp only [place]; have := fieldOf_lt d; have := fieldOf_lt a; have := fieldOf_lt b; omega)
  exact ⟨h.1, congrArg some h.2.symm⟩
theorem fmulS (sw : Bool) (d : RegName) (a : RegName) (b : RegName) : Statement (.fmulS sw d a b) := by
  have h := asm_major (sw := sw) (m := 0x20) (l := [(17, fieldOf d), (10, fieldOf a), (3, fieldOf b), (0, 2)]) (by omega) (by simp only [place]; have := fieldOf_lt d; have := fieldOf_lt a; have := fieldOf_lt b; omega)
  exact ⟨h.1, congrArg some h.2.symm⟩
theorem fdivS (sw : Bool) (d : RegName) (a : RegName) (b : RegName) : Statement (.fdivS sw d a b) := by
  have h := asm_major (sw := sw) (m := 0x20) (l := [(17, fieldOf d), (10, fieldOf a), (3, fieldOf b), (0, 3)]) (by omega) (by simp only [place]; have := fieldOf_lt d; have := fieldOf_lt a; have := fieldOf_lt b; omega)
  exact ⟨h.1, congrArg some h.2.symm⟩
theorem fminS (sw : Bool) (d : RegName) (a : RegName) (b : RegName) : Statement (.fminS sw d a b) := by
  have h := asm_major (sw := sw) (m := 0x20) (l := [(17, fieldOf d), (10, fieldOf a), (3, fieldOf b), (0, 4)]) (by omega) (by simp only [place]; have := fieldOf_lt d; have := fieldOf_lt a; have := fieldOf_lt b; omega)
  exact ⟨h.1, congrArg some h.2.symm⟩
theorem fmaxS (sw : Bool) (d : RegName) (a : RegName) (b : RegName) : Statement (.fmaxS sw d a b) := by
  have h := asm_major (sw := sw) (m := 0x20) (l := [(17, fieldOf d), (10, fieldOf a), (3, fieldOf b), (0, 5)]) (by omega) (by simp only [place]; have := fieldOf_lt d; have := fieldOf_lt a; have := fieldOf_lt b; omega)
  exact ⟨h.1, congrArg some h.2.symm⟩
theorem fabsS (sw : Bool) (d : RegName) (a : RegName) : Statement (.fabsS sw d a) := by
  have h := asm_major (sw := sw) (m := 0x20) (l := [(17, fieldOf d), (10, fieldOf a), (0, 6), (3, 120)]) (by omega) (by simp only [place]; have := fieldOf_lt d; have := fieldOf_lt a; omega)
  exact ⟨h.1, congrArg some h.2.symm⟩
theorem fnegS (sw : Bool) (d : RegName) (a : RegName) : Statement (.fnegS sw d a) := by
  have h := asm_major (sw := sw) (m := 0x20) (l := [(17, fieldOf d), (10, fieldOf a), (0, 7), (3, 120)]) (by omega) (by simp only [place]; have := fieldOf_lt d; have := fieldOf_lt a; omega)
  exact ⟨h.1, congrArg some h.2.symm⟩
theorem fmaS (sw : Bool) (d : RegName) (a : RegName) (b : RegName) : Statement (.fmaS sw d a b) := by
  have h := asm_major (sw := sw) (m := 0x21) (l := [(17, fieldOf d), (10, fieldOf a), (3, fieldOf b)]) (by omega) (by simp only [place]; have := fieldOf_lt d; have := fieldOf_lt a; have := fieldOf_lt b; omega)
  exact ⟨h.1, congrArg some h.2.symm⟩
theorem fmsS (sw : Bool) (d : RegName) (a : RegName) (b : RegName) : Statement (.fmsS sw d a b) := by
  have h := asm_major (sw := sw) (m := 0x21) (l := [(17, fieldOf d), (10, fieldOf a), (3, fieldOf b), (0, 1)]) (by omega) (by simp only [place]; have := fieldOf_lt d; have := fieldOf_lt a; have := fieldOf_lt b; omega)
  exact ⟨h.1, congrArg some h.2.symm⟩
theorem fnmaS (sw : Bool) (d : RegName) (a : RegName) (b : RegName) : Statement (.fnmaS sw d a b) := by
  have h := asm_major (sw := sw) (m := 0x21) (l := [(17, fieldOf d), (10, fieldOf a), (3, fieldOf b), (0, 2)]) (by omega) (by simp only [place]; have := fieldOf_lt d; have := fieldOf_lt a; have := fieldOf_lt b; omega)
  exact ⟨h.1, congrArg some h.2.symm⟩
theorem fmaD (sw : Bool) (d : RegName) (a : RegName) (b : RegName) : Statement (.fmaD sw d a b) := by
  have h := asm_major (sw := sw) (m := 0x21) (l := [(17, fieldOf d), (10, fieldOf a), (3, fieldOf b), (0, 3)]) (by omega) (by simp only [place]; have := fieldOf_lt d; have := fieldOf_lt a; have := fieldOf_lt b; omega)
  exact ⟨h.1, congrArg some h.2.symm⟩
theorem fmsD (sw : Bool) (d : RegName) (a : RegName) (b : RegName) : Statement (.fmsD sw d a b) := by
  have h := asm_major (sw := sw) (m := 0x21) (l := [(17, fieldOf d), (10, fieldOf a), (3, fieldOf b), (0, 4)]) (by omega) (by simp only [place]; have := fieldOf_lt d; have := fieldOf_lt a; have := fieldOf_lt b; omega)
  exact ⟨h.1, congrArg some h.2.symm⟩
theorem fnmaD (sw : Bool) (d : RegName) (a : RegName) (b : RegName) : Statement (.fnmaD sw d a b) := by
  have h := asm_major (sw := sw) (m := 0x21) (l := [(17, fieldOf d), (10, fieldOf a), (3, fieldOf b), (0, 5)]) (by omega) (by simp only [place]; have := fieldOf_lt d; have := fieldOf_lt a; have := fieldOf_lt b; omega)
  exact ⟨h.1, congrArg some h.2.symm⟩
theorem faddD (sw : Bool) (d : RegName) (a : RegName) (b : RegName) : Statement (.faddD sw d a b) := by
  have h := asm_major (sw := sw) (m := 0x22) (l := [(17, fieldOf d), (10, fieldOf a), (3, fieldOf b)]) (by omega) (by simp only [place]; have := fieldOf_lt d; have := fieldOf_lt a; have := fieldOf_lt b; omega)
  exact ⟨h.1, congrArg some h.2.symm⟩
theorem fsubD (sw : Bool) (d : RegName) (a : RegName) (b : RegName) : Statement (.fsubD sw d a b) := by
  have h := asm_major (sw := sw) (m := 0x22) (l := [(17, fieldOf d), (10, fieldOf a), (3, fieldOf b), (0, 1)]) (by omega) (by simp only [place]; have := fieldOf_lt d; have := fieldOf_lt a; have := fieldOf_lt b; omega)
  exact ⟨h.1, congrArg some h.2.symm⟩
theorem fmulD (sw : Bool) (d : RegName) (a : RegName) (b : RegName) : Statement (.fmulD sw d a b) := by
  have h := asm_major (sw := sw) (m := 0x22) (l := [(17, fieldOf d), (10, fieldOf a), (3, fieldOf b), (0, 2)]) (by omega) (by simp only [place]; have := fieldOf_lt d; have := fieldOf_lt a; have := fieldOf_lt b; omega)
  exact ⟨h.1, congrArg some h.2.symm⟩
theorem fdivD (sw : Bool) (d : RegName) (a : RegName) (b : RegName) : Statement (.fdivD sw d a b) := by
  have h := asm_major (sw := sw) (m := 0x22) (l := [(17, fieldOf d), (10, fieldOf a), (3, fieldOf b), (0, 3)]) (by omega) (by simp only [place]; have := fieldOf_lt d; have := fieldOf_lt a; have := fieldOf_lt b; omega)
  exact ⟨h.1, congrArg some h.2.symm⟩
theorem fminD (sw : Bool) (d : RegName) (a : RegName) (b : RegName) : Statement (.fminD sw d a b) := by
  have h := asm_major (sw := sw) (m := 0x22) (l := [(17, fieldOf d), (10, fieldOf a), (3, fieldOf b), (0, 4)]) (by omega) (by simp only [place]; have := fieldOf_lt d; have := fieldOf_lt a; have := fieldOf_lt b; omega)
  exact ⟨h.1, congrArg some h.2.symm⟩
theorem fmaxD (sw : Bool) (d : RegName) (a : RegName) (b : RegName) : Statement (.fmaxD sw d a b) := by
  have h := asm_major (sw := sw) (m := 0x22) (l := [(17, fieldOf d), (10, fieldOf a), (3, fieldOf b), (0, 5)]) (by omega) (by simp only [place]; have := fieldOf_lt d; have := fieldOf_lt a; have := fieldOf_lt b; omega)
  exact ⟨h.1, congrArg some h.2.symm⟩
theorem fabsD (sw : Bool) (d : RegName) (a : RegName) : Statement (.fabsD sw d a) := by
  have h := asm_major (sw := sw) (m := 0x22) (l := [(17, fieldOf d), (10, fieldOf a), (0, 6), (3, 120)]) (by omega) (by simp only [place]; have := fieldOf_lt d; have := fieldOf_lt a; omega)
  exact ⟨h.1, congrArg some h.2.symm⟩
theorem fnegD (sw : Bool) (d : RegName) (a : RegName) : Statement (.fnegD sw d a) := by
  have h := asm_major (sw := sw) (m := 0x22) (l := [(17, fieldOf d), (10, fieldOf a), (0, 7), (3, 120)]) (by omega) (by simp only [place]; have := fieldOf_lt d; have := fieldOf_lt a; omega)
  exact ⟨h.1, congrArg some h.2.symm⟩
theorem fadd2s (sw : Bool) (d : RegName) (a : RegName) (b : RegName) : Statement (.fadd2s sw d a b) := by
  have h := asm_major (sw := sw) (m := 0x23) (l := [(17, fieldOf d), (10, fieldOf a), (3, fieldOf b)]) (by omega) (by simp only [place]; have := fieldOf_lt d; have := fieldOf_lt a; have := fieldOf_lt b; omega)
  exact ⟨h.1, congrArg some h.2.symm⟩
theorem fsub2s (sw : Bool) (d : RegName) (a : RegName) (b : RegName) : Statement (.fsub2s sw d a b) := by
  have h := asm_major (sw := sw) (m := 0x23) (l := [(17, fieldOf d), (10, fieldOf a), (3, fieldOf b), (0, 1)]) (by omega) (by simp only [place]; have := fieldOf_lt d; have := fieldOf_lt a; have := fieldOf_lt b; omega)
  exact ⟨h.1, congrArg some h.2.symm⟩
theorem fmul2s (sw : Bool) (d : RegName) (a : RegName) (b : RegName) : Statement (.fmul2s sw d a b) := by
  have h := asm_major (sw := sw) (m := 0x23) (l := [(17, fieldOf d), (10, fieldOf a), (3, fieldOf b), (0, 2)]) (by omega) (by simp only [place]; have := fieldOf_lt d; have := fieldOf_lt a; have := fieldOf_lt b; omega)
  exact ⟨h.1, congrArg some h.2.symm⟩
theorem fma2s (sw : Bool) (d : RegName) (a : RegName) (b : RegName) : Statement (.fma2s sw d a b) := by
  have h := asm_major (sw := sw) (m := 0x23) (l := [(17, fieldOf d), (10, fieldOf a), (3, fieldOf b), (0, 3)]) (by omega) (by simp only [place]; have := fieldOf_lt d; have := fieldOf_lt a; have := fieldOf_lt b; omega)
  exact ⟨h.1, congrArg some h.2.symm⟩
theorem fadd4h (sw : Bool) (d : RegName) (a : RegName) (b : RegName) : Statement (.fadd4h sw d a b) := by
  have h := asm_major (sw := sw) (m := 0x23) (l := [(17, fieldOf d), (10, fieldOf a), (3, fieldOf b), (0, 4)]) (by omega) (by simp only [place]; have := fieldOf_lt d; have := fieldOf_lt a; have := fieldOf_lt b; omega)
  exact ⟨h.1, congrArg some h.2.symm⟩
theorem fmul4h (sw : Bool) (d : RegName) (a : RegName) (b : RegName) : Statement (.fmul4h sw d a b) := by
  have h := asm_major (sw := sw) (m := 0x23) (l := [(17, fieldOf d), (10, fieldOf a), (3, fieldOf b), (0, 5)]) (by omega) (by simp only [place]; have := fieldOf_lt d; have := fieldOf_lt a; have := fieldOf_lt b; omega)
  exact ⟨h.1, congrArg some h.2.symm⟩
theorem fma4h (sw : Bool) (d : RegName) (a : RegName) (b : RegName) : Statement (.fma4h sw d a b) := by
  have h := asm_major (sw := sw) (m := 0x23) (l := [(17, fieldOf d), (10, fieldOf a), (3, fieldOf b), (0, 6)]) (by omega) (by simp only [place]; have := fieldOf_lt d; have := fieldOf_lt a; have := fieldOf_lt b; omega)
  exact ⟨h.1, congrArg some h.2.symm⟩
theorem fma4b (sw : Bool) (d : RegName) (a : RegName) (b : RegName) : Statement (.fma4b sw d a b) := by
  have h := asm_major (sw := sw) (m := 0x23) (l := [(17, fieldOf d), (10, fieldOf a), (3, fieldOf b), (0, 7)]) (by omega) (by simp only [place]; have := fieldOf_lt d; have := fieldOf_lt a; have := fieldOf_lt b; omega)
  exact ⟨h.1, congrArg some h.2.symm⟩
theorem feqS (sw : Bool) (d : RegName) (a : RegName) (b : RegName) : Statement (.feqS sw d a b) := by
  have h := asm_major (sw := sw) (m := 0x24) (l := [(17, fieldOf d), (10, fieldOf a), (3, fieldOf b)]) (by omega) (by simp only [place]; have := fieldOf_lt d; have := fieldOf_lt a; have := fieldOf_lt b; omega)
  exact ⟨h.1, congrArg some h.2.symm⟩
theorem fltS (sw : Bool) (d : RegName) (a : RegName) (b : RegName) : Statement (.fltS sw d a b) := by
  have h := asm_major (sw := sw) (m := 0x24) (l := [(17, fieldOf d), (10, fieldOf a), (3, fieldOf b), (0, 1)]) (by omega) (by simp only [place]; have := fieldOf_lt d; have := fieldOf_lt a; have := fieldOf_lt b; omega)
  exact ⟨h.1, congrArg some h.2.symm⟩
theorem fleS (sw : Bool) (d : RegName) (a : RegName) (b : RegName) : Statement (.fleS sw d a b) := by
  have h := asm_major (sw := sw) (m := 0x24) (l := [(17, fieldOf d), (10, fieldOf a), (3, fieldOf b), (0, 2)]) (by omega) (by simp only [place]; have := fieldOf_lt d; have := fieldOf_lt a; have := fieldOf_lt b; omega)
  exact ⟨h.1, congrArg some h.2.symm⟩
theorem funS (sw : Bool) (d : RegName) (a : RegName) (b : RegName) : Statement (.funS sw d a b) := by
  have h := asm_major (sw := sw) (m := 0x24) (l := [(17, fieldOf d), (10, fieldOf a), (3, fieldOf b), (0, 3)]) (by omega) (by simp only [place]; have := fieldOf_lt d; have := fieldOf_lt a; have := fieldOf_lt b; omega)
  exact ⟨h.1, congrArg some h.2.symm⟩
theorem feqD (sw : Bool) (d : RegName) (a : RegName) (b : RegName) : Statement (.feqD sw d a b) := by
  have h := asm_major (sw := sw) (m := 0x24) (l := [(17, fieldOf d), (10, fieldOf a), (3, fieldOf b), (0, 4)]) (by omega) (by simp only [place]; have := fieldOf_lt d; have := fieldOf_lt a; have := fieldOf_lt b; omega)
  exact ⟨h.1, congrArg some h.2.symm⟩
theorem fltD (sw : Bool) (d : RegName) (a : RegName) (b : RegName) : Statement (.fltD sw d a b) := by
  have h := asm_major (sw := sw) (m := 0x24) (l := [(17, fieldOf d), (10, fieldOf a), (3, fieldOf b), (0, 5)]) (by omega) (by simp only [place]; have := fieldOf_lt d; have := fieldOf_lt a; have := fieldOf_lt b; omega)
  exact ⟨h.1, congrArg some h.2.symm⟩
theorem fleD (sw : Bool) (d : RegName) (a : RegName) (b : RegName) : Statement (.fleD sw d a b) := by
  have h := asm_major (sw := sw) (m := 0x24) (l := [(17, fieldOf d), (10, fieldOf a), (3, fieldOf b), (0, 6)]) (by omega) (by simp only [place]; have := fieldOf_lt d; have := fieldOf_lt a; have := fieldOf_lt b; omega)
  exact ⟨h.1, congrArg some h.2.symm⟩
theorem fclass (sw : Bool) (d : RegName) (a : RegName) : Statement (.fclass sw d a) := by
  have h := asm_major (sw := sw) (m := 0x24) (l := [(17, fieldOf d), (10, fieldOf a), (0, 7), (3, 120)]) (by omega) (by simp only [place]; have := fieldOf_lt d; have := fieldOf_lt a; omega)
  exact ⟨h.1, congrArg some h.2.symm⟩
theorem frcpS (sw : Bool) (d : RegName) (a : RegName) : Statement (.frcpS sw d a) := by
  have h := asm_major (sw := sw) (m := 0x25) (l := [(17, fieldOf d), (10, fieldOf a), (3, 120)]) (by omega) (by simp only [place]; have := fieldOf_lt d; have := fieldOf_lt a; omega)
  exact ⟨h.1, congrArg some h.2.symm⟩
theorem frsqS (sw : Bool) (d : RegName) (a : RegName) : Statement (.frsqS sw d a) := by
  have h := asm_major (sw := sw) (m := 0x25) (l := [(17, fieldOf d), (10, fieldOf a), (0, 1), (3, 120)]) (by omega) (by simp only [place]; have := fieldOf_lt d; have := fieldOf_lt a; omega)
  exact ⟨h.1, congrArg some h.2.symm⟩
theorem fsqrtS (sw : Bool) (d : RegName) (a : RegName) : Statement (.fsqrtS sw d a) := by
  have h := asm_major (sw := sw) (m := 0x25) (l := [(17, fieldOf d), (10, fieldOf a), (0, 2), (3, 120)]) (by omega) (by simp only [place]; have := fieldOf_lt d; have := fieldOf_lt a; omega)
  exact ⟨h.1, congrArg some h.2.symm⟩
theorem fexp2S (sw : Bool) (d : RegName) (a : RegName) : Statement (.fexp2S sw d a) := by
  have h := asm_major (sw := sw) (m := 0x25) (l := [(17, fieldOf d), (10, fieldOf a), (0, 3), (3, 120)]) (by omega) (by simp only [place]; have := fieldOf_lt d; have := fieldOf_lt a; omega)
  exact ⟨h.1, congrArg some h.2.symm⟩
theorem flog2S (sw : Bool) (d : RegName) (a : RegName) : Statement (.flog2S sw d a) := by
  have h := asm_major (sw := sw) (m := 0x25) (l := [(17, fieldOf d), (10, fieldOf a), (0, 4), (3, 120)]) (by omega) (by simp only [place]; have := fieldOf_lt d; have := fieldOf_lt a; omega)
  exact ⟨h.1, congrArg some h.2.symm⟩
theorem fsinpiS (sw : Bool) (d : RegName) (a : RegName) : Statement (.fsinpiS sw d a) := by
  have h := asm_major (sw := sw) (m := 0x25) (l := [(17, fieldOf d), (10, fieldOf a), (0, 5), (3, 120)]) (by omega) (by simp only [place]; have := fieldOf_lt d; have := fieldOf_lt a; omega)
  exact ⟨h.1, congrArg some h.2.symm⟩
theorem fcospiS (sw : Bool) (d : RegName) (a : RegName) : Statement (.fcospiS sw d a) := by
  have h := asm_major (sw := sw) (m := 0x25) (l := [(17, fieldOf d), (10, fieldOf a), (0, 6), (3, 120)]) (by omega) (by simp only [place]; have := fieldOf_lt d; have := fieldOf_lt a; omega)
  exact ⟨h.1, congrArg some h.2.symm⟩
theorem ftanhS (sw : Bool) (d : RegName) (a : RegName) : Statement (.ftanhS sw d a) := by
  have h := asm_major (sw := sw) (m := 0x25) (l := [(17, fieldOf d), (10, fieldOf a), (0, 7), (3, 120)]) (by omega) (by simp only [place]; have := fieldOf_lt d; have := fieldOf_lt a; omega)
  exact ⟨h.1, congrArg some h.2.symm⟩
theorem fcvt (sw : Bool) (d : RegName) (a : RegName) (conv : BitVec 7) (rm : BitVec 3) : Statement (.fcvt sw d a conv rm) := by
  have h := asm_major (sw := sw) (m := 0x26) (l := [(17, fieldOf d), (10, fieldOf a), (3, conv.toNat), (0, rm.toNat)]) (by omega) (by simp only [place]; have := fieldOf_lt d; have := fieldOf_lt a; have := conv.isLt; have := rm.isLt; omega)
  exact ⟨h.1, congrArg some h.2.symm⟩
theorem fsgnjS (sw : Bool) (d : RegName) (a : RegName) (b : RegName) : Statement (.fsgnjS sw d a b) := by
  have h := asm_major (sw := sw) (m := 0x27) (l := [(17, fieldOf d), (10, fieldOf a), (3, fieldOf b)]) (by omega) (by simp only [place]; have := fieldOf_lt d; have := fieldOf_lt a; have := fieldOf_lt b; omega)
  exact ⟨h.1, congrArg some h.2.symm⟩
theorem fsgnjnS (sw : Bool) (d : RegName) (a : RegName) (b : RegName) : Statement (.fsgnjnS sw d a b) := by
  have h := asm_major (sw := sw) (m := 0x27) (l := [(17, fieldOf d), (10, fieldOf a), (3, fieldOf b), (0, 1)]) (by omega) (by simp only [place]; have := fieldOf_lt d; have := fieldOf_lt a; have := fieldOf_lt b; omega)
  exact ⟨h.1, congrArg some h.2.symm⟩
theorem fsgnjxS (sw : Bool) (d : RegName) (a : RegName) (b : RegName) : Statement (.fsgnjxS sw d a b) := by
  have h := asm_major (sw := sw) (m := 0x27) (l := [(17, fieldOf d), (10, fieldOf a), (3, fieldOf b), (0, 2)]) (by omega) (by simp only [place]; have := fieldOf_lt d; have := fieldOf_lt a; have := fieldOf_lt b; omega)
  exact ⟨h.1, congrArg some h.2.symm⟩
theorem frintS (sw : Bool) (d : RegName) (a : RegName) : Statement (.frintS sw d a) := by
  have h := asm_major (sw := sw) (m := 0x27) (l := [(17, fieldOf d), (10, fieldOf a), (0, 3), (3, 120)]) (by omega) (by simp only [place]; have := fieldOf_lt d; have := fieldOf_lt a; omega)
  exact ⟨h.1, congrArg some h.2.symm⟩
theorem frintD (sw : Bool) (d : RegName) (a : RegName) : Statement (.frintD sw d a) := by
  have h := asm_major (sw := sw) (m := 0x27) (l := [(17, fieldOf d), (10, fieldOf a), (0, 4), (3, 120)]) (by omega) (by simp only [place]; have := fieldOf_lt d; have := fieldOf_lt a; omega)
  exact ⟨h.1, congrArg some h.2.symm⟩
theorem fsqrtD (sw : Bool) (d : RegName) (a : RegName) : Statement (.fsqrtD sw d a) := by
  have h := asm_major (sw := sw) (m := 0x27) (l := [(17, fieldOf d), (10, fieldOf a), (0, 5), (3, 120)]) (by omega) (by simp only [place]; have := fieldOf_lt d; have := fieldOf_lt a; omega)
  exact ⟨h.1, congrArg some h.2.symm⟩
theorem fscaleS (sw : Bool) (d : RegName) (a : RegName) (b : RegName) : Statement (.fscaleS sw d a b) := by
  have h := asm_major (sw := sw) (m := 0x27) (l := [(17, fieldOf d), (10, fieldOf a), (3, fieldOf b), (0, 6)]) (by omega) (by simp only [place]; have := fieldOf_lt d; have := fieldOf_lt a; have := fieldOf_lt b; omega)
  exact ⟨h.1, congrArg some h.2.symm⟩
theorem bnz (sw : Bool) (a : RegName) (off : BitVec 17) : Statement (.bnz sw a off) := by
  have h := asm_major (sw := sw) (m := 0x30) (l := [(17, fieldOf a), (0, off.toNat)]) (by omega) (by simp only [place]; have := fieldOf_lt a; have := off.isLt; omega)
  exact ⟨h.1, congrArg some h.2.symm⟩
theorem bz (sw : Bool) (a : RegName) (off : BitVec 17) : Statement (.bz sw a off) := by
  have h := asm_major (sw := sw) (m := 0x31) (l := [(17, fieldOf a), (0, off.toNat)]) (by omega) (by simp only [place]; have := fieldOf_lt a; have := off.isLt; omega)
  exact ⟨h.1, congrArg some h.2.symm⟩
theorem jmp (sw : Bool) (off : BitVec 24) : Statement (.jmp sw off) := by
  have h := asm_major (sw := sw) (m := 0x32) (l := [(0, off.toNat)]) (by omega) (by simp only [place]; have := off.isLt; omega)
  exact ⟨h.1, congrArg some h.2.symm⟩
theorem call (sw : Bool) (off : BitVec 24) : Statement (.call sw off) := by
  have h := asm_major (sw := sw) (m := 0x33) (l := [(0, off.toNat)]) (by omega) (by simp only [place]; have := off.isLt; omega)
  exact ⟨h.1, congrArg some h.2.symm⟩
theorem jr (sw : Bool) (a : RegName) : Statement (.jr sw a) := by
  have h := asm_major (sw := sw) (m := 0x34) (l := [(10, fieldOf a)]) (by omega) (by simp only [place]; have := fieldOf_lt a; omega)
  exact ⟨h.1, congrArg some h.2.symm⟩
theorem jalr (sw : Bool) (d : RegName) (a : RegName) : Statement (.jalr sw d a) := by
  have h := asm_major (sw := sw) (m := 0x34) (l := [(17, fieldOf d), (10, fieldOf a), (0, 1)]) (by omega) (by simp only [place]; have := fieldOf_lt d; have := fieldOf_lt a; omega)
  exact ⟨h.1, congrArg some h.2.symm⟩
theorem ifOp (sw : Bool) (a : RegName) (off : BitVec 17) : Statement (.ifOp sw a off) := by
  have h := asm_major (sw := sw) (m := 0x35) (l := [(17, fieldOf a), (0, off.toNat)]) (by omega) (by simp only [place]; have := fieldOf_lt a; have := off.isLt; omega)
  exact ⟨h.1, congrArg some h.2.symm⟩
theorem elseOp (sw : Bool) (off : BitVec 24) : Statement (.elseOp sw off) := by
  have h := asm_major (sw := sw) (m := 0x36) (l := [(0, off.toNat)]) (by omega) (by simp only [place]; have := off.isLt; omega)
  exact ⟨h.1, congrArg some h.2.symm⟩
theorem endif (sw : Bool) : Statement (.endif sw) := by
  have h := asm_major (sw := sw) (m := 0x37) (l := []) (by omega) (by simp only [place]; omega)
  exact ⟨h.1, congrArg some h.2.symm⟩
theorem loop (sw : Bool) (a : RegName) (off : BitVec 17) : Statement (.loop sw a off) := by
  have h := asm_major (sw := sw) (m := 0x38) (l := [(17, fieldOf a), (0, off.toNat)]) (by omega) (by simp only [place]; have := fieldOf_lt a; have := off.isLt; omega)
  exact ⟨h.1, congrArg some h.2.symm⟩
theorem endloop (sw : Bool) : Statement (.endloop sw) := by
  have h := asm_major (sw := sw) (m := 0x39) (l := []) (by omega) (by simp only [place]; omega)
  exact ⟨h.1, congrArg some h.2.symm⟩
theorem brk (sw : Bool) : Statement (.brk sw) := by
  have h := asm_major (sw := sw) (m := 0x3A) (l := []) (by omega) (by simp only [place]; omega)
  exact ⟨h.1, congrArg some h.2.symm⟩
theorem cont (sw : Bool) : Statement (.cont sw) := by
  have h := asm_major (sw := sw) (m := 0x3A) (l := [(0, 1)]) (by omega) (by simp only [place]; omega)
  exact ⟨h.1, congrArg some h.2.symm⟩
theorem idem (sw : Bool) : Statement (.idem sw) := by
  have h := asm_major (sw := sw) (m := 0x3A) (l := [(0, 2)]) (by omega) (by simp only [place]; omega)
  exact ⟨h.1, congrArg some h.2.symm⟩
theorem fuse (sw : Bool) (d : RegName) (a : RegName) (imm : BitVec 10) : Statement (.fuse sw d a imm) := by
  have h := asm_major (sw := sw) (m := 0x3B) (l := [(17, fieldOf d), (10, fieldOf a), (0, imm.toNat)]) (by omega) (by simp only [place]; have := fieldOf_lt d; have := fieldOf_lt a; have := imm.isLt; omega)
  exact ⟨h.1, congrArg some h.2.symm⟩
theorem split (sw : Bool) (d : RegName) : Statement (.split sw d) := by
  have h := asm_major (sw := sw) (m := 0x3C) (l := [(17, fieldOf d)]) (by omega) (by simp only [place]; have := fieldOf_lt d; omega)
  exact ⟨h.1, congrArg some h.2.symm⟩
theorem rejoin (sw : Bool) (d : RegName) (a : RegName) : Statement (.rejoin sw d a) := by
  have h := asm_major (sw := sw) (m := 0x3C) (l := [(17, fieldOf d), (10, fieldOf a), (0, 1)]) (by omega) (by simp only [place]; have := fieldOf_lt d; have := fieldOf_lt a; omega)
  exact ⟨h.1, congrArg some h.2.symm⟩
theorem wbase (sw : Bool) (n : BitVec 6) : Statement (.wbase sw n) := by
  have h := asm_major (sw := sw) (m := 0x3D) (l := [(0, n.toNat)]) (by omega) (by simp only [place]; have := n.isLt; omega)
  exact ⟨h.1, congrArg some h.2.symm⟩
theorem shflIdx (sw : Bool) (d : RegName) (a : RegName) (b : RegName) : Statement (.shflIdx sw d a b) := by
  have h := asm_major (sw := sw) (m := 0x3E) (l := [(17, fieldOf d), (10, fieldOf a), (3, fieldOf b)]) (by omega) (by simp only [place]; have := fieldOf_lt d; have := fieldOf_lt a; have := fieldOf_lt b; omega)
  exact ⟨h.1, congrArg some h.2.symm⟩
theorem shflXor (sw : Bool) (d : RegName) (a : RegName) (b : RegName) : Statement (.shflXor sw d a b) := by
  have h := asm_major (sw := sw) (m := 0x3E) (l := [(17, fieldOf d), (10, fieldOf a), (3, fieldOf b), (0, 1)]) (by omega) (by simp only [place]; have := fieldOf_lt d; have := fieldOf_lt a; have := fieldOf_lt b; omega)
  exact ⟨h.1, congrArg some h.2.symm⟩
theorem shflUp (sw : Bool) (d : RegName) (a : RegName) (b : RegName) : Statement (.shflUp sw d a b) := by
  have h := asm_major (sw := sw) (m := 0x3E) (l := [(17, fieldOf d), (10, fieldOf a), (3, fieldOf b), (0, 2)]) (by omega) (by simp only [place]; have := fieldOf_lt d; have := fieldOf_lt a; have := fieldOf_lt b; omega)
  exact ⟨h.1, congrArg some h.2.symm⟩
theorem shflDn (sw : Bool) (d : RegName) (a : RegName) (b : RegName) : Statement (.shflDn sw d a b) := by
  have h := asm_major (sw := sw) (m := 0x3E) (l := [(17, fieldOf d), (10, fieldOf a), (3, fieldOf b), (0, 3)]) (by omega) (by simp only [place]; have := fieldOf_lt d; have := fieldOf_lt a; have := fieldOf_lt b; omega)
  exact ⟨h.1, congrArg some h.2.symm⟩
theorem voteAny (sw : Bool) (d : RegName) (a : RegName) : Statement (.voteAny sw d a) := by
  have h := asm_major (sw := sw) (m := 0x3E) (l := [(17, fieldOf d), (10, fieldOf a), (0, 4), (3, 120)]) (by omega) (by simp only [place]; have := fieldOf_lt d; have := fieldOf_lt a; omega)
  exact ⟨h.1, congrArg some h.2.symm⟩
theorem voteAll (sw : Bool) (d : RegName) (a : RegName) : Statement (.voteAll sw d a) := by
  have h := asm_major (sw := sw) (m := 0x3E) (l := [(17, fieldOf d), (10, fieldOf a), (0, 5), (3, 120)]) (by omega) (by simp only [place]; have := fieldOf_lt d; have := fieldOf_lt a; omega)
  exact ⟨h.1, congrArg some h.2.symm⟩
theorem voteBal (sw : Bool) (d : RegName) (a : RegName) : Statement (.voteBal sw d a) := by
  have h := asm_major (sw := sw) (m := 0x3E) (l := [(17, fieldOf d), (10, fieldOf a), (0, 6), (3, 120)]) (by omega) (by simp only [place]; have := fieldOf_lt d; have := fieldOf_lt a; omega)
  exact ⟨h.1, congrArg some h.2.symm⟩
theorem bcast (sw : Bool) (d : RegName) (a : RegName) (b : RegName) : Statement (.bcast sw d a b) := by
  have h := asm_major (sw := sw) (m := 0x3E) (l := [(17, fieldOf d), (10, fieldOf a), (3, fieldOf b), (0, 7)]) (by omega) (by simp only [place]; have := fieldOf_lt d; have := fieldOf_lt a; have := fieldOf_lt b; omega)
  exact ⟨h.1, congrArg some h.2.symm⟩
theorem gredAdd (sw : Bool) (d : RegName) (a : RegName) : Statement (.gredAdd sw d a) := by
  have h := asm_major (sw := sw) (m := 0x3F) (l := [(17, fieldOf d), (10, fieldOf a), (3, 120)]) (by omega) (by simp only [place]; have := fieldOf_lt d; have := fieldOf_lt a; omega)
  exact ⟨h.1, congrArg some h.2.symm⟩
theorem gredMinS (sw : Bool) (d : RegName) (a : RegName) : Statement (.gredMinS sw d a) := by
  have h := asm_major (sw := sw) (m := 0x3F) (l := [(17, fieldOf d), (10, fieldOf a), (0, 1), (3, 120)]) (by omega) (by simp only [place]; have := fieldOf_lt d; have := fieldOf_lt a; omega)
  exact ⟨h.1, congrArg some h.2.symm⟩
theorem gredMaxS (sw : Bool) (d : RegName) (a : RegName) : Statement (.gredMaxS sw d a) := by
  have h := asm_major (sw := sw) (m := 0x3F) (l := [(17, fieldOf d), (10, fieldOf a), (0, 2), (3, 120)]) (by omega) (by simp only [place]; have := fieldOf_lt d; have := fieldOf_lt a; omega)
  exact ⟨h.1, congrArg some h.2.symm⟩
theorem gredFaddS (sw : Bool) (d : RegName) (a : RegName) : Statement (.gredFaddS sw d a) := by
  have h := asm_major (sw := sw) (m := 0x3F) (l := [(17, fieldOf d), (10, fieldOf a), (0, 3), (3, 120)]) (by omega) (by simp only [place]; have := fieldOf_lt d; have := fieldOf_lt a; omega)
  exact ⟨h.1, congrArg some h.2.symm⟩
theorem gredAnd (sw : Bool) (d : RegName) (a : RegName) : Statement (.gredAnd sw d a) := by
  have h := asm_major (sw := sw) (m := 0x3F) (l := [(17, fieldOf d), (10, fieldOf a), (0, 4), (3, 120)]) (by omega) (by simp only [place]; have := fieldOf_lt d; have := fieldOf_lt a; omega)
  exact ⟨h.1, congrArg some h.2.symm⟩
theorem gredOr (sw : Bool) (d : RegName) (a : RegName) : Statement (.gredOr sw d a) := by
  have h := asm_major (sw := sw) (m := 0x3F) (l := [(17, fieldOf d), (10, fieldOf a), (0, 5), (3, 120)]) (by omega) (by simp only [place]; have := fieldOf_lt d; have := fieldOf_lt a; omega)
  exact ⟨h.1, congrArg some h.2.symm⟩
theorem gredXor (sw : Bool) (d : RegName) (a : RegName) : Statement (.gredXor sw d a) := by
  have h := asm_major (sw := sw) (m := 0x3F) (l := [(17, fieldOf d), (10, fieldOf a), (0, 6), (3, 120)]) (by omega) (by simp only [place]; have := fieldOf_lt d; have := fieldOf_lt a; omega)
  exact ⟨h.1, congrArg some h.2.symm⟩
theorem gscanAdd (sw : Bool) (d : RegName) (a : RegName) : Statement (.gscanAdd sw d a) := by
  have h := asm_major (sw := sw) (m := 0x3F) (l := [(17, fieldOf d), (10, fieldOf a), (0, 7), (3, 120)]) (by omega) (by simp only [place]; have := fieldOf_lt d; have := fieldOf_lt a; omega)
  exact ⟨h.1, congrArg some h.2.symm⟩
theorem ldBS (sw : Bool) (d : RegName) (base : RegName) (off : BitVec 10) : Statement (.ldBS sw d base off) := by
  have h := asm_major (sw := sw) (m := 0x40) (l := [(17, fieldOf d), (10, fieldOf base), (0, off.toNat)]) (by omega) (by simp only [place]; have := fieldOf_lt d; have := fieldOf_lt base; have := off.isLt; omega)
  exact ⟨h.1, congrArg some h.2.symm⟩
theorem ldBN (sw : Bool) (d : RegName) (base : RegName) (off : BitVec 10) : Statement (.ldBN sw d base off) := by
  have h := asm_major (sw := sw) (m := 0x41) (l := [(17, fieldOf d), (10, fieldOf base), (0, off.toNat)]) (by omega) (by simp only [place]; have := fieldOf_lt d; have := fieldOf_lt base; have := off.isLt; omega)
  exact ⟨h.1, congrArg some h.2.symm⟩
theorem ldHS (sw : Bool) (d : RegName) (base : RegName) (off : BitVec 10) : Statement (.ldHS sw d base off) := by
  have h := asm_major (sw := sw) (m := 0x42) (l := [(17, fieldOf d), (10, fieldOf base), (0, off.toNat)]) (by omega) (by simp only [place]; have := fieldOf_lt d; have := fieldOf_lt base; have := off.isLt; omega)
  exact ⟨h.1, congrArg some h.2.symm⟩
theorem ldHN (sw : Bool) (d : RegName) (base : RegName) (off : BitVec 10) : Statement (.ldHN sw d base off) := by
  have h := asm_major (sw := sw) (m := 0x43) (l := [(17, fieldOf d), (10, fieldOf base), (0, off.toNat)]) (by omega) (by simp only [place]; have := fieldOf_lt d; have := fieldOf_lt base; have := off.isLt; omega)
  exact ⟨h.1, congrArg some h.2.symm⟩
theorem ldWS (sw : Bool) (d : RegName) (base : RegName) (off : BitVec 10) : Statement (.ldWS sw d base off) := by
  have h := asm_major (sw := sw) (m := 0x44) (l := [(17, fieldOf d), (10, fieldOf base), (0, off.toNat)]) (by omega) (by simp only [place]; have := fieldOf_lt d; have := fieldOf_lt base; have := off.isLt; omega)
  exact ⟨h.1, congrArg some h.2.symm⟩
theorem ldWN (sw : Bool) (d : RegName) (base : RegName) (off : BitVec 10) : Statement (.ldWN sw d base off) := by
  have h := asm_major (sw := sw) (m := 0x45) (l := [(17, fieldOf d), (10, fieldOf base), (0, off.toNat)]) (by omega) (by simp only [place]; have := fieldOf_lt d; have := fieldOf_lt base; have := off.isLt; omega)
  exact ⟨h.1, congrArg some h.2.symm⟩
theorem ldD (sw : Bool) (d : RegName) (base : RegName) (off : BitVec 10) : Statement (.ldD sw d base off) := by
  have h := asm_major (sw := sw) (m := 0x46) (l := [(17, fieldOf d), (10, fieldOf base), (0, off.toNat)]) (by omega) (by simp only [place]; have := fieldOf_lt d; have := fieldOf_lt base; have := off.isLt; omega)
  exact ⟨h.1, congrArg some h.2.symm⟩
theorem stB (sw : Bool) (d : RegName) (base : RegName) (off : BitVec 10) : Statement (.stB sw d base off) := by
  have h := asm_major (sw := sw) (m := 0x47) (l := [(17, fieldOf d), (10, fieldOf base), (0, off.toNat)]) (by omega) (by simp only [place]; have := fieldOf_lt d; have := fieldOf_lt base; have := off.isLt; omega)
  exact ⟨h.1, congrArg some h.2.symm⟩
theorem stH (sw : Bool) (d : RegName) (base : RegName) (off : BitVec 10) : Statement (.stH sw d base off) := by
  have h := asm_major (sw := sw) (m := 0x48) (l := [(17, fieldOf d), (10, fieldOf base), (0, off.toNat)]) (by omega) (by simp only [place]; have := fieldOf_lt d; have := fieldOf_lt base; have := off.isLt; omega)
  exact ⟨h.1, congrArg some h.2.symm⟩
theorem stW (sw : Bool) (d : RegName) (base : RegName) (off : BitVec 10) : Statement (.stW sw d base off) := by
  have h := asm_major (sw := sw) (m := 0x49) (l := [(17, fieldOf d), (10, fieldOf base), (0, off.toNat)]) (by omega) (by simp only [place]; have := fieldOf_lt d; have := fieldOf_lt base; have := off.isLt; omega)
  exact ⟨h.1, congrArg some h.2.symm⟩
theorem stD (sw : Bool) (d : RegName) (base : RegName) (off : BitVec 10) : Statement (.stD sw d base off) := by
  have h := asm_major (sw := sw) (m := 0x4A) (l := [(17, fieldOf d), (10, fieldOf base), (0, off.toNat)]) (by omega) (by simp only [place]; have := fieldOf_lt d; have := fieldOf_lt base; have := off.isLt; omega)
  exact ⟨h.1, congrArg some h.2.symm⟩
theorem ldDX (sw : Bool) (d : RegName) (a : RegName) (b : RegName) : Statement (.ldDX sw d a b) := by
  have h := asm_major (sw := sw) (m := 0x4B) (l := [(17, fieldOf d), (10, fieldOf a), (3, fieldOf b)]) (by omega) (by simp only [place]; have := fieldOf_lt d; have := fieldOf_lt a; have := fieldOf_lt b; omega)
  exact ⟨h.1, congrArg some h.2.symm⟩
theorem ldWX (sw : Bool) (d : RegName) (a : RegName) (b : RegName) : Statement (.ldWX sw d a b) := by
  have h := asm_major (sw := sw) (m := 0x4B) (l := [(17, fieldOf d), (10, fieldOf a), (3, fieldOf b), (0, 1)]) (by omega) (by simp only [place]; have := fieldOf_lt d; have := fieldOf_lt a; have := fieldOf_lt b; omega)
  exact ⟨h.1, congrArg some h.2.symm⟩
theorem stDX (sw : Bool) (d : RegName) (a : RegName) (b : RegName) : Statement (.stDX sw d a b) := by
  have h := asm_major (sw := sw) (m := 0x4B) (l := [(17, fieldOf d), (10, fieldOf a), (3, fieldOf b), (0, 2)]) (by omega) (by simp only [place]; have := fieldOf_lt d; have := fieldOf_lt a; have := fieldOf_lt b; omega)
  exact ⟨h.1, congrArg some h.2.symm⟩
theorem stWX (sw : Bool) (d : RegName) (a : RegName) (b : RegName) : Statement (.stWX sw d a b) := by
  have h := asm_major (sw := sw) (m := 0x4B) (l := [(17, fieldOf d), (10, fieldOf a), (3, fieldOf b), (0, 3)]) (by omega) (by simp only [place]; have := fieldOf_lt d; have := fieldOf_lt a; have := fieldOf_lt b; omega)
  exact ⟨h.1, congrArg some h.2.symm⟩
theorem ldDAcq (sw : Bool) (d : RegName) (a : RegName) (sc : Scope) : Statement (.ldDAcq sw d a sc) := by
  have h := asm_major (sw := sw) (m := 0x4B) (l := [(17, fieldOf d), (10, fieldOf a), (3, scopeNum sc), (0, 4)]) (by omega) (by simp only [place]; have := fieldOf_lt d; have := fieldOf_lt a; have := scopeNum_lt sc; omega)
  exact ⟨h.1, congrArg some h.2.symm⟩
theorem stDRel (sw : Bool) (d : RegName) (a : RegName) (sc : Scope) : Statement (.stDRel sw d a sc) := by
  have h := asm_major (sw := sw) (m := 0x4B) (l := [(17, fieldOf d), (10, fieldOf a), (3, scopeNum sc), (0, 5)]) (by omega) (by simp only [place]; have := fieldOf_lt d; have := fieldOf_lt a; have := scopeNum_lt sc; omega)
  exact ⟨h.1, congrArg some h.2.symm⟩
theorem ldWAcq (sw : Bool) (d : RegName) (a : RegName) (sc : Scope) : Statement (.ldWAcq sw d a sc) := by
  have h := asm_major (sw := sw) (m := 0x4B) (l := [(17, fieldOf d), (10, fieldOf a), (3, scopeNum sc), (0, 6)]) (by omega) (by simp only [place]; have := fieldOf_lt d; have := fieldOf_lt a; have := scopeNum_lt sc; omega)
  exact ⟨h.1, congrArg some h.2.symm⟩
theorem stWRel (sw : Bool) (d : RegName) (a : RegName) (sc : Scope) : Statement (.stWRel sw d a sc) := by
  have h := asm_major (sw := sw) (m := 0x4B) (l := [(17, fieldOf d), (10, fieldOf a), (3, scopeNum sc), (0, 7)]) (by omega) (by simp only [place]; have := fieldOf_lt d; have := fieldOf_lt a; have := scopeNum_lt sc; omega)
  exact ⟨h.1, congrArg some h.2.symm⟩
theorem sldW (sw : Bool) (d : RegName) (base : RegName) (off : BitVec 10) : Statement (.sldW sw d base off) := by
  have h := asm_major (sw := sw) (m := 0x4C) (l := [(17, fieldOf d), (10, fieldOf base), (0, off.toNat)]) (by omega) (by simp only [place]; have := fieldOf_lt d; have := fieldOf_lt base; have := off.isLt; omega)
  exact ⟨h.1, congrArg some h.2.symm⟩
theorem sldD (sw : Bool) (d : RegName) (base : RegName) (off : BitVec 10) : Statement (.sldD sw d base off) := by
  have h := asm_major (sw := sw) (m := 0x4D) (l := [(17, fieldOf d), (10, fieldOf base), (0, off.toNat)]) (by omega) (by simp only [place]; have := fieldOf_lt d; have := fieldOf_lt base; have := off.isLt; omega)
  exact ⟨h.1, congrArg some h.2.symm⟩
theorem sstW (sw : Bool) (d : RegName) (base : RegName) (off : BitVec 10) : Statement (.sstW sw d base off) := by
  have h := asm_major (sw := sw) (m := 0x4E) (l := [(17, fieldOf d), (10, fieldOf base), (0, off.toNat)]) (by omega) (by simp only [place]; have := fieldOf_lt d; have := fieldOf_lt base; have := off.isLt; omega)
  exact ⟨h.1, congrArg some h.2.symm⟩
theorem sstD (sw : Bool) (d : RegName) (base : RegName) (off : BitVec 10) : Statement (.sstD sw d base off) := by
  have h := asm_major (sw := sw) (m := 0x4F) (l := [(17, fieldOf d), (10, fieldOf base), (0, off.toNat)]) (by omega) (by simp only [place]; have := fieldOf_lt d; have := fieldOf_lt base; have := off.isLt; omega)
  exact ⟨h.1, congrArg some h.2.symm⟩
theorem lds256 (sw : Bool) (d : RegName) (a : RegName) (bar : BitVec 4) : Statement (.lds256 sw d a bar) := by
  have h := asm_major (sw := sw) (m := 0x50) (l := [(17, fieldOf d), (10, fieldOf a), (3, bar.toNat)]) (by omega) (by simp only [place]; have := fieldOf_lt d; have := fieldOf_lt a; have := bar.isLt; omega)
  exact ⟨h.1, congrArg some h.2.symm⟩
theorem lds1k (sw : Bool) (d : RegName) (a : RegName) (bar : BitVec 4) : Statement (.lds1k sw d a bar) := by
  have h := asm_major (sw := sw) (m := 0x50) (l := [(17, fieldOf d), (10, fieldOf a), (3, bar.toNat), (0, 1)]) (by omega) (by simp only [place]; have := fieldOf_lt d; have := fieldOf_lt a; have := bar.isLt; omega)
  exact ⟨h.1, congrArg some h.2.symm⟩
theorem lds4k (sw : Bool) (d : RegName) (a : RegName) (bar : BitVec 4) : Statement (.lds4k sw d a bar) := by
  have h := asm_major (sw := sw) (m := 0x50) (l := [(17, fieldOf d), (10, fieldOf a), (3, bar.toNat), (0, 2)]) (by omega) (by simp only [place]; have := fieldOf_lt d; have := fieldOf_lt a; have := bar.isLt; omega)
  exact ⟨h.1, congrArg some h.2.symm⟩
theorem lds16k (sw : Bool) (d : RegName) (a : RegName) (bar : BitVec 4) : Statement (.lds16k sw d a bar) := by
  have h := asm_major (sw := sw) (m := 0x50) (l := [(17, fieldOf d), (10, fieldOf a), (3, bar.toNat), (0, 3)]) (by omega) (by simp only [place]; have := fieldOf_lt d; have := fieldOf_lt a; have := bar.isLt; omega)
  exact ⟨h.1, congrArg some h.2.symm⟩
theorem amoAddD (sw : Bool) (d : RegName) (a : RegName) (b : RegName) : Statement (.amoAddD sw d a b) := by
  have h := asm_major (sw := sw) (m := 0x51) (l := [(17, fieldOf d), (10, fieldOf a), (3, fieldOf b)]) (by omega) (by simp only [place]; have := fieldOf_lt d; have := fieldOf_lt a; have := fieldOf_lt b; omega)
  exact ⟨h.1, congrArg some h.2.symm⟩
theorem amoAndD (sw : Bool) (d : RegName) (a : RegName) (b : RegName) : Statement (.amoAndD sw d a b) := by
  have h := asm_major (sw := sw) (m := 0x51) (l := [(17, fieldOf d), (10, fieldOf a), (3, fieldOf b), (0, 1)]) (by omega) (by simp only [place]; have := fieldOf_lt d; have := fieldOf_lt a; have := fieldOf_lt b; omega)
  exact ⟨h.1, congrArg some h.2.symm⟩
theorem amoOrD (sw : Bool) (d : RegName) (a : RegName) (b : RegName) : Statement (.amoOrD sw d a b) := by
  have h := asm_major (sw := sw) (m := 0x51) (l := [(17, fieldOf d), (10, fieldOf a), (3, fieldOf b), (0, 2)]) (by omega) (by simp only [place]; have := fieldOf_lt d; have := fieldOf_lt a; have := fieldOf_lt b; omega)
  exact ⟨h.1, congrArg some h.2.symm⟩
theorem amoXorD (sw : Bool) (d : RegName) (a : RegName) (b : RegName) : Statement (.amoXorD sw d a b) := by
  have h := asm_major (sw := sw) (m := 0x51) (l := [(17, fieldOf d), (10, fieldOf a), (3, fieldOf b), (0, 3)]) (by omega) (by simp only [place]; have := fieldOf_lt d; have := fieldOf_lt a; have := fieldOf_lt b; omega)
  exact ⟨h.1, congrArg some h.2.symm⟩
theorem amoMinSD (sw : Bool) (d : RegName) (a : RegName) (b : RegName) : Statement (.amoMinSD sw d a b) := by
  have h := asm_major (sw := sw) (m := 0x51) (l := [(17, fieldOf d), (10, fieldOf a), (3, fieldOf b), (0, 4)]) (by omega) (by simp only [place]; have := fieldOf_lt d; have := fieldOf_lt a; have := fieldOf_lt b; omega)
  exact ⟨h.1, congrArg some h.2.symm⟩
theorem amoMaxSD (sw : Bool) (d : RegName) (a : RegName) (b : RegName) : Statement (.amoMaxSD sw d a b) := by
  have h := asm_major (sw := sw) (m := 0x51) (l := [(17, fieldOf d), (10, fieldOf a), (3, fieldOf b), (0, 5)]) (by omega) (by simp only [place]; have := fieldOf_lt d; have := fieldOf_lt a; have := fieldOf_lt b; omega)
  exact ⟨h.1, congrArg some h.2.symm⟩
theorem amoFaddD (sw : Bool) (d : RegName) (a : RegName) (b : RegName) : Statement (.amoFaddD sw d a b) := by
  have h := asm_major (sw := sw) (m := 0x51) (l := [(17, fieldOf d), (10, fieldOf a), (3, fieldOf b), (0, 6)]) (by omega) (by simp only [place]; have := fieldOf_lt d; have := fieldOf_lt a; have := fieldOf_lt b; omega)
  exact ⟨h.1, congrArg some h.2.symm⟩
theorem amoSwapD (sw : Bool) (d : RegName) (a : RegName) (b : RegName) : Statement (.amoSwapD sw d a b) := by
  have h := asm_major (sw := sw) (m := 0x51) (l := [(17, fieldOf d), (10, fieldOf a), (3, fieldOf b), (0, 7)]) (by omega) (by simp only [place]; have := fieldOf_lt d; have := fieldOf_lt a; have := fieldOf_lt b; omega)
  exact ⟨h.1, congrArg some h.2.symm⟩
theorem amoAddW (sw : Bool) (d : RegName) (a : RegName) (b : RegName) : Statement (.amoAddW sw d a b) := by
  have h := asm_major (sw := sw) (m := 0x52) (l := [(17, fieldOf d), (10, fieldOf a), (3, fieldOf b)]) (by omega) (by simp only [place]; have := fieldOf_lt d; have := fieldOf_lt a; have := fieldOf_lt b; omega)
  exact ⟨h.1, congrArg some h.2.symm⟩
theorem amoAndW (sw : Bool) (d : RegName) (a : RegName) (b : RegName) : Statement (.amoAndW sw d a b) := by
  have h := asm_major (sw := sw) (m := 0x52) (l := [(17, fieldOf d), (10, fieldOf a), (3, fieldOf b), (0, 1)]) (by omega) (by simp only [place]; have := fieldOf_lt d; have := fieldOf_lt a; have := fieldOf_lt b; omega)
  exact ⟨h.1, congrArg some h.2.symm⟩
theorem amoOrW (sw : Bool) (d : RegName) (a : RegName) (b : RegName) : Statement (.amoOrW sw d a b) := by
  have h := asm_major (sw := sw) (m := 0x52) (l := [(17, fieldOf d), (10, fieldOf a), (3, fieldOf b), (0, 2)]) (by omega) (by simp only [place]; have := fieldOf_lt d; have := fieldOf_lt a; have := fieldOf_lt b; omega)
  exact ⟨h.1, congrArg some h.2.symm⟩
theorem amoXorW (sw : Bool) (d : RegName) (a : RegName) (b : RegName) : Statement (.amoXorW sw d a b) := by
  have h := asm_major (sw := sw) (m := 0x52) (l := [(17, fieldOf d), (10, fieldOf a), (3, fieldOf b), (0, 3)]) (by omega) (by simp only [place]; have := fieldOf_lt d; have := fieldOf_lt a; have := fieldOf_lt b; omega)
  exact ⟨h.1, congrArg some h.2.symm⟩
theorem amoMinSW (sw : Bool) (d : RegName) (a : RegName) (b : RegName) : Statement (.amoMinSW sw d a b) := by
  have h := asm_major (sw := sw) (m := 0x52) (l := [(17, fieldOf d), (10, fieldOf a), (3, fieldOf b), (0, 4)]) (by omega) (by simp only [place]; have := fieldOf_lt d; have := fieldOf_lt a; have := fieldOf_lt b; omega)
  exact ⟨h.1, congrArg some h.2.symm⟩
theorem amoMaxSW (sw : Bool) (d : RegName) (a : RegName) (b : RegName) : Statement (.amoMaxSW sw d a b) := by
  have h := asm_major (sw := sw) (m := 0x52) (l := [(17, fieldOf d), (10, fieldOf a), (3, fieldOf b), (0, 5)]) (by omega) (by simp only [place]; have := fieldOf_lt d; have := fieldOf_lt a; have := fieldOf_lt b; omega)
  exact ⟨h.1, congrArg some h.2.symm⟩
theorem amoFaddS (sw : Bool) (d : RegName) (a : RegName) (b : RegName) : Statement (.amoFaddS sw d a b) := by
  have h := asm_major (sw := sw) (m := 0x52) (l := [(17, fieldOf d), (10, fieldOf a), (3, fieldOf b), (0, 6)]) (by omega) (by simp only [place]; have := fieldOf_lt d; have := fieldOf_lt a; have := fieldOf_lt b; omega)
  exact ⟨h.1, congrArg some h.2.symm⟩
theorem amoSwapW (sw : Bool) (d : RegName) (a : RegName) (b : RegName) : Statement (.amoSwapW sw d a b) := by
  have h := asm_major (sw := sw) (m := 0x52) (l := [(17, fieldOf d), (10, fieldOf a), (3, fieldOf b), (0, 7)]) (by omega) (by simp only [place]; have := fieldOf_lt d; have := fieldOf_lt a; have := fieldOf_lt b; omega)
  exact ⟨h.1, congrArg some h.2.symm⟩
theorem casD (sw : Bool) (d : RegName) (a : RegName) (b : RegName) : Statement (.casD sw d a b) := by
  have h := asm_major (sw := sw) (m := 0x53) (l := [(17, fieldOf d), (10, fieldOf a), (3, fieldOf b)]) (by omega) (by simp only [place]; have := fieldOf_lt d; have := fieldOf_lt a; have := fieldOf_lt b; omega)
  exact ⟨h.1, congrArg some h.2.symm⟩
theorem casW (sw : Bool) (d : RegName) (a : RegName) (b : RegName) : Statement (.casW sw d a b) := by
  have h := asm_major (sw := sw) (m := 0x53) (l := [(17, fieldOf d), (10, fieldOf a), (3, fieldOf b), (0, 1)]) (by omega) (by simp only [place]; have := fieldOf_lt d; have := fieldOf_lt a; have := fieldOf_lt b; omega)
  exact ⟨h.1, congrArg some h.2.symm⟩
theorem lrw (sw : Bool) (d : RegName) (a : RegName) : Statement (.lrw sw d a) := by
  have h := asm_major (sw := sw) (m := 0x54) (l := [(17, fieldOf d), (10, fieldOf a)]) (by omega) (by simp only [place]; have := fieldOf_lt d; have := fieldOf_lt a; omega)
  exact ⟨h.1, congrArg some h.2.symm⟩
theorem sch (sw : Bool) (d : RegName) (a : RegName) (b : RegName) : Statement (.sch sw d a b) := by
  have h := asm_major (sw := sw) (m := 0x54) (l := [(17, fieldOf d), (10, fieldOf a), (3, fieldOf b), (0, 1)]) (by omega) (by simp only [place]; have := fieldOf_lt d; have := fieldOf_lt a; have := fieldOf_lt b; omega)
  exact ⟨h.1, congrArg some h.2.symm⟩
theorem relr (sw : Bool) (a : RegName) : Statement (.relr sw a) := by
  have h := asm_major (sw := sw) (m := 0x54) (l := [(10, fieldOf a), (0, 2)]) (by omega) (by simp only [place]; have := fieldOf_lt a; omega)
  exact ⟨h.1, congrArg some h.2.symm⟩
theorem waita (sw : Bool) (d : RegName) (a : RegName) (b : RegName) (c : BitVec 3) : Statement (.waita sw d a b c) := by
  have h := asm_major (sw := sw) (m := 0x55) (l := [(17, fieldOf d), (10, fieldOf a), (3, fieldOf b), (0, c.toNat)]) (by omega) (by simp only [place]; have := fieldOf_lt d; have := fieldOf_lt a; have := fieldOf_lt b; have := c.isLt; omega)
  exact ⟨h.1, congrArg some h.2.symm⟩
theorem fenceAcq (sw : Bool) (sc : Scope) : Statement (.fenceAcq sw sc) := by
  have h := asm_major (sw := sw) (m := 0x56) (l := [(10, scopeNum sc)]) (by omega) (by simp only [place]; have := scopeNum_lt sc; omega)
  exact ⟨h.1, congrArg some h.2.symm⟩
theorem fenceRel (sw : Bool) (sc : Scope) : Statement (.fenceRel sw sc) := by
  have h := asm_major (sw := sw) (m := 0x56) (l := [(10, scopeNum sc), (0, 1)]) (by omega) (by simp only [place]; have := scopeNum_lt sc; omega)
  exact ⟨h.1, congrArg some h.2.symm⟩
theorem fenceAr (sw : Bool) (sc : Scope) : Statement (.fenceAr sw sc) := by
  have h := asm_major (sw := sw) (m := 0x56) (l := [(10, scopeNum sc), (0, 2)]) (by omega) (by simp only [place]; have := scopeNum_lt sc; omega)
  exact ⟨h.1, congrArg some h.2.symm⟩
theorem fenceSc (sw : Bool) (sc : Scope) : Statement (.fenceSc sw sc) := by
  have h := asm_major (sw := sw) (m := 0x56) (l := [(10, scopeNum sc), (0, 3)]) (by omega) (by simp only [place]; have := scopeNum_lt sc; omega)
  exact ⟨h.1, congrArg some h.2.symm⟩
theorem barinit (sw : Bool) (bar : BitVec 4) (b : RegName) : Statement (.barinit sw bar b) := by
  have h := asm_major (sw := sw) (m := 0x57) (l := [(10, bar.toNat), (3, fieldOf b)]) (by omega) (by simp only [place]; have := fieldOf_lt b; have := bar.isLt; omega)
  exact ⟨h.1, congrArg some h.2.symm⟩
theorem bararv (sw : Bool) (bar : BitVec 4) : Statement (.bararv sw bar) := by
  have h := asm_major (sw := sw) (m := 0x57) (l := [(10, bar.toNat), (0, 1)]) (by omega) (by simp only [place]; have := bar.isLt; omega)
  exact ⟨h.1, congrArg some h.2.symm⟩
theorem barwait (sw : Bool) (bar : BitVec 4) : Statement (.barwait sw bar) := by
  have h := asm_major (sw := sw) (m := 0x57) (l := [(10, bar.toNat), (0, 2)]) (by omega) (by simp only [place]; have := bar.isLt; omega)
  exact ⟨h.1, congrArg some h.2.symm⟩
theorem bartry (sw : Bool) (d : RegName) (bar : BitVec 4) : Statement (.bartry sw d bar) := by
  have h := asm_major (sw := sw) (m := 0x57) (l := [(17, fieldOf d), (10, bar.toNat), (0, 3)]) (by omega) (by simp only [place]; have := fieldOf_lt d; have := bar.isLt; omega)
  exact ⟨h.1, congrArg some h.2.symm⟩
theorem tbar (sw : Bool) (bar : BitVec 4) : Statement (.tbar sw bar) := by
  have h := asm_major (sw := sw) (m := 0x57) (l := [(10, bar.toNat), (0, 4)]) (by omega) (by simp only [place]; have := bar.isLt; omega)
  exact ⟨h.1, congrArg some h.2.symm⟩
theorem pref (sw : Bool) (a : RegName) : Statement (.pref sw a) := by
  have h := asm_major (sw := sw) (m := 0x58) (l := [(10, fieldOf a)]) (by omega) (by simp only [place]; have := fieldOf_lt a; omega)
  exact ⟨h.1, congrArg some h.2.symm⟩
theorem cwb (sw : Bool) (a : RegName) : Statement (.cwb sw a) := by
  have h := asm_major (sw := sw) (m := 0x58) (l := [(10, fieldOf a), (0, 1)]) (by omega) (by simp only [place]; have := fieldOf_lt a; omega)
  exact ⟨h.1, congrArg some h.2.symm⟩
theorem cinv (sw : Bool) (a : RegName) : Statement (.cinv sw a) := by
  have h := asm_major (sw := sw) (m := 0x58) (l := [(10, fieldOf a), (0, 2)]) (by omega) (by simp only [place]; have := fieldOf_lt a; omega)
  exact ⟨h.1, congrArg some h.2.symm⟩
theorem cwbi (sw : Bool) (a : RegName) : Statement (.cwbi sw a) := by
  have h := asm_major (sw := sw) (m := 0x58) (l := [(10, fieldOf a), (0, 3)]) (by omega) (by simp only [place]; have := fieldOf_lt a; omega)
  exact ⟨h.1, congrArg some h.2.symm⟩
theorem isync (sw : Bool) : Statement (.isync sw) := by
  have h := asm_major (sw := sw) (m := 0x58) (l := [(0, 4)]) (by omega) (by simp only [place]; omega)
  exact ⟨h.1, congrArg some h.2.symm⟩
theorem rstW (sw : Bool) (a : RegName) (b : RegName) : Statement (.rstW sw a b) := by
  have h := asm_major (sw := sw) (m := 0x60) (l := [(10, fieldOf a), (3, fieldOf b)]) (by omega) (by simp only [place]; have := fieldOf_lt a; have := fieldOf_lt b; omega)
  exact ⟨h.1, congrArg some h.2.symm⟩
theorem rstD (sw : Bool) (a : RegName) (b : RegName) : Statement (.rstD sw a b) := by
  have h := asm_major (sw := sw) (m := 0x60) (l := [(10, fieldOf a), (3, fieldOf b), (0, 1)]) (by omega) (by simp only [place]; have := fieldOf_lt a; have := fieldOf_lt b; omega)
  exact ⟨h.1, congrArg some h.2.symm⟩
theorem ramoAddW (sw : Bool) (a : RegName) (b : RegName) : Statement (.ramoAddW sw a b) := by
  have h := asm_major (sw := sw) (m := 0x61) (l := [(10, fieldOf a), (3, fieldOf b)]) (by omega) (by simp only [place]; have := fieldOf_lt a; have := fieldOf_lt b; omega)
  exact ⟨h.1, congrArg some h.2.symm⟩
theorem ramoAddD (sw : Bool) (a : RegName) (b : RegName) : Statement (.ramoAddD sw a b) := by
  have h := asm_major (sw := sw) (m := 0x61) (l := [(10, fieldOf a), (3, fieldOf b), (0, 1)]) (by omega) (by simp only [place]; have := fieldOf_lt a; have := fieldOf_lt b; omega)
  exact ⟨h.1, congrArg some h.2.symm⟩
theorem ramoFaddS (sw : Bool) (a : RegName) (b : RegName) : Statement (.ramoFaddS sw a b) := by
  have h := asm_major (sw := sw) (m := 0x61) (l := [(10, fieldOf a), (3, fieldOf b), (0, 2)]) (by omega) (by simp only [place]; have := fieldOf_lt a; have := fieldOf_lt b; omega)
  exact ⟨h.1, congrArg some h.2.symm⟩
theorem ramoMinS (sw : Bool) (a : RegName) (b : RegName) : Statement (.ramoMinS sw a b) := by
  have h := asm_major (sw := sw) (m := 0x61) (l := [(10, fieldOf a), (3, fieldOf b), (0, 3)]) (by omega) (by simp only [place]; have := fieldOf_lt a; have := fieldOf_lt b; omega)
  exact ⟨h.1, congrArg some h.2.symm⟩
theorem ramoMaxS (sw : Bool) (a : RegName) (b : RegName) : Statement (.ramoMaxS sw a b) := by
  have h := asm_major (sw := sw) (m := 0x61) (l := [(10, fieldOf a), (3, fieldOf b), (0, 4)]) (by omega) (by simp only [place]; have := fieldOf_lt a; have := fieldOf_lt b; omega)
  exact ⟨h.1, congrArg some h.2.symm⟩
theorem ramoOrD (sw : Bool) (a : RegName) (b : RegName) : Statement (.ramoOrD sw a b) := by
  have h := asm_major (sw := sw) (m := 0x61) (l := [(10, fieldOf a), (3, fieldOf b), (0, 5)]) (by omega) (by simp only [place]; have := fieldOf_lt a; have := fieldOf_lt b; omega)
  exact ⟨h.1, congrArg some h.2.symm⟩
theorem ramoAndD (sw : Bool) (a : RegName) (b : RegName) : Statement (.ramoAndD sw a b) := by
  have h := asm_major (sw := sw) (m := 0x61) (l := [(10, fieldOf a), (3, fieldOf b), (0, 6)]) (by omega) (by simp only [place]; have := fieldOf_lt a; have := fieldOf_lt b; omega)
  exact ⟨h.1, congrArg some h.2.symm⟩
theorem ramoXorD (sw : Bool) (a : RegName) (b : RegName) : Statement (.ramoXorD sw a b) := by
  have h := asm_major (sw := sw) (m := 0x61) (l := [(10, fieldOf a), (3, fieldOf b), (0, 7)]) (by omega) (by simp only [place]; have := fieldOf_lt a; have := fieldOf_lt b; omega)
  exact ⟨h.1, congrArg some h.2.symm⟩
theorem rldW (sw : Bool) (d : RegName) (a : RegName) : Statement (.rldW sw d a) := by
  have h := asm_major (sw := sw) (m := 0x62) (l := [(17, fieldOf d), (10, fieldOf a)]) (by omega) (by simp only [place]; have := fieldOf_lt d; have := fieldOf_lt a; omega)
  exact ⟨h.1, congrArg some h.2.symm⟩
theorem rldD (sw : Bool) (d : RegName) (a : RegName) : Statement (.rldD sw d a) := by
  have h := asm_major (sw := sw) (m := 0x62) (l := [(17, fieldOf d), (10, fieldOf a), (0, 1)]) (by omega) (by simp only [place]; have := fieldOf_lt d; have := fieldOf_lt a; omega)
  exact ⟨h.1, congrArg some h.2.symm⟩
theorem rflushOne (sw : Bool) (a : RegName) : Statement (.rflushOne sw a) := by
  have h := asm_major (sw := sw) (m := 0x63) (l := [(10, fieldOf a)]) (by omega) (by simp only [place]; have := fieldOf_lt a; omega)
  exact ⟨h.1, congrArg some h.2.symm⟩
theorem rflushAll (sw : Bool) : Statement (.rflushAll sw) := by
  have h := asm_major (sw := sw) (m := 0x63) (l := [(0, 1)]) (by omega) (by simp only [place]; omega)
  exact ⟨h.1, congrArg some h.2.symm⟩
theorem mcst (sw : Bool) (a : RegName) (b : RegName) : Statement (.mcst sw a b) := by
  have h := asm_major (sw := sw) (m := 0x64) (l := [(10, fieldOf a), (3, fieldOf b)]) (by omega) (by simp only [place]; have := fieldOf_lt a; have := fieldOf_lt b; omega)
  exact ⟨h.1, congrArg some h.2.symm⟩
theorem cpyGg (sw : Bool) (d : RegName) (a : RegName) (b : RegName) : Statement (.cpyGg sw d a b) := by
  have h := asm_major (sw := sw) (m := 0x65) (l := [(17, fieldOf d), (10, fieldOf a), (3, fieldOf b)]) (by omega) (by simp only [place]; have := fieldOf_lt d; have := fieldOf_lt a; have := fieldOf_lt b; omega)
  exact ⟨h.1, congrArg some h.2.symm⟩
theorem cpyGs (sw : Bool) (d : RegName) (a : RegName) (b : RegName) : Statement (.cpyGs sw d a b) := by
  have h := asm_major (sw := sw) (m := 0x65) (l := [(17, fieldOf d), (10, fieldOf a), (3, fieldOf b), (0, 1)]) (by omega) (by simp only [place]; have := fieldOf_lt d; have := fieldOf_lt a; have := fieldOf_lt b; omega)
  exact ⟨h.1, congrArg some h.2.symm⟩
theorem cpySg (sw : Bool) (d : RegName) (a : RegName) (b : RegName) : Statement (.cpySg sw d a b) := by
  have h := asm_major (sw := sw) (m := 0x65) (l := [(17, fieldOf d), (10, fieldOf a), (3, fieldOf b), (0, 2)]) (by omega) (by simp only [place]; have := fieldOf_lt d; have := fieldOf_lt a; have := fieldOf_lt b; omega)
  exact ⟨h.1, congrArg some h.2.symm⟩
theorem cpySs (sw : Bool) (d : RegName) (a : RegName) (b : RegName) : Statement (.cpySs sw d a b) := by
  have h := asm_major (sw := sw) (m := 0x65) (l := [(17, fieldOf d), (10, fieldOf a), (3, fieldOf b), (0, 3)]) (by omega) (by simp only [place]; have := fieldOf_lt d; have := fieldOf_lt a; have := fieldOf_lt b; omega)
  exact ⟨h.1, congrArg some h.2.symm⟩
theorem gth32 (sw : Bool) (d : RegName) (a : RegName) (b : RegName) : Statement (.gth32 sw d a b) := by
  have h := asm_major (sw := sw) (m := 0x66) (l := [(17, fieldOf d), (10, fieldOf a), (3, fieldOf b)]) (by omega) (by simp only [place]; have := fieldOf_lt d; have := fieldOf_lt a; have := fieldOf_lt b; omega)
  exact ⟨h.1, congrArg some h.2.symm⟩
theorem gth64 (sw : Bool) (d : RegName) (a : RegName) (b : RegName) : Statement (.gth64 sw d a b) := by
  have h := asm_major (sw := sw) (m := 0x66) (l := [(17, fieldOf d), (10, fieldOf a), (3, fieldOf b), (0, 1)]) (by omega) (by simp only [place]; have := fieldOf_lt d; have := fieldOf_lt a; have := fieldOf_lt b; omega)
  exact ⟨h.1, congrArg some h.2.symm⟩
theorem gth128 (sw : Bool) (d : RegName) (a : RegName) (b : RegName) : Statement (.gth128 sw d a b) := by
  have h := asm_major (sw := sw) (m := 0x66) (l := [(17, fieldOf d), (10, fieldOf a), (3, fieldOf b), (0, 2)]) (by omega) (by simp only [place]; have := fieldOf_lt d; have := fieldOf_lt a; have := fieldOf_lt b; omega)
  exact ⟨h.1, congrArg some h.2.symm⟩
theorem gth256 (sw : Bool) (d : RegName) (a : RegName) (b : RegName) : Statement (.gth256 sw d a b) := by
  have h := asm_major (sw := sw) (m := 0x66) (l := [(17, fieldOf d), (10, fieldOf a), (3, fieldOf b), (0, 3)]) (by omega) (by simp only [place]; have := fieldOf_lt d; have := fieldOf_lt a; have := fieldOf_lt b; omega)
  exact ⟨h.1, congrArg some h.2.symm⟩
theorem sct32 (sw : Bool) (d : RegName) (a : RegName) (b : RegName) : Statement (.sct32 sw d a b) := by
  have h := asm_major (sw := sw) (m := 0x67) (l := [(17, fieldOf d), (10, fieldOf a), (3, fieldOf b)]) (by omega) (by simp only [place]; have := fieldOf_lt d; have := fieldOf_lt a; have := fieldOf_lt b; omega)
  exact ⟨h.1, congrArg some h.2.symm⟩
theorem sct64 (sw : Bool) (d : RegName) (a : RegName) (b : RegName) : Statement (.sct64 sw d a b) := by
  have h := asm_major (sw := sw) (m := 0x67) (l := [(17, fieldOf d), (10, fieldOf a), (3, fieldOf b), (0, 1)]) (by omega) (by simp only [place]; have := fieldOf_lt d; have := fieldOf_lt a; have := fieldOf_lt b; omega)
  exact ⟨h.1, congrArg some h.2.symm⟩
theorem sct128 (sw : Bool) (d : RegName) (a : RegName) (b : RegName) : Statement (.sct128 sw d a b) := by
  have h := asm_major (sw := sw) (m := 0x67) (l := [(17, fieldOf d), (10, fieldOf a), (3, fieldOf b), (0, 2)]) (by omega) (by simp only [place]; have := fieldOf_lt d; have := fieldOf_lt a; have := fieldOf_lt b; omega)
  exact ⟨h.1, congrArg some h.2.symm⟩
theorem sct256 (sw : Bool) (d : RegName) (a : RegName) (b : RegName) : Statement (.sct256 sw d a b) := by
  have h := asm_major (sw := sw) (m := 0x67) (l := [(17, fieldOf d), (10, fieldOf a), (3, fieldOf b), (0, 3)]) (by omega) (by simp only [place]; have := fieldOf_lt d; have := fieldOf_lt a; have := fieldOf_lt b; omega)
  exact ⟨h.1, congrArg some h.2.symm⟩
theorem enq (sw : Bool) (d : RegName) (a : RegName) (b : RegName) : Statement (.enq sw d a b) := by
  have h := asm_major (sw := sw) (m := 0x68) (l := [(17, fieldOf d), (10, fieldOf a), (3, fieldOf b)]) (by omega) (by simp only [place]; have := fieldOf_lt d; have := fieldOf_lt a; have := fieldOf_lt b; omega)
  exact ⟨h.1, congrArg some h.2.symm⟩
theorem spawnLocal (sw : Bool) (d : RegName) (b : RegName) : Statement (.spawnLocal sw d b) := by
  have h := asm_major (sw := sw) (m := 0x69) (l := [(17, fieldOf d), (3, fieldOf b)]) (by omega) (by simp only [place]; have := fieldOf_lt d; have := fieldOf_lt b; omega)
  exact ⟨h.1, congrArg some h.2.symm⟩
theorem spawnDie (sw : Bool) (d : RegName) (b : RegName) : Statement (.spawnDie sw d b) := by
  have h := asm_major (sw := sw) (m := 0x69) (l := [(17, fieldOf d), (3, fieldOf b), (0, 1)]) (by omega) (by simp only [place]; have := fieldOf_lt d; have := fieldOf_lt b; omega)
  exact ⟨h.1, congrArg some h.2.symm⟩
theorem endOp (sw : Bool) : Statement (.endOp sw) := by
  have h := asm_major (sw := sw) (m := 0x6A) (l := []) (by omega) (by simp only [place]; omega)
  exact ⟨h.1, congrArg some h.2.symm⟩
theorem cpt (sw : Bool) (n : BitVec 7) (imm : BitVec 17) : Statement (.cpt sw n imm) := by
  have h := asm_major (sw := sw) (m := 0x6B) (l := [(17, n.toNat), (0, imm.toNat)]) (by omega) (by simp only [place]; have := n.isLt; have := imm.isLt; omega)
  exact ⟨h.1, congrArg some h.2.symm⟩
theorem yield (sw : Bool) : Statement (.yield sw) := by
  have h := asm_major (sw := sw) (m := 0x6C) (l := []) (by omega) (by simp only [place]; omega)
  exact ⟨h.1, congrArg some h.2.symm⟩
theorem yieldIf (sw : Bool) (a : RegName) : Statement (.yieldIf sw a) := by
  have h := asm_major (sw := sw) (m := 0x6C) (l := [(10, fieldOf a), (0, 1)]) (by omega) (by simp only [place]; have := fieldOf_lt a; omega)
  exact ⟨h.1, congrArg some h.2.symm⟩
theorem btopIb (sw : Bool) (d : RegName) (a : RegName) (b : RegName) : Statement (.btopIb sw d a b) := by
  have h := asm_major (sw := sw) (m := 0x6D) (l := [(17, fieldOf d), (10, fieldOf a), (3, fieldOf b)]) (by omega) (by simp only [place]; have := fieldOf_lt d; have := fieldOf_lt a; have := fieldOf_lt b; omega)
  exact ⟨h.1, congrArg some h.2.symm⟩
theorem btopTb (sw : Bool) (d : RegName) (a : RegName) (b : RegName) : Statement (.btopTb sw d a b) := by
  have h := asm_major (sw := sw) (m := 0x6D) (l := [(17, fieldOf d), (10, fieldOf a), (3, fieldOf b), (0, 1)]) (by omega) (by simp only [place]; have := fieldOf_lt d; have := fieldOf_lt a; have := fieldOf_lt b; omega)
  exact ⟨h.1, congrArg some h.2.symm⟩
theorem msgapp (sw : Bool) (d : RegName) (a : RegName) (b : RegName) (n : BitVec 3) : Statement (.msgapp sw d a b n) := by
  have h := asm_major (sw := sw) (m := 0x6E) (l := [(17, fieldOf d), (10, fieldOf a), (3, fieldOf b), (0, n.toNat)]) (by omega) (by simp only [place]; have := fieldOf_lt d; have := fieldOf_lt a; have := fieldOf_lt b; have := n.isLt; omega)
  exact ⟨h.1, congrArg some h.2.symm⟩
theorem msgrecv (sw : Bool) (d : RegName) (a : RegName) (b : RegName) (n : BitVec 3) : Statement (.msgrecv sw d a b n) := by
  have h := asm_major (sw := sw) (m := 0x6F) (l := [(17, fieldOf d), (10, fieldOf a), (3, fieldOf b), (0, n.toNat)]) (by omega) (by simp only [place]; have := fieldOf_lt d; have := fieldOf_lt a; have := fieldOf_lt b; have := n.isLt; omega)
  exact ⟨h.1, congrArg some h.2.symm⟩
theorem fmt (sw : Bool) (a : RegName) (n : BitVec 3) : Statement (.fmt sw a n) := by
  have h := asm_major (sw := sw) (m := 0x70) (l := [(10, fieldOf a), (0, n.toNat)]) (by omega) (by simp only [place]; have := fieldOf_lt a; have := n.isLt; omega)
  exact ⟨h.1, congrArg some h.2.symm⟩
theorem lut4 (sw : Bool) (a : RegName) (b : RegName) : Statement (.lut4 sw a b) := by
  have h := asm_major (sw := sw) (m := 0x71) (l := [(10, fieldOf a), (3, fieldOf b)]) (by omega) (by simp only [place]; have := fieldOf_lt a; have := fieldOf_lt b; omega)
  exact ⟨h.1, congrArg some h.2.symm⟩
theorem tzero (sw : Bool) (t : BitVec 6) : Statement (.tzero sw t) := by
  have h := asm_major (sw := sw) (m := 0x72) (l := [(17, t.toNat)]) (by omega) (by simp only [place]; have := t.isLt; omega)
  exact ⟨h.1, congrArg some h.2.symm⟩
theorem trd (sw : Bool) (t : BitVec 6) (a : RegName) (b : RegName) : Statement (.trd sw t a b) := by
  have h := asm_major (sw := sw) (m := 0x72) (l := [(17, t.toNat), (10, fieldOf a), (3, fieldOf b), (0, 1)]) (by omega) (by simp only [place]; have := fieldOf_lt a; have := fieldOf_lt b; have := t.isLt; omega)
  exact ⟨h.1, congrArg some h.2.symm⟩
theorem twr (sw : Bool) (t : BitVec 6) (a : RegName) (b : RegName) : Statement (.twr sw t a b) := by
  have h := asm_major (sw := sw) (m := 0x72) (l := [(17, t.toNat), (10, fieldOf a), (3, fieldOf b), (0, 2)]) (by omega) (by simp only [place]; have := fieldOf_lt a; have := fieldOf_lt b; have := t.isLt; omega)
  exact ⟨h.1, congrArg some h.2.symm⟩
theorem tcvt (sw : Bool) (t : BitVec 6) (a : RegName) (b : RegName) : Statement (.tcvt sw t a b) := by
  have h := asm_major (sw := sw) (m := 0x72) (l := [(17, t.toNat), (10, fieldOf a), (3, fieldOf b), (0, 3)]) (by omega) (by simp only [place]; have := fieldOf_lt a; have := fieldOf_lt b; have := t.isLt; omega)
  exact ⟨h.1, congrArg some h.2.symm⟩
theorem tmmaNn (sw : Bool) (t : BitVec 6) (a : RegName) (b : RegName) : Statement (.tmmaNn sw t a b) := by
  have h := asm_major (sw := sw) (m := 0x73) (l := [(17, t.toNat), (10, fieldOf a), (3, fieldOf b)]) (by omega) (by simp only [place]; have := fieldOf_lt a; have := fieldOf_lt b; have := t.isLt; omega)
  exact ⟨h.1, congrArg some h.2.symm⟩
theorem tmmaTn (sw : Bool) (t : BitVec 6) (a : RegName) (b : RegName) : Statement (.tmmaTn sw t a b) := by
  have h := asm_major (sw := sw) (m := 0x73) (l := [(17, t.toNat), (10, fieldOf a), (3, fieldOf b), (0, 1)]) (by omega) (by simp only [place]; have := fieldOf_lt a; have := fieldOf_lt b; have := t.isLt; omega)
  exact ⟨h.1, congrArg some h.2.symm⟩
theorem tmmaNt (sw : Bool) (t : BitVec 6) (a : RegName) (b : RegName) : Statement (.tmmaNt sw t a b) := by
  have h := asm_major (sw := sw) (m := 0x73) (l := [(17, t.toNat), (10, fieldOf a), (3, fieldOf b), (0, 2)]) (by omega) (by simp only [place]; have := fieldOf_lt a; have := fieldOf_lt b; have := t.isLt; omega)
  exact ⟨h.1, congrArg some h.2.symm⟩
theorem tmmaTt (sw : Bool) (t : BitVec 6) (a : RegName) (b : RegName) : Statement (.tmmaTt sw t a b) := by
  have h := asm_major (sw := sw) (m := 0x73) (l := [(17, t.toNat), (10, fieldOf a), (3, fieldOf b), (0, 3)]) (by omega) (by simp only [place]; have := fieldOf_lt a; have := fieldOf_lt b; have := t.isLt; omega)
  exact ⟨h.1, congrArg some h.2.symm⟩
theorem tmmaSp (sw : Bool) (t : BitVec 6) (a : RegName) (b : RegName) : Statement (.tmmaSp sw t a b) := by
  have h := asm_major (sw := sw) (m := 0x73) (l := [(17, t.toNat), (10, fieldOf a), (3, fieldOf b), (0, 4)]) (by omega) (by simp only [place]; have := fieldOf_lt a; have := fieldOf_lt b; have := t.isLt; omega)
  exact ⟨h.1, congrArg some h.2.symm⟩
theorem tstF32 (sw : Bool) (t : BitVec 6) (a : RegName) (b : RegName) : Statement (.tstF32 sw t a b) := by
  have h := asm_major (sw := sw) (m := 0x74) (l := [(17, t.toNat), (10, fieldOf a), (3, fieldOf b)]) (by omega) (by simp only [place]; have := fieldOf_lt a; have := fieldOf_lt b; have := t.isLt; omega)
  exact ⟨h.1, congrArg some h.2.symm⟩
theorem tstBf16 (sw : Bool) (t : BitVec 6) (a : RegName) (b : RegName) : Statement (.tstBf16 sw t a b) := by
  have h := asm_major (sw := sw) (m := 0x74) (l := [(17, t.toNat), (10, fieldOf a), (3, fieldOf b), (0, 1)]) (by omega) (by simp only [place]; have := fieldOf_lt a; have := fieldOf_lt b; have := t.isLt; omega)
  exact ⟨h.1, congrArg some h.2.symm⟩
theorem tstF16 (sw : Bool) (t : BitVec 6) (a : RegName) (b : RegName) : Statement (.tstF16 sw t a b) := by
  have h := asm_major (sw := sw) (m := 0x74) (l := [(17, t.toNat), (10, fieldOf a), (3, fieldOf b), (0, 2)]) (by omega) (by simp only [place]; have := fieldOf_lt a; have := fieldOf_lt b; have := t.isLt; omega)
  exact ⟨h.1, congrArg some h.2.symm⟩
theorem tstaF32 (sw : Bool) (t : BitVec 6) (a : RegName) (b : RegName) : Statement (.tstaF32 sw t a b) := by
  have h := asm_major (sw := sw) (m := 0x75) (l := [(17, t.toNat), (10, fieldOf a), (3, fieldOf b)]) (by omega) (by simp only [place]; have := fieldOf_lt a; have := fieldOf_lt b; have := t.isLt; omega)
  exact ⟨h.1, congrArg some h.2.symm⟩
theorem tstaS32 (sw : Bool) (t : BitVec 6) (a : RegName) (b : RegName) : Statement (.tstaS32 sw t a b) := by
  have h := asm_major (sw := sw) (m := 0x75) (l := [(17, t.toNat), (10, fieldOf a), (3, fieldOf b), (0, 1)]) (by omega) (by simp only [place]; have := fieldOf_lt a; have := fieldOf_lt b; have := t.isLt; omega)
  exact ⟨h.1, congrArg some h.2.symm⟩
theorem trap (sw : Bool) (imm : BitVec 17) : Statement (.trap sw imm) := by
  have h := asm_major (sw := sw) (m := 0x78) (l := [(0, imm.toNat)]) (by omega) (by simp only [place]; have := imm.isLt; omega)
  exact ⟨h.1, congrArg some h.2.symm⟩
theorem rett (sw : Bool) : Statement (.rett sw) := by
  have h := asm_major (sw := sw) (m := 0x79) (l := []) (by omega) (by simp only [place]; omega)
  exact ⟨h.1, congrArg some h.2.symm⟩
theorem srd (sw : Bool) (d : RegName) (r : BitVec 12) : Statement (.srd sw d r) := by
  have h := asm_major (sw := sw) (m := 0x7A) (l := [(17, fieldOf d), (0, r.toNat)]) (by omega) (by simp only [place]; have := fieldOf_lt d; have := r.isLt; omega)
  exact ⟨h.1, congrArg some h.2.symm⟩
theorem swr (sw : Bool) (d : RegName) (r : BitVec 12) : Statement (.swr sw d r) := by
  have h := asm_major (sw := sw) (m := 0x7B) (l := [(17, fieldOf d), (0, r.toNat)]) (by omega) (by simp only [place]; have := fieldOf_lt d; have := r.isLt; omega)
  exact ⟨h.1, congrArg some h.2.symm⟩
theorem tlbiAddr (sw : Bool) (a : RegName) (b : RegName) : Statement (.tlbiAddr sw a b) := by
  have h := asm_major (sw := sw) (m := 0x7C) (l := [(10, fieldOf a), (3, fieldOf b)]) (by omega) (by simp only [place]; have := fieldOf_lt a; have := fieldOf_lt b; omega)
  exact ⟨h.1, congrArg some h.2.symm⟩
theorem tlbiDom (sw : Bool) (a : RegName) : Statement (.tlbiDom sw a) := by
  have h := asm_major (sw := sw) (m := 0x7C) (l := [(10, fieldOf a), (0, 1)]) (by omega) (by simp only [place]; have := fieldOf_lt a; omega)
  exact ⟨h.1, congrArg some h.2.symm⟩
theorem tlbiAll (sw : Bool) : Statement (.tlbiAll sw) := by
  have h := asm_major (sw := sw) (m := 0x7C) (l := [(0, 2)]) (by omega) (by simp only [place]; omega)
  exact ⟨h.1, congrArg some h.2.symm⟩
theorem illegalInstruction (w : BitVec 32) : Statement (.illegalInstruction w) := rfl
theorem instructionFetchFault : Statement .instructionFetchFault := rfl

end Sys2Proof.Laws.MajorOpcode
end

