-- ==== Sys2Proof/Laws/Reach.lean ====
section
/-!
SUPPORT. The translation of lane addresses: it moves only memory, and a charge between its two readings changes nothing of it.
-/

namespace Sys2Proof.Machine

open Sys2Proof

/-- A state with other streams, teams and timers. -/
abbrev beside (s : State) (x : SMap Stream) (y : SMap Team) (z : List (Nat × Instr)) : State :=
  { s with streams := x, teams := y, timers := z }

variable {x : SMap Stream} {y : SMap Team} {z : List (Nat × Instr)}

theorem homePut_beside (s : State) (key : KeySel) (pa : Nat) (bs : List Byte) :
    homePut (beside s x y z) key pa bs = beside (homePut s key pa bs) x y z := by
  unfold homePut rekey
  split
  · rfl
  · by_cases h : look KeySel.clear s.sealed (pa / 256) = key
    · rw [if_pos h, if_pos h]
    · rw [if_neg h, if_neg h]; rfl

theorem homeWriteFrom_beside (key : KeySel) : ∀ (n : Nat) (s : State) (pa : Nat) (bs : List Byte),
    homeWriteFrom n (beside s x y z) key pa bs = beside (homeWriteFrom n s key pa bs) x y z := by
  intro n
  induction n with
  | zero => intros; rfl
  | succ n ih =>
    intro s pa bs
    unfold homeWriteFrom
    cases bs with
    | nil => rfl
    | cons b r => dsimp only; rw [homePut_beside, ih]

theorem homeWrite_beside (s : State) (key : KeySel) (pa : Nat) (bs : List Byte) :
    homeWrite (beside s x y z) key pa bs = beside (homeWrite s key pa bs) x y z := homeWriteFrom_beside _ _ _ _ _

theorem rawRead_beside (s : State) (pa n : Nat) : rawRead (beside s x y z) pa n = rawRead s pa n := rfl

theorem rawWrite_beside (s : State) (pa n v : Nat) : rawWrite (beside s x y z) pa n v = beside (rawWrite s pa n v) x y z := by
  unfold rawWrite
  split
  · rfl
  · exact homeWrite_beside _ _ _ _

theorem zeroRange_beside (s : State) (key : KeySel) (pa len : Nat) :
    zeroRange (beside s x y z) key pa len = beside (zeroRange s key pa len) x y z := by
  unfold zeroRange
  split <;> rfl

theorem takePage_beside (s : State) (dom : Nat) :
    takePage (beside s x y z) dom = (takePage s dom).map (fun r => (beside r.1 x y z, r.2)) := by
  unfold takePage
  have h1 : ∀ pa n, rawRead (beside s x y z) pa n = rawRead s pa n := fun _ _ => rfl
  have h2 : ∀ o, domAddr (beside s x y z) dom o = domAddr s dom o := fun _ => rfl
  have h3 : ∀ o, listAt (beside s x y z) dom o = listAt s dom o := fun _ => rfl
  have h4 : ∀ b, ownedBlock (beside s x y z) dom b = ownedBlock s dom b := fun _ => rfl
  simp only [h1, h2, h3, h4]
  split
  · rfl
  · split
    · rfl
    · split
      · rfl
      · simp only [rawWrite_beside]; rfl

theorem backPage_beside (s : State) (e : TlbEntry) :
    backPage (beside s x y z) e = (backPage s e).map (fun r => (beside r.1 x y z, r.2)) := by
  unfold backPage
  rw [takePage_beside]
  cases takePage s e.dom with
  | error c => rfl
  | ok r =>
    obtain ⟨t, page⟩ := r
    simp only [Except.map]
    have h : ∀ f, leafKey (beside t x y z) f = leafKey t f := fun _ => rfl
    simp only [h, zeroRange_beside, rawWrite_beside]

theorem tlbInstall_beside (s : State) (e : TlbEntry) (ts : List Nat) :
    tlbInstall (beside s x y z) e ts = beside (tlbInstall s e ts) x y z := rfl

theorem tlbLook_beside (s : State) (dom va : Nat) (ts : List Nat) : tlbLook (beside s x y z) dom va ts = tlbLook s dom va ts := by
  induction ts with
  | nil => rfl
  | cons t r ih => unfold tlbLook; rw [ih]

theorem walkFrom_beside (s : State) (dom va : Nat) : ∀ (ls : List Nat) (table : Nat),
    walkFrom (beside s x y z) dom va ls table = walkFrom s dom va ls table := by
  intro ls
  induction ls with
  | nil => intro t; rfl
  | cons l r ih =>
    intro t
    unfold walkFrom
    have h1 : ∀ e, pteKind (beside s x y z) dom l e = pteKind s dom l e := fun _ => rfl
    have h2 : ∀ a, homeBad (beside s x y z) .clear a = homeBad s .clear a := fun _ => rfl
    have h3 : ∀ pa n, rawRead (beside s x y z) pa n = rawRead s pa n := fun _ _ => rfl
    simp only [h1, h2, h3, ih]

theorem walk_beside (s : State) (dom va : Nat) : walk (beside s x y z) dom va = walk s dom va := by
  unfold walk
  have h2 : ∀ a, homeBad (beside s x y z) .clear a = homeBad s .clear a := fun _ => rfl
  have h3 : rootEntry (beside s x y z) dom = rootEntry s dom := rfl
  simp only [h2, h3, walkFrom_beside]

theorem leafWalked_beside (s : State) (ts : List Nat) (dom va : Nat) (need : Need) (user : Bool) :
    leafWalked (beside s x y z) ts dom va need user = (leafWalked s ts dom va need user).map (fun r => (beside r.1 x y z, r.2)) := by
  unfold leafWalked
  rw [walk_beside]
  cases walk s dom va with
  | error f => rfl
  | ok e =>
    dsimp only
    cases permFault need user e.pte with
    | some f => rfl
    | none =>
      dsimp only
      by_cases h0 : bitW e.pte 0 = true
      · rw [if_pos h0, if_pos h0]; rfl
      · rw [if_neg h0, if_neg h0]
        by_cases hx : need.x = true
        · rw [if_pos hx, if_pos hx]; rfl
        · rw [if_neg hx, if_neg hx, backPage_beside]
          cases backPage s e <;> rfl

theorem leafFor_beside (s : State) (ts : List Nat) (dom va : Nat) (need : Need) (user : Bool) :
    leafFor (beside s x y z) ts dom va need user = (leafFor s ts dom va need user).map (fun r => (beside r.1 x y z, r.2)) := by
  unfold leafFor
  rw [tlbLook_beside, leafWalked_beside]
  have h1 : ∀ e, leafServes (beside s x y z) need user e = leafServes s need user e := fun _ => rfl
  simp only [h1]
  cases tlbLook s dom va ts with
  | some e => dsimp only; split <;> rfl
  | none => rfl

theorem permAny_beside (s : State) (ts : List Nat) (dom : Nat) (va : Word) (need : Need) (user : Bool) :
    permAny (beside s x y z) ts dom va need user = (permAny s ts dom va need user).map (fun r => (beside r.1 x y z, r.2)) := by
  unfold permAny
  rw [leafFor_beside]
  by_cases h1 : bitsW va 63 55 ≠ 0
  · rw [if_pos h1, if_pos h1]; rfl
  · rw [if_neg h1, if_neg h1]
    by_cases h2 : inAperture va = true
    · rw [if_pos h2, if_pos h2]; rfl
    · rw [if_neg h2, if_neg h2]
      cases leafFor s ts dom va.toNat need user with
      | error f => rfl
      | ok r =>
        obtain ⟨t, e⟩ := r
        have h3 : applyLeaf (beside t x y z) e va.toNat = applyLeaf t e va.toNat := rfl
        have h4 : (applyLeaf t e va.toNat).peer (beside t x y z) = (applyLeaf t e va.toNat).peer t := rfl
        simp only [Except.map]
        rw [h3, h4]
        have h6 : (applyLeaf t e va.toNat).absent (beside t x y z) = (applyLeaf t e va.toNat).absent t := rfl
        rw [h6]
        by_cases h5 : (!(applyLeaf t e va.toNat).peer t && (applyLeaf t e va.toNat).absent t) = true
        · rw [if_pos h5, if_pos h5]
        · rw [if_neg h5, if_neg h5]

theorem permLocal_beside (s : State) (ts : List Nat) (dom : Nat) (va : Word) (need : Need) (user : Bool) :
    permLocal (beside s x y z) ts dom va need user = (permLocal s ts dom va need user).map (fun r => (beside r.1 x y z, r.2)) := by
  unfold permLocal
  rw [permAny_beside]
  cases permAny s ts dom va need user with
  | error f => rfl
  | ok r =>
    obtain ⟨t, e⟩ := r
    have h4 : e.peer (beside t x y z) = e.peer t := rfl
    simp only [Except.map]
    rw [h4]
    by_cases h5 : e.peer t = true
    · rw [if_pos h5, if_pos h5]
    · rw [if_neg h5, if_neg h5]

theorem laneXlat_beside {s : State} {c e : Ctx} (h : ∀ b : State, b.lanes = s.lanes → userOf b e = userOf s c) (ht : e.tlbs = c.tlbs)
    (hd : e.team.domain = c.team.domain) (hc : e.team.cluster = c.team.cluster) (hr : e.routine = c.routine) (w : Reach) (va : Word) :
    laneXlat (beside s x y z) e w va = (laneXlat s c w va).map (fun r => (beside r.1 x y z, r.2)) := by
  unfold laneXlat
  rw [h (beside s x y z) rfl, ht, hd, hc, hr]
  dsimp only
  have key : ∀ (p : State → List Nat → Nat → Word → Need → Bool → Except XFault (State × Xlat)),
      p (beside s x y z) c.tlbs c.team.domain va w.need (userOf s c) =
        (p s c.tlbs c.team.domain va w.need (userOf s c)).map (fun r => (beside r.1 x y z, r.2)) →
      (match p (beside s x y z) c.tlbs c.team.domain va w.need (userOf s c) with
        | .error f => if decide (va.toNat % w.size ≠ 0) && decide (f.code > 0x0C) then .error { code := 0x0C, detail := 0 } else .error f
        | .ok (t, x) =>
          if decide (va.toNat % w.size ≠ 0) = true then .error { code := 0x0C, detail := 0 }
          else if (c.routine && w.reads && !x.peer t && takeBad t (clusterBanks c.team.cluster) x.key x.local_) = true then .error { code := 0x18, detail := 0 }
          else .ok (t, x)) =
      ((match p s c.tlbs c.team.domain va w.need (userOf s c) with
        | .error f => if decide (va.toNat % w.size ≠ 0) && decide (f.code > 0x0C) then .error { code := 0x0C, detail := 0 } else .error f
        | .ok (t, x) =>
          if decide (va.toNat % w.size ≠ 0) = true then .error { code := 0x0C, detail := 0 }
          else if (c.routine && w.reads && !x.peer t && takeBad t (clusterBanks c.team.cluster) x.key x.local_) = true then .error { code := 0x18, detail := 0 }
          else .ok (t, x)) : Except XFault (State × Xlat)).map (fun r => (beside r.1 x y z, r.2)) := by
    intro p hp
    rw [hp]
    cases p s c.tlbs c.team.domain va w.need (userOf s c) with
    | error f =>
      simp only [Except.map]
      split <;> rfl
    | ok r =>
      obtain ⟨t, e2⟩ := r
      have h4 : e2.peer (beside t x y z) = e2.peer t := rfl
      have h6 : takeBad (beside t x y z) (clusterBanks c.team.cluster) e2.key e2.local_ = takeBad t (clusterBanks c.team.cluster) e2.key e2.local_ := rfl
      simp only [Except.map]
      rw [h4, h6]
      split
      · rfl
      · split <;> rfl
  cases w.remote with
  | true => exact key permAny (permAny_beside _ _ _ _ _ _)
  | false => exact key permLocal (permLocal_beside _ _ _ _ _ _)

theorem permAny_only {s t : State} {ts : List Nat} {dom : Nat} {va : Word} {need : Need} {user : Bool} {q : Xlat}
    (h : permAny s ts dom va need user = .ok (t, q)) : OnlyMemory s t := by
  unfold permAny at h
  split at h
  · cases h
  · split at h
    · cases h
    · split at h
      · cases h
      · rename_i hl
        dsimp only at h
        split at h
        · cases h
        · simp only [Except.ok.injEq, Prod.mk.injEq] at h
          rw [← h.1]; exact leafFor_only hl

theorem permLocal_only {s t : State} {ts : List Nat} {dom : Nat} {va : Word} {need : Need} {user : Bool} {q : Xlat}
    (h : permLocal s ts dom va need user = .ok (t, q)) : OnlyMemory s t := by
  unfold permLocal at h
  split at h
  · cases h
  · rename_i hl
    split at h
    · cases h
    · simp only [Except.ok.injEq, Prod.mk.injEq] at h
      rw [← h.1]; exact permAny_only hl

theorem laneXlat_only {s t : State} {c : Ctx} {w : Reach} {va : Word} {q : Xlat} (h : laneXlat s c w va = .ok (t, q)) : OnlyMemory s t := by
  unfold laneXlat at h
  dsimp only at h
  have g : ∀ t q, (if w.remote then permAny else permLocal) s c.tlbs c.team.domain va w.need (userOf s c) = .ok (t, q) → OnlyMemory s t := by
    intro t q hq
    cases hr : w.remote with
    | true => rw [hr] at hq; exact permAny_only hq
    | false => rw [hr] at hq; exact permLocal_only hq
  split at h
  · split at h <;> cases h
  · rename_i hl
    split at h
    · cases h
    · split at h
      · cases h
      · simp only [Except.ok.injEq, Prod.mk.injEq] at h
        rw [← h.1]; exact g _ _ hl

theorem reachAll_only {c : Ctx} {w : Reach} : ∀ (l : List (Vals × Word)) (s : State), OnlyMemory s (reachAll c w s l).1 := by
  intro l
  induction l with
  | nil => intro s; exact .refl _
  | cons a r ih =>
    intro s
    obtain ⟨v, va⟩ := a
    unfold reachAll
    cases h : laneXlat s c w va with
    | error f => exact ih s
    | ok q => exact (laneXlat_only h).trans (ih q.1)

/-- The translation of every lane's address, made again in a state that differs in streams, teams and timers alone. -/
theorem reachAll_beside {c e : Ctx} {w : Reach} (ht : e.tlbs = c.tlbs)
    (hd : e.team.domain = c.team.domain) (hc : e.team.cluster = c.team.cluster) (hr : e.routine = c.routine) :
    ∀ (l : List (Vals × Word)) (s : State),
    (∀ b : State, b.lanes = s.lanes → userOf b e = userOf s c) →
    reachAll e w (beside s x y z) l = (beside (reachAll c w s l).1 x y z, (reachAll c w s l).2) := by
  intro l
  induction l with
  | nil => intro s _; rfl
  | cons a r ih =>
    intro s hu
    obtain ⟨v, va⟩ := a
    unfold reachAll
    rw [laneXlat_beside hu ht hd hc hr]
    cases h : laneXlat s c w va with
    | error f =>
      simp only [Except.map]
      rw [ih s hu]
    | ok q =>
      simp only [Except.map]
      rw [ih q.1]
      intro b hb
      have h1 := (laneXlat_only h).lanes
      have h2 : userOf q.1 c = userOf s c := by
        unfold userOf privOf laneOf; rw [h1]
      rw [h2]
      exact hu b (hb.trans h1)

end Sys2Proof.Machine
end

