-- ==== Sys2Proof/Laws/Turn.lean ====
section
/-!
SUPPORT. Instructions that act lane by lane: the chain of the lanes' parts, and the end of an issue.
-/

namespace Sys2Proof.Machine

open Sys2Proof

theorem inTurn_foldl {α : Type} {P : State → α → State → Prop} {f : State → α → State} : ∀ (l : List α) (s : State),
    (∀ u, ∀ x ∈ l, P u x (f u x)) → InTurn P s l (l.foldl f s) := by
  intro l
  induction l with
  | nil => intro s _; exact .nil s
  | cons a r ih => intro s h; exact .cons _ _ _ _ _ (h s a (by simp)) (ih _ (fun u x hx => h u x (by simp [hx])))

theorem InTurn.append {α : Type} {P : State → α → State → Prop} {s u t : State} {a b : List α} (h : InTurn P s a u) (g : InTurn P u b t) :
    InTurn P s (a ++ b) t := by
  induction h with
  | nil _ => exact g
  | cons s v t x r hp hr ih => exact .cons _ _ _ _ _ hp (ih g)

theorem InTurn.mono {α : Type} {P Q : State → α → State → Prop} {s t : State} {l : List α} (h : InTurn P s l t)
    (g : ∀ u x v, P u x v → Q u x v) : InTurn Q s l t := by
  induction h with
  | nil _ => exact .nil _
  | cons s v t x r hp hr ih => exact .cons _ _ _ _ _ (g _ _ _ hp) ih

theorem InTurn.map {α β : Type} {P : State → α → State → Prop} (k : β → α) {s t : State} {l : List β} (h : InTurn (fun u x v => P u (k x) v) s l t) :
    InTurn P s (l.map k) t := by
  induction h with
  | nil _ => exact .nil _
  | cons s v t x r hp hr ih => exact .cons _ _ _ _ _ hp ih

theorem ends_spec {u : State} {sid : Nat} {st : Stream} {sw : Bool} (h : find? u.streams sid = some st) :
    Ends u (switchPoint (advance u sid) sid sw) sid sw := by
  have h1 : find? (advance u sid).streams sid = some { st with pc := st.pc + 4 } := by simp [advance, h]
  have h2 : ∀ k, k ≠ sid → find? (advance u sid).streams k = find? u.streams k := fun k hk => by simp [advance, find?_upd_ne _ _ hk]
  unfold switchPoint
  cases sw with
  | false =>
    exact ⟨rfl, h2, st, _, h, h1, rfl, fun _ => rfl, fun x => by simp at x⟩
  | true =>
    by_cases hq : st.pend ≠ [] ∧ st.park = none
    · refine ⟨rfl, fun k hk => ?_, st, { st with pc := st.pc + 4, park := some .results }, h, ?_, rfl, fun x => absurd ⟨rfl, hq⟩ x, fun _ => rfl⟩
      · exact (find?_upd_ne _ _ hk).trans (h2 k hk)
      · rw [if_pos rfl]
        simp only [modStream_streams, find?_upd_self, h1, Option.map_some]
        exact congrArg some (if_pos hq)
    · refine ⟨rfl, fun k hk => ?_, st, { st with pc := st.pc + 4 }, h, ?_, rfl, fun _ => rfl, fun x => absurd x.2 hq⟩
      · exact (find?_upd_ne _ _ hk).trans (h2 k hk)
      · rw [if_pos rfl]
        simp only [modStream_streams, find?_upd_self, h1, Option.map_some]
        exact congrArg some (if_neg hq)

/-- A stream that every part keeps is there at the end. -/
theorem foldl_stream {α : Type} {f : State → α → State} {sid : Nat}
    (hf : ∀ u x st, find? u.streams sid = some st → ∃ st', find? (f u x).streams sid = some st') : ∀ (l : List α) (u : State) (st : Stream),
    find? u.streams sid = some st → ∃ st', find? (l.foldl f u).streams sid = some st' := by
  intro l
  induction l with
  | nil => intro u st h; exact ⟨st, h⟩
  | cons a r ih => intro u st h; obtain ⟨st', h'⟩ := hf u a st h; exact ih _ _ h'

theorem Before.user {s b : State} {c c' : Ctx} {o : Operands} (h : Before s b c c' o) :
    ∀ v : State, v.lanes = s.lanes → userOf v c' = userOf s c := by
  intro v hv
  have h1 : c'.routine = c.routine := by unfold Ctx.routine; rw [show c'.st.hart = c.st.hart by rw [← h.stream]]
  unfold userOf privOf laneOf
  rw [h1, h.first, hv]

theorem Before.reach {s b : State} {c c' : Ctx} {o : Operands} (h : Before s b c c' o) (w : Reach) (l : List (Vals × Word)) :
    reachAll c' w b l = (beside (reachAll c w s l).1 b.streams b.teams b.timers, (reachAll c w s l).2) := by
  have h1 : c'.team.cluster = c.team.cluster := by rw [← h.team]
  have h2 : c'.st.hart = c.st.hart := by rw [← h.stream]
  have h3 : c'.team.domain = c.team.domain := by rw [← h.team]
  have e := reachAll_beside (x := b.streams) (y := b.teams) (z := b.timers) (c := c) (e := c') (w := w) (by unfold Ctx.tlbs; rw [h1, h2]) h3
    h1 (by unfold Ctx.routine; rw [h2]) l s h.user
  rw [← e]
  congr 1
  exact h.rest

theorem Before.ctx' {s b : State} {c c' : Ctx} {o : Operands} (h : Before s b c c' o) : find? b.streams c'.sid = some c'.st := by
  have := (ctxOf_eq_some.1 h.ctx).2.1
  rw [h.sid]; exact this

/-- An instruction whose ready plan runs lane after lane. -/
theorem acts_go {s : State} {c : Ctx} {i : Instr} {maj f : Nat} {sw : Bool} {α : Type}
    {plan : State → Ctx → List Vals → Plan} {eff : State → Ctx → State} {xs : List α} {r : State} {P : Ctx → State → α → State → Prop}
    (h : Issues s c i) (ho : opcode i = some (maj, f)) (hx : extraRegs i = [])
    (hp : plan s c (c.lanes.map (laneVals s c (operands i))) = .go eff)
    (he : ∀ b c', Before s b c c' (operands i) →
      InTurn (P c') { r with streams := b.streams, teams := b.teams, timers := b.timers } xs (eff b c') ∧
      ∃ st, find? (eff b c').streams c.sid = some st) :
    ∃ t, issueWith s maj f sw (operands i) [] plan = .next t ∧ Acts s r c i sw xs P t := by
  obtain ⟨c', hb⟩ := beforeEffect_spec h.ctx (operands i) (chargeUnits maj f)
  obtain ⟨h1, st, h2⟩ := he _ _ hb
  refine ⟨_, issueWith_go h ho rfl hx hp, _, c', _, hb, h1, ?_⟩
  rw [runEffect_eq hb.ctx]
  exact ends_spec h2

/-- The same for a plan that reaches memory at one address per lane. -/
theorem acts_mem {s : State} {c : Ctx} {i : Instr} {maj f : Nat} {sw : Bool} {w : Reach} {addr : Vals → Word}
    {g : Ctx → State → Reached → State} {xs : List Reached} {r : State} {P : Ctx → State → Reached → State → Prop}
    (h : Issues s c i) (ho : opcode i = some (maj, f)) (hx : extraRegs i = [])
    (hr : reachAll c w s ((c.lanes.map (valsOf s c i)).map (fun v => (v, addr v))) = (r, [], xs)) (hh : heldStore r c w.size xs = false)
    (hP : ∀ c', c'.routine = c.routine → ∀ u, ∀ x ∈ xs, P c' u x (g c' u x))
    (hS : ∀ c' u x st, find? u.streams c'.sid = some st → ∃ st', find? (g c' u x).streams c'.sid = some st') :
    ∃ t, issueWith s maj f sw (operands i) [] (memPlan w addr (fun t e xs => xs.foldl (g e) t)) = .next t ∧ Acts s r c i sw xs P t := by
  have hr' : reachAll c w s ((c.lanes.map (laneVals s c (operands i))).map (fun v => (v, addr v))) = (r, [], xs) := hr
  refine acts_go (r := r) (eff := fun u e =>
      (reachAll e w u ((c.lanes.map (laneVals s c (operands i))).map (fun v => (v, addr v)))).2.2.foldl (g e)
        (reachAll e w u ((c.lanes.map (laneVals s c (operands i))).map (fun v => (v, addr v)))).1) h ho hx ?_ ?_
  · unfold memPlan
    dsimp only
    rw [hr']
    dsimp only
    rw [hh]
    rfl
  · intro b c' hb
    have hro : c'.routine = c.routine := by unfold Ctx.routine; rw [show c'.st.hart = c.st.hart by rw [← hb.stream]]
    rw [hb.reach, hr']
    refine ⟨inTurn_foldl _ _ (fun u x hx => hP c' hro u x hx), ?_⟩
    have := foldl_stream (fun u x st => hS c' u x st) xs (beside r b.streams b.teams b.timers) _ hb.ctx'
    rw [hb.sid] at this
    exact this

/-- An instruction whose ready plan acts once. -/
theorem does_go {s : State} {c : Ctx} {i : Instr} {maj f : Nat} {sw : Bool}
    {plan : State → Ctx → List Vals → Plan} {eff : State → Ctx → State} {E : Ctx → State → State → Prop}
    (h : Issues s c i) (ho : opcode i = some (maj, f)) (hx : extraRegs i = [])
    (hp : plan s c (c.lanes.map (laneVals s c (operands i))) = .go eff)
    (he : ∀ b c', Before s b c c' (operands i) → E c' b (eff b c') ∧ ∃ st, find? (eff b c').streams c.sid = some st) :
    ∃ t, issueWith s maj f sw (operands i) [] plan = .next t ∧ Does s c i sw E t := by
  obtain ⟨c', hb⟩ := beforeEffect_spec h.ctx (operands i) (chargeUnits maj f)
  obtain ⟨h1, st, h2⟩ := he _ _ hb
  refine ⟨_, issueWith_go h ho rfl hx hp, _, c', _, hb, h1, ?_⟩
  rw [runEffect_eq hb.ctx]
  exact ends_spec h2

theorem switched_spec (u : State) (sid : Nat) (sw : Bool) : Switched u (switchPoint u sid sw) sid sw := by
  unfold switchPoint
  cases sw with
  | false => exact ⟨rfl, fun _ _ => rfl, fun st h => by simpa using h⟩
  | true =>
    refine ⟨rfl, fun k hk => ?_, fun st h => ?_⟩
    · simp only [if_true, modStream]
      exact find?_upd_ne _ _ hk
    · simp only [if_true, modStream]
      rw [find?_upd_self, h]
      simp only [Option.map_some, true_and]

/-- An instruction whose ready plan sets its pc itself. -/
theorem sets_own {s : State} {c : Ctx} {i : Instr} {maj f : Nat} {sw : Bool}
    {plan : State → Ctx → List Vals → Plan} {eff : State → Ctx → State} {E : Ctx → State → State → Prop}
    (h : Issues s c i) (ho : opcode i = some (maj, f)) (hx : extraRegs i = [])
    (hp : plan s c (c.lanes.map (laneVals s c (operands i))) = .own eff)
    (he : ∀ b c', Before s b c c' (operands i) → E c' b (eff b c')) :
    ∃ t, issueWith s maj f sw (operands i) [] plan = .next t ∧ Sets s c i sw E t := by
  obtain ⟨c', hb⟩ := beforeEffect_spec h.ctx (operands i) (chargeUnits maj f)
  refine ⟨_, issueWith_own h ho rfl hx hp, _, c', _, hb, he _ _ hb, ?_⟩
  rw [runEffect_eq hb.ctx]
  exact switched_spec _ _ _

theorem modStream_set {u : State} {sid : Nat} {st : Stream} {f : Stream → Stream} (h : find? u.streams sid = some st) :
    StreamSet u (modStream u sid f) sid (f st) :=
  ⟨rfl, fun _ hk => find?_upd_ne _ _ hk, by show find? (upd u.streams sid f) sid = _; rw [find?_upd_self, h]; rfl⟩

theorem modTeam_set {u : State} {k : Nat} {tm : Team} {f : Team → Team} (h : find? u.teams k = some tm) :
    TeamSet u (modTeam u k f) k (f tm) :=
  ⟨rfl, fun _ hk => find?_upd_ne _ _ hk, by show find? (upd u.teams k f) k = _; rw [find?_upd_self, h]; rfl⟩

theorem Before.at_ {s b : State} {c c' : Ctx} {o : Operands} (h : Before s b c c' o) :
    find? b.streams c.sid = some c'.st ∧ find? b.teams c'.st.team = some c'.team ∧ ctxOf b c.sid = some c' :=
  ⟨(ctxOf_eq_some.1 h.ctx).2.1, (ctxOf_eq_some.1 h.ctx).2.2.1, h.ctx⟩

theorem Before.teamKey {s b : State} {c c' : Ctx} {o : Operands} (h : Before s b c c' o) : c'.st.team = c.st.team := by rw [← h.stream]

theorem Before.routine {s b : State} {c c' : Ctx} {o : Operands} (h : Before s b c c' o) : c'.routine = c.routine := by
  unfold Ctx.routine; rw [show c'.st.hart = c.st.hart by rw [← h.stream]]

/-- An instruction word whose plan neither acts nor sets the pc. -/
theorem issueWith_plan {s : State} {c : Ctx} {i : Instr} {maj f : Nat} {sw : Bool} {extra : List Nat}
    {plan : State → Ctx → List Vals → Plan} (h : Issues s c i) (ho : opcode i = some (maj, f)) (hx : extraRegs i = extra) :
    (∀ fs, plan s c (c.lanes.map (laneVals s c (operands i))) = .fault fs →
      issueWith s maj f sw (operands i) extra plan = .next (raise s c fs)) ∧
    (∀ u fs, plan s c (c.lanes.map (laneVals s c (operands i))) = .backed u fs →
      issueWith s maj f sw (operands i) extra plan = .next (raise u c fs)) ∧
    (plan s c (c.lanes.map (laneVals s c (operands i))) = .illegal →
      issueWith s maj f sw (operands i) extra plan = .next (illegal s c)) ∧
    (∀ p, plan s c (c.lanes.map (laneVals s c (operands i))) = .wait p →
      issueWith s maj f sw (operands i) extra plan = .next (waitAt s c (chargeUnits maj f) p)) := by
  subst hx
  have a1 : allocFaults s c (windowed { operands i with dst := none } []) = [] :=
    allocFaults_sub (fun n hn => windowed_source_mem hn) h.alloc
  have a2 : allocFaults s c (windowed { dst := (operands i).dst } (extraRegs i)) = [] :=
    allocFaults_sub (fun n hn => windowed_dst_mem hn) h.alloc
  refine ⟨fun fs hp => ?_, fun u fs hp => ?_, fun hp => ?_, fun p hp => ?_⟩ <;>
    simp [issueWith, h.issuer, h.ctx, issueAt, h.illegalHere ho, a1, a2, h.roles, planFaults, hp]

/-- A lane whose address translates: aligned, and at the place its leaf gives. -/
structure ReachedAt (w : Reach) (x : Reached) : Prop where
  aligned : x.va.toNat % w.size = 0
  page    : x.x.local_ % 65536 = x.va.toNat % 65536
  below   : w.remote = false → x.x.local_ < localLimit

theorem permAny_at {s t : State} {ts : List Nat} {dom : Nat} {va : Word} {need : Need} {user : Bool} {q : Xlat}
    (h : permAny s ts dom va need user = .ok (t, q)) : q.local_ % 65536 = va.toNat % 65536 ∧ (q.peer t = false → q.local_ < localLimit) := by
  unfold permAny at h
  split at h
  · cases h
  · split at h
    · cases h
    · split at h
      · cases h
      · rename_i u e hl
        dsimp only at h
        split at h
        · cases h
        · rename_i hn
          simp only [Except.ok.injEq, Prod.mk.injEq] at h
          obtain ⟨rfl, rfl⟩ := h
          constructor
          · simp only [Xlat.local_, applyLeaf, pageBits]
            generalize bitsW e.pte 51 16 = f
            split
            · omega
            · split <;> omega
          · intro hp
            simp only [hp, Bool.not_false, Bool.true_and, Xlat.absent, Bool.or_eq_true, decide_eq_true_eq, not_or, ge_iff_le, Nat.not_le] at hn
            exact hn.1

theorem laneXlat_at {s t : State} {c : Ctx} {w : Reach} {va : Word} {q : Xlat} {v : Vals} (h : laneXlat s c w va = .ok (t, q)) :
    ReachedAt w { v := v, va := va, x := q } := by
  unfold laneXlat at h
  dsimp only at h
  have g : ∀ t q, (if w.remote then permAny else permLocal) s c.tlbs c.team.domain va w.need (userOf s c) = .ok (t, q) →
      q.local_ % 65536 = va.toNat % 65536 ∧ (w.remote = false → q.local_ < localLimit) := by
    intro t q hq
    cases hr : w.remote with
    | true => rw [hr] at hq; exact ⟨(permAny_at hq).1, fun x => by cases x⟩
    | false =>
      rw [hr] at hq
      unfold permLocal at hq
      simp only [Bool.false_eq_true, if_false] at hq
      split at hq
      · cases hq
      · rename_i hl
        split at hq
        · cases hq
        · rename_i hp
          simp only [Except.ok.injEq, Prod.mk.injEq] at hq
          obtain ⟨rfl, rfl⟩ := hq
          exact ⟨(permAny_at hl).1, fun _ => (permAny_at hl).2 (by simpa using hp)⟩
  split at h
  · split at h <;> cases h
  · rename_i hl
    split at h
    · cases h
    · rename_i ha
      split at h
      · cases h
      · simp only [Except.ok.injEq, Prod.mk.injEq] at h
        obtain ⟨rfl, rfl⟩ := h
        exact ⟨by simpa using ha, (g _ _ hl).1, (g _ _ hl).2⟩

theorem reachAll_at {c : Ctx} {w : Reach} : ∀ (l : List (Vals × Word)) (s : State), ∀ x ∈ (reachAll c w s l).2.2, ReachedAt w x := by
  intro l
  induction l with
  | nil => intro s x hx; simp [reachAll] at hx
  | cons a r ih =>
    intro s x hx
    obtain ⟨v, va⟩ := a
    unfold reachAll at hx
    cases h : laneXlat s c w va with
    | error f => rw [h] at hx; exact ih s x hx
    | ok q =>
      rw [h] at hx
      rcases List.mem_cons.1 hx with rfl | hx
      · exact laneXlat_at h
      · exact ih _ _ hx

end Sys2Proof.Machine
end

