-- ==== Sys2Proof/Laws/Touch.lean ====
section
/-!
SUPPORT. What an access to memory leaves unchanged, and what it finds in the banks and at the home: charges, fills, write-backs, releases, acquires and kicks.
-/

namespace Sys2Proof.Machine

open Sys2Proof

theorem Touches.refl (u : State) (c : Ctx) : Touches u u c :=
  ⟨rfl, rfl, fun _ _ => rfl, fun st h => ⟨st, h, rfl⟩, fun _ _ => rfl, fun tm h => ⟨tm, h, rfl⟩⟩

theorem Touches.trans {u v t : State} {c : Ctx} (h : Touches u v c) (g : Touches v t c) : Touches u t c := by
  refine ⟨?_, ?_, fun k hk => (g.others k hk).trans (h.others k hk), ?_, fun k hk => (g.teams k hk).trans (h.teams k hk), ?_⟩
  · rw [g.rest, h.rest]
  · rw [g.ctl, h.ctl]
  · intro st hs
    obtain ⟨s1, h1, e1⟩ := h.stream st hs
    obtain ⟨s2, h2, e2⟩ := g.stream s1 h1
    exact ⟨s2, h2, by rw [← e1, ← e2]⟩
  · intro tm hs
    obtain ⟨s1, h1, e1⟩ := h.team tm hs
    obtain ⟨s2, h2, e2⟩ := g.team s1 h1
    exact ⟨s2, h2, by rw [← e1, ← e2]⟩

theorem OnlyMemory.touches {u t : State} (h : OnlyMemory u t) (c : Ctx) : Touches u t c := by
  have e1 := h.streams
  have e2 := h.teams
  refine ⟨by rw [h.rest], h.ctl, fun k _ => by rw [e1], fun st hs => ⟨st, by rw [e1]; exact hs, rfl⟩,
    fun k _ => by rw [e2], fun tm hs => ⟨tm, by rw [e2]; exact hs, rfl⟩⟩

/-- What a charge of sectors changes. -/
structure TbOnly (s t : State) (k : Nat) : Prop where
  rest  : t = { s with teams := t.teams, timers := t.timers }
  teams : ∀ j, j ≠ k → find? t.teams j = find? s.teams j
  team  : ∀ tm, find? s.teams k = some tm → ∃ tm', find? t.teams k = some tm' ∧ { tm' with tb := tm.tb, pend := tm.pend } = tm

theorem TbOnly.refl (s : State) (k : Nat) : TbOnly s s k := ⟨rfl, fun _ _ => rfl, fun tm h => ⟨tm, h, rfl⟩⟩

theorem modTeam_tb {s : State} {k : Nat} {f : Team → Team} (hf : ∀ x, { f x with tb := x.tb, pend := x.pend } = x) :
    TbOnly s (modTeam s k f) k := by
  refine ⟨rfl, fun j h => ?_, fun tm h => ?_⟩
  · simp [find?_upd_ne _ _ h]
  · exact ⟨f tm, by simp [h], hf tm⟩

theorem TbOnly.trans {s t u : State} {k : Nat} (h : TbOnly s t k) (g : TbOnly t u k) : TbOnly s u k := by
  refine ⟨?_, fun j hj => (g.teams j hj).trans (h.teams j hj), fun tm ht => ?_⟩
  · rw [g.rest, h.rest]
  · obtain ⟨tm1, h1, e1⟩ := h.team tm ht
    obtain ⟨tm2, h2, e2⟩ := g.team tm1 h1
    exact ⟨tm2, h2, by rw [← e1, ← e2]⟩

theorem pendYield_tb (s : State) (k cause n : Nat) : TbOnly s (pendYield s k cause n) k := by
  unfold pendYield
  split
  · exact .refl _ _
  · split
    · split
      · exact modTeam_tb (fun _ => rfl)
      · exact .refl _ _
    · exact TbOnly.trans (t := modTeam s k _) (modTeam_tb (by intro x; rfl)) ⟨rfl, fun _ _ => rfl, fun tm h => ⟨tm, h, rfl⟩⟩

theorem chargeTb_tb (s : State) (k n : Nat) : TbOnly s (chargeTb s k n) k := by
  unfold chargeTb
  split
  · exact .refl _ _
  · split
    · exact .refl _ _
    · dsimp only
      split
      · exact TbOnly.trans (t := modTeam s k _) (modTeam_tb (by intro x; rfl)) (pendYield_tb _ _ _ _)
      · exact modTeam_tb (fun _ => rfl)

theorem chargeSectors_tb (s : State) (c : Ctx) (n : Nat) : TbOnly s (chargeSectors s c n) c.st.team := by
  unfold chargeSectors
  split
  · exact .refl _ _
  · exact chargeTb_tb _ _ _

theorem TbOnly.touches {u t : State} {c : Ctx} (h : TbOnly u t c.st.team) : Touches u t c := by
  refine ⟨by rw [h.rest], by rw [h.rest], fun k _ => by rw [h.rest], fun st hs => ⟨st, by rw [h.rest]; exact hs, rfl⟩, h.teams, h.team⟩

theorem chargeSectors_touches (u : State) (c : Ctx) (n : Nat) : Touches u (chargeSectors u c n) c := (chargeSectors_tb u c n).touches

theorem issueResult_touches (u : State) (c : Ctx) (pos : Nat) (ws : List (Dest × Word)) (a : Await) : Touches u (issueResult u c pos ws a) c := by
  refine ⟨rfl, rfl, fun k hk => ?_, fun st hs => ?_, fun _ _ => rfl, fun tm h => ⟨tm, h, rfl⟩⟩
  · simp only [issueResult, modStream_streams]
    exact find?_upd_ne _ _ hk
  · exact ⟨_, issueResult_stream hs, rfl⟩

/-- The facts about a result that is issued in a state whose streams and numbers are those of an earlier one. -/
theorem issueResult_returning {u v : State} {c : Ctx} (hs : v.streams = u.streams) (hq : v.seq = u.seq) {pos : Nat} {ws : List (Dest × Word)} {a : Await} :
    (issueResult v c pos ws a).seq = u.seq + 1 ∧
    ∀ st, find? u.streams c.sid = some st → ∃ st' p, find? (issueResult v c pos ws a).streams c.sid = some st' ∧ p ∈ st'.pend ∧
      p.seq = u.seq ∧ p.lane = pos ∧ p.pc = c.st.pc ∧ p.await = a ∧ p.writes = ws := by
  refine ⟨by simp [issueResult, hq], fun st h => ?_⟩
  rw [← hs] at h
  refine ⟨_, { seq := v.seq, lane := pos, writes := ws, await := a, pc := c.st.pc }, issueResult_stream h, ?_, hq, rfl, rfl, rfl, rfl⟩
  simp

theorem resultTo_lanes {u v : State} {c : Ctx} (h : v.lanes = u.lanes) (ln pos : Nat) (d : RegName) (w : Word) :
    resultTo v c ln pos d w = resultTo u c ln pos d w := by
  unfold resultTo destOf regPlace laneOf
  rw [h]

theorem loadResult_returning {u v : State} {c : Ctx} (hs : v.streams = u.streams) (hq : v.seq = u.seq) (hl : v.lanes = u.lanes)
    (r : Reached) (d : RegName) (bad : Bool) (w : Word) : Returning u (loadResult v c r.v r.va d bad w) c d r bad w := by
  unfold loadResult
  cases bad with
  | true =>
    obtain ⟨h1, h2⟩ := issueResult_returning (c := c) hs hq (pos := r.v.pos) (ws := [])
      (a := .fails { lane := r.v.pos, code := 0x18, addr := r.va, detail := 0, pc := c.st.pc })
    refine ⟨h1, fun st h => ?_⟩
    obtain ⟨st', p, a1, a2, a3, a4, a5, a6, a7⟩ := h2 st h
    exact ⟨st', p, a1, a2, a3, a4, a5, (fun x => by cases x), (fun _ => ⟨a7, a6⟩)⟩
  | false =>
    obtain ⟨h1, h2⟩ := issueResult_returning (c := c) hs hq (pos := r.v.pos) (ws := resultTo v c r.v.ln r.v.pos d w) (a := .nothing)
    refine ⟨h1, fun st h => ?_⟩
    obtain ⟨st', p, a1, a2, a3, a4, a5, a6, a7⟩ := h2 st h
    exact ⟨st', p, a1, a2, a3, a4, a5, (fun _ => ⟨a6, by rw [a7, resultTo_lanes hl]⟩), (fun x => by cases x)⟩

theorem loadResult_touches (u : State) (c : Ctx) (v : Vals) (va : Word) (d : RegName) (bad : Bool) (w : Word) :
    Touches u (loadResult u c v va d bad w) c := by
  unfold loadResult
  split
  · exact issueResult_touches _ _ _ _ _
  · exact issueResult_touches _ _ _ _ _

/-- A sector in its bank after it was made sure of. -/
theorem ensure_inBank {u : State} {b : Nat} {key : KeySel} {sec : Nat} {e : Sector} (h : InBank u b key sec e) :
    ∃ t n e', ensureSector u b key sec = (t, n) ∧ sectorIn t b sec = some e' ∧ OnlyMemory u t ∧ e'.poison = e.poison ∧ e'.key = e.key ∧
      e'.dirty = e.dirty ∧ (∀ o, o < 256 → look 0 e'.data o = look 0 e.data o) := by
  rcases h with h | ⟨h1, h2, h3, h4, h5, h6, h7⟩
  · obtain ⟨g1, g2⟩ := ensureSector_hit (key := key) h
    exact ⟨_, _, e, g1, g2, touchLine_only _ _ _, rfl, rfl, rfl, fun _ _ => rfl⟩
  · obtain ⟨t, n, e', g1, g2, g3, g4, g5, g6, -⟩ := ensureSector_miss (key := key) h1 h2 h3
    exact ⟨_, _, e', g1, sectorIn_placeSector _ _ _ _, g2.trans (placeSector_only _ _ _ _), by rw [g6, h6], by rw [g5, h4], by rw [g4, h5],
      fun o ho => by rw [g3 o ho, h7 o ho]⟩

theorem makeRoom_roomy {u : State} {b num : Nat}
    (h : ((linesOf u b).filter (fun l => decide (setFor (sharedOn u (b / 16)) l.num = setFor (sharedOn u (b / 16)) num))).length < 12 ∧
      (linesOf u b).length < 48) : makeRoom u b num = (u, 0) := by
  have : leaving (sharedOn u (b / 16)) (linesOf u b) num = [] := by
    unfold leaving waysOf
    rw [if_neg (by omega), if_neg (by omega)]
  unfold makeRoom
  simp [this]

theorem ensure_roomy {u : State} {b : Nat} {key : KeySel} {sec : Nat} (h : Roomy u b sec) :
    ∃ t, ensureSector u b key sec = (t, fillCharge u b sec) ∧ t = { u with banks := t.banks } := by
  unfold fillCharge
  cases hs : sectorIn u b sec with
  | some e =>
    refine ⟨_, (ensureSector_hit hs).1, ?_⟩
    exact touchLine_mem _ _ _
  | none =>
    obtain ⟨h1, h2⟩ := h.resolve_left (fun x => x hs)
    refine ⟨placeSector u b sec (fillSector u key sec), ?_, placeSector_mem _ _ _ _⟩
    unfold ensureSector
    rw [hs]
    dsimp only
    rw [lazyMove_none h1]
    dsimp only
    split
    · rfl
    · rw [makeRoom_roomy h2]; rfl

theorem gather_mod {f : Nat → Byte} {d : SMap Byte} {n pa : Nat} (_hn : pa % 256 + n ≤ 256)
    (h : ∀ o, o < 256 → look 0 d o = f o) : gather (fun a => look 0 d (a % 256)) n pa = gather (fun a => f (a % 256)) n pa :=
  gather_congr _ _ (fun i hi => h _ (by omega))

theorem bankLoad_inBank {u : State} {pipe : Nat} {key : KeySel} {pa n : Nat} {e : Sector} (h : InBank u (bankFor u pipe pa) key (pa / 256) e)
    : ∃ t k, bankLoad u pipe key pa n = (t, gather (fun a => look 0 e.data (a % 256)) n pa, e.poison || decide (key = .dead), k) ∧ OnlyMemory u t := by
  obtain ⟨t, k, e', g1, g2, g3, g4, -, -, g5⟩ := ensure_inBank h
  refine ⟨t, k, ?_, g3⟩
  unfold bankLoad
  dsimp only
  rw [g1]
  dsimp only
  rw [g2]
  dsimp only
  rw [g4]
  congr 2
  exact gather_congr _ _ (fun i hi => g5 _ (Nat.mod_lt _ (by omega)))

theorem bankLoad_roomy {u : State} {pipe : Nat} {key : KeySel} {pa n : Nat} (h : Roomy u (bankFor u pipe pa) (pa / 256)) :
    ∃ t w b, bankLoad u pipe key pa n = (t, w, b, fillCharge u (bankFor u pipe pa) (pa / 256)) ∧ t = { u with banks := t.banks } := by
  obtain ⟨t, g1, g2⟩ := ensure_roomy (key := key) h
  unfold bankLoad
  dsimp only
  rw [g1]
  dsimp only
  split
  · exact ⟨t, _, _, rfl, g2⟩
  · exact ⟨t, _, _, rfl, g2⟩

theorem chargeSectors_facts (u : State) (c : Ctx) (n : Nat) : (chargeSectors u c n).streams = u.streams ∧ (chargeSectors u c n).seq = u.seq ∧
    (chargeSectors u c n).lanes = u.lanes ∧ (chargeSectors u c n).mem = u.mem ∧ (chargeSectors u c n).poison = u.poison ∧
    (chargeSectors u c n).sealed = u.sealed ∧ (chargeSectors u c n).banks = u.banks := by
  have := (chargeSectors_tb u c n).rest
  rw [this]
  exact ⟨rfl, rfl, rfl, rfl, rfl, rfl, rfl⟩

theorem chargeTb_teams (u v : State) (k n : Nat) (h : v.teams = u.teams) (hs : v.sched = u.sched) (hc : v.cycle = u.cycle) :
    (chargeTb v k n).teams = (chargeTb u k n).teams := by
  have py : ∀ (a b : State) (q x : Nat), a.teams = b.teams → a.sched = b.sched → a.cycle = b.cycle →
      (pendYield a k q x).teams = (pendYield b k q x).teams := by
    intro a b q x h1 h2 h3
    unfold pendYield
    rw [h1]
    split
    · exact h1
    · split
      · split
        · simp [modTeam, h1]
        · exact h1
      · simp [modTeam, pushTimer, h1, h2, h3]
  unfold chargeTb
  rw [h]
  split
  · exact h
  · split
    · exact h
    · dsimp only
      split
      · exact py _ _ _ _ (by simp [modTeam, h]) hs hc
      · simp [modTeam, h]

theorem chargeSectors_teams (u v : State) (c : Ctx) (n : Nat) (h : v.teams = u.teams) (hs : v.sched = u.sched) (hc : v.cycle = u.cycle) :
    (chargeSectors v c n).teams = (chargeSectors u c n).teams := by
  unfold chargeSectors
  split
  · exact h
  · exact chargeTb_teams _ _ _ _ h hs hc

theorem within (w : Reach) (x : Reached) (h : ReachedAt w x) (hw : w.size = 1 ∨ w.size = 2 ∨ w.size = 4 ∨ w.size = 8) :
    x.x.local_ % 256 + w.size ≤ 256 := by
  have h1 := h.aligned
  have h2 := h.page
  rcases hw with h3 | h3 | h3 | h3 <;> rw [h3] at h1 ⊢ <;> omega

theorem evictSector_none {u : State} {b sec : Nat} (h : sectorIn u b sec = none) : evictSector b u sec = u := by
  unfold sectorIn at h
  unfold evictSector
  split
  · rfl
  · rename_i l hl
    rw [hl] at h
    dsimp only at h
    rw [h]

theorem coverSectors_one {pa n : Nat} (h : pa % 256 + n ≤ 256) (hn : 0 < n) : coverSectors pa n = [pa / 256] := by
  unfold coverSectors
  have : (pa + n + 255) / 256 - pa / 256 = 1 := by omega
  rw [this]
  simp

theorem evictRange_none {banks : List Nat} {pa n : Nat} (h : pa % 256 + n ≤ 256) (hn : 0 < n) {u : State}
    (hb : ∀ b ∈ banks, sectorIn u b (pa / 256) = none) : evictRange u banks pa n = u := by
  unfold evictRange
  rw [coverSectors_one h hn]
  induction banks with
  | nil => rfl
  | cons b r ih =>
    rw [List.foldl_cons]
    simp only [List.foldl_cons, List.foldl_nil]
    rw [evictSector_none (hb b (by simp))]
    exact ih (fun x hx => hb x (by simp [hx]))

theorem dirtied_only (s : State) (ts : List Nat) (va : Word) (need : Need) (user : Bool) (x : Xlat) :
    OnlyMemory s (dirtied s ts va need user x).1 := by
  have g : ∀ t y, settled s ts va need user x = some (t, y) → OnlyMemory s t := by
    intro t y h
    unfold settled at h
    split at h
    · cases h; exact .refl _
    · split at h
      · cases h
      · rename_i hp; cases h; exact permAny_only hp
  unfold dirtied
  split
  · rename_i h; exact (g _ _ h).trans (setDirty_only _ _ _)
  · exact .refl _

theorem byteOf_spread (w : Word) (n i : Nat) (h : i < n) : nth 0 (spread n w.toNat) i = byteOf w i := nth_spread n _ _ h

theorem bankStore_inBank {u : State} {pipe : Nat} {key : KeySel} {pa : Nat} {e : Sector} (h : InBank u (bankFor u pipe pa) key (pa / 256) e)
    (hk : key ≠ .dead) (bs : List Byte) :
    ∃ e', sectorIn (bankStore u pipe key pa bs).1 (bankFor u pipe pa) (pa / 256) = some e' ∧ e'.key = e.key ∧ e'.poison = e.poison ∧
      (∀ o, o < 256 → look 0 e'.data o = if pa % 256 ≤ o ∧ o < pa % 256 + bs.length then nth 0 bs (o - pa % 256) else look 0 e.data o) ∧
      (∀ o, o ∈ e'.dirty ↔ o ∈ e.dirty ∨ (pa % 256 ≤ o ∧ o < pa % 256 + bs.length)) := by
  obtain ⟨t, k, e', g1, g2, g3, g4, g5, g6, g7⟩ := ensure_inBank h
  refine ⟨sectorPut e' (pa % 256) bs, ?_, ?_, ?_, ?_, ?_⟩
  · unfold bankStore
    dsimp only
    rw [g1]
    dsimp only
    rw [g2]
    dsimp only
    rw [if_neg hk]
    exact sectorIn_placeSector _ _ _ _
  · rw [(sectorPut_rest bs e' _).1, g5]
  · rw [(sectorPut_rest bs e' _).2.1, g4]
  · intro o ho
    rw [sectorPut_data, g7 o ho]
  · intro o
    rw [(sectorPut_rest bs e' _).2.2, g6]

theorem bankStore_roomy {u : State} {pipe : Nat} {key : KeySel} {pa : Nat} (h : Roomy u (bankFor u pipe pa) (pa / 256)) (bs : List Byte) :
    ∃ t, bankStore u pipe key pa bs = (t, fillCharge u (bankFor u pipe pa) (pa / 256)) ∧ t = { u with banks := t.banks } := by
  obtain ⟨t, g1, g2⟩ := ensure_roomy (key := key) h
  unfold bankStore
  dsimp only
  rw [g1]
  dsimp only
  split
  · split
    · exact ⟨t, rfl, g2⟩
    · refine ⟨_, rfl, ?_⟩
      rw [placeSector_mem, g2]
  · exact ⟨t, rfl, g2⟩

theorem sectorIn_banks {u v : State} (h : v.banks = u.banks) (b sec : Nat) : sectorIn v b sec = sectorIn u b sec := by
  unfold sectorIn linesOf; rw [h]

theorem homeByte_of {u v : State} (h1 : v.mem = u.mem) (h2 : v.sealed = u.sealed) (key : KeySel) (a : Nat) : homeByte v key a = homeByte u key a := by
  have h3 : ∀ n, otherKey v key n = otherKey u key n := fun n => otherKey_congr (by rw [h2]) (fun x _ => by rw [h1])
  unfold homeByte memByte; rw [h1, h2, h3]

theorem filter_true {α : Type} (l : List α) (p : α → Bool) (h : ∀ a ∈ l, p a = true) : l.filter p = l := List.filter_eq_self.2 h

theorem kickFault_none {c : Ctx} {va v : Word} (h : GoodKick c va v) : kickFault c va v = none ∧ ∃ h', NamesHart c va h' ∧ kickHart c va = some h' := by
  obtain ⟨h1, ⟨hh, h2⟩, h3, h4, h5⟩ := h
  have hk : kickHart c va = some hh := by
    unfold kickHart
    dsimp only
    rcases h2 with ⟨h2, rfl⟩ | ⟨n, hn, h2, rfl⟩
    · rw [if_pos h2]
    · rw [if_neg (by omega), if_pos ⟨by omega, by omega, by omega⟩, h2]
      rw [show (256 + 8 * n - 256) / 8 = n by omega]
  refine ⟨?_, hh, h2, hk⟩
  unfold kickFault
  rw [h1, hk]
  have hz : bitsW v 63 19 = 0 := by
    unfold bitsW bitsN
    exact (congrArg (fun n => n % 2 ^ (63 + 1 - 19)) (Nat.div_eq_of_lt h4)).trans (Nat.zero_mod _)
  simp [h3, hz, h5]

theorem names_kick {c : Ctx} {va : Word} {h : Nat} (g : kickHart c va = some h) : NamesHart c va h := by
  unfold kickHart at g
  dsimp only at g
  split at g
  · rename_i h2; cases g; exact .inl ⟨h2, rfl⟩
  · split at g
    · rename_i h2
      cases g
      exact .inr ⟨(va.toNat % 65536 - 256) / 8, by omega, by omega, rfl⟩
    · cases g

theorem pushKick_kicked (h : Nat) (c : Ctx) (u : State) (v : Vals) : Kicked h c u v (pushKick u c.team h v.d.toNat) := by
  refine ⟨rfl, ?_, ?_⟩
  · simp [pushKick, pushWork, hartOf]
  · intro k hk
    simp only [pushKick, pushWork, hartOf]
    exact look_put_ne _ _ _ hk

theorem mergeLines_banks (ls : List Line) (s : State) : (ls.foldl mergeLine s).banks = s.banks := by
  induction ls generalizing s with
  | nil => rfl
  | cons l r ih => rw [List.foldl_cons, ih, mergeLine_banks]

/-- An operation on one bank: its lines are written back and replaced. -/
def bankOp (k : List Line → List Line) (s : State) (b : Nat) : State := setLines ((linesOf s b).foldl mergeLine s) b (k (linesOf s b))

theorem linesOf_bankOp (k : List Line → List Line) (s : State) (b c : Nat) :
    linesOf (bankOp k s b) c = if c = b then k (linesOf s b) else linesOf s c := by
  unfold bankOp
  split
  · rename_i h; subst h; rw [linesOf_setLines]
  · rename_i h
    rw [linesOf_setLines_ne _ _ h]
    unfold linesOf
    rw [mergeLines_banks]

theorem homeByte_setLines (s : State) (b : Nat) (l : List Line) (key : KeySel) (a : Nat) : homeByte (setLines s b l) key a = homeByte s key a := rfl

theorem sectorIn_of_lines {s t : State} {b : Nat} (h : linesOf t b = linesOf s b) (sec : Nat) : sectorIn t b sec = sectorIn s b sec := by
  unfold sectorIn; rw [h]

theorem wellBank_of_lines {s t : State} {b : Nat} (h : linesOf t b = linesOf s b) (w : WellBank s b) : WellBank t b := by
  unfold WellBank SoundBank; rw [h]; exact w

theorem fold_lines (k : List Line → List Line) : ∀ (bs : List Nat) (s : State) (c : Nat), c ∉ bs → linesOf (bs.foldl (bankOp k) s) c = linesOf s c := by
  intro bs
  induction bs with
  | nil => intros; rfl
  | cons b r ih =>
    intro s c hc
    simp only [List.mem_cons, not_or] at hc
    rw [List.foldl_cons, ih _ _ hc.2, linesOf_bankOp, if_neg hc.1]

theorem fold_lines_in (k : List Line → List Line) : ∀ (bs : List Nat) (s : State) (c : Nat), bs.Nodup → c ∈ bs →
    linesOf (bs.foldl (bankOp k) s) c = k (linesOf s c) := by
  intro bs
  induction bs with
  | nil => intro s c _ h; simp at h
  | cons b r ih =>
    intro s c hn hc
    rw [List.nodup_cons] at hn
    rw [List.foldl_cons]
    rcases List.mem_cons.1 hc with rfl | hc
    · rw [fold_lines k _ _ _ hn.1, linesOf_bankOp, if_pos rfl]
    · rw [ih _ _ hn.2 hc, linesOf_bankOp, if_neg (fun x : c = b => hn.1 (x ▸ hc))]

theorem fold_out (k : List Line → List Line) (key : KeySel) (a sec : Nat) (ha : a / 256 = sec) : ∀ (bs : List Nat) (s : State), bs.Nodup →
    (∀ b ∈ bs, WellBank s b) → (∀ b ∈ bs, ∀ e, sectorIn s b sec = some e → e.dirty = []) →
    homeByte (bs.foldl (bankOp k) s) key a = homeByte s key a := by
  intro bs
  induction bs with
  | nil => intros; rfl
  | cons b r ih =>
    intro s hn hw hd
    rw [List.nodup_cons] at hn
    have hl : ∀ c ∈ r, linesOf (bankOp k s b) c = linesOf s c := fun c hc => by
      rw [linesOf_bankOp, if_neg (fun x : c = b => hn.1 (x ▸ hc))]
    rw [List.foldl_cons, ih _ hn.2 (fun c hc => wellBank_of_lines (hl c hc) (hw c (by simp [hc])))
      (fun c hc e he => hd c (by simp [hc]) e (by rw [← sectorIn_of_lines (hl c hc)]; exact he))]
    unfold bankOp
    rw [homeByte_setLines]
    exact merged_out (hw b (by simp)) (hd b (by simp)) key s a ha

theorem fold_written (k : List Line → List Line) : ∀ (bs : List Nat) (s : State), bs.Nodup → (∀ b ∈ bs, WellBank s b) →
    WrittenBack s (bs.foldl (bankOp k) s) bs := by
  intro bs
  induction bs with
  | nil => intro s _ _ b h; simp at h
  | cons b r ih =>
    intro s hn hw c hc sec e he hk hd o ho
    have hn' := List.nodup_cons.1 hn
    have hl : ∀ c ∈ r, linesOf (bankOp k s b) c = linesOf s c := fun c hc => by
      rw [linesOf_bankOp, if_neg (fun x : c = b => hn'.1 (x ▸ hc))]
    have hw' : ∀ c ∈ r, WellBank (bankOp k s b) c := fun c hc => wellBank_of_lines (hl c hc) (hw c (by simp [hc]))
    rw [List.foldl_cons]
    rcases List.mem_cons.1 hc with rfl | hc
    · rw [fold_out k _ _ sec (by omega) r _ hn'.2 hw' (fun q hq e' he' => hd q (by simp [hq]) (fun x => hn'.1 (x ▸ hq)) e'
        (by rw [← sectorIn_of_lines (hl q hq)]; exact he'))]
      unfold bankOp
      rw [homeByte_setLines]
      exact merged_in (hw c (by simp)) he hk s o ho
    · have := ih (bankOp k s b) hn'.2 hw' c hc sec e (by rw [sectorIn_of_lines (hl c hc)]; exact he) hk
        (fun q hq hne e' he' => hd q (by simp [hq]) hne e' (by rw [← sectorIn_of_lines (hl q hq)]; exact he')) o ho
      rw [this]
      split
      · rfl
      · unfold bankOp
        rw [homeByte_setLines]
        exact merged_out (hw b (by simp)) (fun e' he' => hd b (by simp) (fun x => hn'.1 (x ▸ hc)) e' he') _ s _ (by omega)

theorem releaseBanks_eq (s : State) (pipe : Nat) (sc : Scope) (fused : Bool) :
    releaseBanks s pipe sc fused = (scopeBanks s pipe sc fused).foldl (bankOp (fun l => l.map cleanLine)) s := by
  unfold releaseBanks scopeBanks
  split
  · cases sc <;> rfl
  · cases sc
    · simp only []; split <;> rfl
    all_goals rfl

theorem acquireBanks_eq (s : State) (pipe : Nat) (sc : Scope) (fused : Bool) :
    acquireBanks s pipe sc fused = (scopeBanks s pipe sc fused).foldl (bankOp (fun _ => [])) s := by
  unfold acquireBanks scopeBanks
  split
  · cases sc <;> rfl
  · cases sc
    · simp only []; split <;> rfl
    all_goals rfl

theorem scopeBanks_nodup (s : State) (pipe : Nat) (sc : Scope) (fused : Bool) : (scopeBanks s pipe sc fused).Nodup := by
  have h : ((List.range 16).map (pipe / 16 * 16 + ·)).Nodup := by
    refine List.Nodup.map (fun a b hab => ?_) List.nodup_range
    simpa using hab
  unfold scopeBanks
  split
  · cases sc <;> first | exact List.nodup_nil | exact h
  · cases sc
    · dsimp only; split
      · exact List.nodup_nil
      · exact List.nodup_singleton _
    all_goals exact List.nodup_singleton _

theorem findLine_map (f : Line → Line) (hf : ∀ l, (f l).num = l.num) (ls : List Line) (n : Nat) :
    findLine (ls.map f) n = (findLine ls n).map f := by
  induction ls with
  | nil => rfl
  | cons l r ih =>
    simp only [List.map_cons, findLine, hf]
    split
    · rfl
    · exact ih

theorem evictSector_facts (b : Nat) (u : State) (sec : Nat) : (evictSector b u sec).streams = u.streams ∧ (evictSector b u sec).teams = u.teams ∧
    ∀ c, c ≠ b → linesOf (evictSector b u sec) c = linesOf u c := by
  have := evictSector_only b u sec
  refine ⟨this.streams, this.teams, fun c hc => ?_⟩
  unfold evictSector
  split
  · rfl
  · split
    · rfl
    · dsimp only
      rw [linesOf_setLines_ne _ _ hc]
      unfold linesOf
      rw [mergeSector_banks]

theorem evictSector_some {u : State} {b sec : Nat} {e : Sector} (h : sectorIn u b sec = some e) :
    (∀ key a, homeByte (evictSector b u sec) key a = homeByte (mergeSector u (sec / 4) (sec % 4) e) key a) ∧
      (evictSector b u sec).poison = (mergeSector u (sec / 4) (sec % 4) e).poison := by
  unfold sectorIn at h
  unfold evictSector
  split
  · rename_i hl; rw [hl] at h; cases h
  · rename_i l hl
    rw [hl] at h
    dsimp only at h
    rw [h]
    dsimp only
    rw [(findLine_num hl).1]
    exact ⟨fun _ _ => rfl, rfl⟩

theorem homeBad_poison {u v : State} (h : v.poison = u.poison) (key : KeySel) (pa : Nat) : homeBad v key pa = homeBad u key pa := by
  unfold homeBad; rw [h]

theorem contains_insertN (l : List Nat) (n q : Nat) : (insertN l n).contains q = (decide (q = n) || l.contains q) := by
  rw [Bool.eq_iff_iff]
  simp [mem_insertN]

theorem mergeSector_poison (s : State) (num i : Nat) (e : Sector) (_hi : i < 4) (hk : e.key ≠ .dead) (key : KeySel) (pa : Nat) (hp : pa / 256 = num * 4 + i) :
    homeBad (mergeSector s num i e) key pa = (homeBad s key pa || (e.poison && decide (e.dirty ≠ []))) := by
  have f : ∀ (l : List Nat) (t : State),
      (l.foldl (fun (t : State) o => homePut t e.key (num * 1024 + i * 256 + o) [look 0 e.data o]) t).poison = t.poison := by
    intro l
    induction l with
    | nil => intro t; rfl
    | cons o r ih =>
      intro t
      rw [List.foldl_cons, ih, homePut_poison_rest _ _ _ _ (by simp)]
  have g := f e.dirty s
  unfold mergeSector homeBad
  dsimp only
  rw [decide_eq_true hk, Bool.and_true]
  by_cases hc : (e.poison && decide (e.dirty ≠ [])) = true
  · rw [if_pos hc, hc]
    dsimp only
    rw [contains_insertN, hp, show (num * 1024 + i * 256) / 256 = num * 4 + i by omega]
    simp
  · rw [if_neg hc, g]
    simp only [Bool.not_eq_true] at hc
    rw [hc]; simp

/-- An access at the home: the lane's copy is written back and dropped. -/
theorem evictRange_sole {banks : List Nat} {pa n : Nat} (hin : pa % 256 + n ≤ 256) (hn : 0 < n) {u : State} {key : KeySel} {e : Option Sector}
    (h : SoleCopy u banks key (pa / 256) e) :
    (∀ a, a / 256 = pa / 256 → homeByte (evictRange u banks pa n) key a = viaHome u key a e) ∧
      homeBad (evictRange u banks pa n) key pa = badHome u key pa e := by
  cases e with
  | none =>
    rw [evictRange_none hin hn h]
    exact ⟨fun _ _ => rfl, rfl⟩
  | some e =>
    obtain ⟨hnd, hk, hkd, hd, b, hb, hs, ho⟩ := h
    unfold evictRange
    rw [coverSectors_one hin hn]
    have key1 : ∀ (l : List Nat) (v : State), l.Nodup → (∀ c ∈ l, linesOf v c = linesOf u c) → (∀ c ∈ l, c ∈ banks) →
        (b ∉ l → l.foldl (fun t b => [pa / 256].foldl (evictSector b) t) v = v) ∧
        (b ∈ l → ∃ w : State, w = l.foldl (fun t b => [pa / 256].foldl (evictSector b) t) v ∧
          (∀ a, homeByte w key a = homeByte (mergeSector v (pa / 256 / 4) (pa / 256 % 4) e) key a) ∧
          w.poison = (mergeSector v (pa / 256 / 4) (pa / 256 % 4) e).poison) := by
      intro l
      induction l with
      | nil => intro v _ _ _; exact ⟨fun _ => rfl, fun x => by simp at x⟩
      | cons c r ih =>
        intro v hn1 hl hm
        rw [List.nodup_cons] at hn1
        have hrest : ∀ w : State, (∀ q ∈ r, linesOf w q = linesOf u q) → b ∉ r → r.foldl (fun t b => [pa / 256].foldl (evictSector b) t) w = w := by
          intro w hw hbr
          exact (ih w hn1.2 hw (fun q hq => hm q (by simp [hq]))).1 hbr
        constructor
        · intro hbl
          simp only [List.mem_cons, not_or] at hbl
          rw [List.foldl_cons]
          simp only [List.foldl_cons, List.foldl_nil]
          have e1 : sectorIn v c (pa / 256) = none := by
            rw [sectorIn_of_lines (hl c (by simp))]
            exact ho c (hm c (by simp)) (fun x => hbl.1 x.symm)
          rw [evictSector_none e1]
          exact hrest v (fun q hq => hl q (by simp [hq])) hbl.2
        · intro hbl
          rw [List.foldl_cons]
          simp only [List.foldl_cons, List.foldl_nil]
          rcases List.mem_cons.1 hbl with hbc | hbr
          · subst hbc
            have e1 : sectorIn v b (pa / 256) = some e := by rw [sectorIn_of_lines (hl b (by simp))]; exact hs
            have hr2 := hrest (evictSector b v (pa / 256)) (fun q hq => by
              rw [(evictSector_facts b v (pa / 256)).2.2 q (by rintro rfl; exact hn1.1 hq)]; exact hl q (by simp [hq])) hn1.1
            simp only [List.foldl_cons, List.foldl_nil] at hr2
            rw [hr2]
            exact ⟨_, rfl, fun a => (evictSector_some e1).1 key a, (evictSector_some e1).2⟩
          · have hcb : c ≠ b := by rintro rfl; exact hn1.1 hbr
            have e1 : sectorIn v c (pa / 256) = none := by
              rw [sectorIn_of_lines (hl c (by simp))]
              exact ho c (hm c (by simp)) hcb
            rw [evictSector_none e1]
            exact (ih v hn1.2 (fun q hq => hl q (by simp [hq])) (fun q hq => hm q (by simp [hq]))).2 hbr
    obtain ⟨w, hw, h1, h2⟩ := (key1 banks u hnd (fun _ _ => rfl) (fun _ x => x)).2 hb
    rw [← hw]
    constructor
    · intro a ha
      rw [h1]
      have := homeByte_mergeSector u (pa / 256 / 4) (pa / 256 % 4) e (Nat.mod_lt _ (by omega)) (by rw [hk]; exact hkd) hd a
      rw [hk] at this
      rw [this]
      unfold viaHome
      dsimp only
      have e3 : pa / 256 / 4 * 1024 + pa / 256 % 4 * 256 ≤ a := by omega
      have e4 : a - (pa / 256 / 4 * 1024 + pa / 256 % 4 * 256) = a % 256 := by omega
      rw [e4]
      by_cases hq : a % 256 ∈ e.dirty
      · rw [if_pos ⟨e3, hq⟩, if_pos hq]
      · rw [if_neg (fun x => hq x.2), if_neg hq]
    · rw [homeBad_poison h2, mergeSector_poison _ _ _ _ (Nat.mod_lt _ (by omega)) (by rw [hk]; exact hkd) _ _ (by omega)]
      rfl

theorem toHome_touches (u : State) (c : Ctx) (r : Reached) (n : Nat) : Touches u (toHome u c r n) c :=
  ((evictRange_only _ _ _ _).touches c).trans (chargeSectors_touches _ _ _)

theorem toHome_facts (u : State) (c : Ctx) (r : Reached) (n : Nat) : (toHome u c r n).streams = u.streams ∧ (toHome u c r n).seq = u.seq ∧
    (toHome u c r n).lanes = u.lanes ∧ (toHome u c r n).teams = (chargeSectors u c 1).teams := by
  have h := evictRange_only u (servingBanks u c r.v.pos) r.x.local_ n
  obtain ⟨f1, f2, f3, -⟩ := chargeSectors_facts (evictRange u (servingBanks u c r.v.pos) r.x.local_ n) c 1
  unfold toHome
  refine ⟨by rw [f1, h.streams], by rw [f2, h.rest], by rw [f3, h.lanes], ?_⟩
  exact chargeSectors_teams _ _ _ _ h.teams (by rw [h.rest]) (by rw [h.rest])

theorem toHome_sole {u : State} {c : Ctx} {r : Reached} {n : Nat} (hin : r.x.local_ % 256 + n ≤ 256) (hn : 0 < n) {e : Option Sector}
    (h : SoleCopy u (servingBanks u c r.v.pos) r.x.key (r.x.local_ / 256) e) :
    homeRead (toHome u c r n) r.x.key r.x.local_ n = homeValue u r n e ∧
      homeBad (toHome u c r n) r.x.key r.x.local_ = badHome u r.x.key r.x.local_ e := by
  obtain ⟨h1, h2⟩ := evictRange_sole hin hn h
  obtain ⟨-, -, -, f4, f5, f6, -⟩ := chargeSectors_facts (evictRange u (servingBanks u c r.v.pos) r.x.local_ n) c 1
  unfold toHome
  constructor
  · unfold homeRead homeValue
    refine gather_congr _ _ (fun i hi => ?_)
    rw [homeByte_of f4 f6]
    exact h1 _ (by omega)
  · rw [homeBad_poison f5, h2]

theorem acquireLane_only (s : State) (c : Ctx) (pos : Nat) (sc : Scope) : OnlyMemory s (acquireLane s c pos sc) := by
  unfold acquireLane
  split
  · exact .refl _
  · exact acquireBanks_only _ _ _ _

theorem releaseLane_only (s : State) (c : Ctx) (pos : Nat) (sc : Scope) : OnlyMemory s (releaseLane s c pos sc) := by
  unfold releaseLane
  split
  · exact .refl _
  · exact releaseBanks_only _ _ _ _

end Sys2Proof.Machine
end

