-- ==== Sys2Proof/Tests/Slice0.lean ====
section
/-!
SUPPORT. Tests of the model on small states, and states that meet the hypotheses of the statements. Expected values are worked out
from the spec's tables by hand.
-/

open Sys2Proof Sys2Proof.Machine

namespace Sys2Proof.Tests

set_option Elab.async false

/-! ### A state that issues a word -/

/-- One team of one lane stands at pc 0x100 with a word, its stream changed by `f`, and issues it. -/
def solo (f : Stream → Stream) (w : Nat) : State :=
  let s := State.reset.withFetchWord 32 w
  { s with issuer := some 0, streams := [(0, f (bootStream 0))] }

/-- The context of that stream. -/
def soloCtx (f : Stream → Stream) : Ctx := { sid := 0, st := f (bootStream 0), team := bootTeam, grp := bootGroup }

/-- A fused group of two lanes on pipelines 0 and 1 of cluster 0. -/
def duoGroup : Group := { bootGroup with lanes := [0, 8], mode := .fused }

/-- The stream of that group. -/
def duoStream : Stream := { bootStream 0 with members := 3, mask := 3 }

/-- The fused group of two lanes issues a word. -/
def duo (f : Stream → Stream) (w : Nat) : State :=
  let s := State.reset.withFetchWord 32 w
  { s with issuer := some 0, streams := [(0, f duoStream)], groups := [(0, duoGroup)]
           lanes := [(0, bootLane), (8, { bootLane with ln := 1, order := 1 })] }

/-- The context of that group. -/
def duoCtx (f : Stream → Stream) : Ctx := { sid := 0, st := f duoStream, team := bootTeam, grp := duoGroup }

/-- The team's lane at supervisor level. -/
def raised (s : State) : State := { s with lanes := each (fun _ la => { la with priv := 1 }) s.lanes }

/-- A state issues an instruction in a context, as Issues says. -/
def clear (s : State) (c : Ctx) (i : Instr) : Bool :=
  decide (s.issuer = some c.sid) && decide (ctxOf s c.sid = some c)
    && (match opcode i with | some (maj, f) => !illegalHere c maj f (operands i) | none => false)
    && decide (allocFaults s c (windowed (operands i) (extraRegs i)) = []) && !queuesBlock c (operands i)

theorem issues_of {s : State} {c : Ctx} {i : Instr} (h : clear s c i = true) : Issues s c i := by
  unfold clear at h
  simp only [Bool.and_eq_true, decide_eq_true_eq, Bool.not_eq_true'] at h
  obtain ⟨⟨⟨⟨h1, h2⟩, h3⟩, h4⟩, h5⟩ := h
  refine ⟨h1, h2, ?_, h4, h5⟩
  split at h3 <;> simp_all


/-! ### States that meet the hypotheses: computing instructions -/

/-- The first stream issues the instruction. -/
theorem issues_solo (i : Instr) (h : clear (solo id 0) (soloCtx id) i = true) : Issues (solo id 0) (soloCtx id) i := issues_of h

theorem witness_arith : Issues (solo id 0) (soloCtx id) (.add false (.x 5) (.x 6) (.x 7)) ∧
    ∃ k, arithRule (.add false (.x 5) (.x 6) (.x 7)) = some k := ⟨issues_solo _ (by decide +kernel), _, rfl⟩
theorem witness_muldiv : Issues (solo id 0) (soloCtx id) (.remS false (.x 5) (.x 6) .zr) ∧
    ∃ k, muldivRule (.remS false (.x 5) (.x 6) .zr) = some k := ⟨issues_solo _ (by decide +kernel), _, rfl⟩
theorem witness_arithw : Issues (solo id 0) (soloCtx id) (.addw false .zr (.x 6) (.x 7)) ∧
    ∃ k, arithwRule (.addw false .zr (.x 6) (.x 7)) = some k := ⟨issues_solo _ (by decide +kernel), _, rfl⟩
theorem witness_logic : Issues (solo id 0) (soloCtx id) (.rori false (.k 15) .ln 63) ∧
    ∃ k, logicRule (.rori false (.k 15) .ln 63) = some k := ⟨issues_solo _ (by decide +kernel), _, rfl⟩
theorem witness_bits : Issues (solo id 0) (soloCtx id) (.clz false (.x 95) (.x 0)) ∧
    ∃ k, bitsRule (.clz false (.x 95) (.x 0)) = some k := ⟨issues_solo _ (by decide +kernel), _, rfl⟩
theorem witness_compare : Issues (solo id 0) (soloCtx id) (.cmpiLtN false (.x 1) (.x 2) 512) ∧
    ∃ k, compareRule (.cmpiLtN false (.x 1) (.x 2) 512) = some k := ⟨issues_solo _ (by decide +kernel), _, rfl⟩
theorem witness_immediate : Issues (solo id 0) (soloCtx id) (.addi false (.q 0) (.q 1) 1023) ∧
    ∃ k, immediateRule (.addi false (.q 0) (.q 1) 1023) = some k := ⟨issues_solo _ (by decide +kernel), _, rfl⟩
theorem witness_packed : Issues (solo id 0) (soloCtx id) (.paddB false (.x 1) (.x 2) (.x 3)) ∧
    ∃ k, packedRule (.paddB false (.x 1) (.x 2) (.x 3)) = some k := ⟨issues_solo _ (by decide +kernel), _, rfl⟩
theorem witness_lanes : Issues (duo id 0) (duoCtx id) (.shflXor false (.x 1) (.x 2) (.x 3)) ∧
    ∃ k, laneRule (.shflXor false (.x 1) (.x 2) (.x 3)) = some k := ⟨issues_of (by decide +kernel), _, rfl⟩
theorem witness_reduce : Issues (duo id 0) (duoCtx id) (.gscanAdd false (.x 1) (.x 2)) ∧
    ∃ k, reduceRule (.gscanAdd false (.x 1) (.x 2)) = some k := ⟨issues_of (by decide +kernel), _, rfl⟩
theorem witness_falu : Issues (solo id 0) (soloCtx id) (.fmaD false (.x 1) (.x 2) (.x 3)) ∧
    ∃ k, falu (.fmaD false (.x 1) (.x 2) (.x 3)) = some k := ⟨issues_solo _ (by decide +kernel), _, rfl⟩
theorem witness_fmisc : Issues (solo id 0) (soloCtx id) (.fsgnjS false (.x 1) (.x 2) (.x 3)) ∧
    ∃ k, fmisc (.fsgnjS false (.x 1) (.x 2) (.x 3)) = some k := ⟨issues_solo _ (by decide +kernel), _, rfl⟩
theorem witness_fpk : ∃ i k, Issues (solo id 0) (soloCtx id) i ∧ fpk i = some k :=
  ⟨.fadd4h false (.x 1) (.x 2) (.x 3), _, issues_solo _ (by decide +kernel), rfl⟩
theorem witness_sfu : ∃ i k, Issues (solo id 0) (soloCtx id) i ∧ sfuRule i = some k :=
  ⟨.fsqrtS false (.x 1) (.x 2), _, issues_solo _ (by decide +kernel), rfl⟩
theorem witness_fcvt : ∃ i k, Issues (solo id 0) (soloCtx id) i ∧ fcvtRule i = some k :=
  ⟨.fcvt false (.x 1) (.x 2) 0x2F 4, _, issues_solo _ (by decide +kernel), rfl⟩
theorem witness_reduction_tree : Issues (duo id 0) (duoCtx id) (.gredFaddS false (.x 1) (.x 2)) := issues_of (by decide +kernel)
theorem witness_stochastic : Issues (duo id 0) (duoCtx id) (.fcvt false (.x 1) (.x 2) 0x20 6) ∧
    (∃ k, conversion 0x20 = some k) ∧ ((duoCtx id).lanes.map Prod.snd).Nodup := ⟨issues_of (by decide +kernel), ⟨_, rfl⟩, by decide +kernel⟩

/-! ### Control -/

theorem witness_branch : Issues (duo id 0) (duoCtx id) (.jr false .zr) ∧ laneTarget 0x100 (.jr false .zr) = some (fun v => v.a) ∧
    (duoCtx id).lanes ≠ [] ∧ (∀ e ∈ (duoCtx id).lanes, (valsOf (duo id 0) (duoCtx id) (.jr false .zr) e).a = 0) ∧ (0 : Word).toNat % 4 = 0 :=
  ⟨issues_of (by decide +kernel), rfl, by decide +kernel, by decide +kernel, by decide⟩
theorem witness_misaligned_target : Issues (duo id 0) (duoCtx id) (.jr false .ln) ∧
    ∃ e ∈ (duoCtx id).lanes, (valsOf (duo id 0) (duoCtx id) (.jr false .ln) e).a.toNat % 4 ≠ 0 :=
  ⟨issues_of (by decide +kernel), by decide +kernel⟩
theorem witness_branch_apart : Issues (duo id 0) (duoCtx id) (.bnz false .ln 4) ∧
    (∃ e ∈ (duoCtx id).lanes, ∃ e' ∈ (duoCtx id).lanes, (valsOf (duo id 0) (duoCtx id) (.bnz false .ln 4) e).a ≠ 0 ∧
      (valsOf (duo id 0) (duoCtx id) (.bnz false .ln 4) e').a = 0) ∧
    (duoCtx id).st.mask = (duoCtx id).st.members ∧ (duoCtx id).st.waits = [] ∧ (duoCtx id).st.stack.length < 16 ∧ Apart (duoCtx id) :=
  ⟨issues_of (by decide +kernel), by decide +kernel, by decide, by decide, by decide, by unfold Apart; decide +kernel⟩

/-- A stack entry. -/
def entry (k : BitVec 4) (n : Nat) : CsEntry := { kind := k, mask := 3, count := BitVec.ofNat 32 n, pc := 0x104 }

/-- The stream in the last pass of a loop, or in an earlier one. -/
def looping (n : Nat) (st : Stream) : Stream := { st with stack := [entry kindLoop n] }

theorem witness_if : Issues (duo id 0) (duoCtx id) (.ifOp false .zr 8) ∧ Issues (duo id 0) (duoCtx id) (.ifOp false .ln 8) :=
  ⟨issues_of (by decide +kernel), issues_of (by decide +kernel)⟩
theorem witness_endloop_closes : Issues (duo (looping 1) 0) (duoCtx (looping 1)) (.endloop false) ∧
    TopEntry (duoCtx (looping 1)).st [] (entry kindLoop 1) [] 1 ∧ (entry kindLoop 1).count - 1 = 0 :=
  ⟨issues_of (by decide +kernel), ⟨rfl, by simp, by decide, rfl⟩, by decide⟩
theorem witness_empty_loop : Issues (solo id 0) (soloCtx id) (.loop false .zr 8) ∧
    ∃ v, (soloCtx id).lanes.map (valsOf (solo id 0) (soloCtx id) (.loop false .zr 8)) = [v] ∧ v.a = 0 :=
  ⟨issues_solo _ (by decide +kernel), _, rfl, by decide +kernel⟩
theorem witness_loop_pass : Issues (duo (looping 2) 0) (duoCtx (looping 2)) (.endloop false) ∧
    TopEntry (duoCtx (looping 2)).st [] (entry kindLoop 2) [] 1 ∧ (entry kindLoop 2).count - 1 ≠ 0 ∧ activeIn (duoCtx (looping 2)).st 0 :=
  ⟨issues_of (by decide +kernel), ⟨rfl, by simp, by decide, rfl⟩, by decide, by unfold activeIn; decide +kernel⟩

/-- The stream with sixteen entries on chip. -/
def deep (st : Stream) : Stream := { st with stack := List.replicate 16 (entry kindIf 0) }

theorem witness_overflow : Issues (duo deep 0) (duoCtx deep) (.ifOp false .ln 8) ∧ 16 ≤ (duoCtx deep).st.stack.length :=
  ⟨issues_of (by decide +kernel), by decide +kernel⟩
theorem witness_no_entry : Issues (duo id 0) (duoCtx id) (.brk false) ∧ ∀ e ∈ (duoCtx id).st.stack, e.kind ≠ kindLoop :=
  ⟨issues_of (by decide +kernel), by decide⟩
theorem witness_wrong_entry : Issues (duo deep 0) (duoCtx deep) (.endloop false) ∧
    TopEntry (duoCtx deep).st [] (entry kindIf 0) (List.replicate 15 (entry kindIf 0)) 16 ∧ ¬closes (.endloop false) (entry kindIf 0) :=
  ⟨issues_of (by decide +kernel), ⟨rfl, by simp, by decide, rfl⟩, by simp [closes, entry]; decide⟩
theorem witness_region : Issues (solo id 0) (soloCtx id) (.idem false) := issues_solo _ (by decide +kernel)
theorem witness_window : Issues (solo id 0) (soloCtx id) (.wbase false 63) ∧ ∀ e ∈ (soloCtx id).lanes, 8 * 63 < (laneOf (solo id 0) e.2).alloc :=
  ⟨issues_solo _ (by decide +kernel), by decide +kernel⟩

/-! ### Morphing -/

theorem witness_fuse_at_once : Issues (duo id 0) (duoCtx id) (.fuse false (.x 1) (.x 2) 0) ∧ (duoCtx id).grp.mode ≠ .single :=
  ⟨issues_of (by decide +kernel), by decide⟩
theorem witness_split_single : Issues (solo id 0) (soloCtx id) (.split false (.x 1)) ∧ (soloCtx id).grp.mode = .single :=
  ⟨issues_solo _ (by decide +kernel), rfl⟩
theorem witness_split_fused : Issues (duo id 0) (duoCtx id) (.split false (.x 1)) ∧ (duoCtx id).st.handler = false ∧
    (duoCtx id).grp.mode = .fused ∧ (duoCtx id).st.stack.length < 16 ∧ Apart (duoCtx id) ∧ (duoCtx id).st.waits = [] :=
  ⟨issues_of (by decide +kernel), rfl, rfl, by decide, by unfold Apart; decide +kernel, rfl⟩

/-- The stream with the count of MODE complete. -/
def narrowed (st : Stream) : Stream := { st with adiv := 1, lowRun := 16 }

theorem witness_automatic_split : ctxOf (duo narrowed 0) 0 = some (duoCtx narrowed) ∧ (duoCtx narrowed).grp.mode = .fused ∧
    0 < (duoCtx narrowed).st.adiv.toNat ∧ 16 * (duoCtx narrowed).st.adiv.toNat ≤ (duoCtx narrowed).st.lowRun ∧ Apart (duoCtx narrowed) :=
  ⟨by decide +kernel, rfl, by decide, by decide, by unfold Apart; decide +kernel⟩

/-! ### Rendezvous and rejoins -/

/-- A second stream on pipeline 1, alone in its group, parked as said. -/
def otherStream (p : Option Park) : Stream := { bootStream 0 with group := 1, park := p }

/-- Two single groups: stream 0 issues, with 3 in x2, and stream 8 is parked; with some rendezvous. -/
def pair (cycle : Nat) (f : Stream → Stream) (p : Option Park) (ms : SMap Rendezvous) : State :=
  { solo f 0 with
    cycle := cycle, regs := [(2, 3)], streams := [(0, f (bootStream 0)), (8, otherStream p)], meets := ms
    groups := [(0, bootGroup), (1, { bootGroup with lanes := [8] })]
    lanes := [(0, bootLane), (8, { bootLane with group := 1, stream := 8, order := 1 })] }

/-- The rendezvous that stream 8 has opened. -/
def meetOf (pc : Word) : Rendezvous := { team := 0, slot := 0, mask := 3, pc := pc, come := [8], by_ := 64, full := false }

/-- Stream 8 waits at rendezvous 0. -/
def waiting8 : Option Park := some (.fusing 0 (.x 1) false)

theorem fuse_mask_three : FuseMask 3 0 := ⟨2, 0, by decide⟩

theorem witness_fuse_opens : Issues (pair 0 id none []) (soloCtx id) (.fuse false (.x 1) (.x 2) 1) ∧ (soloCtx id).grp.mode = .single ∧
    firstA (pair 0 id none []) (soloCtx id) (.fuse false (.x 1) (.x 2) 1) = 3 ∧ FuseMask 3 (pipeOf (soloCtx id).first.2 % 16) :=
  ⟨issues_of (by decide +kernel), rfl, by decide +kernel, fuse_mask_three⟩
theorem witness_fuse_joins : Issues (pair 64 id waiting8 [(0, meetOf 0x100)]) (soloCtx id) (.fuse false (.x 1) (.x 2) 1) ∧
    firstA (pair 64 id waiting8 [(0, meetOf 0x100)]) (soloCtx id) (.fuse false (.x 1) (.x 2) 1) = 3 ∧
    SameMeet (soloCtx id) 3 (meetOf 0x100) ∧ (64 : Nat) ≤ (meetOf 0x100).by_ ∧ (meetOf 0x100).pc = (soloCtx id).st.pc ∧
    (meetOf 0x100).come.length + 1 = popCount 16 (meetOf 0x100).mask.toNat :=
  ⟨issues_of (by decide +kernel), by decide +kernel, ⟨rfl, rfl, rfl, rfl⟩, by decide, rfl, by decide +kernel⟩
theorem witness_fuse_disagrees : Issues (pair 64 id waiting8 [(0, meetOf 0x104)]) (soloCtx id) (.fuse false (.x 1) (.x 2) 1) ∧
    (meetOf 0x104).pc ≠ (soloCtx id).st.pc ∧ ((meetOf 0x104).come ++ [0]).Nodup ∧ AtMeet (pair 64 id waiting8 [(0, meetOf 0x104)]) 0 8 :=
  ⟨issues_of (by decide +kernel), by decide, by decide,
    { sid := 8, st := otherStream waiting8, team := bootTeam, grp := { bootGroup with lanes := [8] } }, .x 1, false, by decide +kernel, rfl⟩
theorem witness_fuse_late : Issues (pair 65 id waiting8 [(0, meetOf 0x100)]) (soloCtx id) (.fuse false (.x 1) (.x 2) 1) ∧
    find? (pair 65 id waiting8 [(0, meetOf 0x100)]).meets 0 = some (meetOf 0x100) ∧ (meetOf 0x100).full = false ∧ (meetOf 0x100).by_ < 65 :=
  ⟨issues_of (by decide +kernel), by decide +kernel, rfl, by decide⟩

/-- Both streams wait at a complete rendezvous. -/
def metState : State :=
  pair 64 (fun st => { st with park := some (.fusing 0 (.x 1) false) }) waiting8 [(0, { meetOf 0x100 with come := [8, 0], full := true })]

theorem witness_fuse_forms : find? metState.meets 0 = some { meetOf 0x100 with come := [8, 0], full := true } ∧
    (∀ sid ∈ [8, 0], ∃ x, find? metState.streams sid = some x ∧ x.pend = []) ∧ ([0, 8] : List Nat).Pairwise (· < ·) ∧
    find? metState.groups (laneOf metState 0).group = some bootGroup ∧ metState.moves = [] ∧
    (laneOf metState 8).group ≠ (laneOf metState 0).group ∧ (laneOf metState 8).stream ≠ 0 ∧ HasRoom metState 0 0 ∧ HasRoom metState 0 8 :=
  ⟨by decide +kernel, by decide +kernel, by decide, by decide +kernel, rfl, by decide +kernel, by decide +kernel,
    ⟨rfl, .inl rfl⟩, ⟨by decide +kernel, .inl (by decide +kernel)⟩⟩

/-- The two lanes of a diverged group, each with a split record and parked as said. -/
def split2 (cycle : Nat) (p0 p8 : Option Park) (deeper : Bool) (by_ : Option Nat) : State :=
  let st : Stream := { bootStream 0 with stack := [entry kindSplit 0] }
  { duo id 0 with
    cycle := cycle
    streams := [(0, { st with park := p0, members := 1, mask := 1 }),
      (8, { st with park := p8, members := 2, mask := 2, stack := (if deeper then [entry kindIf 0] else []) ++ st.stack })]
    groups := [(0, { duoGroup with mode := .diverged, rejoinBy := by_ })] }

theorem witness_rejoin_opens : Issues (split2 0 none none false none)
      { sid := 0, st := { bootStream 0 with stack := [entry kindSplit 0] }, team := bootTeam, grp := { duoGroup with mode := .diverged } }
      (.rejoin false (.x 1) (.x 2)) ∧
    ∃ e, InGroup (split2 0 none none false none) 0 e ∧ e.1 ≠ 0 ∧ ¬ ∃ b, AtRejoin e b :=
  ⟨issues_of (by decide +kernel), (8, { bootStream 0 with stack := [entry kindSplit 0], members := 2, mask := 2 }),
    ⟨by decide +kernel, rfl⟩, by decide, by rintro ⟨b, x, h, -⟩; cases h⟩
theorem witness_rejoin_implicit : (split2 0 (some (.rejoin none)) (some (.rejoin none)) false (some 9)).streams.length = 2 ∧
    ∀ e ∈ (split2 0 (some (.rejoin none)) (some (.rejoin none)) false (some 9)).streams,
      e.2.group = 0 ∧ e.2.pc = 0x100 ∧ e.2.park = some (.rejoin none) ∧ depthIn e.2 = 1 := by decide +kernel
theorem witness_rejoin_depths : ∃ e ∈ (split2 0 (some (.rejoin none)) (some (.rejoin none)) true (some 9)).streams, depthIn e.2 ≠ 1 := by
  decide +kernel
theorem witness_rejoin_timeout : (split2 10 (some (.rejoin none)) (some (.rejoin (some (.x 1, false)))) false (some 9)).cycle = 10 ∧
    find? (split2 10 (some (.rejoin none)) (some (.rejoin (some (.x 1, false)))) false (some 9)).groups 0 =
      some { duoGroup with mode := .diverged, rejoinBy := some 9 } := ⟨rfl, by decide +kernel⟩

/-! ### Accesses -/

/-- A walk over lanes without a fault. -/
theorem reached {c : Ctx} {k : Reach} {s : State} {l : List (Vals × Word)} (h : (reachAll c k s l).2.1 = []) :
    reachAll c k s l = ((reachAll c k s l).1, [], (reachAll c k s l).2.2) := by rw [← h]

/-- What a load or store of an instruction reaches. -/
def reachOf (k : Reach) (i : Instr) (addr : Vals → Word) : State × List LaneFault × List Reached :=
  reachAll (soloCtx id) k (solo id 0) (addressesOf (solo id 0) (soloCtx id) i addr)

theorem witness_load : Issues (solo id 0) (soloCtx id) (.ldD false (.x 1) (.x 2) 511) ∧
    (∃ k, loadForm (.ldD false (.x 1) (.x 2) 511) = some k) ∧
    (reachOf (needsRead 8) (.ldD false (.x 1) (.x 2) 511) (mAddress 511 8)).2.1 = [] ∧
    heldStore (solo id 0) (soloCtx id) 8 (reachOf (needsRead 8) (.ldD false (.x 1) (.x 2) 511) (mAddress 511 8)).2.2 = false :=
  ⟨issues_of (by decide +kernel), ⟨_, rfl⟩, by decide +kernel, by decide +kernel⟩
theorem witness_store : Issues (solo id 0) (soloCtx id) (.stB false .ln (.x 2) 511) ∧
    (∃ k, storeForm (.stB false .ln (.x 2) 511) = some k) ∧
    (reachOf { needsRead 1 with need := ⟨false, true, false⟩, reads := false } (.stB false .ln (.x 2) 511) (mAddress 511 1)).2.1 = [] :=
  ⟨issues_of (by decide +kernel), ⟨_, rfl⟩, by decide +kernel⟩

/-! ### Releases, acquires, atomics -/

/-- Bank 0 holds a sector of line 64 with one byte written. -/
def banked : State :=
  { solo id 0 with banks := [(0, [{ num := 64, sectors := [(0, { key := .clear, data := [(0, 7)], dirty := [0], poison := false })] }])] }

theorem witness_write_backs : scopeBanks banked 0 .team true = [0] ∧ linesOf banked 0 ≠ [] ∧ (∀ l ∈ linesOf banked 0, ∀ e ∈ l.sectors, e.1 < 4 ∧ ∀ o ∈ e.2.dirty, o < 256) ∧
    (linesOf banked 0).length = 1 ∧ ∀ l ∈ linesOf banked 0, l.sectors.length = 1 := by decide +kernel
theorem witness_acquire_load : Issues (solo id 0) (soloCtx id) (.ldDAcq false (.x 1) (.x 2) .device) ∧
    acquireForm (.ldDAcq false (.x 1) (.x 2) .device) = some (false, .x 1, 8, .device) ∧
    (reachOf (needsRead 8) (.ldDAcq false (.x 1) (.x 2) .device) Vals.a).2.1 = [] :=
  ⟨issues_of (by decide +kernel), rfl, by decide +kernel⟩
theorem witness_release_store : Issues (solo id 0) (soloCtx id) (.stDRel false (.x 1) (.x 2) .fabric) ∧
    releaseForm (.stDRel false (.x 1) (.x 2) .fabric) = some (false, 8, .fabric, true) ∧
    (reachOf { needsRead 8 with need := ⟨false, true, false⟩, reads := false } (.stDRel false (.x 1) (.x 2) .fabric) Vals.a).2.1 = [] :=
  ⟨issues_of (by decide +kernel), rfl, by decide +kernel⟩
theorem witness_atomic : Issues (solo id 0) (soloCtx id) (.casW false (.x 1) (.x 2) (.x 3)) ∧
    (∃ k, updateForm (.casW false (.x 1) (.x 2) (.x 3)) = some k ∧ k.size = 4) ∧
    (reachOf { needsRead 4 with need := ⟨true, true, false⟩ } (.casW false (.x 1) (.x 2) (.x 3)) Vals.a).2.1 = [] :=
  ⟨issues_of (by decide +kernel), ⟨_, rfl, rfl⟩, by decide +kernel⟩

/-! ### Scratchpad and barrier objects -/

/-- The team with 4 units more than its role queues take: the last doubleword it may reach lies at 0xBFF8. -/
theorem witness_scratch_load : Issues (solo id 0) (soloCtx id) (.sldD false (.x 1) (.x 2) 511) ∧
    (∀ e ∈ (soloCtx id).lanes, offsetCause bootTeam 8 e.1 (mAddress 511 8 (valsOf (solo id 0) (soloCtx id) (.sldD false (.x 1) (.x 2) 511) e)) = none) ∧
    PadGood (solo id 0) bootTeam 0xBFF8 8 ∧ offsetCause bootTeam 8 0 0xBFF8 = none ∧ offsetCause bootTeam 8 0 0xC000 ≠ none :=
  ⟨issues_of (by decide +kernel), by decide +kernel, by intro o _; exact List.not_mem_nil, by decide +kernel, by decide +kernel⟩
theorem witness_scratch_store : Issues (solo id 0) (soloCtx id) (.sstW false (.x 1) (.x 2) 0) ∧
    scratchStore (.sstW false (.x 1) (.x 2) 0) = some (false, 4, 0) := ⟨issues_of (by decide +kernel), rfl⟩

/-- The team with one arrival in barrier object 15, of two or of one expected. -/
def barState (n : BitVec 8) : State := { solo id 0 with teams := [(0, { bootTeam with bars := [(15, { Barrier.reset with expect := n, arrived := 1 })] })] }
def barCtx (n : BitVec 8) : Ctx := { soloCtx id with team := { bootTeam with bars := [(15, { Barrier.reset with expect := n, arrived := 1 })] } }

theorem witness_barrier_arrives : Issues (barState 2) (barCtx 2) (.bararv false 15) ∧ ¬AllIn (objectOf (barCtx 2) 15) :=
  ⟨issues_of (by decide +kernel), by unfold AllIn; decide +kernel⟩
theorem witness_barrier_full : Issues (barState 1) (barCtx 1) (.bararv false 15) ∧ AllIn (objectOf (barCtx 1) 15) :=
  ⟨issues_of (by decide +kernel), by unfold AllIn; decide +kernel⟩
theorem witness_barrier_try : Issues (barState 2) (barCtx 2) (.bartry false (.x 1) 15) ∧ (objectOf (barCtx 2) 15).phase = sawPhase (barCtx 2) 15 :=
  ⟨issues_of (by decide +kernel), by decide +kernel⟩
theorem witness_barrier_try_passed : Issues (solo (fun st => { st with observed := 0x8000 }) 0) (soloCtx (fun st => { st with observed := 0x8000 }))
      (.bartry false (.x 1) 15) ∧
    (objectOf (soloCtx (fun st => { st with observed := 0x8000 })) 15).phase ≠ sawPhase (soloCtx (fun st => { st with observed := 0x8000 })) 15 :=
  ⟨issues_of (by decide +kernel), by decide +kernel⟩
theorem witness_barrier_others : Issues (barState 2) (barCtx 2) (.barinit false 15 .ln) ∧ Issues (barState 2) (barCtx 2) (.barwait false 15) ∧
    Issues (barState 2) (barCtx 2) (.tbar false 15) :=
  ⟨issues_of (by decide +kernel), issues_of (by decide +kernel), issues_of (by decide +kernel)⟩

/-! ### Fences and caches -/

theorem witness_fence : Issues (solo id 0) (soloCtx id) (.fenceAr false .fabric) ∧
    NothingOpen (solo id 0) (soloCtx id) true true .fabric :=
  ⟨issues_of (by decide +kernel), fun _ => ⟨rfl, fun _ h => absurd h List.not_mem_nil⟩, fun _ => ⟨fun _ h => absurd h List.not_mem_nil,
    fun _ _ h => absurd h List.not_mem_nil, fun _ tm h => by
      have : tm = bootTeam := by
        have h' : find? (solo id 0).teams (soloCtx id).st.team = some bootTeam := by decide +kernel
        rw [h'] at h; exact (Option.some.inj h).symm
      subst this; decide +kernel⟩⟩
theorem witness_cache : Issues (solo id 0) (soloCtx id) (.cinv false (.x 1)) ∧ (soloCtx id).routine = false ∧ privOf (solo id 0) (soloCtx id) ≠ 0 ∧
    (reachOf { needsRead 1 with reads := false } (.cinv false (.x 1)) Vals.a).2.1 = [] :=
  ⟨issues_of (by decide +kernel), rfl, by decide +kernel, by decide +kernel⟩
theorem witness_prefetch_isync : Issues (solo id 0) (soloCtx id) (.pref false (.x 1)) ∧ Issues (solo id 0) (soloCtx id) (.isync false) :=
  ⟨issues_of (by decide +kernel), issues_of (by decide +kernel)⟩

/-! ### Transfers, reservations, waits, results -/

theorem witness_lds : Issues (solo id 0) (soloCtx id) (.lds16k false (.x 1) .zr 15) ∧
    (∀ e ∈ (soloCtx id).lanes, (valsOf (solo id 0) (soloCtx id) (.lds16k false (.x 1) .zr 15) e).a.toNat % 256 = 0 ∧
      (valsOf (solo id 0) (soloCtx id) (.lds16k false (.x 1) .zr 15) e).d.toNat % 256 = 0) ∧
    (objectOf (soloCtx id) 15).pend.toNat + (soloCtx id).lanes.length ≤ 65535 ∧
    ∀ e ∈ (soloCtx id).lanes, ldsHeld (solo id 0) (soloCtx id) 16384 (valsOf (solo id 0) (soloCtx id) (.lds16k false (.x 1) .zr 15) e) = false :=
  ⟨issues_of (by decide +kernel), by decide +kernel, by decide +kernel, by decide +kernel⟩

/-- An LDS of 256 bytes on its way. -/
def landing (fault : Option (Nat × Nat × Nat × Nat)) (src : List (Nat × Nat × KeySel)) : Transfer :=
  { team := 0, group := 0, lane := 0, pc := 0x100, dom := 0, bar := some 3, kind := 0, toMem := false, src := src, fault := fault, va := 0
    dst := 512, size := 256, cells := [], leaves := [] }

/-- That LDS outstanding. -/
def landState (fault : Option (Nat × Nat × Nat × Nat)) (src : List (Nat × Nat × KeySel)) : State :=
  { solo id 0 with moves := [(9, landing fault src)], seq := 10 }

theorem witness_lds_lands : find? (landState none [(0, 0x10000, .clear)]).moves 9 = some (landing none [(0, 0x10000, .clear)]) ∧
    find? (landState none [(0, 0x10000, .clear)]).teams 0 = some bootTeam ∧ 0x10000 % 65536 + 256 ≤ 65536 ∧
    (landState none [(0, 0x10000, .clear)]).banks = [] ∧ (List.range 256).all (fun o => !homeBad (landState none [(0, 0x10000, .clear)]) .clear (0x10000 + o)) = true := by
  decide +kernel
theorem witness_lds_fails : find? (landState (some (0, 0x05, 0x900, 0)) []).moves 9 = some (landing (some (0, 0x05, 0x900, 0)) []) := by decide +kernel

theorem witness_reservation_forms : Issues (solo id 0) (soloCtx id) (.lrw false (.x 1) .zr) ∧ Issues (solo id 0) (soloCtx id) (.sch false (.x 1) .zr .ln) ∧
    Issues (solo id 0) (soloCtx id) (.relr false .zr) ∧ (reachOf lineReach (.lrw false (.x 1) .zr) Vals.a).2.1 = [] :=
  ⟨issues_of (by decide +kernel), issues_of (by decide +kernel), issues_of (by decide +kernel), by decide +kernel⟩

/-- A request of lane 0 for line 64, held since cycle 0 or not. -/
def request (held : Bool) : Reserve := { lane := 0, stream := 0, seq := 4, addr := 0x10000, key := .clear, since := 0, held := held }

/-- A result that waits for something. -/
def result (aw : Await) : Pending := { seq := 4, lane := 0, writes := [(.reg 1, 5)], await := aw, pc := 0x100 }

/-- The stream with that result outstanding. -/
def owing (aw : Await) (st : Stream) : Stream := { st with pend := [result aw] }

/-- The request heads its line's FIFO, at a cycle. -/
def requested (held : Bool) (cycle : Nat) : State :=
  let s := solo (owing (.holder 64 0)) 0
  { s with cycle := cycle, ctl := { s.ctl with resv := [(64, [request held])] } }

theorem witness_grant : requestsOf (requested false 0) 64 = [request false] ∧ findPend (requested false 0) 4 = some (0, result (.holder 64 0)) ∧
    homeBad (acquireLane (requested false 0) (soloCtx (owing (.holder 64 0))) 0 .device) .clear 0x10000 = false := by decide +kernel
theorem witness_reservation_boundary : holds (requested true 4095) 0 0x10000 = true ∧ holds (requested true 4096) 0 0x10000 = false := by decide +kernel

theorem witness_wait_pad : Issues (solo id 0) (soloCtx id) (.waita false (.x 1) (.x 2) .zr 7) := issues_of (by decide +kernel)
theorem witness_wait_global : ∀ e ∈ (soloCtx id).lanes, (valsOf (solo id 0) (soloCtx id) (.waita false (.x 1) .zr .zr 1) e).a.getLsbD 63 = false ∧
    (reachOf (needsRead 8) (.waita false (.x 1) .zr .zr 1) Vals.a).2.1 = [] := by decide +kernel
theorem witness_wait_timeout : findPend (solo (owing (.change 0 0 1 (some 256))) 0) 4 = some (0, result (.change 0 0 1 (some 256))) ∧
    waitRead (solo (owing (.change 0 0 1 (some 256))) 0) (soloCtx (owing (.change 0 0 1 (some 256)))) 0 0 = some (0, false) := by decide +kernel
theorem witness_result : findPend (solo (owing .nothing) 0) 4 = some (0, result .nothing) ∧ ctxOf (solo (owing .nothing) 0) 0 = some (soloCtx (owing .nothing)) ∧
    (soloCtx (owing .nothing)).st.park = none := by decide +kernel
theorem witness_result_fails :
    findPend (solo (owing (.fails { lane := 0, code := 0x18, addr := 0, detail := 0, pc := 0x100 })) 0) 4 =
      some (0, result (.fails { lane := 0, code := 0x18, addr := 0, detail := 0, pc := 0x100 })) := by decide +kernel

/-! ### Words and steps -/

theorem witness_decode : isWord (.rori false (.k 15) .ln 63) = true ∧ wellFormed (.rori false (.k 15) .ln 63) = true ∧
    encode (.rori false (.k 15) .ln 63) ≠ none ∧ ReservedMajor 0 := ⟨by decide +kernel, by decide +kernel, by decide +kernel, 0, rfl, .inl rfl⟩

/-- ADDI x5, ln, 7. -/
def wordAddi : Nat := 0x09 * 2 ^ 24 + 5 * 2 ^ 17 + 121 * 2 ^ 10 + 7

/-- What the next step leaves in a register. -/
noncomputable def stepReg (s : State) (p : Nat) : Option Word := match step s with | .next t => some (look 0 t.regs p) | _ => none

theorem test_step_runs_word : decodeTableWord 32 wordAddi = some (.addi false (.x 5) .ln 7) := by decide +kernel
theorem test_fetch : (match fetchWord (solo id wordAddi) (soloCtx id) with | .ok (_, w) => some w | .error _ => none) = some wordAddi := by decide +kernel
theorem test_fetch_outside : (match fetchWord (solo (fun st => { st with pc := 0xFFFE }) 0) (soloCtx (fun st => { st with pc := 0xFFFE })) with
    | .ok _ => none | .error f => some f.code) = some 0x0B := by decide +kernel
theorem test_step_adds : stepReg (State.reset.withFetchWord 32 wordAddi) 5 = some 7 := by decide +kernel

/-! ### Page tables -/

/-- Memory with some doublewords. -/
def memOf (l : List (Nat × Nat)) : List Host.Cell := l.foldl (fun m e => memPut m e.1 (spread 8 e.2)) []

/-- Domain 0's tables, in which page 1 has the entry `leaf`; the domain's own entry has a quota of 8 pages and one free page. -/
def paged (leaf : Nat) : State :=
  let s := solo id 0
  { s with
    mem := memOf [(0, 2 ^ 63 + 0x20000), (0x20000, 0x30001), (0x30000, 0x40001), (0x40008, leaf), (0x80000, 2 ^ 63 + 8),
      (0x80010, 0x90000), (0x80018, 1)]
    sched := { s.sched with dtbase := 0x80000 } }

theorem paged_root (leaf : Nat) (h : rootEntry (paged leaf) 0 = BitVec.ofNat 64 (2 ^ 63 + 0x20000)) (l : homeBad (paged leaf) .clear 0 = false) :
    GoodRoot (paged leaf) 0 := by
  exact ⟨⟨show 0 < localLimit by decide, l⟩, by rw [h]; decide +kernel, by rw [h]; decide +kernel, by rw [h]; decide +kernel⟩

/-- The leaf of page 1 with every permission, and the same page on touch. -/
def leafWord : Nat := 0x5005F
def touchWord : Nat := 0x0003E

theorem walk_reaches (leaf : Nat) (hl : leaf = leafWord ∨ leaf = touchWord) : EntryAt (paged leaf) 0 0x10000 3 0x40008 (BitVec.ofNat 64 leaf) := by
  rcases hl with rfl | rfl <;>
  refine ⟨by decide, 0x40000, ⟨0x30000, ⟨0x20000, ⟨paged_root _ (by decide +kernel) (by decide +kernel), by decide +kernel⟩, ⟨by decide +kernel, by decide +kernel⟩,
    by decide +kernel, by unfold AnyPermission; decide +kernel, by unfold BadEntry PeerLeaf AnyPermission; decide +kernel, by decide +kernel⟩,
    ⟨by decide +kernel, by decide +kernel⟩, by decide +kernel, by unfold AnyPermission; decide +kernel,
    by unfold BadEntry PeerLeaf AnyPermission; decide +kernel, by decide +kernel⟩, by decide +kernel, ⟨by decide +kernel, by decide +kernel⟩, by decide +kernel⟩

theorem witness_walk : EntryAt (paged leafWord) 0 0x10000 3 0x40008 (BitVec.ofNat 64 leafWord) ∧
    tlbLook (paged leafWord) 0 0x10000 [0] = none ∧ lackedBy ⟨true, true, false⟩ true (BitVec.ofNat 64 leafWord) = none ∧
    ¬Nowhere (paged leafWord) (placeOf (BitVec.ofNat 64 leafWord) 3 0x10000) :=
  ⟨walk_reaches _ (.inl rfl), by decide +kernel, by decide +kernel, by unfold Nowhere; decide +kernel⟩
theorem witness_on_touch : EntryAt (paged touchWord) 0 0x10000 3 0x40008 (BitVec.ofNat 64 touchWord) ∧
    (BitVec.ofNat 64 touchWord).getLsbD 0 = false ∧ (BitVec.ofNat 64 touchWord).getLsbD 5 = true ∧
    poolLacks (paged touchWord) 0 = none ∧ RangesApart 0x90000 65536 0x80000 64 ∧ RangesApart 0x80000 64 0x40008 8 :=
  ⟨walk_reaches _ (.inr rfl), by decide +kernel, by decide +kernel, by decide +kernel, .inr (by decide), .inr (by decide)⟩
theorem witness_no_tables : Legible (solo id 0) 0 ∧ (rootEntry (solo id 0) 0).getLsbD 63 = false :=
  ⟨⟨by decide, by decide +kernel⟩, by decide +kernel⟩
/-- The table's words carry page 1 to 0x50000. -/
theorem test_walk : (match permAny (paged leafWord) [0] 0 0x10123 ⟨true, false, false⟩ true with | .ok (_, x) => some x.pa | .error _ => none) = some 0x50123 := by
  decide +kernel
/-- A page backed on touch is the head of the list (R179, R181). -/
theorem test_on_touch : (match permAny (paged touchWord) [0] 0 0x10000 ⟨false, true, false⟩ true with
    | .ok (t, x) => some (x.pa, rawRead t 0x40008 8, rawRead t 0x80008 8, rawRead t 0x80018 8) | .error _ => none) = some (0x90000, 0x9003F, 1, 0) := by
  decide +kernel

theorem witness_access_fault : Issues (solo id 0) (soloCtx id) (.ldD false (.x 1) .ln 1) ∧
    (reachAll (soloCtx id) (needsRead 8) (solo id 0) [({ ln := 0, pos := 0, a := 0, b := 0, d := 0 }, 0x10000)]).2.1 ≠ [] ∧
    accessForm (.ldD false (.x 1) .ln 1) ≠ none := ⟨issues_of (by decide +kernel), by decide +kernel, by simp [accessForm]⟩

/-- A translation whose leaf has D clear. -/
def cleanLeaf (pte : Word) : Xlat :=
  { pa := 0x50000, key := .clear, leaf := { dom := 0, base := 0x10000, level := 3, pte := pte, at_ := 0x40008 } }

theorem witness_dirty : wordIn (paged 0x5001F) (cleanLeaf 0x5001F).leaf.at_ = (cleanLeaf 0x5001F).leaf.pte ∧ (cleanLeaf 0x5001F).leaf.pte.getLsbD 6 = false ∧
    wordIn (paged 0x6001F) 0x40008 ≠ (cleanLeaf 0x5001F).leaf.pte := by decide +kernel

/-! ### Remote operations -/

/-- Domain 0's page 1 lies on device 1. -/
def remote : State := { paged (leafWord + 2 ^ 40) with regs := [(2, 0x10000)] }
/-- The context of a position that has a stream. -/
def ctxAt (s : State) (sid : Nat) : Ctx := (ctxOf s sid).getD (soloCtx id)

theorem witness_remote_store : Issues remote (soloCtx id) (.rstD false (.x 2) .ln) ∧ (∃ k, remoteForm (.rstD false (.x 2) .ln) = some k ∧ k.size = 8) ∧
    (reachAll (soloCtx id) { needsWrite 8 with remote := true } remote (addressesOf remote (soloCtx id) (.rstD false (.x 2) .ln) Vals.a)).2.1 = [] ∧
    ∀ x ∈ (reachAll (soloCtx id) { needsWrite 8 with remote := true } remote (addressesOf remote (soloCtx id) (.rstD false (.x 2) .ln) Vals.a)).2.2, x.x.peer remote = true :=
  ⟨issues_of (by decide +kernel), ⟨_, rfl, rfl⟩, by decide +kernel, by decide +kernel⟩
theorem witness_remote_load : Issues remote (soloCtx id) (.rldW false (.x 1) (.x 2)) ∧
    (reachAll (soloCtx id) (remoteRead 4) remote (addressesOf remote (soloCtx id) (.rldW false (.x 1) (.x 2)) Vals.a)).2.1 = [] :=
  ⟨issues_of (by decide +kernel), by decide +kernel⟩
theorem witness_remote_flush : Issues remote (soloCtx id) (.rflushOne false (.x 2)) ∧ Issues remote (soloCtx id) (.rflushAll false) :=
  ⟨issues_of (by decide +kernel), issues_of (by decide +kernel)⟩
theorem witness_multicast : Issues (solo id 0) (soloCtx id) (.mcst false (.x 1) .zr) ∧
    ∀ e ∈ (soloCtx id).lanes, (valsOf (solo id 0) (soloCtx id) (.mcst false (.x 1) .zr) e).b.toNat < 2 ^ 44 ∧
      offsetCause bootTeam 256 e.1 (valsOf (solo id 0) (soloCtx id) (.mcst false (.x 1) .zr) e).a = none :=
  ⟨issues_of (by decide +kernel), by decide +kernel⟩

/-! ### Engine routines, records, ends, messages -/

/-- A routine of the team on copy hart 0 issues. -/
def hartState : State := { State.reset.withFetchWord 32 (0x65 * 2 ^ 24) with issuer := some 49152, harts := [(0, .reset)] }
theorem witness_copy : Issues hartState (ctxAt hartState 49152) (.cpySs false .zr .zr .zr) ∧ (ctxAt hartState 49152).lanes.length = 1 ∧
    heldReleases hartState (ctxAt hartState 49152).st.group = false ∧
    ∀ e ∈ (ctxAt hartState 49152).lanes, (valsOf hartState (ctxAt hartState 49152) (.cpySs false .zr .zr .zr) e).b = 0 :=
  ⟨issues_of (by decide +kernel), by decide +kernel, by decide +kernel, by decide +kernel⟩
theorem witness_gather : Issues hartState (ctxAt hartState 49152) (.gth32 false (.x 4) (.x 6) (.x 8)) ∧
    ((copyForm (.gth32 false (.x 4) (.x 6) (.x 8))).isSome ∨ (gatherForm (.gth32 false (.x 4) (.x 6) (.x 8))).isSome) :=
  ⟨issues_of (by decide +kernel), .inr rfl⟩
theorem witness_enq : Issues (solo id 0) (soloCtx id) (.enq false (.x 1) .zr (.x 8)) ∧ badHandle (solo id 0) (soloCtx id) 0 = false :=
  ⟨issues_of (by decide +kernel), by decide +kernel⟩
theorem witness_enq_bad : Issues (solo id 0) (soloCtx id) (.enq false (.x 1) (.x 2) (.k 8)) ∧ badHandle (solo id 0) (soloCtx id) 1 = true :=
  ⟨issues_of (by decide +kernel), by decide +kernel⟩
theorem witness_spawn_btop : Issues (solo id 0) (soloCtx id) (.spawnLocal false (.x 1) (.x 8)) ∧ Issues (solo id 0) (soloCtx id) (.btopIb false (.x 1) .zr .ln) ∧
    ∀ e ∈ (soloCtx id).lanes, topUpBarred (solo id 0) (soloCtx id) (valsOf (solo id 0) (soloCtx id) (.btopIb false (.x 1) .zr .ln) e) = false :=
  ⟨issues_of (by decide +kernel), issues_of (by decide +kernel), by decide +kernel⟩
theorem witness_end : Issues (solo id 0) (soloCtx id) (.endOp false) ∧ draining (solo id 0) 0 = false ∧ (soloCtx id).routine = false :=
  ⟨issues_of (by decide +kernel), by decide +kernel, rfl⟩
theorem witness_end_routine : Issues hartState (ctxAt hartState 49152) (.endOp false) ∧ (ctxAt hartState 49152).st.hart = some 0 ∧ hartPos 0 = 49152 ∧
    draining hartState (ctxAt hartState 49152).st.group = false ∧ (ctxAt hartState 49152).st.pend = [] ∧ find? hartState.harts 0 ≠ none :=
  ⟨issues_of (by decide +kernel), by decide +kernel, by decide, by decide +kernel, by decide +kernel, by decide +kernel⟩
theorem witness_end_waits : Issues { solo id 0 with moves := [(9, landing none [])] } (soloCtx id) (.endOp false) ∧
    draining { solo id 0 with moves := [(9, landing none [])] } 0 = true := ⟨issues_of (by decide +kernel), by decide +kernel⟩
theorem witness_point : Issues (solo id 0) (soloCtx id) (.cpt false 96 4) ∧ Issues (solo id 0) (soloCtx id) (.yield false) ∧
    Issues (solo id 0) (soloCtx id) (.yieldIf false .zr) := ⟨issues_of (by decide +kernel), issues_of (by decide +kernel), issues_of (by decide +kernel)⟩

/-- An inbox of two entries with tag 0 at descriptor 0. -/
def inboxState : State := { solo id 0 with mem := memOf [(0, 2 ^ 63 + 2 ^ 40)] }

theorem witness_message : Issues inboxState (soloCtx id) (.msgapp false (.x 1) .zr (.x 2) 7) ∧ Issues inboxState (soloCtx id) (.msgrecv false (.x 1) .zr .zr 0) ∧
    inboxOk inboxState (soloCtx id).team.part (viewInbox inboxState 0) 0 = true ∧ (viewInbox inboxState 0).domain = (soloCtx id).team.domain :=
  ⟨issues_of (by decide +kernel), issues_of (by decide +kernel), by decide +kernel, by decide +kernel⟩
theorem witness_message_bad : ∀ e ∈ (soloCtx id).lanes, inboxOk (solo id 0) none (viewInbox (solo id 0) 0)
    ((valsOf (solo id 0) (soloCtx id) (.msgrecv false (.x 1) .zr .zr 0) e).a.toNat % 2 ^ 16) = false := by decide +kernel
theorem witness_message_timeout : findPend (solo (owing (.message 0 1 [.reg 1] 256)) 0) 4 = some (0, result (.message 0 1 [.reg 1] 256)) := by decide +kernel

/-! ### Tiles -/

theorem witness_tile : Issues (solo id 0) (soloCtx id) (.tcvt false 63 (.x 1) .zr) ∧ (∃ r, sliceForm (.tcvt false 63 (.x 1) .zr) = some r) ∧
    GoodControl (0 : Word) ∧ (solo id 0).tileErr = [] ∧ (solo id 0).restore = [] ∧ (solo id 0).owners = [] :=
  ⟨issues_of (by decide +kernel), ⟨_, rfl⟩, ⟨by decide, by decide, by decide, .ieee bf16, 16, rfl, by decide⟩, rfl, rfl, rfl⟩
theorem witness_tile_held : ∃ p ∈ tilePipes (soloCtx id), find? ({ solo id 0 with owners := [(0, 5)] } : State).owners p = some 5 := by decide +kernel
theorem witness_tcvt_bad : Issues (solo id 0) (soloCtx id) (.tcvt false 63 (.x 1) (.x 2)) ∧ cvtBad 0x600 = true := by
  exact ⟨issues_of (by decide +kernel), by decide +kernel⟩
theorem witness_tile_retry : ctxOf (solo (fun st => { st with park := some .tileClaim }) 0) 0 = some (soloCtx (fun st => { st with park := some .tileClaim })) := by
  decide +kernel
theorem witness_tables : Issues (solo id 0) (soloCtx id) (.fmt false (.x 1) 7) ∧ Issues (solo id 0) (soloCtx id) (.lut4 false (.x 1) (.x 2)) ∧
    (soloCtx id).lanes.length = 1 := ⟨issues_of (by decide +kernel), issues_of (by decide +kernel), by decide⟩

/-- Descriptors of one step of plain BF16 rows in x10 to x13 (R500). -/
def matrix : State := { solo id 0 with regs := [(10, 2 ^ 32), (11, 0x100010), (12, 0x100), (13, 0x100010)] }

theorem witness_tmma : Issues matrix (soloCtx id) (.tmmaNn false 0 (.x 10) (.x 12)) ∧
    (soloCtx id).lanes.map (valsOf matrix (soloCtx id) (.tmmaNn false 0 (.x 10) (.x 12))) =
      [valsOf matrix (soloCtx id) (.tmmaNn false 0 (.x 10) (.x 12)) (soloCtx id).first] ∧
    tmmaFaults matrix (soloCtx id) (tmmaOf matrix (soloCtx id) 0 0 (.x 10) (.x 12) false 0)
      [valsOf matrix (soloCtx id) (.tmmaNn false 0 (.x 10) (.x 12)) (soloCtx id).first] = [] :=
  ⟨issues_of (by decide +kernel), by decide +kernel, by decide +kernel⟩
theorem witness_tmma_faults : tmmaFaults (solo id 0) (soloCtx id) (tmmaOf (solo id 0) (soloCtx id) 0 0 (.x 10) (.x 12) false 0)
    [valsOf (solo id 0) (soloCtx id) (.tmmaNn false 0 (.x 10) (.x 12)) (soloCtx id).first] ≠ [] := by decide +kernel

/-- That TMMA, running. -/
def running : Tmma := tmmaOf matrix (soloCtx id) 0 0 (.x 10) (.x 12) false 0
/-- The stream in a TMMA, perhaps halted. -/
def inTmma (h : Option Nat) (st : Stream) : Stream := { st with tmma := some running, park := some .tmma, haltIn := h }

theorem witness_engine_step : Multiplying (solo (inTmma none) 0) 0 (soloCtx (inTmma none)) running ∧ (soloCtx (inTmma none)).st.haltIn ≠ some 0 ∧
    (solo (inTmma none) 0).scErr = [] ∧ running.fn ≠ 4 := ⟨⟨by decide +kernel, rfl, rfl⟩, by decide, rfl, by decide⟩
theorem witness_engine_halt : Multiplying (solo (inTmma (some 0)) 0) 0 (soloCtx (inTmma (some 0))) running ∧ (soloCtx (inTmma (some 0))).st.haltIn = some 0 :=
  ⟨⟨by decide +kernel, rfl, rfl⟩, rfl⟩

/-- A tile store's operands: offset 0 of the scratchpad and a pitch of 32 bytes; x4 counts against barrier object 15 too. -/
def storing : State := { solo id 0 with regs := [(2, 0x8000000000000000), (3, 32), (4, 0x1F00000020)] }

theorem witness_tile_store : Issues storing (soloCtx id) (.tstF32 false 0 (.x 2) (.x 4)) ∧ tileStoreForm (.tstF32 false 0 (.x 2) (.x 4)) = some (false, .f32, 0) ∧
    storeCauses (soloCtx id) .f32 0x8000000000000000 0x1F00000020 = [] ∧ barrierOf 0x1F00000020 = some 15 ∧ (objectOf (soloCtx id) 15).pend.toNat < 65535 ∧
    StoreControl 1 .f32 0x20 := ⟨issues_of (by decide +kernel), rfl, by decide +kernel, by decide, by decide, by decide, by decide, by decide, by decide⟩
theorem witness_tile_store_bad : storeCauses (soloCtx id) .f32 0x8000000000000004 0x21 ≠ [] := by decide +kernel

/-- A tile transfer of one element to scratchpad on its way. -/
def tiling (kind : Nat) : Transfer :=
  { landing none [] with kind := kind, bar := none, dst := 0, size := 4, cells := [(64, .clear, [(0, 1), (1, 0), (2, 0), (3, 0)])] }

theorem witness_tile_transfer : find? ({ solo id 0 with moves := [(9, tiling 1)] } : State).moves 9 = some (tiling 1) ∧
    ((placed (tiling 1)).map Prod.fst).Nodup ∧ find? (solo id 0).teams (tiling 1).team = some bootTeam := by decide +kernel
theorem witness_tile_add : (tiling 4).cells.map (fun e => (e.1, e.2.2)) = [(64, [(0, (1 : BitVec 32))])].map (fun e => (e.1, cellOf e.2)) := by decide +kernel

/-! ### Special registers and traps -/

theorem witness_special_read : Issues (solo id 0) (soloCtx id) (.srd false (.x 1) 0x020) ∧ isRegister 0x020 = true ∧
    Issues (solo id 0) (soloCtx id) (.swr false (.x 1) 0x006) ∧ isRegister 0x006 = false :=
  ⟨issues_of (by decide +kernel), by decide, issues_of (by decide +kernel), by decide⟩
theorem witness_special_trap : Issues (solo id 0) (soloCtx id) (.swr false .ln 0x060) ∧ isRegister 0x060 = true ∧
    ¬Writable (solo id 0) (soloCtx id) 0x060 :=
  ⟨issues_of (by decide +kernel), by decide, by unfold Writable; decide +kernel⟩
theorem witness_special_write : Issues (solo id 0) (soloCtx id) (.swr false .zr 0x005) ∧ Writable (solo id 0) (soloCtx id) 0x005 ∧
    Writable (solo id 0) (soloCtx id) 0x000 ∧ Writable (solo id 0) (soloCtx id) 0x064 ∧ ((soloCtx id).lanes.map Prod.snd).Nodup ∧
    (∃ v, (soloCtx id).lanes.map (valsOf (solo id 0) (soloCtx id) (.swr false .zr 0x005)) = [v]) :=
  ⟨issues_of (by decide +kernel), by unfold Writable; decide +kernel, by unfold Writable; decide +kernel, by unfold Writable; decide +kernel,
    by decide +kernel, _, rfl⟩

/-- Domain 0 has handle 0, a geode in its page 1 whose entry 0 stands at 0x40. -/
def handled (f : Stream → Stream) (priv : BitVec 2) : State :=
  let s := paged leafWord
  { s with
    mem := memOf [(0, 2 ^ 63 + 0x20000), (0x20000, 0x30001), (0x30000, 0x40001), (0x40008, leafWord), (0x60000, 2 ^ 63 + 0x70000),
      (0x70000, 2 ^ 63 + 0x10000), (0x70008, 65536), (0x70010, 2 ^ 32 + 0x200), (0x50200, 0x40)]
    streams := [(0, f (bootStream 0))], lanes := [(0, { bootLane with priv := priv })], teams := [(0, { bootTeam with handlers := 1 })]
    ctl := { s.ctl with ghtroot := 0x60000 }, sched := { s.sched with trpsav := [(16, 0x100000)] } }

/-- Its context. -/
def handledCtx (f : Stream → Stream) : Ctx := { soloCtx f with team := { bootTeam with handlers := 1 } }

/-- The handler's geode. -/
def handlerGeode : Geode := { dom := 0, index := 0, base := 0x10000, len := 65536, entcnt := 1, entoff := 0x200 }

theorem witness_handler : HandlerAt (handled id 1) (handledCtx id) 0 { bootLane with priv := 1 } handlerGeode 0x10040 := ⟨by decide +kernel, by decide +kernel⟩
theorem one_lane (f : Stream → Stream) (h : (f (bootStream 0)).members = 1) (a : (f (bootStream 0)).hart = none) (b : (f (bootStream 0)).handler = false)
    (p : (f (bootStream 0)).pend = []) (c : ctxOf (handled f 1) 0 = some (handledCtx f)) :
    OneLane (handled f 1) (handledCtx f) 0 0 { bootLane with priv := 1 } where
  mode := by simp [handledCtx, soloCtx, bootGroup]
  lanes := by
    simp only [handledCtx, soloCtx, h]
    decide +kernel
  hart := a
  out := b
  pend := p
  lane := rfl
  stream := rfl
  ctx := c
  area := by
    have : saveArea (handled f 1) (handledCtx f).team.part 0 = 0x100000 := rfl
    rw [this]; decide
theorem witness_trap : Issues (handled id 1) (handledCtx id) (.trap false 0) ∧ OneLane (handled id 1) (handledCtx id) 0 0 { bootLane with priv := 1 } ∧
    (handledCtx id).lanes = [(0, 0)] := ⟨issues_of (by decide +kernel), one_lane id rfl rfl rfl rfl (by decide +kernel), by decide +kernel⟩
theorem witness_trap_fused : ctxOf (duo id 0) 0 = some (duoCtx id) ∧ (duoCtx id).st.hart = none ∧ (duoCtx id).st.handler = false ∧
    (duoCtx id).st.pend = [] ∧ (duoCtx id).grp.mode = .fused ∧ (duoCtx id).st.mask = (duoCtx id).st.members ∧ (duoCtx id).st.waits = [] ∧ Apart (duoCtx id) :=
  ⟨by decide +kernel, rfl, rfl, rfl, rfl, rfl, rfl, by unfold Apart; decide +kernel⟩
/-- The stream in its handler, with results outstanding or not. -/
def inHandler (l : List Pending) (st : Stream) : Stream := { st with handler := true, pend := l }
theorem witness_double_fault : ctxOf (solo (inHandler []) 0) 0 = some (soloCtx (inHandler [])) ∧ (soloCtx (inHandler [])).st.handler = true := by decide +kernel
theorem witness_trap_waits : ctxOf (solo (owing .nothing) 0) 0 = some (soloCtx (owing .nothing)) ∧ (soloCtx (owing .nothing)).st.pend ≠ [] := by decide +kernel
theorem witness_no_instruction : (solo id 0).issuer = some (soloCtx id).sid ∧ ctxOf (solo id 0) 0 = some (soloCtx id) := by decide +kernel
theorem witness_return : Issues (handled (inHandler []) 1) (handledCtx (inHandler [])) (.rett false) ∧
    lanesIn (handledCtx (inHandler [])).grp (handledCtx (inHandler [])).st.members = [(0, 0)] ∧ (handledCtx (inHandler [])).grp.trap = none ∧
    saveArea (handled (inHandler []) 1) none 0 + 64 ≤ localLimit ∧ homeBad (handled (inHandler []) 1) .clear (saveArea (handled (inHandler []) 1) none 0) = false :=
  ⟨issues_of (by decide +kernel), by decide +kernel, rfl, by decide +kernel, by decide +kernel⟩
theorem witness_return_user : Issues (handled id 0) (handledCtx id) (.rett false) ∧ levelOf (handled id 0) (handledCtx id) = 0 :=
  ⟨issues_of (by decide +kernel), by decide +kernel⟩
theorem witness_return_outside : Issues (handled id 1) (handledCtx id) (.rett false) ∧ levelOf (handled id 1) (handledCtx id) ≠ 0 ∧ (handledCtx id).st.handler = false :=
  ⟨issues_of (by decide +kernel), by decide +kernel, rfl⟩
/-- TRAP enters the handler at privilege 1 with cause 0x1A and its immediate (R319, R328, R448). -/
theorem test_trap : (match exec (.trap false 5) (handled id 0) with
    | .next t => some ((laneOf t 0).tcause, (laneOf t 0).tpc, (laneOf t 0).priv, (find? t.streams 0).map Stream.pc) | _ => none) =
      some (0x50008001A, 0x104, 1, some 0x10040) := by decide +kernel

/-! ### Shootdowns and late faults -/

theorem witness_shootdown : Issues (solo id 0) (soloCtx id) (.tlbiAll false) ∧ (tlbiForm (.tlbiAll false)).isSome ∧ levelOf (solo id 0) (soloCtx id) ≠ 0 ∧
    (soloCtx id).team.part = none := ⟨issues_of (by decide +kernel), rfl, by decide +kernel, rfl⟩
theorem witness_shootdown_user : Issues (handled id 0) (handledCtx id) (.tlbiAddr false .zr .ln) ∧ levelOf (handled id 0) (handledCtx id) = 0 :=
  ⟨issues_of (by decide +kernel), by decide +kernel⟩
/-- A shootdown of number 3 stands open. -/
def shooting : State := { solo id 0 with ctl := { (solo id 0).ctl with shoots := [(3, { moves := [], tags := [], bufs := [] })] } }
theorem witness_shootdown_done : find? shooting.ctl.shoots 3 = some { moves := [], tags := [], bufs := [] } ∧ shooting.moves = [] ∧ shooting.fab.flights = [] := by
  decide +kernel

/-- A late fault of lane 0's work. -/
def lateFault : LateFault := { lane := 0, code := 0x19, addr := 0x900, detail := 3, pc := 0x100 }
/-- It is due. -/
def lateState (f : Stream → Stream) : State := { handled f 1 with teams := [(0, { bootTeam with handlers := 1, late := [lateFault] })] }
theorem witness_late : (∃ c, ctxOf (lateState id) 0 = some c ∧ c.team.late = [lateFault] ∧ (laneOf (lateState id) lateFault.lane).stream = 0 ∧
    c.st.park = none ∧ c.st.region = none) := ⟨{ handledCtx id with team := { bootTeam with handlers := 1, late := [lateFault] } }, by decide +kernel⟩
theorem witness_late_handler : ∃ c, ctxOf (lateState (inHandler [])) 0 = some c ∧ c.team.late = [lateFault] ∧ c.st.handler = true ∧ lateFault.code < 256 :=
  ⟨{ handledCtx (inHandler []) with team := { bootTeam with handlers := 1, late := [lateFault] } }, by decide +kernel⟩
theorem witness_late_none : ∀ f ∈ (soloCtx id).team.late, (laneOf (solo id 0) f.lane).stream ≠ 0 := by decide

/-! ### The package -/

/-- The package alone. -/
def withPkg (p : Package) : State := { State.reset with pkg := p }
/-- Bring-up has ended and port 0 of PCIe is up. -/
def upPackage : Package := { Package.reset with steps := [1, 2, 60, 61, 3, 4, 5, 7, 8, 9], stage := 3, pcieUp := 1 }
/-- Its clusters run. -/
def hosted : State := { withPkg upPackage with clusters := [(0, { Cluster.reset with released := true })] }
/-- Recovery, with a run of the image or without. -/
def recovering (busy : Bool) : State := withPkg { Package.reset with steps := [1, 60], stage := 0xFF, pcieUp := 1, recBusy := busy, recLen := 64 }

theorem witness_power : isPowerEvent .warmReset = true ∧ isPowerEvent .powerUp = true ∧ State.reset.pkg.powered = true ∧
    (withPkg { Package.reset with powered := false }).pkg.powered = false := by decide
theorem witness_bring_up : DoneBefore Package.reset 1 ∧ DoneBefore { Package.reset with steps := [1, 2, 60, 3, 4, 5, 7, 8] } 9 ∧
    Package.reset.powered = true ∧ Package.reset.stage ≠ 0xFF := by unfold DoneBefore; decide
theorem witness_edges : EdgeFailed { bad := 3, minA := 1, maxA := 1, minB := 1, maxB := 1 } ∧ ¬EdgeFailed { bad := 2, minA := 1, maxA := 1, minB := 1, maxB := 1 } ∧
    EdgeFailed { bad := 0, minA := 2, maxA := 2, minB := 1, maxB := 1 } := by unfold EdgeFailed; decide
/-- Every image has a cause or passes. -/
theorem image_decided (p : Package) (b : List Byte) : (∃ k, imageCause p b k) ∨ ∃ i, imagePasses p b i := by
  by_cases h : ∃ k, imageCause p b k
  · exact .inl h
  · cases e : Config.bootImage b with
    | none => exact absurd ⟨0x01, .inl ⟨e, rfl⟩⟩ h
    | some i => exact .inr ⟨i, e, fun k hk => h ⟨k, hk⟩⟩
theorem witness_training_pcie : MayTrain { Package.reset with steps := [1, 2], perst := true } 1 ∧ MayTrain { (recovering false).pkg with perst := true } 0 ∧
    LinkGood { lanes := 16, rate := 5, flit := true, minv := 1, maxv := 1, caps := 0xF } ∧ LinkGood { lanes := 1, rate := 0, flit := false, minv := 0, maxv := 9, caps := 0 } := by
  unfold MayTrain LinkGood; decide
theorem witness_ports_up : PortUp hosted 0 ∧ PortUp (recovering false) 0 ∧ hosted.pkg.stage = 3 := by unfold PortUp; decide
theorem witness_recovery : (recovering true).pkg.recBusy = true ∧ (recovering true).pkg.recoverBy = 0 ∧ (recovering false).pkg.stage = 0xFF := by decide
theorem witness_throttle : Stands { Package.reset with cool1 := some 0 } tenMs 1 0 ∧ Stands { Package.reset with cool1 := some 1 } tenMs 1 1 := by
  refine ⟨⟨by decide, fun h => absurd rfl h, fun k h1 h2 => ?_⟩, ⟨by decide, ?_, fun k h1 h2 => by omega⟩⟩
  · obtain rfl : k = 1 := by omega
    exact ⟨0, rfl, by decide⟩
  · rintro - ⟨c, h, g⟩
    cases h
    exact absurd g (by decide)

/-! ### Ports, flits and packets -/

/-- Port 0 as given. -/
def ported (p : Port) : State := { State.reset with fab := { State.reset.fab with ports := [(0, p)] } }
/-- A port in ACTIVE with all lanes. -/
def activePort : Port := { Port.reset with state := 5, laneok := 0xFF, cap := 0x1FF, width := 8, lanes := 0xFF, good224 := 0xFF, ver := 2 }
/-- A flit that starts a packet. -/
def startFlit : Flit := { fseq := 0, ackseq := 0, ackv := false, nak := false, kind := 1, vc := false, pay := List.replicate 52 0 }
/-- It is held for replay. -/
def heldPort : Port := { activePort with held := [{ flit := startFlit, last := 0, pkt := 0 }], txseq := 1 }

theorem witness_lanes_for : LanesFor 0xFF true true 8 ∧ WidestOf 0x0F true true 4 ∧ ∀ w, ¬LanesFor 0x12 true true w := by
  refine ⟨.inl ⟨rfl, rfl⟩, ⟨.inr (.inl ⟨rfl, rfl, .inl (by decide)⟩), ?_⟩, ?_⟩
  · rintro k (⟨-, h⟩ | ⟨rfl, -⟩ | ⟨rfl, -⟩)
    · exact absurd h (by decide)
    · decide
    · decide
  · rintro w (⟨-, h⟩ | ⟨-, -, h⟩ | ⟨-, -, h⟩) <;> exact absurd h (by decide)
theorem witness_training : trainingPort (.laneLoss 11 0x0F) = some 11 ∧ trainingPort (.detectIdleExit 12) = some 12 ∧ (portOf (ported activePort) 0).state = 5 ∧
    NoneWhole activePort ∧ (onesOf ((0x03 : BitVec 8).setWidth 16)).length = 2 := ⟨rfl, rfl, rfl, .inl rfl, by decide⟩
theorem witness_rate : RateOf { activePort with state := 3 } 8 0 0xFF 4 := by
  refine ⟨.inl ⟨rfl, rfl, rfl⟩, .inl ⟨rfl, rfl⟩, ?_⟩
  rintro k (⟨rfl, -⟩ | ⟨rfl, -⟩ | ⟨rfl, -⟩) <;> decide
theorem witness_negotiation : Permits (agreedCaps 2 0x1FF) { activePort with state := 4 } ∧ ¬Permits (agreedCaps 2 0) { activePort with width := 4 } := by
  unfold Permits; decide
theorem zero_times : ∀ r : Byte, rsMul 0 r = 0 := by decide +kernel
theorem zero_at (n : Nat) (r : Byte) : rsEval (List.replicate n (0 : Byte)) r = 0 := by
  induction n with
  | zero => rfl
  | succ n ih =>
    have e : rsMul 0 r ^^^ (0 : Byte) = 0 := by rw [zero_times]; rfl
    rw [rsEval, List.replicate_succ, List.foldl_cons, e]
    exact ih
/-- Zeros are a code word, but their CRC-32C is not zero. -/
theorem test_zeros : readFlit (List.replicate 64 0) = none := by
  have h : ∀ n, fecDecode (List.replicate n (0 : Byte)) = List.replicate n 0 := fun n => by
    refine if_pos (List.all_eq_true.2 fun x hx => ?_)
    obtain ⟨r, -, rfl⟩ := List.mem_map.1 hx
    exact decide_eq_true (zero_at n r)
  unfold readFlit
  rw [h]
  exact if_pos (by decide +kernel)

theorem witness_flit : startFlit.pay.length = 52 ∧ Plain startFlit ∧ startFlit.fseq = activePort.rxnext ∧ readFlit (List.replicate 64 0) = none := by
  exact ⟨rfl, ⟨rfl, rfl⟩, rfl, test_zeros⟩
theorem witness_partial : Partial { activePort with rx := [0, 0, 0, 0, 0, 0, 0, 0x50] ++ List.replicate 44 0 } := by
  refine ⟨by decide, 256, by decide +kernel, by decide +kernel⟩
theorem witness_replay : Owes heldPort = true ∧ heldPort.state = 5 ∧ heldPort.moved + oneUs ≤ ({ ported heldPort with time := 15000 } : State).time := by decide

/-- A remote load of 8 bytes at offset 8 of window 1, for device 0. -/
def loadPacket : Packet := { ptype := 0, dst := 0, src := 1, hops := 16, nelem := 0, resv := false, tag := 5, win := 1, dom := 0, spec := 0x10008, body := [] }
/-- A packet of another type and body. -/
def packetOf (ptype : BitVec 4) (spec : BitVec 28) (n : Nat) : Packet := { loadPacket with ptype := ptype, spec := spec, body := List.replicate n 0 }
/-- Window 1 is granted to domain 0 with every permission. -/
def granting (f : Fabric) : State :=
  { ported activePort with
    fab := { f with ports := [(0, activePort)] }
    ctl := { State.reset.ctl with grants := [(15, 0xF0)] } }

theorem witness_granted : Granted (grantOf (granting .reset) 1) 1 0 ∧ (grantOf (granting .reset) 1).getLsbD 62 = true ∧ (grantOf (granting .reset) 1).getLsbD 46 = false ∧
    GrantSays (granting .reset) 1 0 62 0 8 (grantKey (granting .reset) 1) none ∧ ¬Granted (grantOf (granting .reset) 2) 2 0 := by
  unfold GrantSays Granted; decide +kernel
theorem witness_arrivals : Mine (granting .reset) loadPacket 0 ∧ Mine (granting .reset) { packetOf 6 0 16 with win := 0 } 6 ∧ Mine (granting .reset) (packetOf 4 0 32) 4 ∧
    Mine (granting .reset) (packetOf 1 4 8) 1 ∧ Mine (granting .reset) (packetOf 7 0 16) 7 ∧ Behind (granting .reset) loadPacket = none ∧
    Behind (granting { Fabric.reset with waiting := [(0, packetOf 4 0x18 32)] }) loadPacket = some (0, packetOf 4 0x18 32) := by
  unfold Mine Behind; decide +kernel
/-- An aggregated store of one word, and an atomic. -/
theorem witness_elements : pkMalformed (packetOf 2 0 12) = false ∧ pkMalformed (packetOf 3 0 12) = false ∧ (packetOf 2 0 12).dst = (granting .reset).fab.id ∧
    (packetOf 2 0 12).ptype = 2 ∧ pkMalformed (packetOf 2 0 16) = true := by decide +kernel
theorem witness_tiles : pkParts (packetOf 4 0x18 32) = 4 ∧ pkParts (packetOf 4 0 32) = 1 ∧
    Assembling (granting { Fabric.reset with tiles := [{ io := 0, src := 1, tag := 5, parts := [], since := 0 }] }) (portDie 5) (packetOf 4 0x18 32)
      { io := 0, src := 1, tag := 5, parts := [], since := 0 } := by unfold Assembling; decide +kernel

/-- A packet in flight that result 4 of stream 0 waits for. -/
def flying (w : Flight) : InFlight := { tag := 5, team := 0x10000, dev := 1, win := 1, track := .inside, what := w, due := some 10, leaves := [] }
/-- It flies. -/
def flown (w : Flight) (aw : Await) (cycle : Nat) : State :=
  { solo (owing aw) 0 with cycle := cycle, fab := { (solo id 0).fab with flights := [flying w] } }
theorem witness_reply : Flying (flown (.load 0 4) (.reply 5 0x10000 8) 9) (fun f => isLoad f && decide (f.tag = 5) && !overdue (flown (.load 0 4) (.reply 5 0x10000 8) 9) f)
      (flying (.load 0 4)) ∧ Awaits (flown (.load 0 4) (.reply 5 0x10000 8) 9) 4 0 (result (.reply 5 0x10000 8)) := by
  unfold Flying Awaits; decide +kernel
theorem witness_reply_late : Flying (flown (.load 0 4) (.reply 5 0x10000 8) 10) (fun f => isLoad f && decide (f.tag = 5) && overdue (flown (.load 0 4) (.reply 5 0x10000 8) 10) f)
      (flying (.load 0 4)) ∧ Overdue (flown (.load 0 4) (.reply 5 0x10000 8) 10) (flying (.load 0 4)) :=
  ⟨by unfold Flying; decide +kernel, 10, rfl, by decide⟩
theorem witness_acknowledged : Flying (flown (.elements false []) .nothing 9) (fun f => isElements f && decide (f.tag = 5) && !overdue (flown (.elements false []) .nothing 9) f)
      (flying (.elements false [])) ∧
    Flying (flown (.inbox 0 0 4) (.append 5) 9) (fun f => isAppend f && decide (f.tag = 5) && !overdue (flown (.inbox 0 0 4) (.append 5) 9) f) (flying (.inbox 0 0 4)) := by
  unfold Flying; decide +kernel

/-- A group with one child on port 0, and a line that waits for it since cycle 0. -/
def casting (cycle : Nat) : State :=
  { granting { Fabric.reset with groups := [(0, { GroupEntry.reset with valid := true, child := 3 })]
                                 casts := [{ group := 0, tag := 5, src := 1, wait := [0, 1], entries := [], hops := 16, root := false, by_ := [(0, 10)] }] } with
    cycle := cycle }
theorem witness_multicast_line : (groupEntry (casting 0) 0).valid = true ∧ TakesCopy (casting 0) (packetOf 5 0 256) 0 ∧ pkMalformed (packetOf 5 0 256) = false ∧
    castOf (casting 0) 0 6 = none := by unfold TakesCopy; decide +kernel
theorem witness_child : ∃ c, Casting (casting 10) 0 5 c ∧ 0 ∈ c.wait ∧ ChildLate (casting 10) c 0 ∧ ¬ChildLate (casting 9) c 0 ∧ ∃ n ∈ c.wait, n ≠ 0 := by
  refine ⟨{ group := 0, tag := 5, src := 1, wait := [0, 1], entries := [], hops := 16, root := false, by_ := [(0, 10)] }, by unfold Casting; decide +kernel, by decide,
    ⟨10, by decide⟩, ?_, 1, by decide⟩
  rintro ⟨d, h, g⟩
  cases h
  exact absurd g (by decide)

/-! ### The host -/

/-- The physical function of port 0, and its first virtual function. -/
def pf : Caller := { port := 0, vf := 0 }
def vf1 : Caller := { port := 0, vf := 1 }

theorem witness_host : Physical hosted pf ∧ Recovering (recovering false) pf ∧ NoLink hosted { port := 1, vf := 0 } ∧
    Refused (withPkg { upPackage with stage := 2 }) pf ∧ Refused (recovering false) vf1 := by
  unfold Physical Recovering Refused NoLink; decide
theorem witness_registers : (writePf hosted pf 0x2008 0).isSome ∧ writePf hosted pf 0x0FF8 0 = none ∧ (readPf hosted pf 0x2008).isSome ∧ readPf hosted pf 0x0FF8 = none := by
  decide +kernel
theorem witness_bar4 : barReach hosted pf = localLimit ∧ ¬HostBad hosted 0 ∧ windowKey hosted 0 ≠ .dead := by
  unfold HostBad; decide +kernel

/-- Queue 0 stands at 0x300000 with a ring of 32 records; control word and head as given. -/
def queued (w1 w4 : Nat) : State :=
  { hosted with
    mem := memOf [(0x300000, 5 * 2 ^ 59 + 0x310000), (0x300008, w1), (0x300020, w4)], host := { hosted.host with qtbase := 0x300000 } }
def enabledWord : Nat := 2 ^ 63
def mappedWord : Nat := 2 ^ 63 + 2 ^ 62

theorem witness_queue_commands : OwnsQueue (queued 0 0) pf 0 ∧ mayQueue (queued 0 0) vf1 0 = false ∧ qInvalid (queued 0 0) 0 = false ∧ qInvalid hosted 0 = true ∧
    (viewQ (queued 0 enabledWord) 0).enable = true ∧ (viewQ (queued 0 mappedWord) 0).mapped = true ∧ (viewQ (queued 0 (2 ^ 60)) 0).err = true := by
  unfold OwnsQueue; decide +kernel

/-- A partition of queue 0, domain 0, key slot 0 and cluster 0. -/
def partWords : List Word := [0x8000000100000000, 0x10000, 0x10000, 0, 0, 1]
/-- It is active, in its clusters or in the vaults, with key slot 0 loaded. -/
def parted (vault : Bool) (w4 : Nat) : State :=
  { queued 0 w4 with
    host := { (queued 0 w4).host with parts := [(0, (partWords, vault))], keys := [(0, 5)] }
    sched := { State.reset.sched with vaults := if vault then [(0, { teams := [], groups := [], lanes := [], streams := [], regs := [], scratch := [], tiles := [], owners := [],
                                                                     clusters := [], harts := [], meets := [], moves := [], restore := [] })] else [] } }

theorem witness_partitions : partEntry (parted false 0) 0 = some partWords ∧ (partEntry (parted false 0) 1 = none ∧ entryBad (tableEntry (parted false 0) 1) = true) ∧
    (∃ i, i < (partWord partWords 0).toNat / 2 ^ 32 % 2 ^ 16 ∧ (viewQ (parted false enabledWord) ((partWord partWords 0).toNat % 2 ^ 16 + i)).enable = true) ∧
    (∀ i, i < (partWord partWords 0).toNat / 2 ^ 32 % 2 ^ 16 → (viewQ (parted false 0) ((partWord partWords 0).toNat % 2 ^ 16 + i)).enable = false) :=
  ⟨by decide +kernel, by decide +kernel, ⟨0, by decide +kernel⟩, by
    intro i h
    obtain rfl : i = 0 := by simpa [partWord, partWords, nth] using h
    decide +kernel⟩
/-- The table of partitions holds that entry. -/
def tabled : State :=
  { hosted with mem := memOf [(0x400000, 0x8000000100000000), (0x400008, 0x10000), (0x400010, 0x10000), (0x400020, 0x10000), (0x400028, 1)], host := { hosted.host with ptbase := 0x400000 } }
theorem witness_activation : partEntry tabled 0 = none ∧ entryBad (tableEntry tabled 0) = false ∧ entryMeets tabled (tableEntry tabled 0) = false := by decide +kernel
theorem witness_keys : mayKey (parted false 0) pf 0 = true ∧ mayKey (parted false 0) vf1 0 = false ∧ (find? (parted false 0).host.keys 0).isSome ∧ find? (parted false 0).host.keys 1 = none ∧
    keyBuffer (parted false 0) pf + 64 ≤ localLimit ∧ mayReport (parted false 0) pf 0 = true ∧ mayReport (parted false 0) vf1 0 = false := by decide +kernel
theorem witness_handles : handleAddr (handled id 1) 0 0 = some 0x70000 ∧ handleAddr (handled id 1) 0 1 = none ∧ (word (rawRead (handled id 1) 0x70000 8)).getLsbD 63 = true ∧
    requestBad hosted 0 = true := by decide +kernel
theorem witness_commands : hosted.work.any (worksFor pf 0x2000) = false ∧ vaultWaits hosted = false ∧
    vaultWaits { hosted with timers := [(1, .vaultRestore 0)] } = true ∧ ({ hosted with work := [.queueEnable pf 0] } : State).work.any (worksFor pf 0x2000) = true := by decide
theorem witness_checkpoint : ckInvalid hosted = false ∧ ckInvalid { hosted with poison := [0] } = true ∧
    PoisonedPage { hosted with poison := [0x100], host := { hosted.host with check := { hosted.host.check with busy := true, pages := [(0, 0x10000, .clear)] } } } 0 :=
  ⟨by decide +kernel, by decide +kernel, (0, 0x10000, .clear), by decide +kernel⟩

/-! ### Pools, domains and vaults -/

theorem witness_domains : DomainHere (paged leafWord) 0 ∧ PushMisaligned 0 ∧ PushMisaligned 0x10008 ∧ ¬PushMisaligned 0x10000 ∧
    (wordIn (paged leafWord) ((paged leafWord).sched.dtbase.toNat + 64)).getLsbD 63 = false := by
  unfold DomainHere PushMisaligned; decide +kernel
theorem witness_named : Named (solo id 0) 0x10000 bootTeam ∧ bootTeam.exempt = false ∧ bootTeam.pend = none ∧ ∀ tm, ¬Named State.reset 0x10000 tm := by
  unfold Named; refine ⟨by decide +kernel, rfl, rfl, ?_⟩
  intro tm h
  simp [State.reset, find?] at h
theorem witness_vault : InClusters (parted false 0) 0 partWords ∧ (∃ x, InVault (parted true 0) 0 partWords x ∧ x.harts = []) ∧ ShareCluster partWords partWords ∧
    (∀ f ∈ (parted false 0).host.parts, f.2.2 = true → ¬ShareCluster partWords f.2.1) :=
  ⟨by unfold InClusters; decide +kernel, ⟨_, ⟨by decide +kernel, rfl⟩, rfl⟩, ⟨0, by decide +kernel⟩, by
    intro f h g
    simp [parted] at h
    subst h
    cases g⟩

/-! ### Slots, dispatch and yields -/

/-- A slot of queue 0 with some records, since cycle 0. -/
def slotWith (l : List Rec) : QSlot := { queue := 0, recs := l, refill := 0, deficit := 1, quantum := 25000, busy := 0, head := 0, promoted := none, unfit := some 0, claim := none }
/-- A record that runs entry 0 of the first handle as one group of one lane. -/
def plainRec : Rec := { words := List.replicate 8 0, exempt := false, owner := some { domain := 0, cls := 0, home := 0, part := none, seq := 0 }, again := none, grid := none }
/-- Queue 0 is mapped into slot 0 of die 0 with some records; domain 0 has its tables and its first handle; the cluster runs. -/
def slotted (cycle : Nat) (l : List Rec) : State :=
  { hosted with
    cycle := cycle
    mem := memOf [(0, 2 ^ 63 + 0x20000), (0x20000, 0x30001), (0x30000, 0x40001), (0x40008, leafWord), (0x60000, 2 ^ 63 + 0x70000),
      (0x70000, 2 ^ 63 + 0x10000), (0x70008, 65536), (0x70010, 2 ^ 32 + 0x200), (0x50200, 0x40), (0x300000, 5 * 2 ^ 59 + 0x310000), (0x300020, mappedWord)]
    host := { hosted.host with qtbase := 0x300000, slots := [(0, slotWith l)] }
    ctl := { State.reset.ctl with ghtroot := 0x60000 } }
/-- The record stands in the deque of a cluster. -/
def decked (c : Nat) : State :=
  { slotted 0 [] with clusters := [(0, { Cluster.reset with released := true, deque := if c = 0 then [plainRec] else [] }),
      (1, { Cluster.reset with released := true, deque := if c = 1 then [plainRec] else [] })] }
/-- Queue 0 waits on die 0 with a continuation to take. -/
def waitingQueue : State :=
  { queued 1 enabledWord with host := { (queued 1 enabledWord).host with waits := [(0, [0])] } }

theorem witness_map : (∃ q, MapsNext waitingQueue 0 q) ∧ DescriptorHere waitingQueue 0 ∧ slotAt waitingQueue 0 0 = none ∧
    readRecs waitingQueue 0 2 5 (viewQ waitingQueue 0).spill (viewQ waitingQueue 0).spcnt 0 = some [] :=
  ⟨⟨0, 0, by decide, by decide +kernel, .inl ⟨by decide +kernel, fun d h => absurd h (by omega)⟩⟩, by unfold DescriptorHere; decide +kernel,
    by decide +kernel, by decide +kernel⟩
theorem witness_slots : slotAt (slotted 25000 []) 0 0 = some (slotWith []) ∧ (slotWith []).busy + 25000 ≤ (slotted 25000 []).cycle ∧
    (slotWith []).quantum ≤ (slotted 25000 []).cycle ∧ firstWaiting (slotted 25000 []) 0 0 = none ∧ slotAt (slotted 24999 []) 0 0 ≠ none := by decide +kernel
theorem witness_refill : slotAt (slotted 0 []) 0 0 = some { slotWith [] with refill := 0 } ∧
    readRecs (slotted 0 []) 0 0 (viewQ (slotted 0 []) 0).logsize (viewQ (slotted 0 []) 0).rbase 0 (viewQ (slotted 0 []) 0).head = some [] := by decide +kernel

/-- A record that an ENQ of stream 0 sends. -/
def arriving (o : Origin) : Arrival := { queue := 0, tag := 0, words := List.replicate 8 0, origin := o, exempt := false }
/-- The ENQ waits; queue 0 stands with its head, tail and control word. -/
def enqueuing (w1 w4 : Nat) : State :=
  { solo (owing .arrival) 0 with mem := (queued w1 w4).mem, host := { (queued w1 w4).host with slots := [(0, slotWith [])] } }
theorem witness_arrival : findPend (enqueuing 0 mappedWord) 4 = some (0, result .arrival) ∧ (viewQ (enqueuing 0 mappedWord) 0).enable = true ∧
    (viewQ (enqueuing 0 mappedWord) 0).hfed = false ∧ slotAt (enqueuing 0 mappedWord) 0 0 = some (slotWith []) ∧
    2 ^ (viewQ (enqueuing 32 enabledWord) 0).logsize ≤ between (viewQ (enqueuing 32 enabledWord) 0).head (viewQ (enqueuing 32 enabledWord) 0).tail ∧
    (viewQ (enqueuing 0 0) 0).enable = false := by decide +kernel
theorem witness_back : (arriving (.back 0x100000)).origin = .back 0x100000 ∧ find? (enqueuing 0 0).sched.images 0x100000 = none ∧
    bitsW (nth 0 (arriving (.back 0x100000)).words 2) 54 0 = 0 ∧ (viewQ (queued 0 0) 0).tag = (arriving .join).tag := by decide +kernel

theorem witness_candidate : Candidate (slotted 0 [plainRec]) 0 0 (slotWith [plainRec]) ∧ PlainHead (slotted 0 [plainRec]) (slotWith [plainRec]) plainRec [] ∧
    NextTeam (slotted 0 [plainRec]) 0 0 ∧ launchCheck (slotted 0 [plainRec]) 0 plainRec.words = none ∧ engineGrids (slotted 0 [plainRec]) 0 = [] ∧
    (placeShape (slotted 0 [plainRec]) 0 plainRec.words).regs.length = recGroups plainRec.words * (placeShape (slotted 0 [plainRec]) 0 plainRec.words).w :=
  ⟨by unfold Candidate; decide +kernel, by unfold PlainHead; decide +kernel, ⟨by decide, by decide, by decide, by decide, fun k h g => by omega⟩, by decide +kernel,
    by decide +kernel, by decide +kernel⟩
theorem witness_launch_fails : launchCheck hosted 0 plainRec.words = some 0x01 := by decide +kernel
theorem witness_placed : ∃ pl, choosePlace (slotted 0 [plainRec]) (slotFits (slotted 0 [plainRec]) 0 (slotWith [plainRec]) plainRec) = some (0, pl) ∧
    fitIn (usageOf (slotted 0 [plainRec]) 0 []) (placeShape (slotted 0 [plainRec]) 0 plainRec.words) = some pl :=
  ⟨{ pos := [0], bases := [0], spare := [], sc := 0 }, by decide +kernel⟩
theorem witness_rotation : Rotates 0 [0] [0] 0 (slotted 0 [plainRec]) 0 (slotted 0 [plainRec]) 0 := .stop _ _ (slotWith [plainRec]) (by decide) (by decide +kernel) (by decide)
/-- A decision of engine 0 places the head record on cluster 0 (R115, R118). -/
theorem test_dispatch : (match exec (.dispatchDecision 0) (slotted 0 [plainRec]) with
    | .next t => some ((find? t.teams 0).map (fun tm => (tm.ident, tm.cluster)), (find? t.lanes 0).map Lane.alloc, (slotAt t 0 0).map QSlot.recs) | _ => none) =
      some (some (0x10000, 0), some 32, some []) := by decide +kernel
theorem witness_claim : ∃ l, bestClaim (slotted 2500 [plainRec]) 0 (placeShape (slotted 2500 [plainRec]) 0 plainRec.words) [0] = some (0, l) ∧
    claimCost (slotted 2500 [plainRec]) 0 0 (placeShape (slotted 2500 [plainRec]) 0 plainRec.words) = some l ∧
    (slotted 2500 [plainRec]).sched.claim.toNat * 1250 = 2500 := ⟨[], by decide +kernel⟩
theorem witness_deque : (clusterAt (decked 0) 0).deque = [plainRec] ∧ (deckFits (decked 0) 0 plainRec).isSome ∧ ¬MaySteal (decked 0) 0 ∧ MaySteal (decked 1) 0 ∧
    stealVictim (decked 1) 0 = some 1 := by
  unfold MaySteal; decide +kernel
/-- A grid of one team whose only node has heard of its end. -/
def doneGrid : Grid :=
  { recd := plainRec, die := 0, n := 1, next := 1, order := [0], nodes := [(0, { Node.reset with sent := 1, ended := 1 })], dseq := 0, domain := 0, cls := 0, home := 0
    part := none, engine := false }
theorem witness_node : NodeReady doneGrid 0 ∧ nodeIndex doneGrid 0 = 0 ∧ ¬NodeReady { doneGrid with nodes := [] } 0 := by unfold NodeReady; decide +kernel

/-- The team's yield is pending with cause 3, its one group parked at a CPT. -/
def graced (u : Nat) : Grace := { cause := 3, nocan := true, units := u, until_ := 100 }
def yieldingTeam (u : Nat) (x : Option Stopped) : Team := { bootTeam with pend := some (graced u), stopped := x }
def yielding (u cycle : Nat) (p : Option Park) (x : Option Stopped) : State :=
  { solo (fun st => { st with park := p }) 0 with cycle := cycle, teams := [(0, yieldingTeam u x)] }

theorem witness_yield_starts : SaveStarts (yielding 1 0 (some .cpt) none) 0 (yieldingTeam 1 none) (graced 1) ∧ SaveStarts (yielding 0 0 none none) 0 (yieldingTeam 0 none) (graced 0) ∧
    SaveStarts (yielding 1 100 none none) 0 (yieldingTeam 1 none) (graced 1) := by
  refine ⟨⟨rfl, rfl, rfl, rfl, by decide +kernel, rfl, .inl ?_⟩, ⟨rfl, rfl, rfl, rfl, by decide +kernel, rfl, .inr (.inl rfl)⟩,
    ⟨rfl, rfl, rfl, rfl, by decide +kernel, rfl, .inr (.inr (by decide))⟩⟩
  intro e he _ _
  obtain rfl : e = _ := by simpa [yielding, solo] using he
  exact ⟨.inl rfl, by decide +kernel⟩
theorem witness_yield_waits : (yielding 1 99 none none).cycle < (graced 1).until_ ∧ (graced 1).units ≠ 0 := by decide
/-- What the yield noted. -/
def noted : Stopped := { ib := 5, tb := 5, addIb := 0, addTb := 0, clean := true }
theorem witness_yield_saves : HasStopped (yielding 1 0 (some .cpt) (some noted)) 0 (yieldingTeam 1 (some noted)) (graced 1) noted ∧
    LanesInOrder (yielding 1 0 (some .cpt) (some noted)) 0 := by
  refine ⟨⟨rfl, rfl, rfl⟩, ?_⟩
  unfold LanesInOrder
  decide +kernel

theorem witness_background : (walk (paged leafWord) 0 0x10000).toOption.isSome ∧ (walk State.reset 0 0).toOption = none ∧ State.reset.ctl.scrubEn = true ∧
    (bootStream 0).park ≠ some .roleQueue ∧ (solo (fun st => { st with park := some .roleQueue }) 0).streams = [(0, { bootStream 0 with park := some .roleQueue })] := by decide +kernel
/-- A kick of the team waits at hart 0 with its block at offset 0 of the scratchpad. -/
def kicked : State := { handled id 0 with teams := [(0, { bootTeam with geode := handlerGeode })], harts := [(0, { Hart.reset with fifo := [{ team := 0x10000, block := 0, domain := 0, cluster := 0 }] })] }
theorem witness_kick : (look .reset kicked.harts 0).run = none ∧ Named kicked 0x10000 { bootTeam with geode := handlerGeode } ∧
    scratchBad kicked { bootTeam with geode := handlerGeode } 0 64 = false ∧ entryPc kicked handlerGeode 0 = some 0x10040 ∧ 32 ≤ ownBytes { bootTeam with geode := handlerGeode } := by
  unfold Named; decide +kernel
/-- R62: 125 times 16 ns at 1.25 GHz, and the bounds of the limit. -/
theorem test_age : ageCycles State.reset 0 = 2500 ∧ ageCycles State.reset 1 = 80 ∧ ageCycles State.reset 4095 = 80000 := by decide +kernel

/-! ### Well-formed instructions -/

theorem test_destination : wellFormed (.add false .ib (.x 1) (.x 2)) = false ∧ wellFormed (.add false .zr (.x 1) (.x 2)) = true := by decide +kernel
theorem test_queue_destination : wellFormed (.divS false (.q 0) (.x 1) (.x 2)) = false ∧ wellFormed (.add false (.q 0) (.x 1) (.x 2)) = true := by decide +kernel
theorem test_register_run : wellFormed (.enq false (.x 1) .zr (.x 95)) = false ∧ wellFormed (.enq false (.x 1) .zr (.x 88)) = true := by decide +kernel
theorem test_live_count : wellFormed (.cpt false 97 0) = false ∧ wellFormed (.cpt false 96 0) = true := by decide +kernel
theorem test_conversion : wellFormed (.fcvt false (.x 1) (.x 2) 0x30 0) = false ∧ wellFormed (.fcvt false (.x 1) (.x 2) 0x2F 7) = false ∧
    wellFormed (.fcvt false (.x 1) (.x 2) 0x2F 4) = true := by decide +kernel
theorem test_special : wellFormed (.srd false (.x 1) 0x006) = false ∧ wellFormed (.srd false (.x 1) 0x000) = true := by decide +kernel

/-! ### Words of the manual's examples (10_encoding, 12 to 15) -/

/-- A word is read as an instruction. -/
noncomputable def reads (w : Nat) (i : Instr) : Bool := match decode w with | .ok j => decide (j = i) | .error _ => false

theorem test_words_integer : reads 0x010793C0 (.add false (.x 3) (.k 4) .zr) ∧ reads 0x0F07FFFB (.li false (.x 3) 0x1FFFB) ∧ reads 0x09060FFF (.addi false (.x 3) (.x 3) 0x3FF) ∧
    reads 0x0D0C1C03 (.shli false (.x 6) (.x 7) 3) ∧ reads 0x0E0C1D7D (.cmpiLtS false (.x 6) (.x 7) 0x7D) ∧ reads 0x100B159E (.lix false (.x 5) 0x1159E) := by decide +kernel
theorem test_words_float : reads 0x21142C60 (.fmaS false (.x 10) (.x 11) (.x 12)) ∧ reads 0x26081460 (.fcvt false (.x 4) (.x 5) 0x0C 0) := by decide +kernel
theorem test_words_control : reads 0x38060003 (.loop false (.x 3) 3) ∧ reads 0x39000000 (.endloop false) ∧ reads 0x300BFFFD (.bnz false (.x 5) 0x1FFFD) ∧
    reads 0x33000010 (.call false 0x10) ∧ reads 0x34000400 (.jr false (.x 1)) ∧ reads 0x34021801 (.jalr false (.x 1) (.x 6)) ∧ reads 0x3A000002 (.idem false) ∧
    reads 0x3B061002 (.fuse false (.x 3) (.x 4) 2) ∧ reads 0x3C060000 (.split false (.x 3)) ∧ reads 0x3C062001 (.rejoin false (.x 3) (.x 8)) ∧ reads 0x3D000008 (.wbase false 8) := by
  decide +kernel
theorem test_words_lanes : reads 0x3E102049 (.shflXor false (.x 8) (.x 8) (.x 9)) ∧ reads 0x3E0817C6 (.voteBal false (.x 4) (.x 5)) ∧ reads 0x3F1027C0 (.gredAdd false (.x 8) (.x 9)) := by
  decide +kernel
theorem test_words_memory : reads 0x440613FF (.ldWS false (.x 3) (.x 4) 0x3FF) ∧ reads 0xC6180802 (.ldD true (.x 12) (.x 2) 2) ∧ reads 0x490A1802 (.stW false (.x 5) (.x 6) 2) ∧
    reads 0x4A099400 (.stD false (.x 4) (.k 5) 0) ∧ reads 0x4B122858 (.ldDX false (.x 9) (.x 10) (.x 11)) ∧ reads 0x4B0A181C (.ldDAcq false (.x 5) (.x 6) .device) ∧
    reads 0x4B0E2025 (.stDRel false (.x 7) (.x 8) .fabric) ∧ reads 0x4D102408 (.sldD false (.x 8) (.x 9) 8) ∧ reads 0x5018341A (.lds4k false (.x 12) (.x 13) 3) := by decide +kernel
theorem test_words_order : reads 0x51061028 (.amoAddD false (.x 3) (.x 4) (.x 5)) ∧ reads 0x53061029 (.casW false (.x 3) (.x 4) (.x 5)) ∧ reads 0x540C1C00 (.lrw false (.x 6) (.x 7)) ∧
    reads 0x540C1C41 (.sch false (.x 6) (.x 7) (.x 8)) ∧ reads 0x54001C02 (.relr false (.x 7)) ∧ reads 0x550A183B (.waita false (.x 5) (.x 6) (.x 7) 3) ∧
    reads 0x56000C03 (.fenceSc false .device) ∧ reads 0x56001001 (.fenceRel false .fabric) ∧ reads 0x57000848 (.barinit false 2 (.x 9)) ∧ reads 0x57080803 (.bartry false (.x 4) 2) ∧
    reads 0x58001401 (.cwb false (.x 5)) ∧ reads 0x58000004 (.isync false) := by decide +kernel
theorem test_words_remote : reads 0x60001029 (.rstD false (.x 4) (.x 5)) ∧ reads 0x61001029 (.ramoAddD false (.x 4) (.x 5)) ∧ reads 0x620C1001 (.rldD false (.x 6) (.x 4)) ∧
    reads 0x63001000 (.rflushOne false (.x 4)) ∧ reads 0x64002048 (.mcst false (.x 8) (.x 9)) ∧ reads 0x65080C2A (.cpySg false (.x 4) (.x 3) (.x 5)) := by decide +kernel
theorem test_words_tasks : reads 0x68122880 (.enq false (.x 9) (.x 10) (.x 16)) ∧ reads 0x69120080 (.spawnLocal false (.x 9) (.x 16)) ∧ reads 0x6A000000 (.endOp false) ∧
    reads 0x6B200003 (.cpt false 16 3) ∧ reads 0x6C001801 (.yieldIf false (.x 6)) ∧ reads 0x6D061028 (.btopIb false (.x 3) (.x 4) (.x 5)) ∧
    reads 0x6E3C7D41 (.msgapp false (.x 30) (.x 31) (.x 40) 1) ∧ reads 0x6F2854B3 (.msgrecv false (.x 20) (.x 21) (.x 22) 3) := by decide +kernel
theorem test_words_system : reads 0x7800002A (.trap false 42) ∧ reads 0x79000000 (.rett false) ∧ reads 0x7A0E0023 (.srd false (.x 7) 0x023) ∧ reads 0x7B0A0043 (.swr false (.x 5) 0x043) ∧
    reads 0x7C001028 (.tlbiAddr false (.x 4) (.x 5)) := by decide +kernel
theorem test_words_matrix : reads 0x70001C02 (.fmt false (.x 7) 2) ∧ reads 0x71001430 (.lut4 false (.x 5) (.x 6)) ∧ reads 0x72060000 (.tzero false 3) ∧
    reads 0x72061431 (.trd false 3 (.x 5) (.x 6)) ∧ reads 0x72061432 (.twr false 3 (.x 5) (.x 6)) ∧ reads 0x72061433 (.tcvt false 3 (.x 5) (.x 6)) ∧
    reads 0x73002860 (.tmmaNn false 0 (.x 10) (.x 12)) ∧ reads 0x73022864 (.tmmaSp false 1 (.x 10) (.x 12)) ∧ reads 0x74042049 (.tstBf16 false 2 (.x 8) (.x 9)) ∧
    reads 0x75002048 (.tstaF32 false 0 (.x 8) (.x 9)) := by decide +kernel
/-- GRED.ADD with b = 0 and FENCE with a = 5 are no instructions (R285, R342). -/
theorem test_words_illegal : (decode 0x3F102400).toOption = none ∧ (decode 0x56001401).toOption = none := by decide +kernel

end Sys2Proof.Tests
end

section
/-!
SUPPORT. Unions of flags, and elements of a list by their place.
-/

namespace Sys2Proof.Machine

open Sys2Proof

theorem flagsAll_append (l r : List Nat) : flagsAll (l ++ r) = flagsAll l ||| flagsAll r := by
  have fold : ∀ (r : List Nat) (n : Nat), r.foldl flagsOr n = n ||| r.foldl flagsOr 0 := by
    intro r
    induction r with
    | nil => intro n; simp
    | cons x r ih =>
      intro n
      rw [List.foldl_cons, List.foldl_cons, ih (flagsOr n x), ih (flagsOr 0 x)]
      simp [flagsOr, Nat.or_assoc]
  unfold flagsAll
  rw [List.foldl_append, fold]

theorem flagsAll_cons (x : Nat) (r : List Nat) : flagsAll (x :: r) = x ||| flagsAll r := by
  simpa [flagsAll, flagsOr] using flagsAll_append [x] r

theorem flagsAll_range_succ (g : Nat → Nat) (n : Nat) :
    flagsAll ((List.range (n + 1)).map g) = flagsAll ((List.range n).map g) ||| g n := by
  rw [List.range_succ, List.map_append, flagsAll_append]
  simp [flagsAll, flagsOr]

/-- Flags of neighbours taken in pairs, and those of the additions that join them, make one union. -/
theorem flagsAll_pairs (g z : Nat → Nat) (n : Nat) :
    flagsAll ((List.range (2 * n)).map g) ||| flagsAll ((List.range n).map z) =
      flagsAll ((List.range n).map (fun i => g (2 * i) ||| g (2 * i + 1) ||| z i)) := by
  induction n with
  | zero => simp [flagsAll]
  | succ n ih =>
    rw [show 2 * (n + 1) = 2 * n + 1 + 1 by ring, flagsAll_range_succ, flagsAll_range_succ, flagsAll_range_succ, flagsAll_range_succ,
      ← ih]
    ac_rfl

theorem nth_eq_getD {α : Type} (d : α) : ∀ (l : List α) (i : Nat), nth d l i = l.getD i d
  | [], _ => rfl
  | _ :: _, 0 => rfl
  | _ :: r, i + 1 => by simpa [nth] using nth_eq_getD d r i

theorem nth_range_map {α : Type} (d : α) (f : Nat → α) {n i : Nat} (h : i < n) : nth d ((List.range n).map f) i = f i := by
  simp [nth_eq_getD, List.getD_eq_getElem?_getD, h]

theorem nth_default_or_mem {α : Type} (d : α) (l : List α) (i : Nat) : nth d l i = d ∨ nth d l i ∈ l := by
  rw [nth_eq_getD, List.getD_eq_getElem?_getD]
  rcases h : l[i]? with _ | x
  · exact .inl rfl
  · exact .inr (List.mem_of_getElem? h)

end Sys2Proof.Machine
end

section
/-!
SUPPORT. GRED.FADD.S adds along the fixed tree of R393.
-/

namespace Sys2Proof.Machine

open Sys2Proof

/-- The mode in force is one of the five direct modes (R372). -/
theorem roundingIn_direct (st : Stream) (k : Nat) : roundingIn st ≠ .sr k := by
  unfold roundingIn roundingOf
  split <;> simp

/-- Neighbours of the tree joined: the partial value. -/
def pairValue (rnd : Rounding) : Option Nat → Option Nat → Option Nat
  | some x, some y => some (addV fp32 rnd (decodeF fp32 x) (decodeF fp32 y)).1
  | some x, none => some x
  | none, y => y

/-- Neighbours of the tree joined: the flags of the addition, if one is made. -/
def pairFlags (rnd : Rounding) : Option Nat → Option Nat → Nat
  | some x, some y => (addV fp32 rnd (decodeF fp32 x) (decodeF fp32 y)).2
  | _, _ => 0

theorem pairValue_isSome (rnd : Rounding) (x y : Option Nat) (h : x.isSome = true ∨ y.isSome = true) :
    (pairValue rnd x y).isSome = true := by
  cases x with
  | none => simpa [pairValue] using h
  | some x => cases y <;> rfl

/-- Two nodes of the tree joined, with the flags raised below. -/
def pairJoin (rnd : Rounding) (p q : Option Nat × Nat) : Option Nat × Nat :=
  (pairValue rnd p.1 q.1, p.2 ||| q.2 ||| pairFlags rnd p.1 q.1)

/-- The partial value and flags of the `2 ^ j` lanes from `l` on. -/
def treeAt (rnd : Rounding) (vs : List Vals) : Nat → Nat → Option Nat × Nat
  | 0, l => ((activeA vs l).map lo32, 0)
  | j + 1, l => pairJoin rnd (treeAt rnd vs j l) (treeAt rnd vs j (l + 2 ^ j))

theorem treeAt_succ (rnd : Rounding) (vs : List Vals) (j l : Nat) :
    treeAt rnd vs (j + 1) l = pairJoin rnd (treeAt rnd vs j l) (treeAt rnd vs j (l + 2 ^ j)) := rfl

theorem treeIs_treeAt {rnd : Rounding} (direct : ∀ k, rnd ≠ .sr k) (vs : List Vals) :
    ∀ j l, TreeIs rnd vs j l (treeAt rnd vs j l)
  | 0, _ => rfl
  | j + 1, l => by
    have hp := treeIs_treeAt direct vs j l
    have hq := treeIs_treeAt direct vs j (l + 2 ^ j)
    rw [treeAt_succ]
    generalize treeAt rnd vs j l = p at hp ⊢
    generalize treeAt rnd vs j (l + 2 ^ j) = q at hq ⊢
    refine ⟨p, q, hp, hq, ?_⟩
    obtain ⟨x, f⟩ := p
    obtain ⟨y, g⟩ := q
    cases x with
    | none => simp [pairJoin, pairValue, pairFlags]
    | some x =>
      cases y with
      | none => simp [pairJoin, pairValue, pairFlags]
      | some y => exact ⟨_, addV_spec fp32 fp32_ok rnd direct _ _, rfl⟩

/-- An active lane among those below a node gives the node a value. -/
theorem treeAt_isSome (rnd : Rounding) (vs : List Vals) {m : Nat} (hm : (activeA vs m).isSome = true) :
    ∀ j l, l ≤ m → m < l + 2 ^ j → (treeAt rnd vs j l).1.isSome = true
  | 0, l, lo, hi => by
    obtain rfl : l = m := by omega
    simpa [treeAt] using hm
  | j + 1, l, lo, hi => by
    refine pairValue_isSome rnd _ _ ?_
    rcases Nat.lt_or_ge m (l + 2 ^ j) with h | h
    · exact .inl (treeAt_isSome rnd vs hm j l lo h)
    · exact .inr (treeAt_isSome rnd vs hm j (l + 2 ^ j) h (by omega))

/-- A level of the model's tree joins neighbours. -/
theorem treeLevel_pairs (rnd : Rounding) (V : Nat → Option Nat) (F n : Nat) :
    treeLevel rnd ((List.range (2 * n)).map V, F) = ((List.range n).map (fun i => pairValue rnd (V (2 * i)) (V (2 * i + 1))),
      F ||| flagsAll ((List.range n).map (fun i => pairFlags rnd (V (2 * i)) (V (2 * i + 1))))) := by
  have half : 2 * n / 2 = n := by omega
  unfold treeLevel
  simp only [List.length_map, List.length_range, half]
  suffices ∀ m, m ≤ n → (List.range m).foldl _ ([], F) = ((List.range m).map (fun i => pairValue rnd (V (2 * i)) (V (2 * i + 1))),
      F ||| flagsAll ((List.range m).map (fun i => pairFlags rnd (V (2 * i)) (V (2 * i + 1))))) from this n le_rfl
  intro m hm
  induction m with
  | zero => simp [flagsAll]
  | succ m ih =>
    rw [flagsAll_range_succ, List.range_succ, List.foldl_append, ih (by omega), List.map_append, List.foldl_cons, List.foldl_nil,
      List.map_singleton, nth_range_map _ _ (by omega), nth_range_map _ _ (by omega)]
    rcases V (2 * m) with _ | x
    · simp [pairValue, pairFlags]
    · rcases V (2 * m + 1) with _ | y <;> simp [pairValue, pairFlags, flagsOr, Nat.or_assoc]

/-- The nodes of a level from lane 0 on, and the union of their flags. -/
def treeRow (rnd : Rounding) (vs : List Vals) (j n : Nat) : List (Option Nat) × Nat :=
  ((List.range n).map (fun i => (treeAt rnd vs j (2 ^ j * i)).1), flagsAll ((List.range n).map (fun i => (treeAt rnd vs j (2 ^ j * i)).2)))

theorem treeLevel_treeRow (rnd : Rounding) (vs : List Vals) (j n : Nat) :
    treeLevel rnd (treeRow rnd vs j (2 * n)) = treeRow rnd vs (j + 1) n := by
  have node : ∀ i, treeAt rnd vs (j + 1) (2 ^ (j + 1) * i) =
      pairJoin rnd (treeAt rnd vs j (2 ^ j * (2 * i))) (treeAt rnd vs j (2 ^ j * (2 * i + 1))) := by
    intro i
    rw [treeAt_succ, show 2 ^ (j + 1) * i = 2 ^ j * (2 * i) by ring, show 2 ^ j * (2 * i) + 2 ^ j = 2 ^ j * (2 * i + 1) by ring]
  unfold treeRow
  rw [treeLevel_pairs, flagsAll_pairs]
  simp only [node, pairJoin]

/-- The model's sum and flags are those of the tree's root. -/
theorem treeSum_eq (rnd : Rounding) (vs : List Vals) :
    treeSum rnd vs = ((treeAt rnd vs 4 0).1.getD 0, (treeAt rnd vs 4 0).2) := by
  have start : ((List.range 16).map (fun (l : Nat) => (laneA vs (l : Int)).map lo32), 0) = treeRow rnd vs 0 16 := by
    simp only [treeRow, treeAt, pow_zero, Nat.one_mul, Prod.mk.injEq]
    exact ⟨rfl, rfl⟩
  have root : treeRow rnd vs 4 1 = ([(treeAt rnd vs 4 0).1], (treeAt rnd vs 4 0).2) := by
    simp [treeRow, flagsAll, flagsOr]
  unfold treeSum
  dsimp only
  rw [start, treeLevel_treeRow rnd vs 0 8, treeLevel_treeRow rnd vs 1 4, treeLevel_treeRow rnd vs 2 2, treeLevel_treeRow rnd vs 3 1, root]
  rcases (treeAt rnd vs 4 0).1 with _ | x <;> rfl

/-- Operand A of an active lane is found under its index. -/
theorem activeA_isSome {s : State} {c : Ctx} {i : Instr} {e : Nat × Nat} (he : e ∈ c.lanes) :
    (activeA (c.lanes.map (valsOf s c i)) e.1).isSome = true := by
  unfold activeA
  rw [Option.isSome_map, List.find?_isSome]
  exact ⟨_, List.mem_map_of_mem he, by simp [valsOf, laneVals_ln]⟩

theorem reductionTreeHold : ReductionTreeHold := by
  intro s c sw d a h
  set vs := c.lanes.map (valsOf s c (.gredFaddS sw d a)) with hvs
  set r := treeAt (roundingIn c.st) vs 4 0 with hr
  obtain ⟨t, step, only, out, flags⟩ := issueFpLanes_spec (sw := sw) (d := d) (g := fun _ => word (treeSum (roundingIn c.st) vs).1)
    (vals := fun st vs => everyone (word (treeSum (roundingIn st) vs).1) vs) (flags := fun st vs => (treeSum (roundingIn st) vs).2)
    h rfl rfl rfl (fun x y e => by simp only [roundingIn, e, and_self]) (map_results s c _ _)
  have sum := treeSum_eq (roundingIn c.st) vs
  rw [← hr] at sum
  simp only [← hvs, sum] at out flags
  refine ⟨t, r, step, only, treeIs_treeAt (roundingIn_direct c.st) vs 4 0, fun e he => ?_, flags⟩
  obtain ⟨x, hx⟩ := Option.isSome_iff_exists.1
    (treeAt_isSome (roundingIn c.st) vs (activeA_isSome he) 4 0 (Nat.zero_le _) (by simpa using lanesIn_lt he))
  refine ⟨x, hx, ?_⟩
  have := out e he
  rwa [hr, hx] at this

end Sys2Proof.Machine
end

section
/-!
SUPPORT. FCVT under SR (R386, R421): elements of a conversion, the generator's steps, and the lanes whose generators move.
-/

namespace Sys2Proof.Machine

open Sys2Proof

/-! ### Elements -/

theorem joinElements_lt (w : Nat) : ∀ l : List Nat, joinElements w l < 2 ^ (w * l.length)
  | [] => by simp [joinElements]
  | v :: r => by
    have low : v % 2 ^ w < 2 ^ w := Nat.mod_lt _ (by positivity)
    have high : joinElements w r + 1 ≤ 2 ^ (w * r.length) := joinElements_lt w r
    calc v % 2 ^ w + 2 ^ w * joinElements w r < 2 ^ w * (joinElements w r + 1) := by rw [Nat.mul_add]; omega
      _ ≤ 2 ^ w * 2 ^ (w * r.length) := Nat.mul_le_mul_left _ high
      _ = 2 ^ (w * (v :: r).length) := by rw [← Nat.pow_add, List.length_cons]; ring_nf

theorem joinElements_field (w : Nat) : ∀ (l : List Nat) (i : Nat) (h : i < l.length),
    joinElements w l / 2 ^ (w * i) % 2 ^ w = l[i] % 2 ^ w
  | v :: r, 0, _ => by simp [joinElements, Nat.add_mul_mod_self_left]
  | v :: r, i + 1, h => by
    have low : v % 2 ^ w < 2 ^ w := Nat.mod_lt _ (by positivity)
    rw [show w * (i + 1) = w + w * i by ring, Nat.pow_add, ← Nat.div_div_eq_div_mul, joinElements,
      Nat.add_mul_div_left _ _ (by positivity), Nat.div_eq_of_lt low, Nat.zero_add]
    exact joinElements_field w r i (by simpa using h)

/-- The bits of element `i` that carry the value. -/
theorem element_used (v : Word) {w u i : Nat} (hw : 0 < w) (hu : u ≤ w) :
    bitsN v.toNat (w * i + w - 1) (w * i) % 2 ^ u = v.toNat / 2 ^ (w * i) % 2 ^ u := by
  unfold bitsN
  rw [show w * i + w - 1 + 1 - w * i = w by omega, Nat.mod_mod_of_dvd _ (Nat.pow_dvd_pow 2 hu)]

/-! ### The generator -/

theorem generated_xorshift (seed : Nat) : ∀ n, generated (xorshift seed) n = generated seed (n + 1)
  | 0 => rfl
  | n + 1 => congrArg xorshift (generated_xorshift seed n)

/-- Element `x` at place `i` converted under SR. -/
def stochasticOne (k : Conversion) (seed i x : Nat) : Nat × Nat :=
  convertOne k.target k.source (.sr (generated seed (i + 1))) (x % 2 ^ k.source.used)

/-- Under SR each element takes the generator's next number. -/
theorem convertAll_stochastic (k : Conversion) (st : Stream) (n : Nat) : ∀ (seed : Nat) (x : Nat → Nat),
    convertAll k 6 st seed ((List.range n).map x) = ((List.range n).map (fun i => (stochasticOne k seed i (x i)).1),
      flagsAll ((List.range n).map (fun i => (stochasticOne k seed i (x i)).2)), generated seed n) := by
  induction n with
  | zero => intro seed x; rfl
  | succ n ih =>
    intro seed x
    have next : ∀ i, stochasticOne k (xorshift seed) i (x (i + 1)) = stochasticOne k seed (i + 1) (x (i + 1)) := by
      intro i; rw [stochasticOne, generated_xorshift]; rfl
    have tail := ih (xorshift seed) (fun i => x (i + 1))
    simp only [next, generated_xorshift] at tail
    rw [List.range_succ_eq_map, List.map_cons, List.map_cons, List.map_cons, List.map_map, List.map_map, List.map_map, flagsAll_cons]
    simp only [convertAll, if_true, Function.comp_def, tail]
    rfl

/-! ### Results -/

/-- What FCVT's conversions have in common (R421). -/
theorem conversion_shape {n : Nat} {k : Conversion} (h : conversion n = some k) :
    0 < k.source.width ∧ k.source.used ≤ k.source.width ∧ (∀ sg, k.target = .int sg 32 → k.count = 1) := by
  have codes : ∀ n, n < 0x30 → ∀ k ∈ conversion n,
      0 < k.source.width ∧ k.source.used ≤ k.source.width ∧ (∀ sg, k.target = .int sg 32 → k.count = 1) := by decide
  by_cases hn : n < 0x30
  · exact codes n hn k h
  · simp [conversion, show ¬n < 0x10 by omega, show ¬n < 0x18 by omega, show ¬n < 0x20 by omega, show ¬n < 0x2C by omega, hn] at h

theorem extW_ofNat {n : Nat} (h : n < 2 ^ 32) :
    extW (BitVec.ofNat 32 n) = word (if n.testBit 31 then n + (2 ^ 64 - 2 ^ 32) else n) := by
  apply BitVec.eq_of_toNat_eq
  have msb : (BitVec.ofNat 32 n).msb = n.testBit 31 := by
    rw [BitVec.msb_eq_getLsbD_last, BitVec.getLsbD_ofNat]; simp
  rw [extW, BitVec.toNat_signExtend, msb, word, BitVec.toNat_setWidth, BitVec.toNat_ofNat, BitVec.toNat_ofNat]
  split <;> omega

theorem extended_int32 (sg : Bool) (n : Nat) :
    extended (.int sg 32) n = if n.testBit 31 then n + (2 ^ 64 - 2 ^ 32) else n := rfl

theorem extended_other {t : ConvKind} (h : ∀ sg, t ≠ .int sg 32) (n : Nat) : extended t n = n := by
  unfold extended
  split
  · exact absurd rfl (h _)
  · rfl

theorem convertedWord_int32 {k : Conversion} {sg : Bool} (h : k.target = .int sg 32) (rs : List Nat) :
    convertedWord k rs = extW (BitVec.ofNat 32 (joinElements 32 rs)) := by
  unfold convertedWord
  rw [h]
  rfl

theorem convertedWord_other {k : Conversion} (h : ∀ sg, k.target ≠ .int sg 32) (rs : List Nat) :
    convertedWord k rs = word (joinElements k.target.width rs) := by
  unfold convertedWord
  split
  · exact absurd ‹_› (h _)
  · rfl

/-- The result word: a 32-bit integer is extended from bit 31 (R421). -/
theorem convertedWord_eq {k : Conversion} {rs : List Nat} (h : ∀ sg, k.target = .int sg 32 → rs.length = 1) :
    convertedWord k rs = word (extended k.target (joinElements k.target.width rs)) := by
  by_cases narrow : ∃ sg, k.target = .int sg 32
  · obtain ⟨sg, ht⟩ := narrow
    have bound := joinElements_lt 32 rs
    rw [h sg ht] at bound
    rw [convertedWord_int32 ht, extW_ofNat bound, ht, extended_int32]
    rfl
  · have wide : ∀ sg, k.target ≠ .int sg 32 := fun sg ht => narrow ⟨sg, ht⟩
    rw [convertedWord_other wide, extended_other wide]

/-- What one lane's FCVT gives: bits and flags. -/
def stochasticResult (k : Conversion) (seed : Nat) (a : Word) : FpResult :=
  let r := fun i => stochasticOne k seed i (bitsN a.toNat (k.source.width * i + k.source.width - 1) (k.source.width * i))
  (extended k.target (joinElements k.target.width ((List.range k.count).map (fun i => (r i).1))),
    flagsAll ((List.range k.count).map (fun i => (r i).2)))

theorem stochasticResult_spec {n : Nat} {k : Conversion} (h : conversion n = some k) (seed : Nat) (v : Vals) :
    StochasticIs k seed v (stochasticResult k seed v.a) := by
  obtain ⟨wide, used, -⟩ := conversion_shape h
  refine ⟨(joinElements k.target.width _, (stochasticResult k seed v.a).2), rfl, rfl, fun i => stochasticOne k seed i _,
    fun i _ => ?_, ?_, fun i hi => ?_, rfl⟩
  · exact congrArg (convertOne k.target k.source (.sr (generated seed (i + 1)))) (element_used v.a wide used)
  · simpa using joinElements_lt k.target.width ((List.range k.count).map (fun i => (stochasticOne k seed i
      (bitsN v.a.toNat (k.source.width * i + k.source.width - 1) (k.source.width * i))).1))
  · rw [joinElements_field _ _ i (by simpa using hi)]
    simp

/-- A lane's FCVT under SR: its word, its flags and its generator after it. -/
theorem convertAll_elements {n : Nat} {k : Conversion} (h : conversion n = some k) (st : Stream) (seed : Nat) (a : Word) :
    convertedWord k (convertAll k 6 st seed (elements k.source.width k.count a)).1 = word (stochasticResult k seed a).1 ∧
      (convertAll k 6 st seed (elements k.source.width k.count a)).2 = ((stochasticResult k seed a).2, generated seed k.count) := by
  obtain ⟨-, -, single⟩ := conversion_shape h
  rw [elements, convertAll_stochastic]
  exact ⟨convertedWord_eq (fun sg ht => by simpa using single sg ht), rfl⟩

/-! ### The lanes whose generators move -/

/-- The lanes at some positions with new generator states. -/
def reseeded (m : SMap Lane) (l : List (Nat × Nat)) : SMap Lane :=
  l.foldl (fun m p => upd m p.1 (fun x => { x with seed := word p.2 })) m

theorem reseeded_cons (m : SMap Lane) (p : Nat × Nat) (r : List (Nat × Nat)) :
    reseeded m (p :: r) = reseeded (upd m p.1 (fun x => { x with seed := word p.2 })) r := rfl

theorem find?_reseeded_ne : ∀ (l : List (Nat × Nat)) (m : SMap Lane) {p : Nat} (_ : p ∉ l.map Prod.fst),
    find? (reseeded m l) p = find? m p
  | [], _, _, _ => rfl
  | x :: r, m, p, h => by
    rw [List.map_cons, List.mem_cons, not_or] at h
    rw [reseeded_cons, find?_reseeded_ne r _ h.2, find?_upd_ne _ _ h.1]

theorem find?_reseeded : ∀ (l : List (Nat × Nat)) (m : SMap Lane) {p n : Nat} {la : Lane} (_ : (l.map Prod.fst).Nodup)
    (_ : (p, n) ∈ l) (_ : find? m p = some la), find? (reseeded m l) p = some { la with seed := word n }
  | x :: r, m, p, n, la, nd, hm, hf => by
    rw [List.map_cons, List.nodup_cons] at nd
    rw [reseeded_cons]
    rcases List.mem_cons.1 hm with rfl | hm
    · rw [find?_reseeded_ne r _ nd.1, find?_upd_self, hf]; rfl
    · have other : p ≠ x.1 := fun e => nd.1 (e ▸ List.mem_map_of_mem hm)
      exact find?_reseeded r _ nd.2 hm (by rw [find?_upd_ne _ _ other, hf])

/-- New generator states move no lane's registers. -/
theorem base_reseeded (d : Lane) (pos : Nat) : ∀ (l : List (Nat × Nat)) (m : SMap Lane),
    (look d (reseeded m l) pos).base = (look d m pos).base
  | [], _ => rfl
  | p :: r, m => by
    rw [reseeded_cons, base_reseeded d pos r]
    unfold look
    rw [find?_upd]
    by_cases e : pos = p.1
    · rw [if_pos e, e]
      cases find? m p.1 <;> rfl
    · rw [if_neg e]

theorem foldl_modLane_seed {α : Type} (pos n : α → Nat) : ∀ (l : List α) (s : State),
    l.foldl (fun t x => modLane t (pos x) (fun la => { la with seed := word (n x) })) s =
      { s with lanes := reseeded s.lanes (l.map (fun x => (pos x, n x))) }
  | [], _ => rfl
  | _ :: r, _ => foldl_modLane_seed pos n r _

/-! ### Results written beside the lanes -/

theorem writeLane_lanes (u : State) (c : Ctx) (ln pos : Nat) (d : RegName) (v : Word) : (writeLane u c ln pos d v).lanes = u.lanes := by
  cases d with
  | k n => unfold writeLane; dsimp only; split <;> rfl
  | _ => rfl

theorem writeLane_withLanes {u : State} {c : Ctx} {L : SMap Lane} (h : ∀ pos n, regPlace { u with lanes := L } c.st pos n = regPlace u c.st pos n)
    (ln pos : Nat) (d : RegName) (v : Word) :
    writeLane { u with lanes := L } c ln pos d v = { writeLane u c ln pos d v with lanes := L } := by
  cases d with
  | x n => unfold writeLane; dsimp only; rw [h]; rfl
  | k n => unfold writeLane; dsimp only; split <;> rfl
  | _ => rfl

/-- Results go to the same places when the lanes' registers stand where they stood. -/
theorem writeLanes_withLanes {c : Ctx} {d : RegName} {L : SMap Lane} : ∀ (vs : List (Nat × Nat × Word)) {u : State}
    (_ : ∀ pos n, regPlace { u with lanes := L } c.st pos n = regPlace u c.st pos n),
    writeLanes { u with lanes := L } c d vs = { writeLanes u c d vs with lanes := L }
  | [], _, _ => rfl
  | v :: r, u, h => by
    show writeLanes (writeLane { u with lanes := L } c v.1 v.2.1 d v.2.2) c d r = _
    rw [writeLane_withLanes h]
    refine writeLanes_withLanes r (fun pos n => ?_)
    have e : regPlace (writeLane u c v.1 v.2.1 d v.2.2) c.st pos n = regPlace u c.st pos n := by
      simp only [regPlace, laneOf, writeLane_lanes]
    rw [e, ← h]
    rfl

/-! ### The conversion -/

/-- The effect of FCVT under SR: results and flags as for every conversion, and beside them the generators that move. -/
theorem convertLanes_stochastic {n : Nat} {k : Conversion} (h : conversion n = some k) (d : RegName) (vs : List Vals) (s : State) (c : Ctx) :
    convertLanes k 6 d vs s c =
      { raiseFlags (writeLanes s c d (vs.map (fun v => (v.ln, v.pos, word (stochasticResult k (laneOf s v.pos).seed.toNat v.a).1)))) c.sid
          (flagsAll (vs.map (fun v => (stochasticResult k (laneOf s v.pos).seed.toNat v.a).2))) with
        lanes := reseeded s.lanes (vs.map (fun v => (v.pos, generated (laneOf s v.pos).seed.toNat k.count))) } := by
  have places : ∀ l pos n, regPlace { s with lanes := reseeded s.lanes l } c.st pos n = regPlace s c.st pos n := by
    intro l pos n
    simp only [regPlace, laneOf, base_reseeded]
  unfold convertLanes
  simp only [if_true, foldl_modLane_seed, List.map_map, Function.comp_def, (convertAll_elements h _ _ _).1, (convertAll_elements h _ _ _).2]
  rw [writeLanes_withLanes _ (places _)]
  rfl

theorem endIssue_withLanes (u : State) (L M : SMap Lane) (sid : Nat) (sw : Bool) :
    { switchPoint (advance { u with lanes := L } sid) sid sw with lanes := M } = switchPoint (advance { u with lanes := M } sid) sid sw := by
  cases sw <;> rfl

theorem endIssue_lanes (u : State) (sid : Nat) (sw : Bool) : (switchPoint (advance u sid) sid sw).lanes = u.lanes := by
  cases sw <;> rfl

theorem endIssue_streams_withLanes (u : State) (L : SMap Lane) (sid : Nat) (sw : Bool) :
    (switchPoint (advance { u with lanes := L } sid) sid sw).streams = (switchPoint (advance u sid) sid sw).streams := by
  cases sw <;> rfl

/-- What stands before an effect moves no lane. -/
theorem Before.lanes_eq {s b : State} {c c' : Ctx} {o : Operands} (h : Before s b c c' o) : b.lanes = s.lanes := by
  rw [h.rest]

/-- Results `g` of ALU class written for lanes `es`, and their flags raised. -/
def resultsWritten (b : State) (c : Ctx) (d : RegName) (es : List (Nat × Nat)) (g : Nat × Nat → FpResult) : State :=
  raiseFlags (writeLanes b c d (es.map (fun e => (e.1, e.2, word (g e).1)))) c.sid (flagsAll (es.map (fun e => (g e).2)))

/-- An active lane's bits and flags under SR. -/
def stochasticLane (s : State) (c : Ctx) (i : Instr) (k : Conversion) (e : Nat × Nat) : FpResult :=
  stochasticResult k (laneOf s e.2).seed.toNat (valsOf s c i e).a

/-- The generators of the active lanes after a step for each element. -/
def seedsAfter (s : State) (c : Ctx) (k : Conversion) : List (Nat × Nat) :=
  c.lanes.map (fun e => (e.2, generated (laneOf s e.2).seed.toNat k.count))

/-- FCVT under SR: its effect stands between its charge and the advance of the pc. -/
theorem execFcvt_stochastic {s : State} {c : Ctx} {sw : Bool} {d a : RegName} {conv : BitVec 7} {k : Conversion}
    (h : Issues s c (.fcvt sw d a conv 6)) (hk : conversion conv.toNat = some k) :
    ∃ b c', Before s b c c' (operands (.fcvt sw d a conv 6)) ∧
      exec (.fcvt sw d a conv 6) s = .next (switchPoint (advance
        { resultsWritten b c' d c.lanes (stochasticLane s c (.fcvt sw d a conv 6) k) with
          lanes := reseeded s.lanes (seedsAfter s c k) } c.sid) c.sid sw) := by
  obtain ⟨c', hb⟩ := beforeEffect_spec h.ctx (operands (.fcvt sw d a conv 6)) (chargeUnits 0x26 (BitVec.toNat (6 : BitVec 3)))
  refine ⟨_, c', hb, ?_⟩
  have plan : (match conversion conv.toNat with
      | none => Plan.illegal
      | some k => .go (convertLanes k 6 d (c.lanes.map (laneVals s c (operands (.fcvt sw d a conv 6)))))) =
      .go (convertLanes k 6 d (c.lanes.map (laneVals s c (operands (.fcvt sw d a conv 6))))) := by rw [hk]
  refine (issueWith_go h rfl rfl rfl plan).trans ?_
  rw [runEffect_eq hb.ctx, convertLanes_stochastic hk]
  simp only [laneOf, hb.lanes_eq, List.map_map]
  rfl

theorem stochasticConversionHold : StochasticConversionHold := by
  intro s c sw d a conv k h hk nd
  obtain ⟨b, c', hb, run⟩ := execFcvt_stochastic h hk
  set f := stochasticLane s c (.fcvt sw d a conv 6) k
  have hc' : ctxOf b c'.sid = some c' := by rw [hb.sid]; exact hb.ctx
  have eff : Effected b (writeLanes b c' d (c.lanes.map (fun e => (e.1, e.2, word (f e).1)))) c' (some d) false := by
    refine Effected.writeLanes _ (Effected.refl hc' _) (fun v hv => ?_)
    obtain ⟨e, he, rfl⟩ := List.mem_map.1 hv
    rw [hb.lanes]; exact he
  have kept : (resultsWritten b c' d c.lanes f).lanes = s.lanes := (eff.flags _).lanes_eq.trans hb.lanes_eq
  refine ⟨_, f, run, ?_, fun e he => ⟨stochasticResult_spec hk _ _, ?_, fun la hla => ?_⟩, fun p hp => ?_, ?_⟩
  · rw [endIssue_withLanes, ← kept]
    exact computes hb (eff.flags _)
  · exact results_hold (g := fun e => word (f e).1) (u := { resultsWritten b c' d c.lanes f with lanes := reseeded s.lanes (seedsAfter s c k) })
      hb rfl rfl rfl (fun st hst => raised hb.sid hst) e he
  · rw [endIssue_lanes]
    have seed : laneOf s e.2 = la := by simp [laneOf, look, hla]
    refine find?_reseeded _ s.lanes (n := generated la.seed.toNat k.count) ?_ ?_ hla
    · simpa [seedsAfter, Function.comp_def] using nd
    · exact List.mem_map.2 ⟨e, he, by rw [seed]⟩
  · rw [endIssue_lanes]
    refine find?_reseeded_ne _ s.lanes (fun hm => ?_)
    rw [seedsAfter, List.map_map] at hm
    obtain ⟨e, he, place⟩ := List.mem_map.1 hm
    exact hp e he place
  · unfold FlagsRaised
    rw [endIssue_streams_withLanes]
    exact flags_raised hb eff

end Sys2Proof.Machine
end

section
/-!
SUPPORT. The special function unit (R391, R392): the range and the sign of what rounding to FP32 gives, the flags of each function, and
the symmetry of sine, cosine and hyperbolic tangent.
-/

namespace Sys2Proof.Machine

open Sys2Proof

/-! ### Signs of FP32 codes -/

/-- The FP32 code of a sign and a magnitude. -/
def signed32 (neg : Bool) (v : Nat) : Nat := (if neg then 2 ^ 31 else 0) + v

theorem signed32_bit (neg : Bool) {v : Nat} (hv : v < 2 ^ 31) : bitN (signed32 neg v) 31 = neg := by
  unfold signed32 bitN
  cases neg <;> simp <;> omega

theorem flipSign_signed32 (neg : Bool) {v : Nat} (hv : v < 2 ^ 31) : flipSign 31 (signed32 neg v) = signed32 (!neg) v := by
  unfold flipSign
  rw [signed32_bit neg hv]
  cases neg <;> simp [signed32, Nat.add_comm]

theorem exists_signed32 {x : Nat} (hx : x < 2 ^ 32) : ∃ neg v, v < 2 ^ 31 ∧ x = signed32 neg v := by
  refine ⟨decide (2 ^ 31 ≤ x), x % 2 ^ 31, Nat.mod_lt _ (by decide), ?_⟩
  unfold signed32
  by_cases h : 2 ^ 31 ≤ x
  · rw [decide_eq_true h, if_pos rfl]; omega
  · rw [decide_eq_false h, if_neg (by decide)]; omega

theorem signed32_magnitude (neg : Bool) {v : Nat} (hv : v < 2 ^ 31) : signed32 neg v % 2 ^ 31 = v := by
  unfold signed32
  cases neg <;> simp <;> omega

theorem flipSign_magnitude {x : Nat} (hx : x < 2 ^ 32) : flipSign 31 x % 2 ^ 31 = x % 2 ^ 31 := by
  obtain ⟨neg, v, hv, rfl⟩ := exists_signed32 hx
  rw [flipSign_signed32 neg hv, signed32_magnitude _ hv, signed32_magnitude _ hv]

/-- The code of the other sign stands for the value of the other sign. -/
theorem decodeF_flipSign {x : Nat} (hx : x < 2 ^ 32) : decodeF fp32 (flipSign 31 x) = (decodeF fp32 x).negate := by
  have sign : bitN (flipSign 31 x) 31 = !bitN x 31 := by
    obtain ⟨neg, v, hv, rfl⟩ := exists_signed32 hx
    rw [flipSign_signed32 neg hv, signed32_bit _ hv, signed32_bit _ hv]
  have mag := flipSign_magnitude hx
  have expo : flipSign 31 x / 2 ^ 23 % 2 ^ 8 = x / 2 ^ 23 % 2 ^ 8 := by omega
  have frac : flipSign 31 x % 2 ^ 23 = x % 2 ^ 23 := by omega
  have quiet : bitN (flipSign 31 x) 22 = bitN x 22 := by
    unfold bitN
    rw [show flipSign 31 x / 2 ^ 22 % 2 = x / 2 ^ 22 % 2 by omega]
  have fields : ∀ v, decodeF fp32 v = if v / 2 ^ 23 % 2 ^ 8 = 255 then (if v % 2 ^ 23 = 0 then .inf (bitN v 31) else .nan (!bitN v 22))
      else if v / 2 ^ 23 % 2 ^ 8 = 0 then .fin (bitN v 31) (v % 2 ^ 23) (-149)
      else .fin (bitN v 31) (2 ^ 23 + v % 2 ^ 23) (((v / 2 ^ 23 % 2 ^ 8 : Nat) : Int) - 127 - 23) := fun _ => rfl
  rw [fields, fields, sign, expo, frac, quiet]
  split
  · split <;> rfl
  · split <;> rfl

theorem decodeF_fin_sign {v m : Nat} {neg : Bool} {e : Int} (h : decodeF fp32 v = .fin neg m e) : bitN v 31 = neg := by
  unfold decodeF at h
  dsimp only at h
  split at h
  · split at h <;> cases h
  · split at h <;> (cases h; rfl)

/-- A result with the other sign and the same flags. -/
def flipResult (r : FpResult) : FpResult := (flipSign 31 r.1, r.2)

theorem flipResult_signed32 (neg : Bool) {v : Nat} (hv : v < 2 ^ 31) (f : Nat) :
    flipResult (signed32 neg v, f) = (signed32 (!neg) v, f) :=
  congrArg (·, f) (flipSign_signed32 neg hv)

/-! ### Rounding to FP32 -/

/-- What is not negative rounds to a code without the sign bit. -/
theorem Correct.code_lt {rnd : Rounding} {x : ℝ} {r : FpResult} (h : Correct fp32 rnd x false r) (hx : 0 ≤ x) : r.1 < 2 ^ 31 := by
  rcases hx.eq_or_lt with rfl | pos
  · rw [h.1 rfl]; decide
  obtain ⟨l, q, n, w, -, -, -, -, -, inf, fin⟩ := h.2 pos.ne'
  have plus : ∀ {neg : Bool}, (neg = true ↔ x < 0) → neg = false := by
    intro neg hn
    simpa [not_lt.2 hx] using hn
  rcases le_or_gt ((2 : ℝ) ^ ((fp32.bias : ℤ) + 1)) (|(n : ℝ)| * (2 : ℝ) ^ q) with big | small
  · obtain ⟨neg, hn, rfl⟩ := inf big
    rw [plus hn]
    cases rnd <;> simp [packOverflow] <;> decide
  · obtain ⟨⟨neg, m, e, hn, lt, dec, -⟩, -⟩ := fin small
    have sign := decodeF_fin_sign dec
    rw [plus hn] at sign
    simp only [bitN, decide_eq_false_iff_not] at sign
    have : r.1 < 2 ^ 32 := lt
    omega

/-- A magnitude rounded to nearest has no sign bit. -/
theorem roundTo_code_lt (n : Nat) (e : Int) : (roundTo fp32 .rne false n 1 e).1 < 2 ^ 31 := by
  have corr := roundTo_correct0 fp32 fp32_ok .rne (by simp) false n 1 e one_ne_zero
  exact corr.code_lt (by simp only [sg, Bool.false_eq_true, if_false]; positivity)

/-- A code of a value of at most 1 is at most that of 1. -/
theorem code_le_one {v m : Nat} {e : Int} (hv : v < 2 ^ 31) (dec : decodeF fp32 v = .fin false m e) (le : (m : ℝ) * (2 : ℝ) ^ e ≤ 1) :
    v ≤ 0x3F800000 := by
  by_contra big
  have expo : v / 2 ^ 23 % 2 ^ 8 ≠ 2 ^ 8 - 1 := by
    intro top
    unfold decodeF at dec
    simp only [show fp32.prec - 1 = 23 from rfl, show fp32.ebits = 8 from rfl, top, if_true] at dec
    split at dec <;> cases dec
  rw [decodeF_fin fp32 v _ _ _ rfl rfl rfl expo] at dec
  simp only [show fp32.prec - 1 = 23 from rfl, show fp32.ebits = 8 from rfl] at dec
  rw [if_neg (by omega)] at dec
  obtain ⟨-, rfl, rfl⟩ := FVal.fin.inj dec
  set E := v / 2 ^ 23 % 2 ^ 8 with hE
  -- the significand is at most the inverse of the unit in the last place
  have bound : ∀ t : ℕ, (E : ℤ) - (fp32.bias : ℤ) - ((fp32.prec : ℤ) - 1) + t ≥ 0 → 2 ^ 23 + v % 2 ^ 23 ≤ 2 ^ t := by
    intro t ht
    have ulp : (2 : ℝ) ^ (-(t : ℤ)) ≤ (2 : ℝ) ^ ((E : ℤ) - (fp32.bias : ℤ) - ((fp32.prec : ℤ) - 1)) :=
      zpow_le_zpow_right₀ (by norm_num) (by omega)
    have : ((2 ^ 23 + v % 2 ^ 23 : ℕ) : ℝ) * (2 : ℝ) ^ (-(t : ℤ)) ≤ 1 := (mul_le_mul_of_nonneg_left ulp (by positivity)).trans le
    rw [zpow_neg, ← div_eq_mul_inv, div_le_one (by positivity), toNat_pow] at this
    exact_mod_cast this
  have bias : (fp32.bias : ℤ) = 127 := rfl
  have prec : (fp32.prec : ℤ) = 24 := rfl
  have b23 := bound 23 (by omega)
  by_cases more : 128 ≤ E
  · have b22 := bound 22 (by omega)
    omega
  · omega

/-- A magnitude of at most 1 rounds to nearest to at most 1. -/
theorem roundTo_le_one {n : Nat} {e : Int} (le : (n : ℝ) * (2 : ℝ) ^ e ≤ 1) : (roundTo fp32 .rne false n 1 e).1 ≤ 0x3F800000 := by
  have lt := roundTo_code_lt n e
  have corr := roundTo_correct0 fp32 fp32_ok .rne (by simp) false n 1 e one_ne_zero
  simp only [sg, Bool.false_eq_true, if_false, Nat.cast_one, div_one, one_mul] at corr
  generalize roundTo fp32 .rne false n 1 e = r at lt corr
  have x0 : 0 ≤ (n : ℝ) * (2 : ℝ) ^ e := by positivity
  generalize (n : ℝ) * (2 : ℝ) ^ e = x at le corr x0
  rcases x0.eq_or_lt with rfl | pos
  · rw [corr.1 rfl]; decide
  obtain ⟨l, q, k, w, l1, -, hq, near, -, -, fin⟩ := corr.2 pos.ne'
  rw [abs_of_pos pos] at l1
  have q0 := two_zpow_pos q
  have lneg : l ≤ 0 := (zpow_le_one_iff_right₀ (by norm_num : (1 : ℝ) < 2)).1 (l1.trans le)
  have emin : fp32.emin = -126 := rfl
  have prec : (fp32.prec : ℤ) = 24 := rfl
  obtain ⟨t, ht⟩ : ∃ t : ℕ, q = -(t : ℤ) := ⟨(-q).toNat, by omega⟩
  have inv : (2 : ℝ) ^ q * ((2 ^ t : ℕ) : ℝ) = 1 := by
    rw [ht, ← toNat_pow, ← zpow_add₀ (by norm_num)]; simp
  -- the nearest multiple of the grid lies between 0 and 1
  obtain ⟨a, b⟩ := abs_le.1 near.1
  have low : 0 ≤ k := by
    have : 0 ≤ x / (2 : ℝ) ^ q := by positivity
    have : (-1 : ℝ) < k := by linarith
    have : -1 < k := by exact_mod_cast this
    omega
  have high : k ≤ (2 ^ t : ℕ) := by
    have : x / (2 : ℝ) ^ q ≤ ((2 ^ t : ℕ) : ℝ) := by rw [div_le_iff₀ q0, mul_comm, inv]; exact le
    have : (k : ℝ) < ((2 ^ t : ℕ) : ℝ) + 1 := by linarith
    have : k < (2 ^ t : ℕ) + 1 := by exact_mod_cast this
    omega
  have one : (k : ℝ) * (2 : ℝ) ^ q ≤ 1 := by
    have : (k : ℝ) ≤ ((2 ^ t : ℕ) : ℝ) := by exact_mod_cast high
    rw [← inv, mul_comm]; gcongr
  have small : |(k : ℝ)| * (2 : ℝ) ^ q < (2 : ℝ) ^ ((fp32.bias : ℤ) + 1) := by
    rw [abs_of_nonneg (by exact_mod_cast low)]
    exact one.trans_lt (one_lt_zpow₀ (by norm_num) (by decide))
  obtain ⟨⟨neg, m, e, hn, -, dec, val⟩, -⟩ := fin small
  obtain rfl : neg = false := by simpa [not_lt.2 pos.le] using hn
  refine code_le_one lt dec ?_
  rw [val_fin, signedOf_real] at val
  simp only [sg, Bool.false_eq_true, if_false, one_mul] at val
  rw [val]; exact one

/-- A small integer is a value of the format: nothing is raised. -/
theorem ofIntV_exact {k : Int} (hk : |k| < 2 ^ 24) : (ofIntV fp32 .rne k).2 = 0 := by
  have corr := roundDy_correct fp32 fp32_ok .rne (by simp) k 0 false
  simp only [zpow_zero, mul_one] at corr
  unfold ofIntV
  generalize roundDy fp32 .rne k 0 false = r at corr
  by_cases zero : k = 0
  · rw [corr.1 (by simp [zero])]
  obtain ⟨l, q, n, w, l1, -, hq, near, -, -, fin⟩ := corr.2 (by exact_mod_cast zero)
  have size : |(k : ℝ)| < (2 : ℝ) ^ (24 : ℤ) := by exact_mod_cast hk
  have l24 : l < 24 := (zpow_lt_zpow_iff_right₀ (by norm_num : (1 : ℝ) < 2)).1 (l1.trans_lt size)
  have emin : fp32.emin = -126 := rfl
  have prec : (fp32.prec : ℤ) = 24 := rfl
  obtain ⟨t, ht⟩ : ∃ t : ℕ, q = -(t : ℤ) := ⟨(-q).toNat, by omega⟩
  have q0 := two_zpow_pos q
  have exact : (n : ℝ) = k / (2 : ℝ) ^ q := by
    have grid : (k : ℝ) / (2 : ℝ) ^ q = ((k * 2 ^ t : ℤ) : ℝ) := by
      rw [ht, zpow_neg, div_inv_eq_mul]; push_cast; rw [zpow_natCast]
    rw [near.exact grid, grid]
  have value : (n : ℝ) * (2 : ℝ) ^ q = k := by rw [exact]; field_simp
  have small : |(n : ℝ)| * (2 : ℝ) ^ q < (2 : ℝ) ^ ((fp32.bias : ℤ) + 1) := by
    rw [← abs_of_pos q0, ← abs_mul, value]
    exact size.trans (zpow_lt_zpow_right₀ (by norm_num) (by decide))
  exact (fin small).2.1 value

end Sys2Proof.Machine
end

section
/-!
SUPPORT. The functions of the special function unit case by case (R391, R392).
-/

namespace Sys2Proof.Machine

open Sys2Proof

/-! ### Flags -/

/-- What the approximating functions may raise: nothing, NV, DZ or OF (R392). -/
def UnitFlags (f : Nat) : Prop := f = 0 ∨ f = flagNV ∨ f = flagDZ ∨ f = flagOF

theorem unitFlags_zero : UnitFlags 0 := .inl rfl
theorem unitFlags_nv : UnitFlags flagNV := .inr (.inl rfl)
theorem unitFlags_dz : UnitFlags flagDZ := .inr (.inr (.inl rfl))
theorem unitFlags_of : UnitFlags flagOF := .inr (.inr (.inr rfl))

theorem unitFlags_if (b : Bool) {f : Nat} (h : UnitFlags f) : UnitFlags (flagIf b f) := by
  cases b
  · exact unitFlags_zero
  · exact h

theorem unitFlags_ite {p : Prop} [Decidable p] {a b : FpResult} (ha : UnitFlags a.2) (hb : UnitFlags b.2) :
    UnitFlags (if p then a else b).2 := by
  split <;> assumption

theorem sfuNear_flags (fn x : Nat) (neg : Bool) (a : Approx) (b : Nat) : UnitFlags (sfuNear fn x neg a b).2 := by
  unfold sfuNear
  exact unitFlags_ite unitFlags_zero (unitFlags_ite unitFlags_of unitFlags_zero)

theorem sfuRcp_flags (x : Nat) : UnitFlags (sfuRcp x).2 := by
  unfold sfuRcp
  split
  · exact unitFlags_if _ unitFlags_nv
  · exact unitFlags_zero
  · refine unitFlags_ite unitFlags_dz ?_
    split
    · exact unitFlags_if _ unitFlags_of
    · exact sfuNear_flags _ _ _ _ _

theorem sfuRsq_flags (x : Nat) : UnitFlags (sfuRsq x).2 := by
  unfold sfuRsq
  split
  · exact unitFlags_if _ unitFlags_nv
  · exact unitFlags_ite unitFlags_nv unitFlags_zero
  · refine unitFlags_ite unitFlags_dz (unitFlags_ite unitFlags_nv ?_)
    split
    · exact unitFlags_ite unitFlags_zero (sfuNear_flags _ _ _ _ _)
    · exact sfuNear_flags _ _ _ _ _

theorem sfuExp2_flags (x : Nat) : UnitFlags (sfuExp2 x).2 := by
  unfold sfuExp2
  split
  · exact unitFlags_if _ unitFlags_nv
  · exact unitFlags_zero
  · exact unitFlags_ite unitFlags_zero (unitFlags_ite (unitFlags_ite unitFlags_zero unitFlags_of)
      (unitFlags_ite (unitFlags_ite unitFlags_of unitFlags_zero) (unitFlags_ite unitFlags_zero (sfuNear_flags _ _ _ _ _))))

/-- The logarithm of a power of two of the format is a small integer. -/
theorem powerOf_small {x m : Nat} {neg : Bool} {e k : Int} (h : decodeF fp32 x = .fin neg m e) (hm : m ≠ 0) (hk : powerOf m e = some k) :
    |k| < 2 ^ 24 := by
  obtain ⟨mlt, elo, ehi⟩ := decodeF_bounds fp32 fp32_ok h
  have log : m.log2 < 24 := (Nat.log2_lt hm).2 mlt
  have emin : fp32.emin = -126 := rfl
  have prec : (fp32.prec : ℤ) = 24 := rfl
  have bias : (fp32.bias : ℤ) = 127 := rfl
  unfold powerOf at hk
  split at hk
  · cases hk
    rw [abs_lt]
    constructor <;> omega
  · cases hk

theorem sfuLog2_flags (x : Nat) : UnitFlags (sfuLog2 x).2 := by
  unfold sfuLog2
  split
  · exact unitFlags_if _ unitFlags_nv
  · exact unitFlags_ite unitFlags_nv unitFlags_zero
  · rename_i m e dec
    by_cases zero : m = 0
    · rw [if_pos zero]; exact unitFlags_dz
    rw [if_neg zero]
    refine unitFlags_ite unitFlags_nv ?_
    split
    · rename_i k power
      exact .inl (ofIntV_exact (powerOf_small dec zero power))
    · exact sfuNear_flags _ _ _ _ _

theorem sinFinite_flags (x : Nat) (neg : Bool) (m : Nat) (e : Int) : UnitFlags (sinFinite x neg m e).2 := by
  unfold sinFinite
  dsimp only
  exact unitFlags_ite unitFlags_zero (unitFlags_ite (sfuNear_flags _ _ _ _ _) (unitFlags_ite unitFlags_zero
    (unitFlags_ite unitFlags_zero (unitFlags_ite unitFlags_zero (sfuNear_flags _ _ _ _ _)))))

theorem sfuSinPi_flags (x : Nat) : UnitFlags (sfuSinPi x).2 := by
  unfold sfuSinPi
  split
  · exact unitFlags_if _ unitFlags_nv
  · exact unitFlags_nv
  · exact sinFinite_flags _ _ _ _

theorem sfuCosPi_flags (x : Nat) : UnitFlags (sfuCosPi x).2 := by
  unfold sfuCosPi
  split
  · exact unitFlags_if _ unitFlags_nv
  · exact unitFlags_nv
  · exact unitFlags_ite unitFlags_zero (unitFlags_ite (sfuNear_flags _ _ _ _ _) (unitFlags_ite unitFlags_zero
      (unitFlags_ite unitFlags_zero (unitFlags_ite unitFlags_zero
        (unitFlags_ite (sfuNear_flags _ _ _ _ _) (sfuNear_flags _ _ _ _ _))))))

theorem sfuTanh_flags (x : Nat) : UnitFlags (sfuTanh x).2 := by
  unfold sfuTanh
  split
  · exact unitFlags_if _ unitFlags_nv
  · exact unitFlags_zero
  · exact unitFlags_ite unitFlags_zero unitFlags_zero

/-! ### Symmetry -/

/-- What a function gives within its bound has a magnitude and flags that do not depend on its sign. -/
theorem sfuNear_magnitude (fn x : Nat) (a : Approx) (b : Nat) :
    ∃ v f, v < 2 ^ 31 ∧ ∀ neg, sfuNear fn x neg a b = (signed32 neg v, f) := by
  have pick : pickNear fn x a (b * 2 ^ 60 + 1) (ulpOf a) < 2 ^ 31 := by
    unfold pickNear
    dsimp only
    split
    · exact roundTo_code_lt a.n a.e
    · rcases nth_default_or_mem 0 (nearCodes a (b * 2 ^ 60 + 1) (ulpOf a)) _ with zero | mem
      · rw [zero]; decide
      · have := (List.mem_filter.1 (List.mem_filter.1 mem).1).2
        simp only [Bool.and_eq_true, decide_eq_true_eq] at this
        omega
  unfold sfuNear
  by_cases zero : a.n = 0
  · exact ⟨0, 0, by decide, fun neg => by rw [if_pos zero]; rfl⟩
  · by_cases big : (roundTo fp32 .rne false a.n 1 a.e).1 = packInf fp32 false
    · exact ⟨packInf fp32 false, flagOF, by decide, fun neg => by rw [if_neg zero, if_pos big]; rfl⟩
    · exact ⟨_, 0, pick, fun neg => by rw [if_neg zero, if_neg big]; rfl⟩

theorem sfuNear_not (fn x : Nat) (neg : Bool) (a : Approx) (b : Nat) : sfuNear fn x (!neg) a b = flipResult (sfuNear fn x neg a b) := by
  obtain ⟨v, f, hv, eq⟩ := sfuNear_magnitude fn x a b
  rw [eq, eq, flipResult_signed32 neg hv]

theorem packZero_not (neg : Bool) : (packZero fp32 (!neg), 0) = flipResult (packZero fp32 neg, 0) := by cases neg <;> rfl

theorem packOne_not (neg : Bool) : (packPow (!neg) 0, 0) = flipResult (packPow neg 0, 0) := by cases neg <;> decide

/-- Sine is odd in its operand's sign. -/
theorem sinFinite_not {x y : Nat} (h : y % 2 ^ 31 = x % 2 ^ 31) (neg : Bool) (m : Nat) (e : Int) :
    sinFinite y (!neg) m e = flipResult (sinFinite x neg m e) := by
  unfold sinFinite
  dsimp only
  rw [h]
  split
  · exact packZero_not neg
  · split
    · exact sfuNear_not _ _ _ _ _
    · split
      · exact packZero_not neg
      · split
        · exact packOne_not neg
        · split
          · exact packOne_not (!neg)
          · rw [Bool.not_bne]
            exact sfuNear_not _ _ _ _ _

theorem sfuSinPi_flipSign {x m : Nat} {n : Bool} {e : Int} (hx : x < 2 ^ 32) (dec : decodeF fp32 x = .fin n m e) :
    sfuSinPi (flipSign 31 x) = flipResult (sfuSinPi x) := by
  unfold sfuSinPi
  rw [decodeF_flipSign hx, dec]
  exact sinFinite_not (flipSign_magnitude hx) n m e

theorem sfuCosPi_flipSign {x : Nat} (hx : x < 2 ^ 32) : sfuCosPi (flipSign 31 x) = sfuCosPi x := by
  unfold sfuCosPi
  rw [decodeF_flipSign hx, flipSign_magnitude hx]
  cases decodeF fp32 x <;> rfl

/-! ### Hyperbolic tangent -/

/-- The approximation of the hyperbolic tangent is at most 1. -/
theorem tanhNear_le_one {m : Nat} (hm : m ≠ 0) (e : Int) : ((tanhNear m e).n : ℝ) * (2 : ℝ) ^ (tanhNear m e).e ≤ 1 := by
  have fixed : ∀ n : ℕ, n ≤ 2 ^ 128 → (n : ℝ) * (2 : ℝ) ^ (-128 : ℤ) ≤ 1 := by
    intro n hn
    have : (n : ℝ) ≤ (2 : ℝ) ^ (128 : ℤ) := by exact_mod_cast hn
    calc (n : ℝ) * (2 : ℝ) ^ (-128 : ℤ) ≤ (2 : ℝ) ^ (128 : ℤ) * (2 : ℝ) ^ (-128 : ℤ) := by gcongr
      _ = 1 := by rw [← zpow_add₀ (by norm_num)]; norm_num
  unfold tanhNear
  dsimp only
  split
  · rename_i tiny
    have top := (floorLog_spec m 1 hm one_ne_zero).2
    rw [Nat.cast_one, div_one] at top
    calc (m : ℝ) * (2 : ℝ) ^ e ≤ (2 : ℝ) ^ (floorLog m 1 + 1) * (2 : ℝ) ^ e := by gcongr
      _ = (2 : ℝ) ^ (floorLog m 1 + 1 + e) := by rw [zpow_add₀ (by norm_num) (floorLog m 1 + 1)]
      _ ≤ 1 := zpow_le_one_of_nonpos₀ (by norm_num) (by omega)
  · split
    · exact fixed _ (by decide)
    · refine fixed _ (Nat.div_le_of_le_mul ?_)
      rw [show fxOne = 2 ^ 128 from rfl]
      exact Nat.mul_le_mul_right _ (by omega)

theorem tanhMag_le_one (x : Nat) {m : Nat} (hm : m ≠ 0) (e : Int) : tanhMag x m e ≤ 0x3F800000 := by
  unfold tanhMag
  dsimp only
  split
  · exact roundTo_le_one (tanhNear_le_one hm e)
  · rcases nth_default_or_mem 0 (tanhCodes (tanhNear m e)) _ with zero | mem
    · rw [zero]; decide
    · have := (List.mem_filter.1 mem).2
      simp only [Bool.and_eq_true, decide_eq_true_eq] at this
      exact this.1

theorem sfuTanh_inf {x : Nat} {n : Bool} (dec : decodeF fp32 x = .inf n) : sfuTanh x = (signed32 n 0x3F800000, 0) := by
  unfold sfuTanh
  rw [dec]
  show (packPow n 0, 0) = _
  cases n <;> decide

theorem sfuTanh_fin {x m : Nat} {n : Bool} {e : Int} (dec : decodeF fp32 x = .fin n m e) :
    sfuTanh x = (signed32 n (if m = 0 then 0 else tanhMag (x % 2 ^ 31) m e), 0) := by
  unfold sfuTanh
  rw [dec]
  dsimp only
  split <;> rfl

theorem tanh_magnitude_le_one (x m : Nat) (e : Int) : (if m = 0 then 0 else tanhMag x m e) ≤ 0x3F800000 := by
  split
  · decide
  · exact tanhMag_le_one x ‹_› e

theorem sfuTanh_flipSign {x : Nat} (hx : x < 2 ^ 32) (number : (decodeF fp32 x).isNan = false) :
    sfuTanh (flipSign 31 x) = flipResult (sfuTanh x) := by
  have flip := decodeF_flipSign hx
  cases dec : decodeF fp32 x with
  | nan b => rw [dec] at number; cases number
  | inf n =>
    rw [dec] at flip
    rw [sfuTanh_inf flip, sfuTanh_inf dec, flipResult_signed32 n (by decide)]
  | fin n m e =>
    rw [dec] at flip
    rw [sfuTanh_fin flip, sfuTanh_fin dec, flipSign_magnitude hx, flipResult_signed32 n]
    exact (tanh_magnitude_le_one _ m e).trans_lt (by decide)

theorem sfuTanh_le_one {x : Nat} (number : (decodeF fp32 x).isNan = false) : (sfuTanh x).1 % 2 ^ 31 ≤ 0x3F800000 := by
  cases dec : decodeF fp32 x with
  | nan b => rw [dec] at number; cases number
  | inf n => rw [sfuTanh_inf dec, signed32_magnitude n (by decide)]
  | fin n m e =>
    have le := tanh_magnitude_le_one (x % 2 ^ 31) m e
    rw [sfuTanh_fin dec, signed32_magnitude n (le.trans_lt (by decide))]
    exact le

/-! ### All functions -/

theorem sfuFunctions_nan {x : Nat} {b : Bool} (dec : decodeF fp32 x = .nan b) :
    ∀ fn ∈ sfuFunctions, fn x = (0x7FC00000, if b then flagNV else 0) := by
  simp only [sfuFunctions, List.forall_mem_cons, sfuRcp, sfuRsq, sfuExp2, sfuLog2, sfuSinPi, sfuCosPi, sfuTanh, dec]
  exact ⟨rfl, rfl, rfl, rfl, rfl, rfl, rfl, by simp⟩

theorem sfuFunctions_flags (x : Nat) : ∀ fn ∈ sfuFunctions, UnitFlags (fn x).2 := by
  simp only [sfuFunctions, List.forall_mem_cons]
  exact ⟨sfuRcp_flags x, sfuRsq_flags x, sfuExp2_flags x, sfuLog2_flags x, sfuSinPi_flags x, sfuCosPi_flags x, sfuTanh_flags x, by simp⟩

/-- A negative number has no root and no logarithm. -/
theorem sfuRsq_sfuLog2_negative {x m : Nat} {e : Int} (dec : decodeF fp32 x = .fin true m e) (hm : m ≠ 0) :
    sfuRsq x = (0x7FC00000, flagNV) ∧ sfuLog2 x = (0x7FC00000, flagNV) := by
  simp only [sfuRsq, sfuLog2, dec, if_neg hm, if_true]
  exact ⟨rfl, rfl⟩

theorem sfuSpecialCasesHold : SfuSpecialCasesHold := by
  refine ⟨fun fn hfn x b dec => sfuFunctions_nan dec fn hfn, fun fn hfn x => sfuFunctions_flags x fn hfn,
    by decide, by decide, by decide, by decide, by decide, by decide, by decide, by decide, by decide, by decide, by decide, by decide,
    ?_, by decide, by decide, by decide, by decide, fun x m e => sfuRsq_sfuLog2_negative, fun x n m e => sfuSinPi_flipSign,
    fun x => sfuTanh_flipSign, fun x hx _ => sfuCosPi_flipSign hx, fun x _ => sfuTanh_le_one⟩
  rintro x (rfl | rfl) <;> decide

/-- Settles O5: the reduction tree of R393, conversion under SR (R386, R421), and the special inputs and symmetries of the
special function unit (R391, R392). -/
theorem specialConversions : Obligations.SpecialConversions :=
  ⟨reductionTreeHold, stochasticConversionHold, sfuSpecialCasesHold⟩

end Sys2Proof.Machine
end

section
/-!
SUPPORT. The model's readings of words (fields, bits, signed values, saturation) in the terms of bit vectors and integers.
-/

namespace Sys2Proof.Machine

open Sys2Proof

/-! ### Fields and bits -/

theorem bitN_eq_testBit (v n : Nat) : bitN v n = v.testBit n := by
  rw [bitN, Nat.testBit_eq_decide_div_mod_eq]

theorem bitW_eq_getLsbD (w : Word) (n : Nat) : bitW w n = w.getLsbD n := bitN_eq_testBit _ _

@[simp] theorem bitsW_five (w : Word) : bitsW w 5 0 = w.toNat % 64 := by simp [bitsW, bitsN]

@[simp] theorem bitsW_four (w : Word) : bitsW w 4 0 = w.toNat % 32 := by simp [bitsW, bitsN]

theorem getLsbD_word (n : Nat) {i : Nat} (hi : i < 64) : (word n).getLsbD i = n.testBit i := by
  rw [word, BitVec.getLsbD_ofNat, decide_eq_true hi, Bool.true_and]

theorem toNat_word {n : Nat} (h : n < 2 ^ 64) : (word n).toNat = n := Nat.mod_eq_of_lt h

/-- A truth value as a word. -/
theorem wordB_tests {b : Bool} {p : Prop} (h : b = true ↔ p) : (p ∧ wordB b = 1) ∨ (¬p ∧ wordB b = 0) := by
  cases b with
  | true => exact .inl ⟨h.1 rfl, rfl⟩
  | false => exact .inr ⟨fun hp => Bool.false_ne_true (h.2 hp), rfl⟩

theorem toNat_wordB (b : Bool) : (wordB b).toNat = b.toNat := by cases b <;> rfl

/-! ### Signed readings -/

theorem signedN_eq_bmod (v : Nat) {n : Nat} (hn : 0 < n) : signedN v n = Int.bmod v (2 ^ n) := by
  obtain ⟨m, rfl⟩ : ∃ m, n = m + 1 := ⟨n - 1, by omega⟩
  have half : (2 ^ (m + 1) : Nat) = 2 * 2 ^ m := by ring
  unfold signedN Int.bmod
  rw [Nat.add_sub_cancel, half, ← Int.natCast_mod]
  have : ((v % (2 * 2 ^ m) : Nat) : Int) < ((2 * 2 ^ m : Nat) + 1) / 2 ↔ v % (2 * 2 ^ m) < 2 ^ m := by omega
  simp only [this]

/-- The signed reading of a word is that of its low bits. -/
theorem signedW_eq_toInt (w : Word) {n : Nat} (hn : 0 < n) : signedW w n = (w.setWidth n).toInt := by
  rw [signedW, signedN_eq_bmod _ hn, BitVec.toInt_eq_toNat_bmod, BitVec.toNat_setWidth, Int.natCast_mod, Int.emod_bmod]

@[simp] theorem signedW_full (w : Word) : signedW w 64 = w.toInt := by
  rw [signedW_eq_toInt w (by decide), BitVec.setWidth_eq]

theorem wordI_signedW (w : Word) {n : Nat} (hn : 0 < n) : wordI (signedW w n) = (w.setWidth n).signExtend 64 := by
  rw [signedW_eq_toInt w hn]; rfl

theorem toInt_wordI {i : Int} (lo : -(2 ^ 63) ≤ i) (hi : i < 2 ^ 63) : (wordI i).toInt = i := by
  rw [wordI, BitVec.toInt_ofInt]
  exact Int.bmod_eq_of_le (by omega) (by omega)

theorem toInt_bounds (w : Word) : -(2 ^ 63) ≤ w.toInt ∧ w.toInt < 2 ^ 63 := ⟨BitVec.le_toInt w, BitVec.toInt_lt⟩

/-! ### Saturation -/

theorem satS_eq_clampS (v : Int) (n : Nat) : satS v n = clampS n v := by
  have : (1 : Int) ≤ 2 ^ (n - 1) := one_le_pow₀ (by decide)
  unfold satS clampS
  split
  · omega
  · split <;> omega

theorem toInt_wordI_satS (v : Int) : (wordI (satS v 64)).toInt = clampS 64 v := by
  have bounds : -(2 ^ 63) ≤ clampS 64 v ∧ clampS 64 v < 2 ^ 63 := by simp only [clampS]; omega
  rw [satS_eq_clampS, toInt_wordI bounds.1 bounds.2]

end Sys2Proof.Machine
end

section
/-!
SUPPORT. The results of integer arithmetic, logic and bit operations as their rules state them (R367 to R369, R399 to R409).
-/

namespace Sys2Proof.Machine

open Sys2Proof

/-! ### 64-bit arithmetic (R399, R400, R405) -/

theorem toNat_sub_emod (a b : Word) : ((a - b).toNat : Int) = ((a.toNat : Int) - b.toNat) % 2 ^ 64 := by
  rw [BitVec.toNat_sub]; omega

theorem toInt_minS (a b : Word) : (if a.slt b then a else b).toInt = min a.toInt b.toInt := by
  simp only [BitVec.slt_iff_toInt_lt]; split <;> omega

theorem toInt_maxS (a b : Word) : (if a.slt b then b else a).toInt = max a.toInt b.toInt := by
  simp only [BitVec.slt_iff_toInt_lt]; split <;> omega

theorem toNat_minN (a b : Word) : (if a < b then a else b).toNat = min a.toNat b.toNat := by
  simp only [BitVec.lt_def]; split <;> omega

theorem toNat_maxN (a b : Word) : (if a < b then b else a).toNat = max a.toNat b.toNat := by
  simp only [BitVec.lt_def]; split <;> omega

/-- CSEL tests D as a number. -/
theorem csel_eq (d a b : Word) : (if d ≠ 0 then a else b) = if d.toNat ≠ 0 then a else b := by
  simp [← BitVec.toNat_inj]

/-- The high word of a product of signed operands. -/
theorem toInt_mulHigh (a b : Word) : (mulHigh a.toInt b.toInt).toInt = a.toInt * b.toInt / 2 ^ 64 := by
  obtain ⟨a1, a2⟩ := toInt_bounds a
  obtain ⟨b1, b2⟩ := toInt_bounds b
  have size : |a.toInt * b.toInt| ≤ 2 ^ 63 * 2 ^ 63 := by
    rw [abs_mul]
    exact mul_le_mul (abs_le.2 ⟨a1, a2.le⟩) (abs_le.2 ⟨b1, b2.le⟩) (abs_nonneg _) (by decide)
  obtain ⟨lo, hi⟩ := abs_le.1 size
  exact toInt_wordI (by omega) (by omega)

theorem toNat_mulHigh (a b : Word) : (mulHigh a.toNat b.toNat).toNat = a.toNat * b.toNat / 2 ^ 64 := by
  have size : a.toNat * b.toNat < 2 ^ 64 * 2 ^ 64 := Nat.mul_lt_mul'' a.isLt b.isLt
  have high : a.toNat * b.toNat / 2 ^ 64 < 2 ^ 64 := Nat.div_lt_of_lt_mul size
  have cast : mulHigh a.toNat b.toNat = word (a.toNat * b.toNat / 2 ^ 64) := by
    rw [mulHigh, word, ← BitVec.ofInt_natCast, wordI]; push_cast; rfl
  rw [cast, toNat_word high]

theorem toNat_mac (d a b : Word) : (d + a * b).toNat = (d.toNat + a.toNat * b.toNat) % 2 ^ 64 := by
  simp [BitVec.toNat_add, BitVec.toNat_mul]

/-! ### Division (R368, R400) -/

theorem eq_zero_iff_toInt (w : Word) : w = 0 ↔ w.toInt = 0 := by rw [← BitVec.toInt_inj]; rfl

theorem eq_zero_iff_toNat (w : Word) : w = 0 ↔ w.toNat = 0 := by rw [← BitVec.toNat_inj]; rfl

/-- The quotient that overflows wraps; every other one fits. -/
theorem toInt_quotS (a b : Word) : (quotS a b).toInt =
    if b.toInt = 0 then -1
    else if a.toInt = -(2 ^ 63) ∧ b.toInt = -1 then -(2 ^ 63) else a.toInt.tdiv b.toInt := by
  simp only [quotS, eq_zero_iff_toInt, signedW_full]
  split
  · rfl
  · split
    case isTrue wraps => rw [wraps.1, wraps.2]; rfl
    case isFalse fits =>
      have apart : a ≠ BitVec.intMin 64 ∨ b ≠ -1#64 := by
        rw [ne_eq, ne_eq, ← not_and_or, ← BitVec.toInt_inj, ← BitVec.toInt_inj]; exact fits
      rw [wordI, BitVec.toInt_ofInt, ← BitVec.toInt_sdiv, BitVec.toInt_sdiv_of_ne_or_ne _ _ apart]

theorem toNat_quotN (a b : Word) : (quotN a b).toNat = if b.toNat = 0 then 2 ^ 64 - 1 else a.toNat / b.toNat := by
  simp only [quotN, eq_zero_iff_toNat]
  split
  · rfl
  · exact toNat_word (Nat.lt_of_le_of_lt (Nat.div_le_self _ _) a.isLt)

theorem toInt_remS (a b : Word) : (remS a b).toInt =
    if b.toInt = 0 then a.toInt
    else if a.toInt = -(2 ^ 63) ∧ b.toInt = -1 then 0 else a.toInt - b.toInt * a.toInt.tdiv b.toInt := by
  simp only [remS, eq_zero_iff_toInt, signedW_full]
  split
  · rfl
  · split
    case isTrue wraps => rw [wraps.1, wraps.2]; rfl
    case isFalse => rw [← Int.tmod_def, ← BitVec.toInt_srem, wordI, BitVec.ofInt_toInt]

theorem toNat_remN (a b : Word) : (remN a b).toNat =
    if b.toNat = 0 then a.toNat else a.toNat - b.toNat * (a.toNat / b.toNat) := by
  simp only [remN, eq_zero_iff_toNat]
  split
  · rfl
  · rw [toNat_word (Nat.lt_of_le_of_lt (Nat.mod_le _ _) a.isLt), Nat.mod_eq_sub]

end Sys2Proof.Machine
end

section
/-!
SUPPORT. Logic, shifts and bit operations as their rules state them (R369, R401 to R404, R406 to R409).
-/

namespace Sys2Proof.Machine

open Sys2Proof

/-! ### Logic and shifts (R401, R402) -/

theorem getLsbD_xnor (a b : Word) {n : Nat} (hn : n < 64) : (~~~(a ^^^ b)).getLsbD n = (a.getLsbD n == b.getLsbD n) := by
  rw [BitVec.getLsbD_not, BitVec.getLsbD_xor, decide_eq_true hn, Bool.true_and]
  cases a.getLsbD n <;> cases b.getLsbD n <;> rfl

theorem toNat_shl (a : Word) (n : Nat) : (a <<< n).toNat = a.toNat * 2 ^ n % 2 ^ 64 := by
  rw [BitVec.toNat_shiftLeft, Nat.shiftLeft_eq]

theorem toNat_shr (a : Word) (n : Nat) : (a >>> n).toNat = a.toNat / 2 ^ n := by
  rw [BitVec.toNat_ushiftRight, Nat.shiftRight_eq_div_pow]

theorem toInt_sar (a : Word) (n : Nat) : (a.sshiftRight n).toInt = a.toInt / 2 ^ n := by
  rw [BitVec.toInt_sshiftRight, Int.shiftRight_eq_div_pow]; push_cast; rfl

theorem getLsbD_rol (a : Word) {n k : Nat} (hn : n < 64) (hk : k < 64) :
    (a.rotateLeft k).getLsbD n = a.getLsbD ((n + 64 - k) % 64) := by
  rw [BitVec.getLsbD_rotateLeft, Nat.mod_eq_of_lt hk]
  rcases Nat.lt_or_ge n k with wraps | stays
  · rw [decide_eq_true wraps, cond_true]; congr 1; omega
  · rw [decide_eq_false (by omega), cond_false, decide_eq_true hn, Bool.true_and]; congr 1; omega

theorem getLsbD_ror (a : Word) {n k : Nat} (hn : n < 64) (hk : k < 64) :
    (a.rotateRight k).getLsbD n = a.getLsbD ((n + k) % 64) := by
  rw [BitVec.getLsbD_rotateRight, Nat.mod_eq_of_lt hk]
  rcases Nat.lt_or_ge n (64 - k) with stays | wraps
  · rw [decide_eq_true stays, cond_true]; congr 1; omega
  · rw [decide_eq_false (by omega), cond_false, decide_eq_true hn, Bool.true_and]; congr 1; omega

/-! ### Counts (R403) -/

theorem zerosAbove_spec (v : Nat) : ∀ n, zerosAbove n v ≤ n ∧ (∀ m, n - zerosAbove n v ≤ m → m < n → bitN v m = false) ∧
    (zerosAbove n v < n → bitN v (n - 1 - zerosAbove n v) = true)
  | 0 => ⟨le_rfl, fun _ _ h => absurd h (Nat.not_lt_zero _), fun h => absurd h (Nat.not_lt_zero _)⟩
  | n + 1 => by
    obtain ⟨le, clear, set⟩ := zerosAbove_spec v n
    unfold zerosAbove
    split
    case isTrue top => exact ⟨by omega, fun m _ _ => by omega, fun _ => top⟩
    case isFalse top =>
      refine ⟨by omega, fun m lo hi => ?_, fun _ => ?_⟩
      · rcases Nat.lt_succ_iff_lt_or_eq.1 hi with below | rfl
        · exact clear m (by omega) below
        · exact Bool.eq_false_iff.2 top
      · rw [show n + 1 - 1 - (1 + zerosAbove n v) = n - 1 - zerosAbove n v by omega]
        exact set (by omega)

theorem zerosBelow_spec : ∀ n v, zerosBelow n v ≤ n ∧ (∀ m, m < zerosBelow n v → bitN v m = false) ∧
    (zerosBelow n v < n → bitN v (zerosBelow n v) = true)
  | 0, _ => ⟨le_rfl, fun _ h => absurd h (Nat.not_lt_zero _), fun h => absurd h (Nat.not_lt_zero _)⟩
  | n + 1, v => by
    obtain ⟨le, clear, set⟩ := zerosBelow_spec n (v / 2)
    simp only [bitN_eq_testBit] at clear set ⊢
    unfold zerosBelow
    split
    case isTrue odd => exact ⟨by omega, fun m h => absurd h (Nat.not_lt_zero _), fun _ => by simp [odd]⟩
    case isFalse even =>
      refine ⟨by omega, fun m hm => ?_, fun _ => ?_⟩
      · cases m with
        | zero => simpa using even
        | succ m => rw [Nat.testBit_succ]; exact clear m (by omega)
      · rw [Nat.add_comm, Nat.testBit_succ]; exact set (by omega)

theorem popCount_eq_length : ∀ n v, popCount n v = ((List.range n).filter (fun i => v.testBit i)).length
  | 0, _ => rfl
  | n + 1, v => by
    have shifted : (List.range n).filter ((fun i => v.testBit i) ∘ Nat.succ) = (List.range n).filter (fun i => (v / 2).testBit i) := by
      simp only [Function.comp_def, Nat.testBit_succ]
    rw [popCount, popCount_eq_length n (v / 2), List.range_succ_eq_map, List.filter_cons, List.filter_map, shifted, Nat.testBit_zero]
    rcases Nat.mod_two_eq_zero_or_one v with even | odd
    · simp [even]
    · simp [odd, Nat.add_comm]

theorem clz_spec (a : Word) : (word (zerosAbove 64 a.toNat)).toNat ≤ 64 ∧
    (∀ n, 64 - (word (zerosAbove 64 a.toNat)).toNat ≤ n → n < 64 → a.getLsbD n = false) ∧
    ((word (zerosAbove 64 a.toNat)).toNat < 64 → a.getLsbD (63 - (word (zerosAbove 64 a.toNat)).toNat) = true) := by
  have spec := zerosAbove_spec a.toNat 64
  simp only [bitN_eq_testBit, BitVec.testBit_toNat] at spec
  rw [toNat_word (Nat.lt_of_le_of_lt spec.1 (by decide))]
  exact spec

theorem ctz_spec (a : Word) : (word (zerosBelow 64 a.toNat)).toNat ≤ 64 ∧
    (∀ n, n < (word (zerosBelow 64 a.toNat)).toNat → a.getLsbD n = false) ∧
    ((word (zerosBelow 64 a.toNat)).toNat < 64 → a.getLsbD (word (zerosBelow 64 a.toNat)).toNat = true) := by
  have spec := zerosBelow_spec 64 a.toNat
  simp only [bitN_eq_testBit, BitVec.testBit_toNat] at spec
  rw [toNat_word (Nat.lt_of_le_of_lt spec.1 (by decide))]
  exact spec

theorem toNat_popc (a : Word) : (word (popCount 64 a.toNat)).toNat = ((List.range 64).filter (fun n => a.getLsbD n)).length := by
  have few : popCount 64 a.toNat ≤ 64 := by
    rw [popCount_eq_length]; exact (List.length_filter_le _ _).trans (by simp)
  rw [toNat_word (by omega), popCount_eq_length]; rfl

/-! ### Reversals (R403) -/

theorem bitsReversed_lt : ∀ n v, bitsReversed n v < 2 ^ n
  | 0, _ => by simp [bitsReversed]
  | n + 1, v => by
    have := bitsReversed_lt n (v / 2)
    rcases Nat.mod_two_eq_zero_or_one v with h | h <;> simp only [bitsReversed, h, pow_succ] <;> omega

theorem testBit_bitsReversed : ∀ n v {i : Nat}, i < n → (bitsReversed n v).testBit i = v.testBit (n - 1 - i)
  | n + 1, v, i, hi => by
    rw [bitsReversed, Nat.mul_comm, Nat.testBit_two_pow_mul_add _ (bitsReversed_lt n _)]
    split
    case isTrue below =>
      rw [testBit_bitsReversed n (v / 2) below, ← Nat.testBit_succ]; congr 1; omega
    case isFalse top =>
      obtain rfl : i = n := by omega
      simp

theorem testBit_joinBytes : ∀ (l : List Byte) (i : Nat), (joinBytes l).testBit i = (l.getD (i / 8) 0).getLsbD (i % 8)
  | [], i => by simp [joinBytes]
  | b :: r, i => by
    rw [joinBytes, Nat.add_comm, show (256 : Nat) = 2 ^ 8 from rfl, Nat.testBit_two_pow_mul_add _ b.isLt]
    split
    case isTrue low => rw [Nat.div_eq_of_lt low, Nat.mod_eq_of_lt low]; rfl
    case isFalse high =>
      rw [testBit_joinBytes r, show i / 8 = (i - 8) / 8 + 1 by omega, show i % 8 = (i - 8) % 8 by omega]; rfl

theorem getLsbD_bswap (a : Word) {n : Nat} (hn : n < 64) :
    (word (joinBytes (spread 8 a.toNat).reverse)).getLsbD n = a.getLsbD (8 * (7 - n / 8) + n % 8) := by
  have byte : n / 8 < (spread 8 a.toNat).length := by rw [length_spread]; omega
  have swapped : (spread 8 a.toNat).reverse.getD (n / 8) 0 = BitVec.ofNat 8 (a.toNat / 256 ^ (7 - n / 8)) := by
    rw [List.getD_reverse _ byte, length_spread, ← nth_eq_getD, nth_spread 8 _ _ (by omega)]
  rw [getLsbD_word _ hn, testBit_joinBytes, swapped, BitVec.getLsbD_ofNat, decide_eq_true (by omega), Bool.true_and,
    show (256 : Nat) = 2 ^ 8 from rfl, ← Nat.pow_mul, Nat.testBit_div_two_pow, Nat.add_comm]; rfl

/-! ### Extensions (R403) -/

theorem extWidth_eq (v : Vals) : extWidth v.b = extendOf v := by simp only [extWidth, extendOf, bitsW_five]

theorem extendOf_pos (v : Vals) : 0 < extendOf v := by unfold extendOf; split <;> omega

theorem getLsbD_sext (a : Word) {n w : Nat} (hn : n < 64) (hw : 0 < w) :
    (wordI (signedW a w)).getLsbD n = a.getLsbD (min n (w - 1)) := by
  rw [wordI_signedW a hw, BitVec.getLsbD_signExtend, decide_eq_true hn, Bool.true_and]
  split
  case isTrue inside => rw [BitVec.getLsbD_setWidth, decide_eq_true inside, Bool.true_and, Nat.min_eq_left (by omega)]
  case isFalse beyond =>
    rw [BitVec.msb_eq_getLsbD_last, BitVec.getLsbD_setWidth, decide_eq_true (by omega), Bool.true_and, Nat.min_eq_right (by omega)]

theorem getLsbD_zext (a : Word) {n : Nat} (w : Nat) (hn : n < 64) :
    (word (a.toNat % 2 ^ w)).getLsbD n = (decide (n < w) && a.getLsbD n) := by
  rw [getLsbD_word _ hn, Nat.testBit_mod_two_pow]; rfl

/-! ### Comparisons (R404) -/

theorem and_ne_zero_iff (a b : Word) : a &&& b ≠ 0 ↔ ∃ n, a.getLsbD n = true ∧ b.getLsbD n = true := by
  constructor
  · intro nonzero
    by_contra apart
    refine nonzero (BitVec.eq_of_getLsbD_eq fun n _ => ?_)
    have clear : (a.getLsbD n && b.getLsbD n) = false := Bool.eq_false_iff.2 fun both => apart ⟨n, by simpa using both⟩
    rw [BitVec.getLsbD_and, clear]; simp
  · rintro ⟨n, ha, hb⟩ zero
    have := congrArg (fun w => w.getLsbD n) zero
    simp [ha, hb] at this

theorem not_slt_iff (a b : Word) : (!b.slt a) = true ↔ a.toInt ≤ b.toInt := by
  rw [BitVec.slt_eq_decide]; simp

theorem decide_eq_iff (a b : Word) : decide (a = b) = true ↔ a.toNat = b.toNat := by
  rw [decide_eq_true_iff, BitVec.toNat_inj]

theorem decide_ne_iff (a b : Word) : decide (a ≠ b) = true ↔ a.toNat ≠ b.toNat := by
  rw [decide_eq_true_iff, ne_eq, ne_eq, BitVec.toNat_inj]

/-! ### Immediates (R404, R407 to R409) -/

theorem toInt_signExtend {w : Nat} (m : BitVec w) (hw : w ≤ 64) : (m.signExtend 64).toInt = m.toInt :=
  BitVec.toInt_signExtend_of_le hw

theorem toNat_signExtend {w : Nat} (m : BitVec w) : ((m.signExtend 64).toNat : Int) = m.toInt % 2 ^ 64 := by
  rw [BitVec.signExtend, BitVec.toNat_ofInt]; omega

theorem decide_eq_imm_iff (a : Word) (m : BitVec 7) : decide (a = m.signExtend 64) = true ↔ a.toInt = m.toInt := by
  rw [decide_eq_true_iff, ← toInt_signExtend m (by decide), BitVec.toInt_inj]

theorem decide_ne_imm_iff (a : Word) (m : BitVec 7) : decide (a ≠ m.signExtend 64) = true ↔ a.toInt ≠ m.toInt := by
  rw [decide_eq_true_iff, ne_eq, ne_eq, ← toInt_signExtend m (by decide), BitVec.toInt_inj]

theorem slt_imm_iff (a : Word) (m : BitVec 7) : a.slt (m.signExtend 64) = true ↔ a.toInt < m.toInt := by
  rw [BitVec.slt_iff_toInt_lt, toInt_signExtend m (by decide)]

theorem not_slt_imm_iff (a : Word) (m : BitVec 7) : (!(m.signExtend 64).slt a) = true ↔ a.toInt ≤ m.toInt := by
  rw [not_slt_iff, toInt_signExtend m (by decide)]

theorem decide_lt_imm_iff (a : Word) (m : BitVec 7) :
    decide (a < m.signExtend 64) = true ↔ (a.toNat : Int) < m.toInt % 2 ^ 64 := by
  rw [decide_eq_true_iff, ← toNat_signExtend m, Nat.cast_lt, BitVec.lt_def]

theorem decide_le_imm_iff (a : Word) (m : BitVec 7) :
    decide (a ≤ m.signExtend 64) = true ↔ (a.toNat : Int) ≤ m.toInt % 2 ^ 64 := by
  rw [decide_eq_true_iff, ← toNat_signExtend m, Nat.cast_le, BitVec.le_def]

theorem getLsbD_signExtend_imm (m : BitVec 10) {n : Nat} (hn : n < 64) : (m.signExtend 64).getLsbD n = m.getLsbD (min n 9) := by
  rw [BitVec.getLsbD_signExtend, decide_eq_true hn, Bool.true_and]
  split
  case isTrue inside => rw [Nat.min_eq_left (by omega)]
  case isFalse beyond => rw [BitVec.msb_eq_getLsbD_last, Nat.min_eq_right (by omega)]

theorem toNat_lix (d : Word) (m : BitVec 17) : ((d <<< 17) ||| m.setWidth 64).toNat = d.toNat * 2 ^ 17 % 2 ^ 64 + m.toNat := by
  have shifted : d.toNat * 2 ^ 17 % 2 ^ 64 = 2 ^ 17 * (d.toNat % 2 ^ 47) := by omega
  rw [BitVec.toNat_or, toNat_shl, BitVec.toNat_setWidth, Nat.mod_eq_of_lt (by omega : m.toNat < 2 ^ 64), shifted,
    Nat.two_pow_add_eq_or_of_lt m.isLt]

theorem toNat_add_wordI (p : Word) (i : Int) : ((p + wordI i).toNat : Int) = ((p.toNat : Int) + i) % 2 ^ 64 := by
  rw [BitVec.toNat_add, wordI, BitVec.toNat_ofInt]; omega

theorem toNat_add_signExtend {w : Nat} (a : Word) (m : BitVec w) :
    ((a + m.signExtend 64).toNat : Int) = ((a.toNat : Int) + m.toInt) % 2 ^ 64 := toNat_add_wordI a m.toInt

theorem toNat_lea (a b n : Word) : (a + b * n).toNat = (a.toNat + b.toNat * n.toNat) % 2 ^ 64 := toNat_mac a b n

/-! ### 32-bit arithmetic (R406) -/

/-- A 32-bit result is the signed reading of any number it is congruent to. -/
theorem toInt_extW {x : BitVec 32} {p : Int} (h : (x.toNat : Int) % 2 ^ 32 = p % 2 ^ 32) : (extW x).toInt = Int.bmod p (2 ^ 32) := by
  have cast : ((2 ^ 32 : Nat) : Int) = 2 ^ 32 := by norm_num
  rw [extW, toInt_signExtend x (by decide), BitVec.toInt_eq_toNat_bmod, ← Int.emod_bmod, ← Int.emod_bmod p, cast, h]

theorem toNat_low (a : Word) : (a.setWidth 32).toNat = lowN a := BitVec.toNat_setWidth _ _

theorem toInt_low (a : Word) : (a.setWidth 32).toInt = lowS a := by
  rw [BitVec.toInt_eq_toNat_bmod, BitVec.toNat_setWidth, Int.natCast_mod, Int.emod_bmod]; rfl

theorem toInt_addw (a b : Word) : (extW (a.setWidth 32 + b.setWidth 32)).toInt = Int.bmod (lowN a + lowN b) (2 ^ 32) := by
  refine toInt_extW ?_
  rw [BitVec.toNat_add, toNat_low, toNat_low]; omega

theorem toInt_subw (a b : Word) : (extW (a.setWidth 32 - b.setWidth 32)).toInt = Int.bmod (lowN a - lowN b) (2 ^ 32) := by
  have : lowN b < 2 ^ 32 := Nat.mod_lt _ (by decide)
  refine toInt_extW ?_
  rw [BitVec.toNat_sub, toNat_low, toNat_low]; omega

theorem toInt_mulw (a b : Word) : (extW (a.setWidth 32 * b.setWidth 32)).toInt = Int.bmod (lowN a * lowN b) (2 ^ 32) := by
  refine toInt_extW ?_
  rw [BitVec.toNat_mul, toNat_low, toNat_low]; push_cast; exact Int.emod_emod _ _

theorem toInt_shlw (a : Word) (n : Nat) : (extW (a.setWidth 32 <<< n)).toInt = Int.bmod (lowN a * 2 ^ n) (2 ^ 32) := by
  refine toInt_extW ?_
  rw [BitVec.toNat_shiftLeft, Nat.shiftLeft_eq, toNat_low]; push_cast; exact Int.emod_emod _ _

theorem toInt_shrw (a : Word) (n : Nat) : (extW (a.setWidth 32 >>> n)).toInt = Int.bmod (lowN a / 2 ^ n : Nat) (2 ^ 32) := by
  refine toInt_extW ?_
  rw [BitVec.toNat_ushiftRight, Nat.shiftRight_eq_div_pow, toNat_low]

theorem toInt_sarw (a : Word) (n : Nat) : (extW ((a.setWidth 32).sshiftRight n)).toInt = Int.bmod (lowS a / 2 ^ n) (2 ^ 32) := by
  rw [extW, toInt_signExtend _ (by decide), ← BitVec.toInt_bmod_cancel, BitVec.toInt_sshiftRight, Int.shiftRight_eq_div_pow, toInt_low]
  push_cast; rfl

end Sys2Proof.Machine
end

section
/-!
SUPPORT. Packed integers element by element (R374, R410 to R412).
-/

namespace Sys2Proof.Machine

open Sys2Proof

/-! ### Elements of a register -/

theorem bitsN_element (x : Word) {w : Nat} (hw : 0 < w) (i : Nat) : bitsN x.toNat (w * i + w - 1) (w * i) = elN w i x := by
  rw [bitsN, show w * i + w - 1 + 1 - w * i = w by omega]; rfl

theorem elN_lt (w i : Nat) (x : Word) : elN w i x < 2 ^ w := Nat.mod_lt _ (by positivity)

theorem signedN_elN {w : Nat} (hw : 0 < w) (i : Nat) (x : Word) : signedN (elN w i x) w = elS w i x := signedN_eq_bmod _ hw

theorem elS_emod (w i : Nat) (x : Word) : elS w i x % 2 ^ w = (elN w i x : Int) % 2 ^ w := by
  have := Int.bmod_emod (x := (elN w i x : Int)) (m := 2 ^ w)
  push_cast at this; exact this

theorem elN_join {w : Nat} {l : List Nat} (full : w * l.length = 64) {i : Nat} (hi : i < l.length) :
    elN w i (word (joinElements w l)) = l[i] % 2 ^ w := by
  have fits : joinElements w l < 2 ^ 64 := full ▸ joinElements_lt w l
  rw [elN, toNat_word fits, joinElements_field w l i hi]

theorem lowBits_emod (p : Int) (n : Nat) : (lowBits p n : Int) % 2 ^ n = p % 2 ^ n := by
  rw [lowBits, Int.toNat_of_nonneg (Int.emod_nonneg _ (by positivity)), Int.emod_emod]

/-! ### Operations on pairs of elements (R410, R411) -/

/-- An element of the result is congruent to what the operation says of the two elements in its place. -/
theorem eachEl_element {w n : Nat} (full : w * n = 64) {f : Nat → Nat → Nat} {a b : Word} {p : Int} {i : Nat} (hi : i < 64 / w)
    (h : (f (elN w i a) (elN w i b) : Int) % 2 ^ w = p % 2 ^ w) : (elN w i (eachEl w n f a b) : Int) = p % 2 ^ w := by
  have hw : 0 < w := Nat.pos_of_ne_zero (by rintro rfl; simp at full)
  have hn : i < n := by rwa [← full, Nat.mul_div_cancel_left n hw] at hi
  have len : ((elements w n a).zipWith f (elements w n b)).length = n := by simp [elements]
  rw [eachEl, elN_join (by rw [len]; exact full) (by rw [len]; exact hn), ← h]
  simp [elements, bitsN_element _ hw]

theorem sub_element {w y : Nat} (x : Nat) (hy : y < 2 ^ w) : ((x + (2 ^ w - y) : Nat) : Int) % 2 ^ w = ((x : Int) - y) % 2 ^ w := by
  rw [show ((x + (2 ^ w - y) : Nat) : Int) = (x : Int) - y + 2 ^ w by rw [Nat.cast_add, Nat.cast_sub hy.le]; push_cast; ring,
    Int.add_emod_right]

theorem adds_element {w : Nat} (hw : 0 < w) (i : Nat) (a b : Word) :
    (lowBits (satS (signedN (elN w i a) w + signedN (elN w i b) w) w) w : Int) % 2 ^ w = clampS w (elS w i a + elS w i b) % 2 ^ w := by
  rw [lowBits_emod, satS_eq_clampS, signedN_elN hw, signedN_elN hw]

theorem max_element {w : Nat} (hw : 0 < w) (i : Nat) (a b : Word) :
    ((if signedN (elN w i a) w < signedN (elN w i b) w then elN w i b else elN w i a : Nat) : Int) % 2 ^ w =
      max (elS w i a) (elS w i b) % 2 ^ w := by
  rw [signedN_elN hw, signedN_elN hw]
  split
  case isTrue less => rw [max_eq_right less.le, elS_emod]
  case isFalse most => rw [max_eq_left (not_lt.1 most), elS_emod]

theorem min_element {w : Nat} (hw : 0 < w) (i : Nat) (a b : Word) :
    ((if signedN (elN w i b) w < signedN (elN w i a) w then elN w i b else elN w i a : Nat) : Int) % 2 ^ w =
      min (elS w i a) (elS w i b) % 2 ^ w := by
  rw [signedN_elN hw, signedN_elN hw]
  split
  case isTrue less => rw [min_eq_right less.le, elS_emod]
  case isFalse least => rw [min_eq_left (not_lt.1 least), elS_emod]

/-! ### Dot products (R411) -/

/-- Word `j` of a dot product, for a reading `el` of the elements that is the model's own. -/
theorem dotWords_element {w k : Nat} {signed : Bool} {el : Nat → Nat → Word → Int} (hw : 0 < w)
    (reading : ∀ i x, (if signed then signedN (elN w i x) w else (elN w i x : Int)) = el w i x) (v : Vals) {j : Nat} (hj : j < 64 / 32) :
    (elN 32 j (dotWords w k signed v.a v.b v.d) : Int) = (elN 32 j v.d + dotIn w k j el v) % 2 ^ 32 := by
  have word32 : bitsN v.d.toNat (32 * j + 31) (32 * j) = elN 32 j v.d := bitsN_element v.d (by decide) j
  rw [dotWords, elN_join (by simp) (by simpa using hj)]
  simp only [List.getElem_map, List.getElem_range, bitsN_element _ hw, reading, word32]
  rw [← List.sum_eq_foldl, Int.natCast_mod]
  exact lowBits_emod _ 32

theorem dotWords_signed {w k : Nat} (hw : 0 < w) (v : Vals) {j : Nat} (hj : j < 64 / 32) :
    (elN 32 j (dotWords w k true v.a v.b v.d) : Int) = (elN 32 j v.d + dotIn w k j elS v) % 2 ^ 32 :=
  dotWords_element hw (fun i x => (if_pos rfl).trans (signedN_elN hw i x)) v hj

theorem dotWords_unsigned {w k : Nat} (hw : 0 < w) (v : Vals) {j : Nat} (hj : j < 64 / 32) :
    (elN 32 j (dotWords w k false v.a v.b v.d) : Int) = (elN 32 j v.d + dotIn w k j (fun w i x => elN w i x) v) % 2 ^ 32 :=
  dotWords_element hw (fun _ _ => if_neg Bool.false_ne_true) v hj

/-! ### Permutations (R412) -/

theorem elN_packlo (a b : Word) {i : Nat} (hi : i < 64 / 32) :
    (elN 32 i (word (a.toNat % 2 ^ 32 + b.toNat % 2 ^ 32 * 2 ^ 32)) : Int) =
      (if i = 0 then (elN 32 0 a : Int) else elN 32 0 b) % 2 ^ 32 := by
  rw [elN, toNat_word (by omega)]
  obtain rfl | rfl : i = 0 ∨ i = 1 := by omega
  · simp only [elN, if_true]; omega
  · simp only [elN, if_neg one_ne_zero]; omega

theorem elN_packhi (a b : Word) {i : Nat} (hi : i < 64 / 32) :
    (elN 32 i (word (a.toNat / 2 ^ 32 + b.toNat / 2 ^ 32 * 2 ^ 32)) : Int) =
      (if i = 0 then (elN 32 1 a : Int) else elN 32 1 b) % 2 ^ 32 := by
  rw [elN, toNat_word (by omega)]
  obtain rfl | rfl : i = 0 ∨ i = 1 := by omega
  · simp only [elN, if_true]; omega
  · simp only [elN, if_neg one_ne_zero]; omega

theorem elN_shuffled (a b : Word) {i : Nat} (hi : i < 64 / 8) :
    (elN 8 i (shuffled a b) : Int) = (if elN 8 i b ≥ 128 then (0 : Int) else elN 8 (elN 8 i b % 8) a) % 2 ^ 8 := by
  have byte (x : Word) (j : Nat) : bitsN x.toNat (8 * j + 7) (8 * j) = elN 8 j x := bitsN_element x (by decide) j
  rw [shuffled, elN_join (by simp) (by simpa using hi)]
  simp only [List.getElem_map, List.getElem_range, byte]
  push_cast; rfl

end Sys2Proof.Machine
end

section
/-!
SUPPORT. The integer instructions issue with exactly the results of their rules (R369, R399 to R412).
-/

namespace Sys2Proof.Machine

open Sys2Proof

/-! ### From an instruction's function to its rule -/

/-- The instruction issues with exactly the result that `k` says: what `Computed` asks of each entry of a table. -/
def Meets (s : State) (c : Ctx) (i : Instr) (k : Computes) : Prop :=
  ∃ t, exec i s = .next t ∧ OnlyComputes s t c (some k.dest) false ∧
    ∀ e ∈ c.lanes, ∃ r, k.res c (c.lanes.map (valsOf s c i)) (valsOf s c i e) r ∧ Delivered s t c i k e r

theorem computed_iff {table : Instr → Option Computes} :
    Computed table ↔ ∀ s c i k, Issues s c i → table i = some k → Meets s c i k := Iff.rfl

section
variable {s : State} {c : Ctx} {i : Instr} {maj f : Nat} {sw : Bool} {o : Operands} {d : RegName} {fn : Vals → Word}
  {p : Vals → Word → Prop} {k : Computes}

/-- An instruction of ALU class meets a rule that its function meets. -/
theorem meets_quick (h : Issues s c i) (hk : quick d p = some k) (run : exec i s = issueAlu s maj f sw o d fn)
    (rule : ∀ v, p v (fn v)) (ho : opcode i = some (maj, f) := by rfl) (hr : operands i = o := by rfl)
    (hx : extraRegs i = [] := by rfl) : Meets s c i k := by
  obtain rfl := Option.some.inj hk
  obtain ⟨t, next, frame, hold⟩ := issueAlu_spec (sw := sw) (d := d) (fn := fn) h ho hr hx
  exact ⟨t, run.trans next, frame, fun e he => ⟨_, rule _, (if_neg Bool.false_ne_true).mpr (hold e he)⟩⟩

/-- An instruction with a long-latency result meets a rule that its function meets. -/
theorem meets_slow (h : Issues s c i) (hk : slow d p = some k) (run : exec i s = issueLong s maj f sw o d fn)
    (rule : ∀ v, p v (fn v)) (ho : opcode i = some (maj, f) := by rfl) (hr : operands i = o := by rfl)
    (hx : extraRegs i = [] := by rfl) : Meets s c i k := by
  obtain rfl := Option.some.inj hk
  obtain ⟨t, next, frame, out⟩ := issueLong_spec (sw := sw) (d := d) (fn := fn) h ho hr hx
  exact ⟨t, run.trans next, frame, fun e he => ⟨_, rule _, (if_pos rfl).mpr (out e he)⟩⟩

end

/-- ADDPC is of ALU class: the charge leaves the pc that it adds to. -/
theorem execAddpc_eq {s : State} {c : Ctx} {sw : Bool} {d : RegName} {imm : BitVec 17} (h : Issues s c (.addpc sw d imm)) :
    exec (.addpc sw d imm) s = issueAlu s 0x11 0 sw { dst := some d } d (fun _ => c.st.pc + wordI (4 * imm.toInt)) := by
  obtain ⟨c', hb⟩ := beforeEffect_spec h.ctx (operands (.addpc sw d imm)) (chargeUnits 0x11 0)
  have pc : c'.st.pc = c.st.pc := by rw [← hb.stream]
  refine (issueWith_go h rfl rfl rfl rfl).trans (Eq.trans ?_ (issueWith_go h rfl rfl rfl rfl).symm)
  rw [runEffect_eq hb.ctx, runEffect_eq hb.ctx, pc]

/-! ### Arithmetic

In each proof below the cases are the rows of the rule's table in their order; the last is that of the instructions it does not list. -/

theorem arith_computed : Computed arithRule := by
  rw [computed_iff]
  intro s c i k h
  fun_cases arithRule i with
  | case1 => exact fun hk => meets_quick h hk rfl fun v => BitVec.toNat_add v.a v.b
  | case2 => exact fun hk => meets_quick h hk rfl fun v => toNat_sub_emod v.a v.b
  | case3 => exact fun hk => meets_quick h hk rfl fun v => toInt_minS v.a v.b
  | case4 => exact fun hk => meets_quick h hk rfl fun v => toInt_maxS v.a v.b
  | case5 => exact fun hk => meets_quick h hk rfl fun v => toNat_minN v.a v.b
  | case6 => exact fun hk => meets_quick h hk rfl fun v => toNat_maxN v.a v.b
  | case7 => exact fun hk => meets_quick h hk rfl fun v => by simp only [signedW_full]; exact toInt_wordI_satS _
  | case8 => exact fun hk => meets_quick h hk rfl fun v => by simp only [signedW_full]; exact toInt_wordI_satS _
  | case9 => exact fun hk => meets_quick h hk rfl fun v => csel_eq v.d v.a v.b
  | case10 => exact fun hk => absurd hk.symm (Option.some_ne_none k)

theorem muldiv_computed : Computed muldivRule := by
  rw [computed_iff]
  intro s c i k h
  fun_cases muldivRule i with
  | case1 => exact fun hk => meets_quick h hk rfl fun v => BitVec.toNat_mul v.a v.b
  | case2 => exact fun hk => meets_quick h hk rfl fun v => by simp only [signedW_full]; exact toInt_mulHigh v.a v.b
  | case3 => exact fun hk => meets_quick h hk rfl fun v => toNat_mulHigh v.a v.b
  | case4 => exact fun hk => meets_quick h hk rfl fun v => toNat_mac v.d v.a v.b
  | case5 => exact fun hk => meets_slow h hk rfl fun v => toInt_quotS v.a v.b
  | case6 => exact fun hk => meets_slow h hk rfl fun v => toNat_quotN v.a v.b
  | case7 => exact fun hk => meets_slow h hk rfl fun v => toInt_remS v.a v.b
  | case8 => exact fun hk => meets_slow h hk rfl fun v => toNat_remN v.a v.b
  | case9 => exact fun hk => absurd hk.symm (Option.some_ne_none k)

theorem arithw_computed : Computed arithwRule := by
  rw [computed_iff]
  intro s c i k h
  fun_cases arithwRule i with
  | case1 => exact fun hk => meets_quick h hk rfl fun v => toInt_addw v.a v.b
  | case2 => exact fun hk => meets_quick h hk rfl fun v => toInt_subw v.a v.b
  | case3 => exact fun hk => meets_quick h hk rfl fun v => toInt_mulw v.a v.b
  | case4 => exact fun hk => meets_quick h hk rfl fun v => by simp only [bitsW_four]; exact toInt_shlw v.a _
  | case5 => exact fun hk => meets_quick h hk rfl fun v => by simp only [bitsW_four]; exact toInt_shrw v.a _
  | case6 => exact fun hk => meets_quick h hk rfl fun v => by simp only [bitsW_four]; exact toInt_sarw v.a _
  | case7 => exact fun hk => absurd hk.symm (Option.some_ne_none k)

theorem integerArithmeticHold : IntegerArithmeticHold := ⟨arith_computed, muldiv_computed, arithw_computed⟩

/-! ### Logic, bits, comparisons and immediates -/

theorem countOf_eq (v : Vals) : bitsW v.b 5 0 = countOf v := bitsW_five v.b

theorem countOf_lt (v : Vals) : countOf v < 64 := Nat.mod_lt _ (by decide)

theorem logic_computed : Computed logicRule := by
  rw [computed_iff]
  intro s c i k h
  fun_cases logicRule i with
  | case1 => exact fun hk => meets_quick h hk rfl fun v n _ => BitVec.getLsbD_and
  | case2 => exact fun hk => meets_quick h hk rfl fun v n _ => BitVec.getLsbD_or
  | case3 => exact fun hk => meets_quick h hk rfl fun v n _ => BitVec.getLsbD_xor
  | case4 => exact fun hk => meets_quick h hk rfl fun v n hn => by simp [hn]
  | case5 => exact fun hk => meets_quick h hk rfl fun v n hn => by simp [hn]
  | case6 => exact fun hk => meets_quick h hk rfl fun v n hn => getLsbD_xnor v.a v.b hn
  | case7 => exact fun hk => meets_quick h hk rfl fun v => by rw [countOf_eq, bitW_eq_getLsbD, toNat_wordB]
  | case8 => exact fun hk => meets_quick h hk rfl fun v => by rw [countOf_eq]; exact toNat_shl v.a _
  | case9 => exact fun hk => meets_quick h hk rfl fun v => by rw [countOf_eq]; exact toNat_shr v.a _
  | case10 => exact fun hk => meets_quick h hk rfl fun v => by rw [countOf_eq]; exact toInt_sar v.a _
  | case11 => exact fun hk => meets_quick h hk rfl fun v n hn => by rw [countOf_eq]; exact getLsbD_rol v.a hn (countOf_lt v)
  | case12 => exact fun hk => meets_quick h hk rfl fun v n hn => by rw [countOf_eq]; exact getLsbD_ror v.a hn (countOf_lt v)
  | case13 => exact fun hk => meets_quick h hk rfl fun v => toNat_shl v.a _
  | case14 => exact fun hk => meets_quick h hk rfl fun v => toNat_shr v.a _
  | case15 => exact fun hk => meets_quick h hk rfl fun v => toInt_sar v.a _
  | case16 _ _ _ m => exact fun hk => meets_quick h hk rfl fun v n hn => getLsbD_rol v.a hn m.isLt
  | case17 _ _ _ m => exact fun hk => meets_quick h hk rfl fun v n hn => getLsbD_ror v.a hn m.isLt
  | case18 => exact fun hk => absurd hk.symm (Option.some_ne_none k)

theorem bits_computed : Computed bitsRule := by
  rw [computed_iff]
  intro s c i k h
  fun_cases bitsRule i with
  | case1 => exact fun hk => meets_quick h hk rfl fun v => clz_spec v.a
  | case2 => exact fun hk => meets_quick h hk rfl fun v => ctz_spec v.a
  | case3 => exact fun hk => meets_quick h hk rfl fun v => toNat_popc v.a
  | case4 => exact fun hk => meets_quick h hk rfl fun v n hn => (getLsbD_word _ hn).trans (testBit_bitsReversed 64 v.a.toNat hn)
  | case5 => exact fun hk => meets_quick h hk rfl fun v n hn => getLsbD_bswap v.a hn
  | case6 => exact fun hk => meets_quick h hk rfl fun v n hn => by rw [extWidth_eq]; exact getLsbD_sext v.a hn (extendOf_pos v)
  | case7 => exact fun hk => meets_quick h hk rfl fun v n hn => by rw [extWidth_eq]; exact getLsbD_zext v.a _ hn
  | case8 => exact fun hk => absurd hk.symm (Option.some_ne_none k)

theorem compare_computed : Computed compareRule := by
  rw [computed_iff]
  intro s c i k h
  fun_cases compareRule i with
  | case1 => exact fun hk => meets_quick h hk rfl fun v => wordB_tests (decide_eq_iff v.a v.b)
  | case2 => exact fun hk => meets_quick h hk rfl fun v => wordB_tests (decide_ne_iff v.a v.b)
  | case3 => exact fun hk => meets_quick h hk rfl fun v => wordB_tests BitVec.slt_iff_toInt_lt
  | case4 => exact fun hk => meets_quick h hk rfl fun v => wordB_tests (not_slt_iff v.a v.b)
  | case5 => exact fun hk => meets_quick h hk rfl fun v => wordB_tests decide_eq_true_iff
  | case6 => exact fun hk => meets_quick h hk rfl fun v => wordB_tests decide_eq_true_iff
  | case7 => exact fun hk => meets_quick h hk rfl fun v => wordB_tests (decide_eq_true_iff.trans (and_ne_zero_iff v.a v.b))
  | case8 _ _ _ m => exact fun hk => meets_quick h hk rfl fun v => wordB_tests (decide_eq_imm_iff v.a m)
  | case9 _ _ _ m => exact fun hk => meets_quick h hk rfl fun v => wordB_tests (decide_ne_imm_iff v.a m)
  | case10 _ _ _ m => exact fun hk => meets_quick h hk rfl fun v => wordB_tests (slt_imm_iff v.a m)
  | case11 _ _ _ m => exact fun hk => meets_quick h hk rfl fun v => wordB_tests (not_slt_imm_iff v.a m)
  | case12 _ _ _ m => exact fun hk => meets_quick h hk rfl fun v => wordB_tests (decide_lt_imm_iff v.a m)
  | case13 _ _ _ m => exact fun hk => meets_quick h hk rfl fun v => wordB_tests (decide_le_imm_iff v.a m)
  | case14 => exact fun hk => meets_quick h hk rfl fun v => wordB_tests (decide_eq_true_iff.trans (and_ne_zero_iff v.a _))
  | case15 => exact fun hk => absurd hk.symm (Option.some_ne_none k)

theorem immediate_computed : Computed immediateRule := by
  rw [computed_iff]
  intro s c i k h
  fun_cases immediateRule i with
  | case1 _ _ _ m => exact fun hk => meets_quick h hk rfl fun v => toNat_add_signExtend v.a m
  | case2 _ _ _ m => exact fun hk => meets_quick h hk rfl fun v n hn => by rw [BitVec.getLsbD_and, getLsbD_signExtend_imm m hn]
  | case3 => exact fun hk => meets_quick h hk rfl fun v n hn => by simp [hn]
  | case4 => exact fun hk => meets_quick h hk rfl fun v n hn => by simp [hn]
  | case5 _ _ m => exact fun hk => meets_quick h hk rfl fun _ => toInt_signExtend m (by decide)
  | case6 _ _ m => exact fun hk => meets_quick h hk rfl fun v => toNat_lix v.d m
  | case7 =>
    intro hk
    obtain ⟨t, next, frame, rule⟩ := meets_quick (p := fun _ r => r = _) h rfl (execAddpc_eq h) (fun _ => rfl)
    obtain rfl := Option.some.inj hk
    refine ⟨t, next, frame, fun e he => ?_⟩
    obtain ⟨r, rfl, hold⟩ := rule e he
    exact ⟨_, toNat_add_wordI _ _, hold⟩
  | case8 => exact fun hk => meets_quick h hk rfl fun v => toNat_lea v.a v.b 1
  | case9 => exact fun hk => meets_quick h hk rfl fun v => toNat_lea v.a v.b 2
  | case10 => exact fun hk => meets_quick h hk rfl fun v => toNat_lea v.a v.b 4
  | case11 => exact fun hk => meets_quick h hk rfl fun v => toNat_lea v.a v.b 8
  | case12 => exact fun hk => meets_quick h hk rfl fun v => toNat_lea v.a v.b 16
  | case13 => exact fun hk => absurd hk.symm (Option.some_ne_none k)

theorem integerLogicHold : IntegerLogicHold := ⟨logic_computed, bits_computed, compare_computed, immediate_computed⟩

/-! ### Packed integers -/

theorem packedIntegersHold : PackedIntegersHold := by
  rw [PackedIntegersHold, computed_iff]
  intro s c i k h
  fun_cases packedRule i with
  | case1 => exact fun hk => meets_quick h hk rfl fun v n hn => eachEl_element (by decide) hn (by push_cast; rfl)
  | case2 => exact fun hk => meets_quick h hk rfl fun v n hn => eachEl_element (by decide) hn (by push_cast; rfl)
  | case3 => exact fun hk => meets_quick h hk rfl fun v n hn => eachEl_element (by decide) hn (by push_cast; rfl)
  | case4 => exact fun hk => meets_quick h hk rfl fun v n hn => eachEl_element (by decide) hn (sub_element _ (elN_lt 8 n v.b))
  | case5 => exact fun hk => meets_quick h hk rfl fun v n hn => eachEl_element (by decide) hn (sub_element _ (elN_lt 16 n v.b))
  | case6 => exact fun hk => meets_quick h hk rfl fun v n hn => eachEl_element (by decide) hn (sub_element _ (elN_lt 32 n v.b))
  | case7 => exact fun hk => meets_quick h hk rfl fun v n hn => eachEl_element (by decide) hn (adds_element (by decide) n v.a v.b)
  | case8 => exact fun hk => meets_quick h hk rfl fun v n hn => eachEl_element (by decide) hn (adds_element (by decide) n v.a v.b)
  | case9 => exact fun hk => meets_quick h hk rfl fun v n hn => eachEl_element (by decide) hn (by push_cast; rfl)
  | case10 => exact fun hk => meets_quick h hk rfl fun v n hn => eachEl_element (by decide) hn (by push_cast; rfl)
  | case11 => exact fun hk => meets_quick h hk rfl fun v n hn => dotWords_signed (w := 8) (by decide) v hn
  | case12 => exact fun hk => meets_quick h hk rfl fun v n hn => dotWords_unsigned (by decide) v hn
  | case13 => exact fun hk => meets_quick h hk rfl fun v n hn => dotWords_signed (w := 16) (by decide) v hn
  | case14 => exact fun hk => meets_quick h hk rfl fun v n hn => eachEl_element (by decide) hn (max_element (by decide) n v.a v.b)
  | case15 => exact fun hk => meets_quick h hk rfl fun v n hn => eachEl_element (by decide) hn (min_element (by decide) n v.a v.b)
  | case16 => exact fun hk => meets_quick h hk rfl fun v n hn => elN_packlo v.a v.b hn
  | case17 => exact fun hk => meets_quick h hk rfl fun v n hn => elN_packhi v.a v.b hn
  | case18 => exact fun hk => meets_quick h hk rfl fun v n hn => elN_shuffled v.a v.b hn
  | case19 => exact fun hk => absurd hk.symm (Option.some_ne_none k)

/-- Settles O1: every integer instruction issues with exactly the result of its rule, by its function (R369, R399 to R412). -/
theorem integerOperations : Obligations.IntegerOperations := ⟨integerArithmeticHold, integerLogicHold, packedIntegersHold⟩

end Sys2Proof.Machine
end

section
/-!
SUPPORT. Lane operations and group reductions as their rules state them (R433 to R435): folds over the active lanes, and the lanes' votes.
-/

namespace Sys2Proof.Machine

open Sys2Proof

/-! ### Reductions (R435) -/

/-- What holds of one lane's operand, and is kept when a further lane is combined, holds of every reduction. -/
theorem combine_induction {f : Word → Word → Word} {P : List Vals → Word → Prop} (one : ∀ v, P [v] v.a)
    (more : ∀ vs u x, P vs x → P (vs ++ [u]) (f x u.a)) {vs : List Vals} (nonempty : vs ≠ []) : P vs (combine f vs) := by
  obtain ⟨v, r, rfl⟩ := List.exists_cons_of_ne_nil nonempty
  clear nonempty
  induction r using List.reverseRecOn with
  | nil => exact one v
  | append_singleton r u ih =>
    have last : combine f (v :: (r ++ [u])) = f (combine f (v :: r)) u.a := by simp [combine]
    rw [last]
    exact more (v :: r) u _ ih

theorem combine_add {vs : List Vals} (nonempty : vs ≠ []) :
    (combine (· + ·) vs).toNat = (vs.map (fun u => u.a.toNat)).sum % 2 ^ 64 := by
  refine combine_induction (P := fun vs x => x.toNat = (vs.map (fun u => u.a.toNat)).sum % 2 ^ 64) (fun v => ?_) (fun vs u x ih => ?_) nonempty
  · simpa using (Nat.mod_eq_of_lt v.a.isLt).symm
  · simp [BitVec.toNat_add, ih]

/-- A reduction that keeps one of two operands, the one that stands first in an order, ends with the first of all. -/
theorem combine_first {f : Word → Word → Word} {le : Word → Word → Prop} (self : ∀ x, le x x)
    (trans : ∀ {x y z}, le x y → le y z → le x z) (picks : ∀ x y, (f x y = x ∧ le x y) ∨ (f x y = y ∧ le y x))
    {vs : List Vals} (nonempty : vs ≠ []) :
    (∃ u ∈ vs, combine f vs = u.a) ∧ ∀ u ∈ vs, le (combine f vs) u.a := by
  refine combine_induction (P := fun vs x => (∃ u ∈ vs, x = u.a) ∧ ∀ u ∈ vs, le x u.a) (fun v => ?_) (fun vs u x ih => ?_) nonempty
  · simpa using self v.a
  · obtain ⟨⟨w, hw, from_⟩, first⟩ := ih
    simp only [List.mem_append, List.mem_singleton]
    rcases picks x u.a with ⟨keeps, before⟩ | ⟨takes, before⟩
    · rw [keeps]
      exact ⟨⟨w, .inl hw, from_⟩, fun y hy => hy.elim (first y) (fun e => e ▸ before)⟩
    · rw [takes]
      exact ⟨⟨u, .inr rfl, rfl⟩, fun y hy => hy.elim (fun m => trans before (first y m)) (fun e => e ▸ self _)⟩

theorem combine_min {vs : List Vals} (nonempty : vs ≠ []) :
    (∃ u ∈ vs, combine (fun x y => if y.slt x then y else x) vs = u.a) ∧
      ∀ u ∈ vs, (combine (fun x y => if y.slt x then y else x) vs).toInt ≤ u.a.toInt := by
  refine combine_first (le := fun x y => x.toInt ≤ y.toInt) (fun _ => le_rfl) le_trans (fun x y => ?_) nonempty
  by_cases h : y.slt x
  · exact .inr ⟨if_pos h, (BitVec.slt_iff_toInt_lt.1 h).le⟩
  · exact .inl ⟨if_neg h, not_lt.1 (mt BitVec.slt_iff_toInt_lt.2 h)⟩

theorem combine_max {vs : List Vals} (nonempty : vs ≠ []) :
    (∃ u ∈ vs, combine (fun x y => if x.slt y then y else x) vs = u.a) ∧
      ∀ u ∈ vs, u.a.toInt ≤ (combine (fun x y => if x.slt y then y else x) vs).toInt := by
  refine combine_first (le := fun x y => y.toInt ≤ x.toInt) (fun _ => le_rfl) (fun h g => le_trans g h) (fun x y => ?_) nonempty
  by_cases h : x.slt y
  · exact .inr ⟨if_pos h, (BitVec.slt_iff_toInt_lt.1 h).le⟩
  · exact .inl ⟨if_neg h, not_lt.1 (mt BitVec.slt_iff_toInt_lt.2 h)⟩

theorem combine_and {vs : List Vals} (nonempty : vs ≠ []) (n : Nat) :
    (combine (· &&& ·) vs).getLsbD n = true ↔ ∀ u ∈ vs, u.a.getLsbD n = true := by
  refine combine_induction (P := fun vs x => x.getLsbD n = true ↔ ∀ u ∈ vs, u.a.getLsbD n = true) (fun v => by simp) (fun vs u x ih => ?_) nonempty
  rw [BitVec.getLsbD_and, Bool.and_eq_true, ih, List.forall_mem_append, List.forall_mem_singleton]

theorem combine_or {vs : List Vals} (nonempty : vs ≠ []) (n : Nat) :
    (combine (· ||| ·) vs).getLsbD n = true ↔ ∃ u ∈ vs, u.a.getLsbD n = true := by
  refine combine_induction (P := fun vs x => x.getLsbD n = true ↔ ∃ u ∈ vs, u.a.getLsbD n = true) (fun v => by simp) (fun vs u x ih => ?_) nonempty
  rw [BitVec.getLsbD_or, Bool.or_eq_true, ih]
  simp [or_and_right, exists_or]

theorem combine_xor {vs : List Vals} (nonempty : vs ≠ []) (n : Nat) :
    (combine (· ^^^ ·) vs).getLsbD n = decide ((vs.filter (fun u => u.a.getLsbD n)).length % 2 = 1) := by
  refine combine_induction (P := fun vs x => x.getLsbD n = decide ((vs.filter (fun u => u.a.getLsbD n)).length % 2 = 1))
    (fun v => ?_) (fun vs u x ih => ?_) nonempty
  · cases h : v.a.getLsbD n <;> simp [h]
  · rw [BitVec.getLsbD_xor, ih, List.filter_append, List.length_append]
    cases h : u.a.getLsbD n
    · simp [h]
    · simp only [List.filter_singleton, h, cond_true, List.length_singleton, Bool.xor_true, ← decide_not, decide_eq_decide]
      omega

/-! ### Votes (R434) -/

/-- Powers of two summed in rising order set their bits. -/
theorem testBit_foldl_two_pow (m : Nat) : ∀ (l : List Vals) (n k : Nat), n < 2 ^ k → l.Pairwise (fun x y => x.ln < y.ln) → (∀ u ∈ l, k ≤ u.ln) →
    ((l.foldl (fun n v => n + 2 ^ v.ln) n).testBit m = true ↔ n.testBit m = true ∨ ∃ u ∈ l, u.ln = m)
  | [], n, k, _, _, _ => by simp
  | v :: r, n, k, small, rising, above => by
    rw [List.pairwise_cons] at rising
    have below : n < 2 ^ v.ln := small.trans_le (Nat.pow_le_pow_right (by decide) (above v (by simp)))
    have step : (n + 2 ^ v.ln).testBit m = true ↔ n.testBit m = true ∨ v.ln = m := by
      rw [Nat.add_comm, ← Nat.mul_one (2 ^ v.ln), Nat.testBit_two_pow_mul_add _ below]
      split
      case isTrue low => simp [low.ne']
      case isFalse high =>
        have clear : n.testBit m = false := Nat.testBit_lt_two_pow (below.trans_le (Nat.pow_le_pow_right (by decide) (not_lt.1 high)))
        rw [Nat.testBit_one_eq_true_iff_self_eq_zero, clear]
        simp only [Bool.false_eq_true, false_or]
        omega
    rw [List.foldl_cons, testBit_foldl_two_pow m r _ (v.ln + 1) (by rw [pow_succ]; omega) rising.2 (fun u hu => rising.1 u hu), step]
    simp [or_assoc]

theorem testBit_ballot {vs : List Vals} (rising : vs.Pairwise (fun x y => x.ln < y.ln)) (n : Nat) :
    (ballot vs).testBit n = true ↔ ∃ u ∈ vs, u.ln = n ∧ u.a ≠ 0 := by
  rw [ballot, testBit_foldl_two_pow n _ 0 0 (by decide) (rising.sublist List.filter_sublist) (fun _ _ => Nat.zero_le _)]
  simp only [Nat.zero_testBit, Bool.false_eq_true, false_or, List.mem_filter, decide_eq_true_eq]
  exact exists_congr fun u => by rw [and_assoc, and_comm (a := u.a ≠ 0)]

theorem any_tests (vs : List Vals) : ((∃ u ∈ vs, u.a ≠ 0) ∧ wordB (vs.any (fun v => decide (v.a ≠ 0))) = 1) ∨
    ((∀ u ∈ vs, u.a = 0) ∧ wordB (vs.any (fun v => decide (v.a ≠ 0))) = 0) := by
  have tests := wordB_tests (b := vs.any (fun v => decide (v.a ≠ 0))) (p := ∃ u ∈ vs, u.a ≠ 0) (by simp)
  simpa only [not_exists, not_and, not_not] using tests

theorem all_tests (vs : List Vals) : ((∀ u ∈ vs, u.a ≠ 0) ∧ wordB (vs.all (fun v => decide (v.a ≠ 0))) = 1) ∨
    ((∃ u ∈ vs, u.a = 0) ∧ wordB (vs.all (fun v => decide (v.a ≠ 0))) = 0) := by
  have tests := wordB_tests (b := vs.all (fun v => decide (v.a ≠ 0))) (p := ∀ u ∈ vs, u.a ≠ 0) (by simp)
  simpa only [not_forall, not_not, exists_prop] using tests

end Sys2Proof.Machine
end

section
/-!
SUPPORT. The lane operations and group reductions issue with exactly the results of their rules (R433 to R435).
-/

namespace Sys2Proof.Machine

open Sys2Proof

/-- The value that BCAST gives every active lane (R433). -/
def broadcastValue (vs : List Vals) : Word :=
  match vs with
  | [] => 0
  | u :: _ => (activeA vs u.b.toNat).getD u.a

theorem shuffle_eq (pick : Vals → Int) (vs : List Vals) :
    shuffle pick vs = vs.map (fun v => (v.ln, v.pos, (activeA vs (pick v)).getD v.a)) := by
  refine List.map_congr_left fun v _ => ?_
  show (v.ln, v.pos, match activeA vs (pick v) with | some w => w | none => v.a) = _
  cases activeA vs (pick v) <;> rfl

theorem broadcast_eq (vs : List Vals) : broadcast vs = everyone (broadcastValue vs) vs := by
  cases vs with
  | nil => rfl
  | cons u r =>
    have value : (match laneA (u :: r) u.b.toNat with | some x => x | none => u.a) = broadcastValue (u :: r) := by
      show (match activeA (u :: r) u.b.toNat with | some x => x | none => u.a) = (activeA (u :: r) u.b.toNat).getD u.a
      cases activeA (u :: r) u.b.toNat <;> rfl
    rw [← value]; rfl

section
variable {s : State} {c : Ctx} {i : Instr} {maj f : Nat} {sw : Bool} {o : Operands} {d : RegName}
  {fn : List Vals → List (Nat × Nat × Word)} {p : List Vals → Vals → Word → Prop} {k : Computes}

/-- A lane operation meets a rule that its results meet over the active lanes, which stand in ascending order. -/
theorem meets_across (h : Issues s c i) (hk : across d p = some k) (run : exec i s = issueLanes s maj f sw o d fn)
    (g : List Vals → Vals → Word) (results : ∀ vs, fn vs = vs.map (fun v => (v.ln, v.pos, g vs v)))
    (rule : ∀ vs, vs.Pairwise (fun x y => x.ln < y.ln) → ∀ v ∈ vs, p vs v (g vs v))
    (ho : opcode i = some (maj, f) := by rfl) (hr : operands i = o := by rfl) (hx : extraRegs i = [] := by rfl) : Meets s c i k := by
  obtain rfl := Option.some.inj hk
  have lanes : fn (c.lanes.map (valsOf s c i)) = c.lanes.map (fun e => (e.1, e.2, g (c.lanes.map (valsOf s c i)) (valsOf s c i e))) := by
    rw [results, List.map_map]; rfl
  have rising : (c.lanes.map (valsOf s c i)).Pairwise (fun x y => x.ln < y.ln) := List.pairwise_map.2 (lanesIn_rising c.grp c.st.mask)
  obtain ⟨t, next, frame, out⟩ := issueLanes_spec (sw := sw) (d := d) h ho hr hx lanes
  exact ⟨t, run.trans next, frame, fun e he => ⟨_, rule _ rising _ (List.mem_map_of_mem he), (if_pos rfl).mpr (out e he)⟩⟩

end

/-! In both proofs below the cases are the rows of the rule's table in their order; the last is that of the instructions it does not list. -/

theorem lane_computed : Computed laneRule := by
  rw [computed_iff]
  intro s c i k h
  fun_cases laneRule i with
  | case1 => exact fun hk => meets_across h hk rfl _ (shuffle_eq _) fun _ _ _ _ => rfl
  | case2 => exact fun hk => meets_across h hk rfl _ (shuffle_eq _) fun _ _ _ _ => rfl
  | case3 => exact fun hk => meets_across h hk rfl _ (shuffle_eq _) fun _ _ _ _ => rfl
  | case4 => exact fun hk => meets_across h hk rfl _ (shuffle_eq _) fun _ _ _ _ => rfl
  | case5 => exact fun hk => meets_across h hk rfl _ (fun _ => rfl) fun vs _ _ _ => any_tests vs
  | case6 => exact fun hk => meets_across h hk rfl _ (fun _ => rfl) fun vs _ _ _ => all_tests vs
  | case7 =>
    exact fun hk => meets_across h hk rfl _ (fun _ => rfl) fun vs rising _ _ n hn => by rw [getLsbD_word _ hn, testBit_ballot rising]
  | case8 =>
    exact fun hk => meets_across h hk rfl _ broadcast_eq fun vs _ _ _ u us e => by rw [e]; rfl
  | case9 => exact fun hk => absurd hk.symm (Option.some_ne_none k)

theorem reduce_computed : Computed reduceRule := by
  rw [computed_iff]
  intro s c i k h
  fun_cases reduceRule i with
  | case1 => exact fun hk => meets_across h hk rfl _ (fun _ => rfl) fun vs _ _ hv => combine_add (List.ne_nil_of_mem hv)
  | case2 => exact fun hk => meets_across h hk rfl _ (fun _ => rfl) fun vs _ _ hv => combine_min (List.ne_nil_of_mem hv)
  | case3 => exact fun hk => meets_across h hk rfl _ (fun _ => rfl) fun vs _ _ hv => combine_max (List.ne_nil_of_mem hv)
  | case4 => exact fun hk => meets_across h hk rfl _ (fun _ => rfl) fun vs _ _ hv n _ => combine_and (List.ne_nil_of_mem hv) n
  | case5 => exact fun hk => meets_across h hk rfl _ (fun _ => rfl) fun vs _ _ hv n _ => combine_or (List.ne_nil_of_mem hv) n
  | case6 => exact fun hk => meets_across h hk rfl _ (fun _ => rfl) fun vs _ _ hv n _ => combine_xor (List.ne_nil_of_mem hv) n
  | case7 =>
    exact fun hk => meets_across h hk rfl _ (fun _ => rfl) fun vs _ v hv =>
      combine_add (List.ne_nil_of_mem (List.mem_filter.2 ⟨hv, decide_eq_true le_rfl⟩))
  | case8 => exact fun hk => absurd hk.symm (Option.some_ne_none k)

/-- Settles O2: every lane operation and group reduction on integers issues with exactly the result of its rule, by what its
function makes of the active lanes' operands (R433 to R435). -/
theorem laneOperations : Obligations.LaneOperations := ⟨lane_computed, reduce_computed⟩

end Sys2Proof.Machine
end

section
/-!
SUPPORT. The issue of a branch (R424 to R426): the target of each active lane, and a group that takes one way.
-/

namespace Sys2Proof.Machine

open Sys2Proof

/-! ### A stream changed twice -/

theorem put_put {α : Type} (m : SMap α) (k : Nat) (v w : α) : put (put m k v) k w = put m k w := by
  induction m with
  | nil => simp [put]
  | cons e r ih =>
    obtain ⟨j, x⟩ := e
    by_cases same : j = k
    · simp [put, same]
    · by_cases before : k < j
      · simp [put, same, before]
      · simp [put, same, before, ih]

theorem upd_upd {α : Type} (m : SMap α) (k : Nat) (f g : α → α) : upd (upd m k f) k g = upd m k (fun x => g (f x)) := by
  unfold upd
  cases h : find? m k with
  | none => simp [h]
  | some v => simp [put_put]

theorem modStream_modStream (s : State) (sid : Nat) (f g : Stream → Stream) :
    modStream (modStream s sid f) sid g = modStream s sid (fun x => g (f x)) := by
  simp only [modStream, upd_upd]

/-- A stream's pc set. -/
def jump (s : State) (sid : Nat) (pc : Word) : State := modStream s sid (fun st => { st with pc := pc })

/-- A pc set before the switch point is one set after the end of an issue: the switch point does not see it. -/
theorem switchPoint_jump (u : State) (sid : Nat) (sw : Bool) (pc : Word) :
    switchPoint (jump u sid pc) sid sw = jump (switchPoint (advance u sid) sid sw) sid pc := by
  cases sw with
  | false => simp only [switchPoint, Bool.false_eq_true, if_false, jump, advance, modStream_modStream]
  | true =>
    simp only [switchPoint, if_true, jump, advance, modStream_modStream]
    congr 1
    funext st
    split <;> rfl

/-! ### One way for the group -/

/-- A call's return address, written if the instruction names a register for it (R424). -/
def linked (d : Option RegName) (pc : Word) (t : State) (c : Ctx) : State :=
  match d with
  | some r => linkTo r pc t c
  | none => t

theorem writeLane_seq (u : State) (c : Ctx) (ln pos : Nat) (d : RegName) (v : Word) : (writeLane u c ln pos d v).seq = u.seq := by
  cases d with
  | k n => unfold writeLane; dsimp only; split <;> rfl
  | _ => rfl

theorem writeLanes_seq (c : Ctx) (d : RegName) : ∀ (vs : List (Nat × Nat × Word)) (u : State), (writeLanes u c d vs).seq = u.seq
  | [], _ => rfl
  | v :: r, u => (writeLanes_seq c d r (writeLane u c v.1 v.2.1 d v.2.2)).trans (writeLane_seq _ _ _ _ _ _)

theorem linked_seq (d : Option RegName) (pc : Word) (b : State) (c : Ctx) : (linked d pc b c).seq = b.seq := by
  cases d with
  | none => rfl
  | some r => exact writeLanes_seq _ _ _ _

theorem linked_effected {b : State} {c : Ctx} (h : ctxOf b c.sid = some c) (d : Option RegName) (pc : Word) :
    Effected b (linked d pc b c) c d false := by
  cases d with
  | none => exact Effected.refl h none
  | some r =>
    refine Effected.writeLanes _ (Effected.refl h _) fun v hv => ?_
    obtain ⟨e, he, rfl⟩ := List.mem_map.1 hv
    exact he

/-- An issue that only computes, with its pc set at the end, steers the stream there. -/
theorem OnlyComputes.jump {s v : State} {c : Ctx} {d : Option RegName} (h : OnlyComputes s v c d false) (seq : v.seq = s.seq) (pc : Word) :
    Steers s (jump v c.sid pc) c d { c.st with pc := pc } := by
  obtain ⟨st, found, -, only, flags, look⟩ := h.stream
  refine ⟨?_, h.errors, h.clears, fun k hk => ?_, ⟨{ st with pc := pc }, ?_, ?_, look⟩, h.regs, h.teams, h.team⟩
  · obtain ⟨regs, streams, teams, timers, n, scErr, rfl⟩ : ∃ regs streams teams timers n scErr,
        v = { s with regs := regs, streams := streams, teams := teams, timers := timers, seq := n, scErr := scErr } :=
      ⟨_, _, _, _, _, _, h.rest⟩
    obtain rfl : n = s.seq := seq
    rfl
  · exact (find?_upd_ne _ _ hk).trans (h.others k hk)
  · rw [Machine.jump, modStream_streams, find?_upd_self, found]; rfl
  · rw [← flags rfl] at only
    exact congrArg (fun x : Stream => { x with pc := pc }) only

/-- Results of ALU class stand whatever the pc. -/
theorem Holds.jump {s v : State} {c : Ctx} {i : Instr} {d : RegName} {e : Nat × Nat} {w : Word} (h : Holds s v c i d e w) (pc : Word) :
    Holds s (jump v c.sid pc) c i d e w := by
  cases d with
  | k n =>
    intro first
    obtain ⟨st, found, value⟩ := h first
    exact ⟨{ st with pc := pc }, by rw [Machine.jump, modStream_streams, find?_upd_self, found]; rfl, value⟩
  | _ => exact h

/-! ### The targets of the active lanes (R424) -/

/-- Each active lane's target. -/
def targetsOf (s : State) (c : Ctx) (i : Instr) (f : Vals → Word) : List (Nat × Word) := c.lanes.map (fun e => (e.1, f (valsOf s c i e)))

/-- The instruction issues as a branch to the targets `f` gives the active lanes. -/
def IssuesBranch (s : State) (c : Ctx) (i : Instr) (f : Vals → Word) : Prop :=
  ∃ maj fn sw plan, exec i s = issueWith s maj fn sw (operands i) [] plan ∧ opcode i = some (maj, fn) ∧ extraRegs i = [] ∧
    plan s c (c.lanes.map (laneVals s c (operands i))) = branchPlan s c sw (targetsOf s c i f) (linked (linkOf i) c.st.pc)

theorem branchPlan_agree {s : State} {c : Ctx} {sw : Bool} {targets : List (Nat × Word)} {link : State → Ctx → State} {t0 : Word}
    (nonempty : targets ≠ []) (agree : ∀ e ∈ targets, e.2 = t0) :
    branchPlan s c sw targets link = .own (fun t d => jump (link t d) d.sid t0) := by
  obtain ⟨⟨l, t⟩, r, rfl⟩ := List.exists_cons_of_ne_nil nonempty
  obtain rfl : t = t0 := agree (l, t) (by simp)
  exact if_pos (List.all_eq_true.2 fun e he => decide_eq_true (agree e (List.mem_cons_of_mem _ he)))

theorem targetsOf_ne_nil {s : State} {c : Ctx} {i : Instr} {f : Vals → Word} (active : c.lanes ≠ []) : targetsOf s c i f ≠ [] := by
  simpa [targetsOf] using active

theorem branchPlan_const {s : State} {c : Ctx} {i : Instr} {sw : Bool} {link : State → Ctx → State} (active : c.lanes ≠ []) (t0 : Word) :
    branchPlan s c sw (targetsOf s c i (fun _ => t0)) link = .own (fun t d => jump (link t d) d.sid t0) := by
  refine branchPlan_agree (targetsOf_ne_nil active) fun e he => ?_
  obtain ⟨x, -, rfl⟩ := List.mem_map.1 he
  rfl

theorem branchTargets_eq {s : State} {c : Ctx} {i : Instr} {p : Vals → Prop} [DecidablePred p] {target : Word} :
    branchTargets c (c.lanes.map (valsOf s c i)) (fun v => decide (p v)) target =
      targetsOf s c i (fun v => if p v then target else c.st.pc + 4) := by
  simp only [branchTargets, targetsOf, List.map_map, decide_eq_true_eq]
  rfl

theorem badTargets_eq_nil {vs : List Vals} (aligned : ∀ v ∈ vs, v.a.toNat % 4 = 0) : badTargets vs = [] := by
  rw [badTargets, List.filter_eq_nil_iff.2 fun v hv => by simp [aligned v hv], List.map_nil]

/-- An indirect branch to multiples of 4 is a branch (R426). -/
theorem indirectPlan_aligned {s : State} {c : Ctx} {i : Instr} {sw : Bool} {link : State → Ctx → State}
    (aligned : ∀ e ∈ c.lanes, (valsOf s c i e).a.toNat % 4 = 0) :
    indirectPlan s c sw (c.lanes.map (valsOf s c i)) link = branchPlan s c sw (targetsOf s c i Vals.a) link := by
  have good : badTargets (c.lanes.map (valsOf s c i)) = [] := badTargets_eq_nil (List.forall_mem_map.2 aligned)
  rw [indirectPlan, good, targetsOf, List.map_map]
  rfl

/-- Every branch and jump of active lanes issues as a branch to its targets (R424, R426). -/
theorem issuesBranch {s : State} {c : Ctx} {i : Instr} {f : Vals → Word} (target : laneTarget c.st.pc i = some f) (active : c.lanes ≠ [])
    (aligned : indirect i = true → ∀ e ∈ c.lanes, (f (valsOf s c i e)).toNat % 4 = 0) : IssuesBranch s c i f := by
  cases i with
  | bnz sw a off =>
    obtain rfl := Option.some.inj target
    exact ⟨_, _, sw, _, rfl, rfl, rfl, congrArg (fun x => branchPlan s c sw x _) branchTargets_eq⟩
  | bz sw a off =>
    obtain rfl := Option.some.inj target
    exact ⟨_, _, sw, _, rfl, rfl, rfl, congrArg (fun x => branchPlan s c sw x _) branchTargets_eq⟩
  | jmp sw off =>
    obtain rfl := Option.some.inj target
    exact ⟨_, _, sw, _, rfl, rfl, rfl, (branchPlan_const active _).symm⟩
  | call sw off =>
    obtain rfl := Option.some.inj target
    exact ⟨_, _, sw, _, rfl, rfl, rfl, (branchPlan_const active _).symm⟩
  | jr sw a =>
    obtain rfl := Option.some.inj target
    exact ⟨_, _, sw, _, rfl, rfl, rfl, indirectPlan_aligned (aligned rfl)⟩
  | jalr sw d a =>
    obtain rfl := Option.some.inj target
    exact ⟨_, _, sw, _, rfl, rfl, rfl, indirectPlan_aligned (aligned rfl)⟩
  | _ => cases target

/-! ### Branches that agree, and targets that are misaligned -/

theorem branchesHold : BranchesHold := by
  intro s c i f t0 h target active agree aligned
  obtain ⟨maj, fn, sw, plan, run, ho, hx, ready⟩ :=
    issuesBranch target active fun ind e he => by rw [agree e he]; exact aligned ind
  rw [branchPlan_agree (t0 := t0) (targetsOf_ne_nil active) (List.forall_mem_map.2 agree)] at ready
  obtain ⟨c', hb⟩ := beforeEffect_spec h.ctx (operands i) (chargeUnits maj fn)
  set b := beforeEffect s c (operands i) (chargeUnits maj fn)
  have eff : Effected b (linked (linkOf i) c.st.pc b c') c' (linkOf i) false :=
    linked_effected (by rw [hb.sid]; exact hb.ctx) _ _
  have next : exec i s = .next (jump (switchPoint (advance (linked (linkOf i) c.st.pc b c') c.sid) c.sid sw) c.sid t0) := by
    rw [run, issueWith_own h ho rfl hx ready, runEffect_eq hb.ctx, hb.sid, switchPoint_jump]
  refine ⟨_, next, OnlyComputes.jump (computes hb eff) ?_ t0, fun d hd e he => Holds.jump ?_ t0⟩
  · have seq : b.seq = s.seq := by rw [hb.rest]
    rw [← seq, ← linked_seq (linkOf i) c.st.pc b c']
    cases sw <;> rfl
  · rw [hd]
    exact results_hold (g := fun _ => c.st.pc + 4) (vs := c'.lanes.map (fun e => (e.1, e.2, c.st.pc + 4))) hb (by rw [hb.lanes]) rfl rfl
      (fun st hst => ⟨st, hst, rfl⟩) e he

/-- An indirect branch with a misaligned target faults in those lanes (R426). -/
theorem indirectPlan_misaligned {s : State} {c : Ctx} {sw : Bool} {vs : List Vals} {link : State → Ctx → State}
    (bad : ∃ v ∈ vs, v.a.toNat % 4 ≠ 0) : indirectPlan s c sw vs link = .fault (badTargets vs) := by
  have faults : badTargets vs ≠ [] := by
    obtain ⟨v, hv, odd⟩ := bad
    exact List.ne_nil_of_mem (List.mem_map_of_mem (List.mem_filter.2 ⟨hv, decide_eq_true odd⟩))
  unfold indirectPlan
  split
  case h_1 e => rw [e]
  case h_2 e => exact absurd e faults

theorem misalignedTargetsHold : MisalignedTargetsHold := by
  intro s c i h ind bad
  have misaligned : ∃ v ∈ c.lanes.map (valsOf s c i), v.a.toNat % 4 ≠ 0 := by simpa using bad
  cases i with
  | jr sw a => exact (issueWith_plan h rfl rfl).1 _ (indirectPlan_misaligned misaligned)
  | jalr sw d a => exact (issueWith_plan h rfl rfl).1 _ (indirectPlan_misaligned misaligned)
  | _ => cases ind

end Sys2Proof.Machine
end

section
/-!
SUPPORT. A branch on which a fused group disagrees (R223, R224, R425): the group diverges, and what follows the split moves no stream
but for its park.
-/

namespace Sys2Proof.Machine

open Sys2Proof

/-! ### What follows a split -/

/-- The groups stand as they were, and so does every stream but for its park. -/
structure ParksOnly (u t : State) : Prop where
  groups  : t.groups = u.groups
  streams : ∀ k st, find? u.streams k = some st → ∃ p, find? t.streams k = some { st with park := p }

theorem ParksOnly.of_eq {u t : State} (groups : t.groups = u.groups) (streams : t.streams = u.streams) : ParksOnly u t :=
  ⟨groups, fun _ st h => ⟨st.park, by rw [streams, h]⟩⟩

theorem ParksOnly.trans {u v t : State} (h : ParksOnly u v) (g : ParksOnly v t) : ParksOnly u t := by
  refine ⟨g.groups.trans h.groups, fun k st found => ?_⟩
  obtain ⟨p, mid⟩ := h.streams k st found
  obtain ⟨q, last⟩ := g.streams k _ mid
  exact ⟨q, last⟩

theorem switchPoint_parksOnly (u : State) (sid : Nat) (sw : Bool) : ParksOnly u (switchPoint u sid sw) := by
  have switched := switched_spec u sid sw
  refine ⟨by rw [switched.rest], fun k st found => ?_⟩
  by_cases here : k = sid
  · subst here
    rw [switched.stream st found]
    split
    · exact ⟨_, rfl⟩
    · exact ⟨st.park, rfl⟩
  · exact ⟨st.park, by rw [switched.others k here, found]⟩

theorem switchLanes_parksOnly (u : State) (c : Ctx) (sw : Bool) : ParksOnly u (switchLanes u c sw) := by
  unfold switchLanes
  generalize lanesIn c.grp c.st.members = l
  induction l generalizing u with
  | nil => exact .of_eq rfl rfl
  | cons e r ih => exact (switchPoint_parksOnly u e.2 sw).trans (ih _)

theorem TbOnly.groups_eq {s t : State} {k : Nat} (h : TbOnly s t k) : t.groups = s.groups := by rw [h.rest]

theorem TbOnly.streams_eq {s t : State} {k : Nat} (h : TbOnly s t k) : t.streams = s.streams := by rw [h.rest]

/-- A change of banking moves no stream and no group. -/
theorem rebank_parksOnly (before after : State) (cl t : Nat) : ParksOnly after (rebank before after cl t) := by
  unfold rebank
  split
  · split
    · exact .of_eq rfl rfl
    · show ParksOnly after (chargeTb (switchShared after cl).1 t (switchShared after cl).2)
      have shared := switchShared_only after cl
      have charged := chargeTb_tb (switchShared after cl).1 t (switchShared after cl).2
      exact .of_eq (charged.groups_eq.trans shared.groups) (charged.streams_eq.trans shared.streams)
  · exact .of_eq (switchPrivate_only after cl).groups (switchPrivate_only after cl).streams
  · exact .of_eq rfl rfl

/-! ### The lanes of a split -/

theorem cutRegion_eq (st : Stream) (depth : Nat) : ∃ r, cutRegion st depth = { st with region := r } := by
  unfold cutRegion
  split
  · split
    · exact ⟨none, rfl⟩
    · exact ⟨st.region, rfl⟩
  · exact ⟨st.region, rfl⟩

/-- Streams put one after another at places that differ. -/
theorem find?_foldl_streams {f : State → Nat × Nat → State} {F : Nat × Nat → Stream}
    (writes : ∀ t e, (f t e).streams = put t.streams e.2 (F e)) :
    ∀ (l : List (Nat × Nat)) (s : State), l.Pairwise (fun a b => a.2 ≠ b.2) →
      (∀ e ∈ l, find? (l.foldl f s).streams e.2 = some (F e)) ∧
      ∀ p, (∀ e ∈ l, e.2 ≠ p) → find? (l.foldl f s).streams p = find? s.streams p
  | [], _, _ => ⟨fun e he => absurd he (by simp), fun _ _ => rfl⟩
  | x :: r, s, apart => by
    rw [List.pairwise_cons] at apart
    obtain ⟨rest, kept⟩ := find?_foldl_streams writes r (f s x) apart.2
    constructor
    · intro e he
      rcases List.mem_cons.1 he with rfl | he
      · rw [List.foldl_cons, kept _ (fun y hy => (apart.1 y hy).symm), writes, find?_put]
      · exact rest e he
    · intro p hp
      rw [List.foldl_cons, kept p (fun y hy => hp y (List.mem_cons_of_mem _ hy)), writes,
        find?_put_ne _ _ (hp x (by simp)).symm]

theorem foldl_groups {f : State → Nat × Nat → State} (keeps : ∀ t e, (f t e).groups = t.groups) :
    ∀ (l : List (Nat × Nat)) (s : State), (l.foldl f s).groups = s.groups
  | [], _ => rfl
  | x :: r, s => (foldl_groups keeps r (f s x)).trans (keeps s x)

section
variable (s : State) (c : Ctx) (rs : SMap Resume) (at_ : Nat → Word) (record : CsEntry) (apart : Bool)

/-- Each live lane of a group that diverges has a stream at its own position. -/
theorem diverge_stream {e : Nat × Nat} (positions : Apart c) (he : e ∈ lanesIn c.grp c.st.members) :
    find? (diverge s c rs at_ record apart).streams e.2 = some (laneStream c rs at_ record apart e.1) :=
  (find?_foldl_streams (F := fun e => laneStream c rs at_ record apart e.1) (fun _ _ => rfl) _ _ positions).1 e he

theorem diverge_group {g : Group} (hg : find? s.groups c.st.group = some g) :
    find? (diverge s c rs at_ record apart).groups c.st.group = some { g with mode := .diverged, rejoinBy := none } := by
  unfold diverge
  rw [modGroup_groups, find?_upd_self, foldl_groups]
  · rw [hg]; rfl
  · exact fun _ _ => rfl

end

/-- A lane that goes on alone at `pc` under a split record: what it has of the stream `st` that its group ran. -/
structure GoesAlone (st : Stream) (l : Nat) (pc : Word) (record : CsEntry) (n : Stream) : Prop where
  pc      : n.pc = pc
  members : n.members = maskOf [l]
  mask    : n.mask = maskOf [l]
  stack   : n.stack = record :: st.stack
  waits   : n.waits = []
  spilled : n.spilled = st.spilled
  fcsr    : n.fcsr = st.fcsr
  wbase   : n.wbase = st.wbase

/-- A lane that was active goes on alone (R223). -/
theorem laneStream_goesAlone (c : Ctx) (at_ : Nat → Word) (record : CsEntry) (l : Nat) :
    GoesAlone c.st l (at_ l) record (laneStream c [] at_ record false l) := by
  obtain ⟨r, cut⟩ := cutRegion_eq c.st (depthOf c.st + 1)
  unfold laneStream
  dsimp only [find?_nil]
  rw [cut]
  exact ⟨rfl, rfl, rfl, rfl, rfl, rfl, rfl, rfl⟩

theorem GoesAlone.park {st n : Stream} {l : Nat} {pc : Word} {record : CsEntry} (h : GoesAlone st l pc record n) (p : Option Park) :
    GoesAlone st l pc record { n with park := p } := ⟨h.pc, h.members, h.mask, h.stack, h.waits, h.spilled, h.fcsr, h.wbase⟩

/-- A group whose lanes all are active splits: it diverges, and each lane goes on alone (R223, R224). -/
theorem splitNow_alone {s : State} {c : Ctx} (at_ : Nat → Word) (pc : BitVec 55) (hg : find? s.groups c.st.group = some c.grp)
    (positions : Apart c) :
    find? (splitNow s c [] at_ pc).groups c.st.group = some { c.grp with mode := .diverged, rejoinBy := none } ∧
    ∀ e ∈ lanesIn c.grp c.st.members, ∃ n, find? (splitNow s c [] at_ pc).streams e.2 = some n ∧
      GoesAlone c.st e.1 (at_ e.1) (splitRecord c pc) n := by
  have banked := rebank_parksOnly s (diverge s c [] at_ (splitRecord c pc) false) c.team.cluster c.st.team
  constructor
  · rw [splitNow, banked.groups]
    exact diverge_group _ _ _ _ _ _ hg
  · intro e he
    obtain ⟨p, found⟩ := banked.streams _ _ (diverge_stream s c [] at_ (splitRecord c pc) false positions he)
    exact ⟨_, found, (laneStream_goesAlone c at_ (splitRecord c pc) e.1).park p⟩

/-! ### The branch -/

/-- The target found for an active lane is its own. -/
theorem find_targetsOf {s : State} {c : Ctx} {i : Instr} {f : Vals → Word} {e : Nat × Nat} (he : e ∈ c.lanes) :
    (targetsOf s c i f).find? (fun x => decide (x.1 = e.1)) = some (e.1, f (valsOf s c i e)) := by
  rw [targetsOf, List.find?_map]
  have found : c.lanes.find? ((fun x => decide (x.1 = e.1)) ∘ fun e => (e.1, f (valsOf s c i e))) = some e := by
    obtain ⟨x, hx⟩ := Option.isSome_iff_exists.1 (List.find?_isSome.2 ⟨e, he, by simp⟩ :
      (c.lanes.find? ((fun x => decide (x.1 = e.1)) ∘ fun e => (e.1, f (valsOf s c i e)))).isSome = true)
    have same : x.1 = e.1 := by simpa using List.find?_some hx
    rw [hx, lanes_inj (List.mem_of_find?_eq_some hx) he same]
  rw [found]
  rfl

/-- Where a lane of a list of targets goes on. -/
def targetAt (targets : List (Nat × Word)) (l : Nat) : Word :=
  match targets.find? (fun x => decide (x.1 = l)) with
  | some x => x.2
  | none => 0

theorem targetAt_targetsOf {s : State} {c : Ctx} {i : Instr} {f : Vals → Word} {e : Nat × Nat} (he : e ∈ c.lanes) :
    targetAt (targetsOf s c i f) e.1 = f (valsOf s c i e) := by
  rw [targetAt, find_targetsOf he]

/-- The effect of a branch on which the lanes disagree. -/
def splitEffect (c : Ctx) (sw : Bool) (targets : List (Nat × Word)) (link : State → Ctx → State) (t : State) (d : Ctx) : State :=
  switchLanes (runEffect (chargeIssue (link t d) d 32) d.sid (fun v e => splitNow v e [] (targetAt targets) (rejoinPc v e))) c sw

/-- A group that disagrees, has room for a split record and no inactive lane splits, whatever ADIV (R213, R425). -/
theorem branchPlan_apart {s : State} {c : Ctx} {sw : Bool} {targets : List (Nat × Word)} {link : State → Ctx → State}
    (disagree : ∃ e ∈ targets, ∃ e' ∈ targets, e.2 ≠ e'.2) (room : c.st.stack.length < 16) (waits : c.st.waits = []) :
    branchPlan s c sw targets link = .own (splitEffect c sw targets link) := by
  obtain ⟨x, hx, y, hy, ne⟩ := disagree
  obtain ⟨⟨l, t0⟩, r, rfl⟩ := List.exists_cons_of_ne_nil (List.ne_nil_of_mem hx)
  have many : ¬(r.all fun e => decide (e.2 = t0)) = true := by
    rw [List.all_eq_true]
    intro all
    have one : ∀ e ∈ (l, t0) :: r, e.2 = t0 := List.forall_mem_cons.2 ⟨rfl, fun e he => of_decide_eq_true (all e he)⟩
    exact ne ((one x hx).trans (one y hy).symm)
  have resumes : splitResumes s c = .ok [] := by
    rw [splitResumes, if_neg (not_le.2 room), waits]; rfl
  unfold branchPlan
  dsimp only
  rw [if_neg many, resumes]
  rfl

/-- A context's group stands under the number its stream gives. -/
theorem group_of_ctxOf {s : State} {sid : Nat} {c : Ctx} (h : ctxOf s sid = some c) : find? s.groups c.st.group = some c.grp := by
  obtain ⟨-, -, -, group⟩ := ctxOf_eq_some.1 h
  exact group

/-- The issuing stream as a branch leaves it before its group splits: what the split reads of it is unchanged. -/
theorem chargedLink_ctx {s b : State} {c c' : Ctx} {o : Operands} (hb : Before s b c c' o) (d : Option RegName) (pc : Word) (n : Nat) :
    ∃ e, ctxOf (chargeIssue (linked d pc b c') c' n) c.sid = some e ∧ e.grp = c.grp ∧
      { e.st with k := c.st.k, pend := c.st.pend, lowRun := c.st.lowRun, haltIn := c.st.haltIn, skid := c.st.skid
                  noJoin := c.st.noJoin, paid := c.st.paid } = c.st := by
  have hc' : ctxOf b c'.sid = some c' := by rw [hb.sid]; exact hb.ctx
  have eff := linked_effected hc' d pc
  have charged := chargeIssue_chargeOnly (linked d pc b c') c' n
  obtain ⟨st, found, only, flags, -⟩ := eff.stream
  obtain ⟨tm, team, -⟩ := eff.team
  obtain ⟨tm', team', -⟩ := charged.team tm team
  rw [← flags rfl] at only
  have same : st.team = c'.st.team ∧ st.group = c'.st.group := by rw [← only]; exact ⟨rfl, rfl⟩
  refine ⟨{ sid := c.sid, st := st, team := tm', grp := c.grp }, ctxOf_eq_some.2 ⟨rfl, ?_, ?_, ?_⟩, rfl, ?_⟩
  · rw [charged.rest, ← hb.sid]; exact found
  · rw [same.1]; exact team'
  · have groups : (chargeIssue (linked d pc b c') c' n).groups = b.groups := by rw [charged.rest, eff.rest]
    rw [groups, same.2, ← hb.grp]
    exact group_of_ctxOf hc'
  · have mid := congrArg (fun x : Stream => { x with k := c.st.k, pend := c.st.pend, lowRun := c.st.lowRun, haltIn := c.st.haltIn
                                                     skid := c.st.skid, noJoin := c.st.noJoin, paid := c.st.paid }) only
    have start := congrArg (fun x : Stream => { x with k := c.st.k, pend := c.st.pend }) hb.stream
    exact mid.trans start

theorem branchesApartHold : BranchesApartHold := by
  intro s c i f h target _ disagree aligned full waits room positions
  have active : c.lanes ≠ [] := by
    obtain ⟨e, he, -⟩ := disagree
    exact List.ne_nil_of_mem he
  obtain ⟨maj, fn, sw, plan, run, ho, hx, ready⟩ := issuesBranch target active aligned
  have apart : ∃ e ∈ targetsOf s c i f, ∃ e' ∈ targetsOf s c i f, e.2 ≠ e'.2 := by
    obtain ⟨e, he, e', he', ne⟩ := disagree
    exact ⟨_, List.mem_map_of_mem he, _, List.mem_map_of_mem he', ne⟩
  rw [branchPlan_apart apart room waits] at ready
  obtain ⟨c', hb⟩ := beforeEffect_spec h.ctx (operands i) (chargeUnits maj fn)
  obtain ⟨d, hd, grp, only⟩ := chargedLink_ctx hb (linkOf i) c.st.pc 32
  set u := chargeIssue (linked (linkOf i) c.st.pc (beforeEffect s c (operands i) (chargeUnits maj fn)) c') c' 32
  set t := splitNow u d [] (targetAt (targetsOf s c i f)) (rejoinPc u d)
  have next : exec i s = .next (switchPoint (switchLanes t c sw) c.sid sw) := by
    rw [run, issueWith_own h ho rfl hx ready, runEffect_eq hb.ctx, splitEffect, hb.sid, runEffect_eq hd]
  have parks : ParksOnly t (switchPoint (switchLanes t c sw) c.sid sw) :=
    (switchLanes_parksOnly t c sw).trans (switchPoint_parksOnly _ _ _)
  have group : d.st.group = c.st.group := by rw [← only]
  have members : d.st.members = c.st.members := by rw [← only]
  have stack : d.st.stack = c.st.stack := by rw [← only]
  have live : c.lanes = lanesIn d.grp d.st.members := by rw [Ctx.lanes, full, grp, members]
  obtain ⟨diverged, alone⟩ := splitNow_alone (targetAt (targetsOf s c i f)) (rejoinPc u d) (group_of_ctxOf hd)
    (by unfold Apart at positions ⊢; rwa [grp, members])
  refine ⟨_, next, ⟨{ c.grp with mode := .diverged, rejoinBy := none }, ?_, rfl, rfl⟩, fun e he => ?_⟩
  · rw [parks.groups, ← group, ← grp]; exact diverged
  · obtain ⟨n, found, goes⟩ := alone e (live ▸ he)
    obtain ⟨p, now⟩ := parks.streams _ _ found
    refine ⟨_, splitRecord d (rejoinPc u d), now, ?_, goes.members, goes.mask, ?_, rfl, members, goes.waits, ?_, ?_, ?_⟩
    · exact goes.pc.trans (targetAt_targetsOf he)
    · exact goes.stack.trans (by rw [stack])
    · exact goes.spilled.trans (by rw [← only])
    · exact goes.fcsr.trans (by rw [← only])
    · exact goes.wbase.trans (by rw [← only])

/-- Settles O6: a group that agrees on a target branches as one, a misaligned target faults in its lanes alone, and a fused group
that disagrees diverges (R223, R224, R424 to R426). -/
theorem branchesAndJumps : Obligations.BranchesAndJumps := ⟨branchesHold, misalignedTargetsHold, branchesApartHold⟩

end Sys2Proof.Machine
end
